-- ==== Sys2Proof/Word.lean ====
section
/-! DEFINITION. Words, register numbers and unit numbers of the PX896 (spec/02, spec/03, spec/01), and the type of sparse maps. -/

namespace Sys2Proof

/-- A byte of any memory. -/
abbrev Byte := BitVec 8
/-- The native word of a Camhar core, and every register word (R2). -/
abbrev Word := BitVec 32
/-- A register pair, or a 64-bit register value (R3, R79). -/
abbrev DWord := BitVec 64
/-- A device address (R195). -/
abbrev Addr := BitVec 48
/-- A vector register (R33). -/
abbrev Vec := BitVec 512

/-- Scalar register g0-g31 (Table 3.1). -/
abbrev GReg := BitVec 5
/-- Predicate p0-p7. -/
abbrev PReg := BitVec 3
/-- Capability register s0-s15. -/
abbrev SReg := BitVec 4
/-- Vector register v0-v15. -/
abbrev VReg := BitVec 4
/-- Tile register t0-t15. -/
abbrev TReg := BitVec 4
/-- Accumulator tile acc0-acc63. -/
abbrev AccNo := BitVec 6

/-- Node number 40y + x (R16). -/
abbrev NodeNo := Fin 960
/-- Course number 8cy + cx (R17). -/
abbrev CourseNo := Fin 32
/-- Mbotor link number (R21). -/
abbrev LinkNo := Fin 40
/-- Region ID (R27). -/
abbrev RegionNo := Fin 32
/-- Hardware thread T0-T3 of a core. -/
abbrev ThreadNo := Fin 4
/-- PCIe function: 0 is the PF, v is VF v (R336, R337). -/
abbrev FnNo := Fin 33
/-- Pegbox core PB0-PB3 (R364). -/
abbrev PbNo := Fin 4
/-- Power domain (Table 14.3). -/
abbrev DomainNo := Fin 58
/-- Thermal sensor: 0-31 courses, 32-39 HBM stacks (Table 14.1, KIND 5). -/
abbrev SensorNo := Fin 40

/-- A finite map held sparsely: keys strictly rising, no entry equal to the default value of the map. -/
abbrev Map (α : Type) := List (Nat × α)

end Sys2Proof
end

