-- ==== Sys2Proof/Syntax.lean ====
section
/-! DEFINITION. The commands of the block: operand types, the decoded Camhar op (spec/03), and Instr, one constructor per row of
spec/opcode_table.json. -/

namespace Sys2Proof

/-! ## Operands of Camhar ops -/

/-- Who issues a Camhar op given as a command, and its common fields (Table 2.6): the op is a bundle of its own, with an EXT op
(Table 3.2) behind it when `ext` holds a value. -/
structure OpAt where
  node : NodeNo
  thread : ThreadNo
  psense : Bool := false
  psel : PReg := 0
  ext : Option (BitVec 24) := none
  deriving DecidableEq, Repr

/-- The b operand of an R or I form (Table 3.4). -/
inductive Src2 where
  | reg (rb : GReg)
  | imm (i : Byte)
  deriving DecidableEq, Repr

/-- The offset operand of the LS form (R86). -/
inductive LsOff where
  | reg (ro : GReg)
  | imm (i : Byte)
  deriving DecidableEq, Repr

/-- Scalar functions of Tables 3.5 and 3.6 with one 32-bit result. -/
inductive AluFn where
  | add | sub | addO | subO | and | or | xor | andn | sll | srl | sra | min | max | minu | maxu | clz | popc
  | mul | mulh | mulhu | mulO | div | divu | rem | remu
  deriving DecidableEq, Repr

/-- Comparisons of Table 3.5. -/
inductive CmpFn where
  | eq | ne | lt | ge | ltu | geu
  deriving DecidableEq, Repr

/-- Predicate functions of Table 3.5. -/
inductive PredFn where
  | pand | por | pxor | pandn
  deriving DecidableEq, Repr

/-- Register-pair functions of Table 3.6. -/
inductive PairFn where
  | add | sub | sll | srl | sra
  deriving DecidableEq, Repr

/-- Loads of Table 3.8; `vw` and `vd` are vld.w and vld.d. -/
inductive LdFn where
  | b | bu | h | hu | w | d | v | c | vw | vd
  deriving DecidableEq, Repr

/-- Stores of Table 3.8. -/
inductive StFn where
  | b | h | w | d | v | c
  deriving DecidableEq, Repr

/-- Atomics of Table 3.8, each with its width. -/
inductive AmoFn where
  | addW | addD | minW | minD | maxW | maxD | swapW | swapD | casW | casD | faddF32 | faddBf16
  deriving DecidableEq, Repr

/-- V-form functions of Table 3.10. -/
inductive VecFn where
  | add | sub | mul | fma | min | max | div | sqrt | and | or | xor | shl | shr | cmp | sel
  | cvt (q : BitVec 2) | redAdd | redMax | mov | perm
  deriving DecidableEq, Repr

/-- MAT ops of Table 3.11 as encoded. -/
inductive MatOp where
  | tcfg (t : TReg) (ga : GReg)
  | tld (t : TReg) (cap : SReg) (ga gb : GReg) (x : Bool)
  | tst (t : TReg) (cap : SReg) (ga gb : GReg)
  | trel (t : TReg)
  | tsave (cap : SReg) (ga : GReg)
  | trestore (cap : SReg) (ga : GReg)
  | accCfg (acc : AccNo) (ga : GReg)
  | mma (acc : AccNo) (ta tb : TReg) (g z : BitVec 2) (rn : Bool)
  | accNorm (acc : AccNo)
  | accCvt (acc : AccNo) (t : TReg) (rm : BitVec 3)
  | accCvtS (acc : AccNo) (cap : SReg) (ga gb : GReg)
  | mseqRun (nt : Bool) (cap : SReg) (ga : GReg)
  deriving DecidableEq, Repr

/-- A Camhar op: the decoded bits 23:0 of a word together with its class (spec/03). -/
inductive Op where
  | alu (f : AluFn) (rd ra : GReg) (b : Src2)
  | cmp (f : CmpFn) (pd : PReg) (ra : GReg) (b : Src2)
  | pred (f : PredFn) (pd pa pb : PReg)
  | pair (f : PairFn) (rd ra : GReg) (b : Src2)
  | mulwD (rd ra rb : GReg)
  | rsr (rd : GReg) (n : Byte)
  | wsr (n : Byte) (ra : GReg)
  | crsr (sd : SReg) (n : GReg)
  | cwsr (n : GReg) (sa : SReg)
  | csub (sd sa : SReg) (ga gb : GReg)
  | cperm (sd sa : SReg) (ga : GReg)
  | cbind (sd sa sb : SReg)
  | cfree (sd sa sb : SReg)
  | ckey (sd sa : SReg) (ga : GReg)
  | cget (rd : GReg) (sa : SReg) (f : Byte)
  | cmov (sd sa : SReg)
  | load (f : LdFn) (rt : GReg) (cap : SReg) (off : LsOff)
  | store (f : StFn) (rt : GReg) (cap : SReg) (off : LsOff)
  | acq (cap : SReg)
  | acqAll
  | amo (f : AmoFn) (rt : GReg) (cap : SReg) (off : LsOff)
  | br (tgt : BitVec 15)
  | bl (rl : GReg) (tgt : BitVec 15)
  | jr (ra : GReg)
  | jrl (rl ra : GReg)
  | callg (sa sb : SReg)
  | retg
  | exit
  | vec (f : VecFn) (fmt : BitVec 4) (vd va vb : VReg) (md : BitVec 3)
  | vbcast (fmt : BitVec 4) (g : GReg) (v : VReg)
  | vext (fmt : BitVec 4) (g : GReg) (v : VReg) (lane : BitVec 6)
  | vins (fmt : BitVec 4) (g : GReg) (v : VReg) (lane : BitVec 6)
  | mat (m : MatOp)
  | finc (f : BitVec 6) (ga : GReg)
  | fincI (f : BitVec 6) (n : BitVec 5)
  | fincR (cap : SReg) (ga gb : GReg)
  | fwait (f : BitVec 6) (ga : GReg) (pd : PReg)
  | fread (f : BitVec 6) (gd : GReg)
  | send (cap : SReg) (gw : GReg) (n : BitVec 3) (tag : BitVec 4)
  | waitd (ga : GReg) (pd : PReg)
  | retd
  | rdb (gd : GReg) (cap : SReg) (ga : GReg) (pd : PReg)
  | istore (cap : SReg) (ga gb : GReg)
  | ifence
  | dmaStart (nt : Bool) (ch : BitVec 3) (cap : SReg) (ga : GReg)
  | dmaWr (reg g : GReg)
  | dmaRd (g reg : GReg)
  deriving DecidableEq, Repr

/-! ## Operands of the other commands -/

/-- Router ports (R280). -/
inductive Port where
  | north | east | south | west | localPort
  deriving DecidableEq, Repr

/-- The three engines of the matrix unit (R169). -/
inductive Engine where
  | mover | datapath | converter
  deriving DecidableEq, Repr

/-- Through which DMA_SEL a Plectrum register is reached (R246). -/
inductive DmaVia where
  | thread (k : ThreadNo)
  | page
  deriving DecidableEq, Repr

/-- What error correction found when a word was read (R419, R420). -/
inductive EccOutcome where
  | clean | corrected | uncorrectable
  deriving DecidableEq, Repr

/-- A location that patrol scrub reads (R421): 8 bytes of a core's scratchpad, instruction memory, tile file or accumulator memory,
32 bytes of a quarter-stack or 64 bytes of a far channel, by offset; or one of the other SRAMs that R419 names, whose reader's ECC check
the command then stands for (log 41). -/
inductive ScrubPlace where
  | scratchpad (n : NodeNo) (off : Nat)
  | imem (n : NodeNo) (off : Nat)
  | tile (n : NodeNo) (t : TReg) (off : Nat)
  | acc (n : NodeNo) (entry : Nat)
  | tier1 (c : CourseNo) (off : Nat)
  | tier2 (channel : Fin 16) (off : Nat)
  | cacheLine (n : NodeNo) (set : BitVec 7) (way : BitVec 2)
  | message (n : NodeNo) (index : Nat)
  | burst (n : NodeNo) (ch : BitVec 3) (id : Nat)
  | linkBuffer (l : LinkNo)
  | pegbox (n : PbNo)
  deriving DecidableEq, Repr

/-- Who accesses a register (R3): a thread, a core, a host function, the BMC, a Pegbox core or the security node. -/
inductive Accessor where
  | thread (n : NodeNo) (k : ThreadNo)
  | core (n : NodeNo)
  | fn (f : FnNo)
  | bmc
  | pb (n : PbNo)
  | security
  deriving DecidableEq, Repr

/-- A register's place: an offset of a node block (Table 7.1), or of BAR0 of a function (Table 12.2, R340). -/
inductive RegAddr where
  | block (n : NodeNo) (off : BitVec 20)
  | bar0 (f : FnNo) (off : BitVec 16)
  deriving DecidableEq, Repr

/-- Size of a register access (R2). -/
inductive AccessSize where
  | byte | half | word
  deriving DecidableEq, Repr

/-- Which of a sensor's limits a crossing concerns (Table 14.7). -/
inductive ThermLevel where
  | setpoint | hard
  deriving DecidableEq, Repr

/-- An analogue shell: KIND and INDEX of Table 14.1. -/
structure ShellId where
  kind : BitVec 3
  index : Byte
  deriving DecidableEq, Repr

/-- Who holds a SHELL_SEL: a Pegbox core or the security node (R381). -/
inductive ShellUser where
  | pb (n : PbNo)
  | security
  deriving DecidableEq, Repr

/-- A master of the emulated registers (R344): a function or the BMC. -/
inductive Master where
  | fn (f : FnNo)
  | bmc
  deriving DecidableEq, Repr

/-- A debug request's path (R409): a function's DOE, the TAP, or the BMC's buffer. -/
inductive DbgPath where
  | doe (f : FnNo)
  | tap
  | bmc
  deriving DecidableEq, Repr

/-- What a debug READ or WRITE names (Table 15.6): memory of region r at a device address, or a register of a parked thread, by
number: 0-31 g, 32-39 p, 40 pc, 48-63 s, 64-79 v, and 256 + n the special register n of Table 3.7 (log 10). And what the levels of Table
15.4 reach besides (R405, R406; log 31): a register word, behind the shell or link that `sel` selects, Pegbox's logs, the local memory of a
PB core or (none) the shared memory, a register of a PB core by the same numbers. -/
inductive DbgTarget where
  | memory (r : RegionNo) (addr : Addr)
  | threadReg (n : NodeNo) (k : ThreadNo) (reg : Nat)
  | register (reg : RegAddr) (sel : Word)
  | pbLog
  | pbMemory (core : Option PbNo) (off : Nat)
  | pbReg (core : PbNo) (reg : Nat)
  deriving DecidableEq, Repr

/-- An access through BAR2 (R341): a read of `size` bytes, or a write of bytes. -/
inductive ApAccess where
  | read (size : Nat)
  | write (data : List Byte)
  deriving DecidableEq, Repr

/-- An NVMe error (R370): the status field, and the bytes moved before it. -/
structure NvmeErr where
  status : BitVec 15
  moved : Nat
  deriving DecidableEq, Repr

/-! ## Program images (R111, R355, R359, R360) -/

/-- The root capability from which a declared capability is derived (Table 4.5). Segments are the 4 GiB pieces of R198, counted
from 0; `t1Seg` and `t2Seg` name a segment of the image by its place in the declaration (R359), and `remote` a window that a peer region has
published (log 48). -/
inductive Root where
  | tier1 (seg : Nat)
  | tier2 (seg : Nat)
  | t1Seg (i piece : Nat)
  | t2Seg (i piece : Nat)
  | scratchpad (core : Nat)
  | imem (core : Nat)
  | frets (core : Nat)
  | supervisorFrets (core : Nat)
  | control (core : Nat)
  | viewTier1 (seg : Nat)
  | viewScratchpad (core : Nat)
  | remote (module : BitVec 16) (region : BitVec 6) (base : Addr) (limit : Word)
  | remoteFrets (module : BitVec 16) (region : BitVec 6) (node : NodeNo)
  | typeKey
  deriving DecidableEq, Repr

/-- One declared capability: register, root, and what of the root it keeps. -/
structure CapDecl where
  reg : SReg
  root : Root
  off : Word
  limit : Word
  perm : BitVec 12
  deriving DecidableEq, Repr

/-- One declared thread of a core. -/
structure ThreadDecl where
  thread : ThreadNo
  pc : Word
  supervisor : Bool
  caps : List CapDecl
  deriving DecidableEq, Repr

/-- What an image declares for one core, by region core number (R302). -/
structure CoreDecl where
  core : Nat
  shareMode : Bool
  coreSupv : ThreadNo
  chBind : BitVec 30
  escVector : Option (BitVec 15)
  code : List (Nat × Byte)
  scratch : List (Nat × Byte)
  threads : List ThreadDecl
  deriving DecidableEq, Repr

/-- A declared tier-1 segment (R358): region tier-1 address, size, and whether it may spill. -/
structure T1Seg where
  addr : Nat
  size : Nat
  spillable : Bool
  deriving DecidableEq, Repr

/-- An image as LOAD_IMAGE's descriptor, segment table and host memory denote it. The manual gives no layout (log 10). -/
structure Image where
  cores : List CoreDecl
  t1Segs : List T1Seg
  t2Segs : List Nat
  tier1 : List (Nat × Byte)
  lendMode : Bool
  dwell : BitVec 10
  boost : List CourseNo
  tenantKey : Option (List Byte)
  digest : BitVec 384
  deriving DecidableEq, Repr

/-! ## The commands -/

/-- One command of the block per row of spec/opcode_table.json, in the table's order. -/
inductive Instr where
  /-- R366: Module reset ends: PB0 starts from the boot ROM, reads the bank record, verifies the PB images and releases PB1, PB3 and PB2. -/
  | moduleReset
  /-- R435: PWR_EN rises with input in range: soft start, always-on domain in range, PWRGD released, then module reset ends. -/
  | powerUp
  /-- R434: Input below 46 V for 100 µs, above 60 V, or PWR_EN low removes power from every domain and loses every region without scrub. -/
  | inputDisconnect (enLow : Bool)
  /-- R445: A debounced rising STBY_EN starts a module quiesce without setting any ALERT_CAUSE bit. -/
  | stbyEnRise
  /-- R445: A debounced falling STBY_EN returns the module to service once no other holding condition remains. -/
  | stbyEnFall
  /-- R442: A debounced latch opening sets ALERT_CAUSE.LATCH and starts a module quiesce at BMC rank. -/
  | latchOpen
  /-- R443: A debounced latch closing returns a latch-started quiesce to service once step 6 is complete. -/
  | latchClose
  /-- R441: Release of a press of at most 1 s sets ALERT_CAUSE.BTN_SHORT and PB2 toggles LOCATE.BLINK. -/
  | buttonShortPress
  /-- R441: A press held for 4 s sets ALERT_CAUSE.BTN_LONG and starts a module quiesce or a return to service. -/
  | buttonLongPress
  /-- R442: The 30 s grace of a quiesce ends (or no region remains): remaining regions are destroyed, links flushed and domains turned off or to IDLE. -/
  | quiesceGraceExpire
  /-- R442: Quiesce step 6 is reached: blue LED lights steady and the module is safe to remove. -/
  | quiesceComplete
  /-- R387: PB1's 50 µs service tick compares input power with the cap, revokes or grants boost, throttles or restores dividers and resolves precedence. -/
  | powerTick (watts : Nat)
  /-- R390: Input above 1.1 × C for 20 consecutive 1 µs samples steps course dividers down in hardware and sets PWR_STAT.FASTCAP. -/
  | fastcap
  /-- R391: A sensor crosses a thermal threshold or its release point: the PB1 or hardware limit acts, ALERT_CAUSE.THERMAL sets and HEALTH_EVENT THERMAL is raised. -/
  | thermalCrossing (sensor : SensorNo) (level : ThermLevel) (up : Bool) (value : BitVec 16)
  /-- R391: Any sensor at or above 115 °C turns every switched domain off, loses all regions, clears READY and asserts THERMTRIP_N until module reset. -/
  | thermalTrip (sensor : SensorNo) (value : BitVec 16)
  /-- R276: A course under LEND that stayed gated for COURSE_WAIT.DWELL µs enters LENT at /8 and returns its budget to the pool. -/
  | dwellExpire (course : CourseNo)
  /-- R277: The grant for a course in RECLAIM arrives and the course returns to AWAKE at the granted divider. -/
  | reclaimGrant (course : CourseNo)
  /-- R383: PB1 writes DOM_STAT.TARGET of the selected domain, which moves to the ordered power state or is refused under R384. -/
  | domTargetWrite (target : BitVec 3)
  /-- R383: A domain completes its transition to the ordered power state after the return time of Table 14.4. -/
  | domainStateReached (domain : DomainNo)
  /-- R382: Writing SHELL_CAL.START runs calibration of the selected analogue shell, with BUSY set. -/
  | shellCalibrate (who : ShellUser)
  /-- R382: Calibration ends, RESULT is written and SHELL_STAT.BUSY clears. -/
  | shellCalibrationDone (shell : ShellId) (result : Byte)
  /-- R382: A live SETPOINT write takes effect at the shell's next 40 ns control step, and a regulator slews at 10 mV per µs. -/
  | shellSetpointWrite (who : ShellUser) (setpoint : BitVec 16)
  /-- R8: A write to a register with no row of its own, applying access codes, lock refusal (R8) and quiesce refusal (R11) field by field. -/
  | registerWrite (who : Accessor) (reg : RegAddr) (size : AccessSize) (value : Word)
  /-- R3: A write of the lower word of a 64-bit value goes to the accessor's holding register and changes nothing in force. -/
  | wideLowWrite (who : Accessor) (reg : RegAddr) (value : Word)
  /-- R3: A write of the upper word takes both words of the 64-bit value together, the lower one from the holding register. -/
  | wideHighWrite (who : Accessor) (reg : RegAddr) (value : Word)
  /-- R3: A read of the lower word captures the upper word into the accessor's shadow and marks it valid. -/
  | wideLowRead (who : Accessor) (reg : RegAddr)
  /-- R3: A read of the upper word returns and invalidates the shadow if it is valid, and otherwise the current upper word. -/
  | wideHighRead (who : Accessor) (reg : RegAddr)
  /-- R45: A ready thread's bundle is selected at D1 and checked for legality, then its ops execute through the pipeline to WB and CM. -/
  | bundleIssue (node : NodeNo)
  /-- R50: Data for a withdrawn load returns, a read-cache line may be installed, and the withdrawn bundle becomes ready to issue again. -/
  | loadDataReturn (node : NodeNo) (thread : ThreadNo)
  /-- R62: One store-buffer entry drains to its destination in round robin among threads, updating any present cache line. -/
  | storeDrain (node : NodeNo)
  /-- R217: An acknowledgement of a landed write returns to its source, freeing releases, store holds, Plectrum buffer space and range segments. -/
  | ackArrive (node : NodeNo)
  /-- R205: A refusal returns to its source, which faults the withdrawn access, records REMOTE_ERRk or ends the DMA channel with an error. -/
  | nackArrive (node : NodeNo)
  /-- R50: A DATA or RSP_ERR response returns to the requester and completes its load, atomic or rdb. -/
  | rspArrive (node : NodeNo)
  /-- R83: gd = ga + b modulo 2^32. -/
  | add (c : OpAt) (rd : GReg) (ra : GReg) (b : Src2)
  /-- R83: gd = ga − b modulo 2^32. -/
  | sub (c : OpAt) (rd : GReg) (ra : GReg) (b : Src2)
  /-- R83: Add that raises OVERFLOW on signed overflow when enabled. -/
  | addO (c : OpAt) (rd : GReg) (ra : GReg) (b : Src2)
  /-- R83: Subtract that raises OVERFLOW on signed overflow when enabled. -/
  | subO (c : OpAt) (rd : GReg) (ra : GReg) (b : Src2)
  /-- R83: Bitwise AND of ga and b. -/
  | and (c : OpAt) (rd : GReg) (ra : GReg) (b : Src2)
  /-- R83: Bitwise OR of ga and b. -/
  | or (c : OpAt) (rd : GReg) (ra : GReg) (b : Src2)
  /-- R83: Bitwise XOR of ga and b. -/
  | xor (c : OpAt) (rd : GReg) (ra : GReg) (b : Src2)
  /-- R83: gd = ga & ~b. -/
  | andn (c : OpAt) (rd : GReg) (ra : GReg) (b : Src2)
  /-- R83: Logical left shift of ga by b[4:0]. -/
  | sll (c : OpAt) (rd : GReg) (ra : GReg) (b : Src2)
  /-- R83: Logical right shift of ga by b[4:0]. -/
  | srl (c : OpAt) (rd : GReg) (ra : GReg) (b : Src2)
  /-- R83: Arithmetic right shift of ga by b[4:0]. -/
  | sra (c : OpAt) (rd : GReg) (ra : GReg) (b : Src2)
  /-- R83: Signed minimum of ga and b. -/
  | min (c : OpAt) (rd : GReg) (ra : GReg) (b : Src2)
  /-- R83: Signed maximum of ga and b. -/
  | max (c : OpAt) (rd : GReg) (ra : GReg) (b : Src2)
  /-- R83: Unsigned minimum of ga and b. -/
  | minu (c : OpAt) (rd : GReg) (ra : GReg) (b : Src2)
  /-- R83: Unsigned maximum of ga and b. -/
  | maxu (c : OpAt) (rd : GReg) (ra : GReg) (b : Src2)
  /-- R83: Count of leading zeros of ga. -/
  | clz (c : OpAt) (rd : GReg) (ra : GReg)
  /-- R83: Count of 1 bits of ga. -/
  | popc (c : OpAt) (rd : GReg) (ra : GReg)
  /-- R83: pd = ga equals b. -/
  | cmpEq (c : OpAt) (pd : PReg) (ra : GReg) (b : Src2)
  /-- R83: pd = ga differs from b. -/
  | cmpNe (c : OpAt) (pd : PReg) (ra : GReg) (b : Src2)
  /-- R83: pd = ga less than b, signed. -/
  | cmpLt (c : OpAt) (pd : PReg) (ra : GReg) (b : Src2)
  /-- R83: pd = ga at least b, signed. -/
  | cmpGe (c : OpAt) (pd : PReg) (ra : GReg) (b : Src2)
  /-- R83: pd = ga less than b, unsigned. -/
  | cmpLtu (c : OpAt) (pd : PReg) (ra : GReg) (b : Src2)
  /-- R83: pd = ga at least b, unsigned. -/
  | cmpGeu (c : OpAt) (pd : PReg) (ra : GReg) (b : Src2)
  /-- R83: pd = pa AND pb. -/
  | pand (c : OpAt) (pd : PReg) (pa : PReg) (pb : PReg)
  /-- R83: pd = pa OR pb. -/
  | por (c : OpAt) (pd : PReg) (pa : PReg) (pb : PReg)
  /-- R83: pd = pa XOR pb. -/
  | pxor (c : OpAt) (pd : PReg) (pa : PReg) (pb : PReg)
  /-- R83: pd = pa AND NOT pb. -/
  | pandn (c : OpAt) (pd : PReg) (pa : PReg) (pb : PReg)
  /-- R84: Low 32 bits of ga × b. -/
  | mul (c : OpAt) (rd : GReg) (ra : GReg) (b : Src2)
  /-- R84: High 32 bits of the signed product. -/
  | mulh (c : OpAt) (rd : GReg) (ra : GReg) (b : Src2)
  /-- R84: High 32 bits of the unsigned product. -/
  | mulhu (c : OpAt) (rd : GReg) (ra : GReg) (b : Src2)
  /-- R84: Multiply that raises OVERFLOW if the signed product does not fit, when enabled. -/
  | mulO (c : OpAt) (rd : GReg) (ra : GReg) (b : Src2)
  /-- R84: Signed quotient rounding toward zero, with defined results and DIV_ZERO for a zero divisor. -/
  | div (c : OpAt) (rd : GReg) (ra : GReg) (b : Src2)
  /-- R84: Unsigned quotient, with defined results and DIV_ZERO for a zero divisor. -/
  | divu (c : OpAt) (rd : GReg) (ra : GReg) (b : Src2)
  /-- R84: Signed remainder, with defined results and DIV_ZERO for a zero divisor. -/
  | rem (c : OpAt) (rd : GReg) (ra : GReg) (b : Src2)
  /-- R84: Unsigned remainder, with defined results and DIV_ZERO for a zero divisor. -/
  | remu (c : OpAt) (rd : GReg) (ra : GReg) (b : Src2)
  /-- R84: 64-bit pair add. -/
  | addD (c : OpAt) (rd : GReg) (ra : GReg) (b : Src2)
  /-- R84: 64-bit pair subtract. -/
  | subD (c : OpAt) (rd : GReg) (ra : GReg) (b : Src2)
  /-- R84: 64-bit pair logical left shift by b[5:0]. -/
  | sllD (c : OpAt) (rd : GReg) (ra : GReg) (b : Src2)
  /-- R84: 64-bit pair logical right shift by b[5:0]. -/
  | srlD (c : OpAt) (rd : GReg) (ra : GReg) (b : Src2)
  /-- R84: 64-bit pair arithmetic right shift by b[5:0]. -/
  | sraD (c : OpAt) (rd : GReg) (ra : GReg) (b : Src2)
  /-- R84: Pair gd = signed 64-bit product of ga and gb. -/
  | mulwD (c : OpAt) (rd : GReg) (ra : GReg) (rb : GReg)
  /-- R85: Reads a special register into gd. -/
  | rsr (c : OpAt) (rd : GReg) (n : Byte)
  /-- R85: Writes ga to a special register such as TSW, FAULT_EN, SEED, RMODE, DRET or HANDLERk. -/
  | wsr (c : OpAt) (n : Byte) (ra : GReg)
  /-- R85: Reads a capability special register into sd. -/
  | crsr (c : OpAt) (sd : SReg) (n : GReg)
  /-- R110: Writes FAULT_GATE or FAULT_GDATA from sa, checking its region. -/
  | cwsr (c : OpAt) (n : GReg) (sa : SReg)
  /-- R110: Derives a sub-segment capability inside sa. -/
  | csub (c : OpAt) (sd : SReg) (sa : SReg) (ga : GReg) (gb : GReg)
  /-- R110: Derives a capability with permissions masked by ga[11:0]. -/
  | cperm (c : OpAt) (sd : SReg) (sa : SReg) (ga : GReg)
  /-- R110: Seals sa to the single type of type key sb. -/
  | cbind (c : OpAt) (sd : SReg) (sa : SReg) (sb : SReg)
  /-- R110: Unseals sa under a type key sb that covers its type. -/
  | cfree (c : OpAt) (sd : SReg) (sa : SReg) (sb : SReg)
  /-- R110: Narrows a type key to a new KEYTYPE and KEYMASK. -/
  | ckey (c : OpAt) (sd : SReg) (sa : SReg) (ga : GReg)
  /-- R84: Reads a field of a capability into gd. -/
  | cget (c : OpAt) (rd : GReg) (sa : SReg) (f : Byte)
  /-- R84: Copies a capability with its tag and seal. -/
  | cmov (c : OpAt) (sd : SReg) (sa : SReg)
  /-- R87: Loads a sign-extended byte through a capability. -/
  | ldB (c : OpAt) (rt : GReg) (cap : SReg) (off : LsOff)
  /-- R87: Loads a zero-extended byte through a capability. -/
  | ldBu (c : OpAt) (rt : GReg) (cap : SReg) (off : LsOff)
  /-- R87: Loads a sign-extended half-word through a capability. -/
  | ldH (c : OpAt) (rt : GReg) (cap : SReg) (off : LsOff)
  /-- R87: Loads a zero-extended half-word through a capability. -/
  | ldHu (c : OpAt) (rt : GReg) (cap : SReg) (off : LsOff)
  /-- R87: Loads a word through a capability. -/
  | ldW (c : OpAt) (rt : GReg) (cap : SReg) (off : LsOff)
  /-- R87: Loads 8 bytes into a register pair. -/
  | ldD (c : OpAt) (rt : GReg) (cap : SReg) (off : LsOff)
  /-- R87: Loads 64 bytes into a vector register. -/
  | ldv (c : OpAt) (rt : GReg) (cap : SReg) (off : LsOff)
  /-- R106: Loads a capability with its tag from the core's own scratchpad. -/
  | ldc (c : OpAt) (rt : GReg) (cap : SReg) (off : LsOff)
  /-- R87: Stores a byte into the store buffer. -/
  | stB (c : OpAt) (rt : GReg) (cap : SReg) (off : LsOff)
  /-- R87: Stores a half-word into the store buffer. -/
  | stH (c : OpAt) (rt : GReg) (cap : SReg) (off : LsOff)
  /-- R87: Stores a word into the store buffer. -/
  | stW (c : OpAt) (rt : GReg) (cap : SReg) (off : LsOff)
  /-- R87: Stores a register pair into the store buffer. -/
  | stD (c : OpAt) (rt : GReg) (cap : SReg) (off : LsOff)
  /-- R87: Stores a vector register into the store buffer. -/
  | stv (c : OpAt) (rt : GReg) (cap : SReg) (off : LsOff)
  /-- R106: Stores a capability with its tag into the core's own scratchpad. -/
  | stc (c : OpAt) (rt : GReg) (cap : SReg) (off : LsOff)
  /-- R215: Loads a word at the point of coherence, bypassing the read cache. -/
  | vldW (c : OpAt) (rt : GReg) (cap : SReg) (off : LsOff)
  /-- R215: Loads 8 bytes at the point of coherence, bypassing the read cache. -/
  | vldD (c : OpAt) (rt : GReg) (cap : SReg) (off : LsOff)
  /-- R214: Invalidates every read-cache line holding any byte of the capability's segment. -/
  | acq (c : OpAt) (cap : SReg)
  /-- R214: Invalidates the whole read cache. -/
  | acqAll (c : OpAt)
  /-- R219: Atomic 32-bit add at the destination, returning the old value. -/
  | amoAddW (c : OpAt) (rt : GReg) (cap : SReg) (off : LsOff)
  /-- R219: Atomic 64-bit add at the destination, returning the old value. -/
  | amoAddD (c : OpAt) (rt : GReg) (cap : SReg) (off : LsOff)
  /-- R219: Atomic signed 32-bit minimum at the destination. -/
  | amoMinW (c : OpAt) (rt : GReg) (cap : SReg) (off : LsOff)
  /-- R219: Atomic signed 64-bit minimum at the destination. -/
  | amoMinD (c : OpAt) (rt : GReg) (cap : SReg) (off : LsOff)
  /-- R219: Atomic signed 32-bit maximum at the destination. -/
  | amoMaxW (c : OpAt) (rt : GReg) (cap : SReg) (off : LsOff)
  /-- R219: Atomic signed 64-bit maximum at the destination. -/
  | amoMaxD (c : OpAt) (rt : GReg) (cap : SReg) (off : LsOff)
  /-- R219: Atomic 32-bit swap at the destination. -/
  | amoSwapW (c : OpAt) (rt : GReg) (cap : SReg) (off : LsOff)
  /-- R219: Atomic 64-bit swap at the destination. -/
  | amoSwapD (c : OpAt) (rt : GReg) (cap : SReg) (off : LsOff)
  /-- R219: Atomic 32-bit compare and swap at the destination. -/
  | amoCasW (c : OpAt) (rt : GReg) (cap : SReg) (off : LsOff)
  /-- R219: Atomic 64-bit compare and swap at the destination. -/
  | amoCasD (c : OpAt) (rt : GReg) (cap : SReg) (off : LsOff)
  /-- R220: Atomic f32 add at the destination, rounding to nearest even. -/
  | amoFaddF32 (c : OpAt) (rt : GReg) (cap : SReg) (off : LsOff)
  /-- R220: Atomic bf16 add at the destination, rounding to nearest even. -/
  | amoFaddBf16 (c : OpAt) (rt : GReg) (cap : SReg) (off : LsOff)
  /-- R88: Branch to TGT × 4. -/
  | br (c : OpAt) (tgt : BitVec 15)
  /-- R88: Branch and link to TGT × 4. -/
  | bl (c : OpAt) (rl : GReg) (tgt : BitVec 15)
  /-- R88: Jump to the offset in ga. -/
  | jr (c : OpAt) (ra : GReg)
  /-- R88: Jump and link to the offset in ga. -/
  | jrl (c : OpAt) (rl : GReg) (ra : GReg)
  /-- R115: Enters a gate: checks the pair, pushes a return frame, unseals the data capability into s15 and jumps. -/
  | callg (c : OpAt) (sa : SReg) (sb : SReg)
  /-- R116: Returns through the gate stack, or leaves escalation under R127. -/
  | retg (c : OpAt)
  /-- R89: At CM the thread becomes IDLE, its released work completes and unreleased ops are squashed. -/
  | exit (c : OpAt)
  /-- R91: Lane-wise vector add. -/
  | vadd (c : OpAt) (fmt : BitVec 4) (vd : VReg) (va : VReg) (vb : VReg)
  /-- R91: Lane-wise vector subtract. -/
  | vsub (c : OpAt) (fmt : BitVec 4) (vd : VReg) (va : VReg) (vb : VReg)
  /-- R91: Lane-wise vector multiply. -/
  | vmul (c : OpAt) (fmt : BitVec 4) (vd : VReg) (va : VReg) (vb : VReg)
  /-- R91: Lane-wise fused multiply-add into vd. -/
  | vfma (c : OpAt) (fmt : BitVec 4) (vd : VReg) (va : VReg) (vb : VReg)
  /-- R91: Lane-wise minimum; a NaN operand yields the other operand. -/
  | vmin (c : OpAt) (fmt : BitVec 4) (vd : VReg) (va : VReg) (vb : VReg)
  /-- R91: Lane-wise maximum; a NaN operand yields the other operand. -/
  | vmax (c : OpAt) (fmt : BitVec 4) (vd : VReg) (va : VReg) (vb : VReg)
  /-- R91: Lane-wise floating divide. -/
  | vdiv (c : OpAt) (fmt : BitVec 4) (vd : VReg) (va : VReg) (vb : VReg)
  /-- R91: Lane-wise floating square root. -/
  | vsqrt (c : OpAt) (fmt : BitVec 4) (vd : VReg) (va : VReg)
  /-- R91: Bitwise AND over 512 bits. -/
  | vand (c : OpAt) (vd : VReg) (va : VReg) (vb : VReg)
  /-- R91: Bitwise OR over 512 bits. -/
  | vor (c : OpAt) (vd : VReg) (va : VReg) (vb : VReg)
  /-- R91: Bitwise XOR over 512 bits. -/
  | vxor (c : OpAt) (vd : VReg) (va : VReg) (vb : VReg)
  /-- R91: Lane-wise left shift. -/
  | vshl (c : OpAt) (fmt : BitVec 4) (vd : VReg) (va : VReg) (vb : VReg)
  /-- R91: Lane-wise arithmetic or logical right shift. -/
  | vshr (c : OpAt) (fmt : BitVec 4) (vd : VReg) (va : VReg) (vb : VReg) (md : BitVec 3)
  /-- R91: Lane-wise comparison giving all ones or zero. -/
  | vcmp (c : OpAt) (fmt : BitVec 4) (vd : VReg) (va : VReg) (vb : VReg) (md : BitVec 3)
  /-- R91: Bitwise select by the old vd. -/
  | vsel (c : OpAt) (vd : VReg) (va : VReg) (vb : VReg)
  /-- R92: Converts lanes between formats for part q under the selected rounding mode. -/
  | vcvt (c : OpAt) (q : BitVec 2) (fmt : BitVec 4) (vd : VReg) (va : VReg) (dst : BitVec 4) (md : BitVec 3)
  /-- R93: Sums lanes by a fixed pairwise tree into lane 0. -/
  | vredAdd (c : OpAt) (fmt : BitVec 4) (vd : VReg) (va : VReg)
  /-- R91: Places the largest lane in lane 0. -/
  | vredMax (c : OpAt) (fmt : BitVec 4) (vd : VReg) (va : VReg)
  /-- R91: Broadcasts g into every lane. -/
  | vbcast (c : OpAt) (fmt : BitVec 4) (g : GReg) (v : VReg)
  /-- R91: Extracts a lane into g. -/
  | vext (c : OpAt) (fmt : BitVec 4) (g : GReg) (v : VReg) (lane : BitVec 6)
  /-- R91: Inserts g into a lane. -/
  | vins (c : OpAt) (fmt : BitVec 4) (g : GReg) (v : VReg) (lane : BitVec 6)
  /-- R91: Copies a vector register. -/
  | vmov (c : OpAt) (vd : VReg) (va : VReg)
  /-- R91: Permutes lanes of va by vb. -/
  | vperm (c : OpAt) (fmt : BitVec 4) (vd : VReg) (va : VReg) (vb : VReg)
  /-- R171: A queued matrix op starts on its engine once every older op it must wait for under R169 has completed. -/
  | matOpStart (node : NodeNo)
  /-- R169: A matrix op completes its last write, freeing waiting ops and, for an mma, incrementing CHUNK. -/
  | matOpComplete (node : NodeNo) (engine : Engine)
  /-- R161: Configures a tile after earlier users of it complete, and clears its in-use flag. -/
  | tcfg (c : OpAt) (t : TReg) (ga : GReg)
  /-- R164: Loads tile rows from the core's own scratchpad. -/
  | tld (c : OpAt) (t : TReg) (cap : SReg) (ga : GReg) (gb : GReg)
  /-- R165: Loads a tile through the transposing path. -/
  | tldT (c : OpAt) (t : TReg) (cap : SReg) (ga : GReg) (gb : GReg)
  /-- R164: Stores tile rows to the core's own scratchpad. -/
  | tst (c : OpAt) (t : TReg) (cap : SReg) (ga : GReg) (gb : GReg)
  /-- R162: Clears a tile's in-use flag after earlier users of it complete. -/
  | trel (c : OpAt) (t : TReg)
  /-- R168: Saves the in-use mask and in-use tiles to scratchpad. -/
  | tsave (c : OpAt) (cap : SReg) (ga : GReg)
  /-- R168: Restores in-use flags and tile contents from a saved layout. -/
  | trestore (c : OpAt) (cap : SReg) (ga : GReg)
  /-- R177: Sets an accumulator descriptor, zeroes its entries and clears CHUNK. -/
  | accCfg (c : OpAt) (acc : AccNo) (ga : GReg)
  /-- R172: Multiplies two tiles and accumulates into an accumulator tile, with optional zero start. -/
  | mma (c : OpAt) (acc : AccNo) (ta : TReg) (tb : TReg) (g : BitVec 2) (z : BitVec 2) (rn : Bool)
  /-- R182: Lowers an accumulator tile's scale where headroom allows. -/
  | accNorm (c : OpAt) (acc : AccNo)
  /-- R183: Converts an accumulator tile into a tile, with scales if paired. -/
  | accCvt (c : OpAt) (acc : AccNo) (t : TReg) (rm : BitVec 3)
  /-- R185: Converts an accumulator tile to scratchpad under a control word. -/
  | accCvtS (c : OpAt) (acc : AccNo) (cap : SReg) (ga : GReg) (gb : GReg)
  /-- R186: Launches the matrix sequencer on a table with a tracked range-table entry. -/
  | mseqRun (c : OpAt) (cap : SReg) (ga : GReg)
  /-- R186: Launches the matrix sequencer on a table without range tracking. -/
  | mseqRunNt (c : OpAt) (cap : SReg) (ga : GReg)
  /-- R190: The sequencer reads the header and steps of a table once no other table runs, and collects its named tiles. -/
  | seqTableStart (node : NodeNo)
  /-- R188: The sequencer generates the op of one TLD, TST, MMA, ACC.CVT, ACC.CVT.S or ACC.NORM step, or executes a LOOP. -/
  | seqStep (node : NodeNo)
  /-- R190: A FINC step increments its fret once every earlier generated op has completed. -/
  | seqFinc (node : NodeNo)
  /-- R190: A FWAIT step's fret condition holds and generation resumes. -/
  | seqFwaitPass (node : NodeNo)
  /-- R190: Every generated op has completed: MSEQ_STAT.BUSY clears and the range-table entry is freed. -/
  | seqTableEnd (node : NodeNo)
  /-- R193: Writing MSEQ_CTL.ABORT stops the table at the next step boundary and sets ABORTED. -/
  | mseqAbort (node : NodeNo)
  /-- R250: Releases an increment of a local fret by ga. -/
  | finc (c : OpAt) (f : BitVec 6) (ga : GReg)
  /-- R250: Releases an increment of a local fret by an immediate 1–32. -/
  | fincI (c : OpAt) (f : BitVec 6) (n : BitVec 5)
  /-- R256: Releases an increment of a fret of the core whose fret page s covers, locally or across the mesh or a link. -/
  | fincR (c : OpAt) (cap : SReg) (ga : GReg) (gb : GReg)
  /-- R99: Blocks until a fret reaches its target, or times out. -/
  | fwait (c : OpAt) (f : BitVec 6) (ga : GReg) (pd : PReg)
  /-- R254: Reads a fret value into gd. -/
  | fread (c : OpAt) (f : BitVec 6) (gd : GReg)
  /-- R261: Sends 1–4 words with a tag to an inbound channel, held until acknowledged. -/
  | send (c : OpAt) (cap : SReg) (gw : GReg) (n : BitVec 3) (tag : BitVec 4)
  /-- R100: Dispatches the oldest message on the masked channels to its handler, or waits for one or for the timeout. -/
  | waitd (c : OpAt) (ga : GReg) (pd : PReg)
  /-- R101: Returns to the waitd at DRET. -/
  | retd (c : OpAt)
  /-- R273: Blocking read of a port or status register until its condition holds. -/
  | rdb (c : OpAt) (gd : GReg) (cap : SReg) (ga : GReg) (pd : PReg)
  /-- R70: Writes an instruction word at commit and flushes and refetches every thread of the core. -/
  | istore (c : OpAt) (cap : SReg) (ga : GReg) (gb : GReg)
  /-- R72: At CM flushes the thread's younger bundles and refetches, making DMA-written code visible. -/
  | ifence (c : OpAt)
  /-- R228: Queues a tracked start of a channel on a descriptor chain, copying the thread's capabilities. -/
  | dmaStart (c : OpAt) (ch : BitVec 3) (cap : SReg) (ga : GReg)
  /-- R228: Queues an untracked start of a channel on a descriptor chain. -/
  | dmaStartNt (c : OpAt) (ch : BitVec 3) (cap : SReg) (ga : GReg)
  /-- R246: Writes a Plectrum register word of the selected channel through the DMA queue. -/
  | dmaWr (c : OpAt) (reg : GReg) (g : GReg)
  /-- R228: Reads a Plectrum register word when it leaves the DMA queue. -/
  | dmaRd (c : OpAt) (g : GReg) (reg : GReg)
  /-- R228: A released DMA op leaves the queue head, a start being accepted once its channel is idle. -/
  | dmaQueueDepart (node : NodeNo)
  /-- R272: A blocking op's timeout expires at the end of a timestamp tick; pd becomes false and an rdb sends its cancel. -/
  | waitTimeout (node : NodeNo) (thread : ThreadNo)
  /-- R253: The fret logic applies a waiting increment and waiting threads re-evaluate their targets. -/
  | fretIncrementApply (node : NodeNo)
  /-- R256: A remote fret increment reaches its destination core and is admitted or refused. -/
  | fincArrive (node : NodeNo)
  /-- R264: A message reaches a channel and is accepted and acknowledged, or refused FULL. -/
  | msgArrive (node : NodeNo)
  /-- R265: A message refused FULL is sent again after its backoff delay. -/
  | msgRetry (node : NodeNo)
  /-- R130: A channel-15 message with tag 0xF is consumed by the thread-control logic and answered with a tag 0x9 message. -/
  | threadCtl (node : NodeNo)
  /-- R129: A waiting fault record leaves on channel 15 once a reserved credit is free, with a copy to Pegbox where R128 requires. -/
  | faultRecordSend (node : NodeNo)
  /-- R76: Pegbox writes CORE_HALT.HALT: all threads stop and become IDLE, channels abort and queues empty. -/
  | coreHalt (who : Accessor) (node : NodeNo) (value : Word)
  /-- R230: A descriptor read through s completes, reaching the channel's descriptor boundary, or fails and ends the channel. -/
  | descriptorFetch (node : NodeNo) (ch : BitVec 3)
  /-- R237: The read engine checks a burst against its capabilities and starts its read when buffer space and FLOW allow. -/
  | burstRead (node : NodeNo)
  /-- R237: A burst whose read completed is sent as a write, held if it is a TAIL until earlier writes are acknowledged. -/
  | burstWrite (node : NodeNo)
  /-- R243: The last started burst of an aborting or failing channel finishes, and the record and ERROR or ABORTED go out. -/
  | channelDrainEnd (node : NodeNo) (ch : BitVec 3)
  /-- R240: A held DONE, ABORTED or ERROR message is accepted and the channel becomes idle. -/
  | plectrumMsgAccept (node : NodeNo) (ch : BitVec 3)
  /-- R244: Writing DMA_CTL.ABORT stops a running channel from starting further bursts. -/
  | dmaAbort (node : NodeNo) (via : DmaVia)
  /-- R248: Writing DMA_CREDIT subtracts the bytes released by the consumer from LEVEL. -/
  | dmaCredit (node : NodeNo) (via : DmaVia) (value : Word)
  /-- R249: Writing 1 to DMA_WSTAT.CROSSED re-arms the watermark. -/
  | dmaWstatClear (node : NodeNo) (via : DmaVia)
  /-- R203: A packet reaches a core's network port and is checked against windows, fret or channel page rules and the reserved area. -/
  | networkPortAccess (node : NodeNo)
  /-- R273: A held rdb request's register condition holds and the node returns the value read. -/
  | rdbConditionMet (node : NodeNo)
  /-- R273: A CANCEL reaches a node and it drops the pending rdb request. -/
  | cancelArrive (node : NodeNo)
  /-- R287: A router output chooses one flit per mc by class priority and routes it on a minimal path. -/
  | flitForward (node : NodeNo) (out : Port)
  /-- R293: A held CTRL flit is released at its due mc, or on arrival if late, to the fret, channel, acknowledgement or rdb logic. -/
  | ctrlRelease (node : NodeNo)
  /-- R295: A mesh link receiver checks a flit's CRC and sequence, accepting it or returning RETRY. -/
  | flitReceive (node : NodeNo) (port : Port) (err : BitVec 1037)
  /-- R296: After 8 consecutive retries both ends resynchronise the link, or mark it failed. -/
  | meshLinkResync (node : NodeNo) (port : Port) (ok : Bool)
  /-- R449: A memory controller serves a queued read, write or atomic at the point of coherence. -/
  | memRequestServe (node : NodeNo) (index : Nat) (ecc : EccOutcome)
  /-- R421: Patrol scrub reads a location and writes back what it corrects. -/
  | patrolScrub (place : ScrubPlace) (ecc : EccOutcome)
  /-- R426: Pegbox fences a lost core, refusing its traffic with DEST_LOST, and sends the CORE_LOST record. -/
  | coreLost (node : NodeNo) (cause : BitVec 8)
  /-- R426: A coprocessor with a non-empty queue makes no progress for 10 ms and its core is lost with cause HANG. -/
  | coprocHang (node : NodeNo)
  /-- R320: The steering node looks up a link-bound packet in the rail table and queues or hands off the frame, or refuses it. -/
  | linkLookup (node : NodeNo)
  /-- R315: A link sends its next frame by precedence, within credit and replay limits. -/
  | frameSend (link : LinkNo)
  /-- R309: A link receiver checks a frame in order, applies ACK, NAK and credit, and accepts, discards or refuses it. -/
  | frameReceive (link : LinkNo) (bytes : List Byte)
  /-- R310: No DATA frame carried a due acknowledgement or credit within 50 ns, so an ACKONLY frame is sent. -/
  | ackonlySend (link : LinkNo)
  /-- R311: The expected frame has not arrived 4 µs after a replay request, so the request is repeated. -/
  | replayRequestRepeat (link : LinkNo)
  /-- R313: No ACK advance for 4 µs makes the sender resend from the oldest frame; the eighth takes the link down. -/
  | replayTimeout (link : LinkNo)
  /-- R328: A lane loses signal or alignment, the link enters HOLD and flexible unsent frames are re-steered. -/
  | laneLoss (link : LinkNo) (lane : BitVec 2)
  /-- R305: Training or fast retrain completes and the lanes align. -/
  | lanesAligned (link : LinkNo)
  /-- R329: Each end sends a TRAIN frame every 1 µs until it receives one. -/
  | trainFrameSend (link : LinkNo)
  /-- R331: The hold time ends without a matching resume and the link flushes. -/
  | linkHoldExpire (link : LinkNo)
  /-- R329: Writing LINK_CTL.EN enables and trains the link, or flushes it at once to OFF. -/
  | linkEnWrite (link : LinkNo) (en : Bool)
  /-- R332: Writing LINK_CTL.RETRAIN flushes and retrains the link with a new epoch. -/
  | linkRetrain (link : LinkNo)
  /-- R322: A write to RAIL_HI updates a rail-table entry in every copy, advancing ENTRY if AINC is set. -/
  | railEntryWrite (who : Accessor) (value : Word)
  /-- R322: A write to RAIL_GEN sets the generation and holds or resumes CTRL lookups. -/
  | railGenWrite (value : Word)
  /-- R347: Writing SQ_TAIL tells the device which submission slots hold messages. -/
  | sqDoorbell (fn : FnNo) (q : BitVec 6) (value : Word)
  /-- R347: Writing CQ_HEAD frees completion slots and re-arms the queue pair's vector. -/
  | cqDoorbell (fn : FnNo) (q : BitVec 6) (value : Word)
  /-- R346: Writing QP_CFG.EN enables a queue pair or refuses it with CFG_ERR. -/
  | qpEnable (fn : FnNo) (q : BitVec 6) (value : Word)
  /-- R352: PB2 takes a submitted message in ring order, checks length, version, opcode, permission and region, and starts it. -/
  | messageTake
  /-- R353: A completion is written to the completion ring with its PHASE, and the vector is sent if enabled. -/
  | completionWrite (id : Nat)
  /-- R349: Answers with the device mailbox version. -/
  | hello (id : Nat)
  /-- R297: Pegbox checks a rectangle, assigns the lowest free region ID, writes COURSE_RECT and resets the courses' cores. -/
  | regionCreate (id : Nat)
  /-- R300: Pegbox halts the region's cores, waits for them to stop, scrubs its memory, clears VALID and applies spares. -/
  | regionDestroy (id : Nat)
  /-- R355: Loads an image descriptor and segment table and returns an image handle. -/
  | loadImage (id : Nat) (image : Image)
  /-- R360: Checks resources, resets cores and courses, loads the image and locked registers, and starts the declared threads. -/
  | launch (id : Nat)
  /-- R355: Sends a message from the host to a region core's channel, completing when it is accepted. -/
  | signal (id : Nat)
  /-- R355: Returns READY words and spare positions, region state or counters. -/
  | query (id : Nat)
  /-- R370: Moves region memory ranges to an NVMe namespace on the root port. -/
  | checkpoint (id : Nat) (err : Option NvmeErr)
  /-- R370: Moves data from an NVMe namespace into region memory ranges. -/
  | restore (id : Nat) (err : Option NvmeErr)
  /-- R386: Sets the PF's power cap through the mailbox, or completes CONFLICT. -/
  | powerCapMsg (id : Nat)
  /-- R375: Writes a firmware chunk to the inactive boot-flash bank. -/
  | fwStage (id : Nat)
  /-- R376: PB0 verifies the staged image, restarts PB3, PB2, PB1 and itself on it, and updates the bank record and SVN. -/
  | fwActivate (id : Nat)
  /-- R354: Pegbox delivers a health event to completion ring 0 of the PF and of the region's VF. -/
  | healthEvent
  /-- R360: Every thread of the region is IDLE or DEAD and its queues are empty: PROGRAM_END is raised and a new LAUNCH is accepted. -/
  | programEnd (region : RegionNo)
  /-- R338: An FLR disables the function's queue pairs, discards pending completions and resets its emulated registers. -/
  | functionLevelReset (fn : FnNo)
  /-- R341: A BAR2 access reaches a device address as the function's region traffic, or is refused. -/
  | apertureAccess (fn : FnNo) (off : BitVec 36) (acc : ApAccess)
  /-- R344: A master's write lands in the emulated register's shadow and sets PENDING. -/
  | emuRegisterWrite (master : Master) (off : BitVec 12) (value : Word)
  /-- R344: PB2 applies or refuses pending shadow writes and clears PENDING. -/
  | emuShadowApply
  /-- R386: A master's POWER_CAP write sets its cap, the lowest applying. -/
  | powerCapWrite (master : Master) (value : Word)
  /-- R385: Writing INST_REQ.OFFLINE takes the instance out of service at teardown, or returns it on clearing. -/
  | instOfflineRequest (master : Master) (offline : Bool)
  /-- R343: Writing 1 to ALERT_CAUSE bits clears them and releases ALERT_N if no enabled cause remains. -/
  | alertCauseClear (value : Word)
  /-- R410: The BMC writes DBG_DOOR.LEN and PB0 serves the request object in DBG_BUF and writes the response. -/
  | dbgDoorWrite (len : BitVec 11)
  /-- R372: Writing PB_CTL.RESET bit n restarts PBn from the image in its bank. -/
  | pbReset (who : Accessor) (value : Word)
  /-- R372: A restarted PB core runs again, sets its READY_SYS.PB bit and takes its waiting work. -/
  | pbCoreRuns (n : PbNo)
  /-- R373: Writing PB_KICKn restarts PBn's watchdog period. -/
  | pbKick (n : PbNo)
  /-- R373: A PB core misses its watchdog deadline and is restarted alone, setting PB_STAT.WDOG. -/
  | watchdogExpire (n : PbNo)
  /-- R409: Debug request returning 8 bytes from the TRNG. -/
  | nonce (path : DbgPath)
  /-- R406: Debug request opening a debug level, with a consent token for TENANT. -/
  | dbgOpen (path : DbgPath) (level : BitVec 2) (token : List Byte)
  /-- R408: Debug request ending the session and releasing its parked threads. -/
  | dbgEnd (path : DbgPath)
  /-- R412: A stop written to DBG_CTL parks the thread at its next safepoint, or at once if WAITING. -/
  | dbgStop (path : DbgPath) (node : NodeNo) (mask : BitVec 4)
  /-- R414: RELEASE returns a PARKED_DEBUG thread to RUNNING or clears its pending stop. -/
  | dbgRelease (path : DbgPath) (node : NodeNo) (mask : BitVec 4)
  /-- R414: STEP releases a parked thread and sets a new stop at its next safepoint. -/
  | dbgStep (path : DbgPath) (node : NodeNo) (mask : BitVec 4)
  /-- R409: Reads up to 1 KiB of region memory or a parked thread's registers. -/
  | dbgRead (path : DbgPath) (target : DbgTarget) (len : Nat)
  /-- R409: Writes up to 1 KiB of region memory or a parked thread's registers. -/
  | dbgWrite (path : DbgPath) (target : DbgTarget) (data : List Byte)
  /-- R415: Debug request writing TRACE_CTL, TRACE_BASE and TRACE_LEN. -/
  | trace (path : DbgPath) (ctl : Word) (base : BitVec 64) (len : Word)
  /-- R415: The collector writes a taken-branch or fault record to lanes or the trace buffer, or drops it after 1 µs. -/
  | traceRecord (node : NodeNo) (thread : ThreadNo) (written : Bool)
  /-- R408: A debug session's lifetime runs out and it ends, releasing its parked threads. -/
  | sessionExpire (id : Nat)
  /-- R408: An unused debug nonce lapses after 60 s. -/
  | nonceLapse (path : DbgPath)
  /-- R397: A lifecycle transition request is checked and PB0 blows the LIFE fuses, effective at the next reset. -/
  | lifecycleTransition (path : DbgPath) (target : BitVec 3) (token : List Byte)
  /-- R403: SPDM request answered over DOE. -/
  | getVersion (fn : FnNo)
  /-- R403: SPDM request answered over DOE. -/
  | getCapabilities (fn : FnNo)
  /-- R403: SPDM request answered over DOE. -/
  | negotiateAlgorithms (fn : FnNo)
  /-- R403: SPDM request returning certificate chain digests. -/
  | getDigests (fn : FnNo)
  /-- R403: SPDM request returning the DeviceID and Alias certificate chain. -/
  | getCertificate (fn : FnNo)
  /-- R403: SPDM challenge signed by the Alias key. -/
  | challenge (fn : FnNo) (nonce : BitVec 256)
  /-- R403: SPDM request returning the signed measurements of Table 15.3. -/
  | getMeasurements (fn : FnNo) (index : Byte)
  /-- R411: TAP instruction selecting the boundary-scan register, or bypass in FIELD. -/
  | extest
  /-- R411: TAP instruction selecting the 32-bit identification register. -/
  | idcode
  /-- R411: TAP instruction selecting the boundary-scan register, or bypass in FIELD. -/
  | samplePreload
  /-- R411: TAP instruction carrying debug request objects 16 bytes per update. -/
  | dbgacc (data : BitVec 128)
  /-- R411: TAP instruction selecting the 1-bit bypass register. -/
  | bypass
  /-- R381: An analogue shell detects its fault condition (regulator over-current, PLL loss of lock, HBM or LPDDR PHY training failure, sensor reading out of range) and sets SHELL_STAT.FAULT, losing the course's cores (SUPPLY) or failing the quarter-stack or far channels. -/
  | shellFault (shell : ShellId)
  /-- R434: The 54 V input returns to its operating range while PWR_EN is high, and the hot-swap controller soft-starts the module from reset. -/
  | inputReturn
  /-- R361: A downstream device on the root port issues a memory request or MSI-X, accepted only for a buffer Pegbox posted in an outstanding NVMe command and otherwise completed Unsupported Request. -/
  | downstreamRequest (port : BitVec 2) (addr : BitVec 64) (len : Nat)
  /-- R367: The host PCIe link is trained by hardware after PERST_EP_N is released, letting READY_SYS.EP set and READY_CHANGE be raised. -/
  | pcieLinkTrained
  /-- R420: A memory controller issues the DRAM refresh that the standard requires, at double rate under the HBM thermal limit, delaying requests that meet it. -/
  | refresh (node : NodeNo)
  deriving DecidableEq, Repr

end Sys2Proof
end

