-- ==== Sys2Proof/Config.lean ====
section
/-! DEFINITION. What an implementation fixes and what the manual leaves open: opaque constants, no value of which can be proved. -/

namespace Sys2Proof.Config

open Sys2Proof

/-- A free value of w bits: the n-th value the manual leaves open or takes from the TRNG (R396; log 3). -/
opaque freeBits : (w : Nat) → Nat → BitVec w

/-- A number the manual fixes only through timing, which the model leaves out: cycles of squashed work within the bounds of R59, cycles of
a hold (R61, R65), younger bundles that a flush met (R117), how far a fill had come when a write met it (R211) (log 3). -/
opaque freeCount : Nat → Word

/-- Whether a thread fetches a block of instruction memory as it was before a DMA write, until its ifence (R72; log 3). -/
opaque freeChoice : Nat → Bool

/-- Whether the result of vmin (true) or vmax on zeros of different sign is negative, by whether va is the negative one (R91 states no
result; log 14). -/
opaque minMaxZero : Bool → Bool → Bool

/-- Whether vfma of zero times infinity plus NaN sets the invalid flag (R91, R137 state none; log 14). -/
opaque fmaInvalidNan : Bool

/-- SHA-384 of bytes (R397, R400, R401, R407; log 11). -/
opaque sha384 : List Byte → BitVec 384

/-- Whether an ECDSA P-384 signature over a digest verifies under a key (R397, R401, R407; log 11): key, digest, signature. -/
opaque ecdsaVerifies : List Byte → BitVec 384 → List Byte → Bool

/-- The public key of image signing slot 0, which signs return tokens (R397; log 11). -/
opaque slot0Key : List Byte

/-- The unique device secret as fused at manufacture (R395; log 11). -/
opaque uds : BitVec 384

/-- The private key that DICE derives from a secret, the public key of a private key, and a signature over a digest (R400, R403; log 11). -/
opaque dicePrivate : BitVec 384 → BitVec 384
opaque ecdsaPublic : BitVec 384 → List Byte
opaque ecdsaSign : BitVec 384 → BitVec 384 → List Byte

/-- What a certificate says of its subject: the issuer's public key and the subject's (R400; log 11). -/
opaque certBody : List Byte → List Byte → List Byte

/-- What a PB image in a flash bank declares and proves (R401): its slot, the hash of the key in its header, its SVN, whether its
signature verifies, whether it is marked for manufacture (R399), and the image's own bytes. -/
structure PbImage where
  slot : BitVec 2
  keyHash : BitVec 384
  svn : Nat
  signatureGood : Bool
  manufacture : Bool
  build : BitVec 16
  bytes : List Byte
  deriving DecidableEq, Repr, Inhabited

/-- The PB image of core n in a bank's bytes. The manual gives no image layout (log 10). -/
opaque pbImage : Map Byte → Nat → PbImage

/-- The bytes of a debug response object (R409, R410): its status and data. The manual gives no layout (log 10). -/
opaque debugObject : Nat → List Byte → List Byte

/-- The payload of QUERY selectors 1 and 2, which the manual leaves to the selector (Table 12.9; log 10). -/
opaque queryPayload : Nat → Nat → List Byte

/-- Pegbox's logs as bytes. The manual gives no layout (Table 15.4; log 31). -/
opaque logBytes : {α : Type} → α → List Byte

/-- An SPDM answer's layout, by function, request and what it carries (R403; log 11). -/
opaque spdmContents : Nat → Nat → List Byte → List Byte

/-- The boot ROM's version, measurement 1 of Table 15.3 (log 11). -/
opaque romVersion : List Byte

/-- Itarn's JEDEC manufacturer code (R411): the manual names it and gives no value (log 3). -/
opaque jedecCode : BitVec 11

end Sys2Proof.Config
end

