-- ==== Sys2Proof/Machine/CoreState.lean ====
section
/-! DEFINITION. The state of one Camhar core: threads, memories, matrix unit, Plectrum, SYN unit, range table and control page
(spec/02 to spec/09). Every field's default is its value at reset. -/

namespace Sys2Proof.Machine

open Sys2Proof

/-- A capability: 128 bits and the hidden tag (R103). -/
structure Cap where
  bits : BitVec 128 := 0
  tag : Bool := false
  deriving DecidableEq, Repr

/-- Thread states (Table 2.4). -/
inductive TState where
  | idle | running | waiting | parkedFault | parkedDebug | dead
  deriving DecidableEq, Repr

/-- A fault record waiting to leave: its channel-15 tag and four words (Tables 4.12, 4.13). -/
structure FaultRecord where
  tag : BitVec 4
  w0 : Word
  w1 : Word
  w2 : Word
  w3 : Word
  deriving DecidableEq, Repr

/-- One store-buffer entry (R61): device address, bytes, the tag of a stored capability, the capability's MODULE and REGION, the
storing bundle, and its number among the thread's stores and atomics (R223). -/
structure SbEntry where
  addr : Addr
  data : List Byte
  capTag : Option Bool
  module : BitVec 16
  region : BitVec 6
  pc : Word
  seq : Nat
  deriving DecidableEq, Repr

/-- A drained store that its destination has not yet acknowledged (R222, R223). -/
structure Unacked where
  addr : Addr
  data : List Byte
  module : BitVec 16
  tag : BitVec 10
  seq : Nat
  deriving DecidableEq, Repr

/-- What came back for a request: data, a refusal kind (Tables 7.3, 11.7), or a poisoned word's structure code (R423). -/
inductive Resp where
  | data (bytes : List Byte)
  | refused (kind : BitVec 3)
  | poisoned (structure_ : BitVec 4)
  deriving DecidableEq, Repr

/-- A withdrawn load or atomic (R50): the bundle, the access, whether it fills a cache line, whether an acq met the fill (R214), the
stores of this core that meet the line while the fill is in flight, oldest first (R212, R222), and the answer. `ready` lets the bundle
issue again. -/
structure Withdrawn where
  tag : Option (BitVec 10)
  pc : Word
  addr : Addr
  size : Nat
  module : BitVec 16
  fill : Bool
  amo : Bool
  dropFill : Bool
  merge : List (Addr × List Byte) := []
  resp : Option Resp
  ready : Bool
  deriving DecidableEq, Repr

/-- What a blocked thread waits for (R271); an rdb keeps the address of its request and its TAG, none until one is free, to cancel it. -/
inductive WaitKind where
  | fret (f : BitVec 6) (target : Word)
  | msg (mask : BitVec 16)
  | rdb (gd : GReg) (tag : Option (BitVec 10)) (module : BitVec 16) (region : BitVec 6) (addr : Addr)
  deriving DecidableEq, Repr

/-- A blocking wait in progress (R98): its kind, the timestamp at release, HI24 if it has a timeout, the status predicate, and
the bundle that follows. -/
structure Wait where
  kind : WaitKind
  start : Nat
  limit : Option Nat
  pd : PReg
  next : Word
  deriving DecidableEq, Repr

/-- REMOTE_ERRk (Table 7.8). -/
structure RemoteErr where
  err : Bool := false
  kind : BitVec 3 := 0
  count : Byte := 0
  pc : BitVec 15 := 0
  deriving DecidableEq, Repr

/-- A bundle withdrawn and held: under R61 or R222 (`sb`), or under R65 or R167, with the access that is held. -/
structure Hold where
  sb : Bool
  module : BitVec 16
  addr : Addr
  size : Nat
  deriving DecidableEq, Repr

/-- A thread's state (R33, R85, Table 2.5). `fbuf` is its fetch buffer, at most two blocks of 32 bytes by block number (R44); `stale` keeps,
oldest first, what blocks held before the DMA writes that the thread has not yet fenced (R72); `entryWrite` is a handler record that waits
for room in the store buffer (R61, R124). -/
structure Thread where
  g : Map Word := []
  p : Map Bool := []
  s : Map Cap := []
  v : Map Vec := []
  pc : Word := 0
  st : TState := .idle
  esc : Bool := false
  th : Bool := true
  lastFault : Byte := 0
  fpflags : BitVec 5 := 0
  faultEn : BitVec 5 := 0
  seed : Word := 0
  rmode : BitVec 3 := 0
  dret : Word := 0
  handlers : Map Word := []
  faultGate : Cap := {}
  faultGdata : Cap := {}
  gstack : Cap := {}
  gdepth : BitVec 5 := 0
  vcvts : Word := 0
  epoch : BitVec 3 := 0
  timeShadow : Option Word := none
  sb : List SbEntry := []
  unacked : List Unacked := []
  storeSeq : Nat := 0
  load : Option Withdrawn := none
  wait : Option Wait := none
  parkedPc : Word := 0
  records : List FaultRecord := []
  rdPending : List GReg := []
  remoteErr : RemoteErr := {}
  selCh : BitVec 3 := 0
  selDenied : Bool := false
  ran : Bool := false
  held : Option Hold := none
  fbuf : List (Nat × List Byte) := []
  stale : List (Nat × List Byte) := []
  entryWrite : Option SbEntry := none
  deriving DecidableEq, Repr

/-! ## Shared structures -/

/-- A read-cache line (R210): its 128-byte-aligned address and its bytes. -/
structure CacheLine where
  addr : Addr
  data : List Byte
  deriving DecidableEq, Repr

/-- A BTB entry (R48): the bundle address it was recorded for and the target. -/
structure BtbEntry where
  addr : Word
  target : Word
  deriving DecidableEq, Repr

/-- A message queued on a channel (R261). -/
structure Msg where
  chan : BitVec 4
  words : List Word
  tag : BitVec 4
  deriving DecidableEq, Repr

/-- The range of bytes of a segment: MODULE with this module as 0xFFFF, base device address and last byte's offset (R63). -/
structure Seg where
  module : BitVec 16
  base : Addr
  limit : Word
  deriving DecidableEq, Repr

/-- A range-table entry (R63, R66), with the operation that owns it, by release number (`seq`) and by DMA channel, or none for
the sequencer table. -/
structure RangeEntry where
  thread : ThreadNo
  seq : Nat
  ch : Option (BitVec 3)
  src : Option Seg
  dst : Option Seg
  deriving DecidableEq, Repr

/-- The coprocessors that can hold a deferred fault (R54). -/
inductive Cop where
  | mat | dma | syn
  deriving DecidableEq, Repr

/-- A deferred fault (R54): coprocessor, responsible thread, code, detail, and the causing op's bundle. -/
structure Deferred where
  cop : Cop
  thread : ThreadNo
  code : Byte
  detail : Word
  pc : Word
  deriving DecidableEq, Repr

/-- Where a released SYN op stands (R265): not yet sent, sent under a TAG, or backing off after FULL. -/
inductive SynStage where
  | queued
  | sent (tag : BitVec 10)
  | backoff
  deriving DecidableEq, Repr

/-- The work of a released SYN op that acts after its bundle (R223, R256, R261). A remote increment or message names the
destination by MODULE, REGION and device address. -/
inductive SynWork where
  | finc (f : BitVec 6) (v : Word)
  | fincR (module : BitVec 16) (region : BitVec 6) (addr : Addr) (v : Word)
  | send (module : BitVec 16) (region : BitVec 6) (addr : Addr) (words : List Word) (mtag : BitVec 4)
  deriving DecidableEq, Repr

/-- A SYN queue entry. `after` is the thread's store number below which everything must be acknowledged (R223); `due` is the mesh
cycle at which a refused message may be sent again and `delay` its present backoff (R265). `own` marks the core's
thread-control logic and its fault records, which hold no quota; `epoch` is that of R56. -/
structure SynEntry where
  thread : ThreadNo
  epoch : BitVec 3
  own : Bool
  pc : Word
  after : Nat
  work : SynWork
  stage : SynStage
  due : Nat
  delay : Nat
  deriving DecidableEq, Repr

/-- A waiting fret increment (R253). -/
structure FretInc where
  f : BitVec 6
  v : Word
  deriving DecidableEq, Repr

/-! ## Packets (spec/10) -/

/-- The header of a packet (Table 10.1); DNODE and SNODE hold raw numbers, so that R285 can find one above 959. -/
structure Header where
  module : BitVec 16 := 0xFFFF
  addr : Addr := 0
  dnode : BitVec 10 := 0
  snode : BitVec 10 := 0
  region : BitVec 6 := 0
  cls : BitVec 2 := 0
  esc : Bool := false
  kind : BitVec 5 := 0
  len : Byte := 0
  tag : BitVec 10 := 0
  stamp : Byte := 0
  tail : Bool := false
  rflex : Bool := false
  deriving DecidableEq, Repr

/-- A packet: its header and its payload bytes. The payload of a WRITE may be shorter than LEN × 16 (log 8). -/
structure Packet where
  h : Header
  data : List Byte
  deriving DecidableEq, Repr

/-- What a TAG of this core stands for (Table 10.1). -/
inductive ReqKind where
  | load (k : ThreadNo)
  | store (k : ThreadNo) (pc : Word)
  | syn (k : ThreadNo) (pc : Word) (own : Bool)
  | rdb (k : ThreadNo) (pc : Word)
  | dmaRead (ch : BitVec 3) (burst : Nat) (at_ : Nat) (len : Nat)
  | dmaWrite (ch : BitVec 3) (burst : Nat) (len : Nat)
  | dmaFret (k : ThreadNo) (pc : Word)
  | dmaRec (ch : BitVec 3)
  deriving DecidableEq, Repr

/-! ## Matrix unit (spec/06) -/

/-- A tile's configuration (Table 3.12, R159). -/
structure TileCfg where
  rows : BitVec 6 := 0
  rlen : BitVec 5 := 0
  fmt : BitVec 4 := 0
  scen : Bool := false
  stile : TReg := 0
  blk : BitVec 3 := 0
  dir : Bool := false
  deriving DecidableEq, Repr

/-- An accumulator descriptor (Table 3.13, R177): BASE, ROWS and COLS as encoded, S and CHUNK. -/
structure AccDesc where
  base : BitVec 9
  rows : BitVec 4 := 0
  cols : BitVec 3 := 0
  s : BitVec 10 := 0
  chunk : BitVec 24 := 0
  deriving DecidableEq, Repr

/-- A MAT op with its operand values (R94). -/
inductive MatWork where
  | tcfg (t : TReg) (w : Word)
  | tld (t : TReg) (cap : Cap) (off stride : Word) (x : Bool)
  | tst (t : TReg) (cap : Cap) (off stride : Word)
  | trel (t : TReg)
  | tsave (cap : Cap) (off : Word)
  | trestore (cap : Cap) (off : Word)
  | accCfg (acc : AccNo) (w : Word)
  | mma (acc : AccNo) (ta tb : TReg) (g z : BitVec 2) (rn : Bool) (s0 : BitVec 10)
  | accNorm (acc : AccNo)
  | accCvt (acc : AccNo) (t : TReg) (rm : BitVec 3)
  | accCvtS (acc : AccNo) (cap : Cap) (off ctl : Word)
  | mseqRun (nt : Bool) (cap : Cap) (off : Word)
  deriving DecidableEq, Repr

/-- A released MAT op: its release number, its responsible thread and bundle, the SEED, RMODE and ACCR in force (R120, R153), the
store number below which the thread's buffer must have drained (R167), the capability register it names, and whether the sequencer
generated it, with its step. -/
structure MatJob where
  seq : Nat
  thread : ThreadNo
  epoch : BitVec 3
  pc : Word
  seed : Word
  rmode : BitVec 3
  accr : Bool
  after : Nat
  work : MatWork
  reg : SReg
  fromSeq : Bool
  step : Nat
  deriving DecidableEq, Repr

/-- A sequencer step as read from its table (Table 6.6). -/
structure SeqStep where
  w0 : Word
  w1 : Word
  w2 : Word
  w3 : Word
  deriving DecidableEq, Repr

/-- A running sequencer table (R190): the mseq.run that launched it, its steps, a0-a7, the step in progress, the remaining count of
each active LOOP by step (R189), the waiting FINCs (release number below which every generated op must have completed, fret,
count), and whether it generates no more. -/
structure SeqRun where
  job : MatJob
  cap : Cap
  nt : Bool
  steps : List SeqStep
  a : Map Word
  step : Nat
  loops : Map Nat
  fincs : List (Nat × BitVec 6 × Word)
  finished : Bool
  deriving DecidableEq, Repr

/-- The matrix unit (R159-R194). -/
structure Matrix where
  tiles : Map TileCfg := []
  inUse : BitVec 16 := 0
  tileData : Map (Map Byte) := []
  acc : Map (BitVec 36) := []
  descs : Map AccDesc := []
  accSat : Bool := false
  narSeen : Bool := false
  queue : List MatJob := []
  active : List (Engine × MatJob) := []
  seqOps : List MatJob := []
  seq : Option SeqRun := none
  seqFaulted : Bool := false
  seqAborted : Bool := false
  seqThread : ThreadNo := 0
  seqStep : BitVec 6 := 0
  replayCnt : Word := 0
  busyCyc : Word := 0
  deriving DecidableEq, Repr

/-! ## Plectrum (spec/08) -/

/-- A DMA queue entry (R228): a start with the thread's capabilities (R229) and the descriptor once it was read (R230), or a
register write or read. -/
inductive DmaWork where
  | start (nt : Bool) (ch : BitVec 3) (s : Cap) (off : Word) (caps : List Cap) (desc : Option Resp)
  | wr (reg : GReg) (v : Word)
  | rd (g reg : GReg)
  deriving DecidableEq, Repr

/-- A released DMA op, by release number. -/
structure DmaJob where
  seq : Nat
  thread : ThreadNo
  epoch : BitVec 3
  pc : Word
  after : Nat
  work : DmaWork
  deriving DecidableEq, Repr

/-- Where a burst stands (R237). -/
inductive BurstStage where
  | reading | read | writing | acked | failed
  deriving DecidableEq, Repr

/-- A started burst (R235): descriptor place in the chain, its first byte's place in the descriptor, destination capability index,
destination offset, bytes read so far by place, length, whether it is the TAIL, the reduce code, and its stage. -/
structure Burst where
  id : Nat
  desc : Nat
  at_ : Nat
  dcap : BitVec 4
  dst : Nat
  len : Nat
  data : Map Byte
  got : Nat
  tail : Bool
  red : BitVec 2
  stage : BurstStage
  deriving DecidableEq, Repr

/-- A descriptor of the chain that has been read (Table 8.1): its offset, its words, how many bytes have started their
read, and whether it has completed. -/
structure DescRun where
  off : Word
  words : List Word
  started : Nat
  completed : Bool
  deriving DecidableEq, Repr

/-- A message of Plectrum that waits to be accepted (R240). -/
structure DmaMsg where
  chan : BitVec 4
  tag : BitVec 4
  w0 : Word
  w1 : Word
  deriving DecidableEq, Repr

/-- The error of a chain (R241 to R243): its code, its DETAIL, its descriptor, the place of its burst in that descriptor, and the mc in
which it arose. -/
structure ChainErr where
  code : Byte
  detail : Byte
  desc : Nat
  at_ : Nat
  mc : Nat
  deriving DecidableEq, Repr

/-- A chain in progress on a channel, with the thread and the bundle of its start. -/
structure ChainRun where
  thread : ThreadNo
  pc : Word
  nt : Bool
  s : Cap
  caps : List Cap
  descs : List DescRun
  fetching : Option Word
  prefetched : Option Resp
  bursts : List Burst
  nextBurst : Nat
  err : Option ChainErr
  aborting : Bool
  msgs : List DmaMsg
  finished : Bool
  deriving DecidableEq, Repr

/-- A DMA channel (R227, Tables 8.9, 8.10). -/
structure DmaChan where
  state : BitVec 3 := 0
  lastErr : Byte := 0
  detail : Byte := 0
  recFail : Bool := false
  creditErr : Bool := false
  wrBusy : Bool := false
  desc : Word := 0
  residue : Word := 0
  chainLimit : BitVec 16 := 0
  level : Word := 0
  wmark : Word := 0
  wmarkIn : Word := 0
  crossed : Bool := false
  bytes : Word := 0
  wmsg : Option DmaMsg := none
  run : Option ChainRun := none
  deriving DecidableEq, Repr

/-- The engine (R227, R237): channels, queue, the DMA_SEL of the register page, the round robin of the read engine, and the bursts whose
reads have completed, in that order. -/
structure Plectrum where
  chans : Map DmaChan := []
  queue : List DmaJob := []
  ready : List (BitVec 3 × Nat) := []
  pageCh : BitVec 3 := 0
  pageDenied : Bool := false
  rr : BitVec 3 := 0
  deriving DecidableEq, Repr

/-! ## Control page (Tables 2.17, 4.15, 6.9, 7.4, 9.4, 11.15, 15.12, 16.2) -/

/-- A remote window: the three registers WIN_OFFk, WIN_LENk, WIN_SRCk (Tables 7.5-7.7). -/
structure Window where
  off : Word := 0
  len : Word := 0
  src : Word := 0
  deriving DecidableEq, Repr

structure CoreCtl where
  lock : Bool := false
  pool : Bool := false
  supv : ThreadNo := 0
  lockViol : Bool := false
  wrBusy : Bool := false
  halted : Bool := false
  escVector : Option (BitVec 15) := none
  escPage : Option (BitVec 9) := none
  bindLock : Bool := false
  bind : BitVec 30 := 0
  gwLock : Bool := false
  gwValid : Bool := false
  gwNode : BitVec 10 := 0
  dbgPend : BitVec 4 := 0
  windows : Map Window := []
  eccLast : BitVec 4 := 0
  eccUncorr : Byte := 0
  eccCorr : BitVec 16 := 0
  issueCnt : Word := 0
  squashCyc : Word := 0
  sbStall : Word := 0
  rtStall : Word := 0
  winRefused : Word := 0
  chNack : Word := 0
  chFull : Word := 0
  deriving DecidableEq, Repr

/-- A core's memories with the words that are poisoned (R422), keyed by offset ÷ 8. -/
structure CoreMem where
  imem : Map Byte := []
  imemPoison : Map Bool := []
  scratch : Map Byte := []
  tags : Map Bool := []
  poison : Map Bool := []
  tilePoison : Map Bool := []
  accPoison : Map Bool := []
  cache : Map CacheLine := []
  plru : Map (BitVec 3) := []
  btb : Map BtbEntry := []
  deriving DecidableEq, Repr

/-- The SYN unit, frets and channel queues (spec/09). -/
structure Syn where
  frets : Map Word := []
  incOwn : List FretInc := []
  incNet : List FretInc := []
  queue : List SynEntry := []
  msgs : List Msg := []
  deriving DecidableEq, Repr

/-- A Camhar core (R34). `waits` counts, for each thread, the issues of other threads since it could issue (R46); `afterDrop` names the
coprocessors that hold an ended thread's ops until it next runs (R55); `tagQueue` holds requests that wait for a free TAG (Table 10.1);
`portOwn` says whether the network port last served a packet of this core itself (R200). -/
structure Core where
  threads : Map Thread := []
  mem : CoreMem := {}
  syn : Syn := {}
  mat : Matrix := {}
  dma : Plectrum := {}
  ctl : CoreCtl := {}
  ranges : List RangeEntry := []
  deferred : List Deferred := []
  reqs : List (BitVec 10 × ReqKind) := []
  tagQueue : List (ReqKind × Packet) := []
  afterDrop : List (Cop × ThreadNo) := []
  waits : Map Nat := []
  relSeq : Nat := 0
  drainRr : ThreadNo := 0
  portOwn : Bool := false
  lost : Option Byte := none
  deriving DecidableEq, Repr

end Sys2Proof.Machine
end

