-- ==== Sys2Proof/Machine/DeviceState.lean ====
section
/-! DEFINITION. The state outside the cores: mesh, memory controllers, courses, links, host interface, Pegbox, power, security and
module hardware (spec/07, spec/10 to spec/17). Every field's default is its value at reset. -/

namespace Sys2Proof.Machine

open Sys2Proof

/-! ## Mesh (spec/10) -/

/-- A flit (R284): the header if it is a head flit, its part of the payload, and whether it is its packet's last. -/
structure Flit where
  head : Option Header
  data : List Byte
  last : Bool
  deriving DecidableEq, Repr

/-- A flit on a mesh link: sequence number and virtual channel travel in the sideband (R280, R295). -/
structure TxFlit where
  seq : BitVec 5
  vc : BitVec 3
  flit : Flit
  deriving DecidableEq, Repr

/-- The sending end of a mesh link direction (R295): retry buffer, next sequence number, flits on the wire. -/
structure LinkTx where
  buf : List TxFlit := []
  seq : BitVec 5 := 0
  wire : List TxFlit := []
  deriving DecidableEq, Repr

/-- The receiving end (R295, R296): expected sequence number, consecutive retries of that flit, failed mark. -/
structure LinkRx where
  expected : BitVec 5 := 0
  retries : Nat := 0
  failed : Bool := false
  deriving DecidableEq, Repr

/-- The arbitration state of an output port (R287): CTRL tokens and BULK credit as of the mesh cycles `tokAt` and `bulkAt`, the
round-robin place, whether BULK has had its turn of the round, and per class which of its two channels went last. -/
structure OutPort where
  tok : Nat := 16
  tokAt : Nat := 0
  bulk : Nat := 4
  bulkAt : Nat := 0
  wrr : Nat := 0
  bulkDone : Bool := false
  alt : Map Bool := []
  deriving DecidableEq, Repr

/-- A router (R280, R281). Input queues and routes are keyed by port × 8 + VC; a route or owner is stored as its key + 1; `hdr` is the
header of the packet that an input key is passing on. -/
structure Router where
  inq : Map (List Flit) := []
  route : Map Nat := []
  owner : Map Nat := []
  drop : Map Bool := []
  hdr : Map Header := []
  outs : Map OutPort := []
  tx : Map LinkTx := []
  rx : Map LinkRx := []
  deriving DecidableEq, Repr

/-- A CTRL packet held until its due mesh cycle, with the mesh cycle of its arrival (R293). -/
structure Held where
  due : Nat
  arrived : Nat
  pkt : Packet
  deriving DecidableEq, Repr

/-- A node's local side: packets to inject, flits being injected by VC, flits being gathered by VC, delivered packets, held and
released CTRL packets, pending rdb requests (R273), and the mesh cycle of the last CTRL injection (R294). -/
structure NodeIO where
  router : Router := {}
  out : List Packet := []
  inj : Map (List Flit) := []
  asm : Map (List Flit) := []
  rx : List Packet := []
  held : List Held := []
  ctrl : List Packet := []
  rdbs : List Packet := []
  lastCtrl : Option Nat := none
  deriving DecidableEq, Repr

/-! ## Memory controllers (R208, R449) -/

/-- A queued request: its packet, its offset within the controller's memory, and when it arrived. -/
structure MemReq where
  pkt : Packet
  off : Nat
  arrived : Nat
  deriving DecidableEq, Repr

/-- A controller: 0-31 the quarter-stack of a course, 32-47 far channel 0-15. -/
structure MemCtl where
  mem : Map Byte := []
  poison : Map Bool := []
  queue : List MemReq := []
  failed : Bool := false
  uncorrAt : List Nat := []
  refreshAt : Nat := 0
  deriving DecidableEq, Repr

/-! ## Courses (Tables 10.4-10.9, 9.6, 9.7) -/

/-- Course states under LEND (Table 9.3). -/
inductive WState where
  | awake | dwell | lent | reclaim
  deriving DecidableEq, Repr

/-- A course. `dwellAt` is the mesh cycle of its last entry to DWELL. -/
structure Course where
  valid : Bool := false
  region : BitVec 5 := 0
  cx1 : BitVec 3 := 0
  cy1 : BitVec 2 := 0
  cx0 : BitVec 3 := 0
  cy0 : BitVec 2 := 0
  withheld : Bool := false
  spare : BitVec 5 := 29
  wrBusy : Bool := false
  failSeen : Bool := false
  linkFail : Map (BitVec 30) := []
  crcRetry : Word := 0
  resync : Word := 0
  ctrlLate : Word := 0
  escTaken : Word := 0
  malformed : Word := 0
  waitLock : Bool := false
  lend : Bool := false
  dwell : BitVec 10 := 20
  lends : BitVec 16 := 0
  div : Nat := 4
  wstate : WState := .awake
  dwellAt : Nat := 0
  marked : Bool := false
  credited : Nat := 0
  throttled : Nat := 0
  deriving DecidableEq, Repr

/-! ## Links (spec/11) -/

/-- Link states (Table 11.8). -/
inductive LinkState where
  | off | train | up | hold
  deriving DecidableEq, Repr

/-- A packet on its way over a link (Tables 11.2, 11.4): `tag` is the egress transaction entry, `gen` the generation of its
lookup (none for an answer, which has no lookup), `sregion` the region of the originating node. -/
structure LinkPkt where
  dmodule : BitVec 16
  dnode : BitVec 10
  snode : BitVec 10
  tag : BitVec 10
  kind : BitVec 5
  cls : BitVec 2
  addr : Addr
  region : BitVec 5
  sregion : BitVec 5
  tail : Bool
  rflex : Bool
  gen : Option Byte
  data : List Byte
  deriving DecidableEq, Repr

/-- An entry of a transaction table (R324): the request's kind and address, the requester's module, node, TAG and region, the link, the
local node that answers (ingress), and whether a flush drops the answer (R331). -/
structure Txn where
  kind : BitVec 5
  addr : Addr
  module : BitVec 16
  snode : BitVec 10
  tag : BitVec 10
  region : BitVec 5
  link : Nat
  node : BitVec 10
  dead : Bool
  deriving DecidableEq, Repr

/-- A link. `holdUs` is LINK_HOLD.US as written, `holdUsIn` as in force since
the link's last frame (R10, R335); `holdIn` and `holdAt` are the µs of the running hold and the mesh cycle of its start. `ingress` holds accepted packets, with
their SMODULE, that wait for an ingress-table entry (R324); `ctrlSent` the CTRL frames of the last microsecond with their times (R315);
`served` the bytes each class has sent, scaled by its weight. -/
structure Link where
  en : Bool := false
  admits : Bool := false
  downs : Byte := 0
  cause : BitVec 3 := 0
  lanes : BitVec 4 := 0
  state : LinkState := .off
  holdUs : BitVec 16 := 500
  holdUsIn : BitVec 16 := 500
  holdIn : Nat := 500
  holdAt : Nat := 0
  peerValid : Bool := false
  peerLink : BitVec 6 := 0
  peerModule : BitVec 16 := 0
  peerEpoch : BitVec 16 := 0
  ownEpoch : BitVec 16 := 0
  epochAtUp : BitVec 16 := 0
  txAcked : BitVec 12 := 0xFFF
  rxLast : BitVec 12 := 0xFFF
  txNext : BitVec 12 := 0
  errLength : Byte := 0
  errCrc : Byte := 0
  errTenant : Byte := 0
  errMisroute : Byte := 0
  replays : Word := 0
  egress : List LinkPkt := []
  replay : List (BitVec 12 × LinkPkt) := []
  resend : List (BitVec 12 × LinkPkt) := []
  charged : Map Nat := []
  credSeen : Map (BitVec 12) := []
  freed : Map (BitVec 12) := []
  credDue : Map Bool := []
  ccNext : BitVec 2 := 0
  ackDue : Bool := false
  nakDue : Bool := false
  nakSent : Bool := false
  stale : Nat := 0
  served : Map Nat := []
  ctrlSent : List (Nat × Nat) := []
  ingress : List (BitVec 16 × LinkPkt) := []
  etxn : Map Txn := []
  deriving DecidableEq, Repr

/-- The registers of an L node (Table 11.10), the ingress tables of its two links (R324; entry t of its link L has key L × 1024 + t),
and its hand-offs not yet acknowledged: TAG, generation and the header of the packet handed off (R319, R322). -/
structure LNode where
  sel : Bool := false
  evt : BitVec 2 := 0
  itxn : Map Txn := []
  handoffs : List (BitVec 10 × Byte × Header) := []
  deriving DecidableEq, Repr

/-- A rail-table entry (Table 11.14). -/
structure RailEntry where
  valid : Bool := false
  flex : Bool := false
  gen : Byte := 0
  rails : BitVec 40 := 0
  deriving DecidableEq, Repr

structure Rail where
  table : Map RailEntry := []
  ainc : Bool := false
  entry : BitVec 16 := 0
  hold : Bool := false
  gen : Byte := 0
  deriving DecidableEq, Repr

/-! ## Host interface (spec/12) -/

/-- A queue pair (Table 12.7), its PHASE, its re-arm flag, the completion slots in use and those reserved for
started messages (R352, R353). -/
structure Qp where
  sqBase : DWord := 0
  cqBase : DWord := 0
  en : Bool := false
  sqLog : BitVec 4 := 7
  cqLog : BitVec 4 := 7
  ie : Bool := false
  vector : BitVec 6 := 0
  sqTail : BitVec 12 := 0
  cqHead : BitVec 12 := 0
  sqHead : BitVec 12 := 0
  cqTail : BitVec 12 := 0
  wrBusy : Bool := false
  cfgErr : Bool := false
  phase : Bool := true
  armed : Bool := true
  used : Nat := 0
  reserved : Nat := 0
  deriving DecidableEq, Repr

structure HostErr where
  apRef : Bool := false
  dbBad : Bool := false
  apCount : BitVec 16 := 0
  deriving DecidableEq, Repr

/-- APERTURE_BASE (Table 12.4): bits 47:20 of the base and the region of a PF's traffic. -/
structure Aperture where
  base : BitVec 28 := 0
  region : BitVec 5 := 0
  deriving DecidableEq, Repr

/-- A health event (Table 12.10) with its record (Table 16.3) and the region whose VF also receives it. -/
structure HEvent where
  code : Byte
  record : List Byte
  region : Option (BitVec 5)
  deriving DecidableEq, Repr

/-- Events kept for one completion ring (R354). -/
structure RingEvents where
  events : List HEvent := []
  dropped : Word := 0
  deriving DecidableEq, Repr

/-- READY bits, version, alerts, per-function registers, queue pairs with their rings' events, and what lies beyond the host port: host
memory and NVMe storage. `svcFailed` marks the services whose node lost a mesh link (R429).
-/
structure HostIf where
  readyCourse : BitVec 32 := 0
  readyLink : BitVec 40 := 0
  readyFar : BitVec 16 := 0
  readyHbm : BitVec 8 := 0
  readyBridge : Bool := false
  readyMesh : BitVec 2 := 0
  readyRp : Bool := false
  readyEp : Bool := false
  svcFailed : BitVec 4 := 0
  fw : BitVec 16 := 0
  stepping : Byte := 0
  alertCause : BitVec 4 := 0
  alertMsix : BitVec 4 := 0
  alertPin : BitVec 4 := 1
  errs : Map HostErr := []
  traceLanes : Bool := false
  traceFallback : Bool := false
  apertures : Map Aperture := []
  qps : Map Qp := []
  rings : Map RingEvents := []
  qpRr : Nat := 0
  pcieTrained : Bool := false
  hostMem : Map Byte := []
  storage : Map Byte := []
  deriving DecidableEq, Repr

/-- A master's view of the emulated registers (R344, R345). -/
structure EmuMaster where
  kind : BitVec 4 := 0
  index : BitVec 6 := 0
  pending : Bool := false
  reject : Bool := false
  lockViol : Bool := false
  wrBusy : Bool := false
  badSel : Bool := false
  denied : Bool := false
  cap : BitVec 16 := 0
  capShadow : BitVec 16 := 0
  deriving DecidableEq, Repr

/-- An emulated instance (Table 12.5, INST_*). `took` tells that OFFLINE has taken it out of service, `kept` that the course was withheld
before (R430). -/
structure Inst where
  offline : Bool := false
  offlineShadow : Bool := false
  took : Bool := false
  kept : Bool := false
  pstate : BitVec 3 := 0
  temp : Byte := 0
  corr : BitVec 16 := 0
  uncorr : BitVec 16 := 0
  deriving DecidableEq, Repr

/-- A write in a shadow, not yet applied (R344): the master, offset, selected instance and value. -/
structure ShadowWrite where
  master : Nat
  off : BitVec 12
  inst : Nat
  value : Word
  deriving DecidableEq, Repr

/-- PB1's ruling on an emulated power request, which PB2 applies to the shadow (R393): the request, the value that stands, and whether the
request lost. -/
structure Verdict where
  write : ShadowWrite
  stands : Word
  lost : Bool
  deriving DecidableEq, Repr

/-- The emulated registers with their shadows. `verdicts` are PB1's rulings that PB2 has yet to take (R393); `toggleDue` is a short press
that waits for PB2 (R441, R374). -/
structure Emu where
  masters : Map EmuMaster := []
  moduleId : BitVec 16 := 0xFFFF
  moduleIdShadow : BitVec 16 := 0xFFFF
  moduleIdWritten : Bool := false
  blink : Bool := false
  blinkShadow : Bool := false
  rpCfg : BitVec 6 := 0
  rpCfgShadow : BitVec 6 := 0
  healthCnt : Word := 0
  powerNow : BitVec 16 := 0
  tempMax : Byte := 0
  dbgBusy : Bool := false
  dbgLen : BitVec 11 := 0
  dbgBuf : Map Byte := []
  insts : Map Inst := []
  writes : List ShadowWrite := []
  refusalLog : List ShadowWrite := []
  verdicts : List Verdict := []
  toggleDue : Bool := false
  deriving DecidableEq, Repr

/-! ## Pegbox (spec/13) -/

/-- A message that PB2 has started (R369): its number, function, queue pair, bytes, whether it was handed to PB0, whether an FLR
discards its completion (R338), its completion once its effect is made, the completion of its effect as first made, which a run again gives
once more (R369), and for a SIGNAL refused FULL the mesh cycle at which it is sent again with its present delay (R265, R267). -/
structure JEntry where
  id : Nat
  fn : FnNo
  qp : BitVec 6
  msg : List Byte
  handed : Bool
  discarded : Bool
  result : Option (List Byte)
  made : Option (List Byte) := none
  due : Nat := 0
  delay : Nat := 0
  deriving DecidableEq, Repr

/-- A region's running program (R360). -/
structure Program where
  handle : Nat
  running : Bool
  digest : BitVec 384
  tenantKey : Option (List Byte)
  deriving DecidableEq, Repr

/-- A loaded image with the region it was loaded for, 0xFFFF for none (log 10). -/
structure LoadedImage where
  region : BitVec 16
  image : Image
  deriving DecidableEq, Repr

/-- A firmware activation in progress (R376): the message, the staged bank, the PB cores already moved and the one restarting. -/
structure Activation where
  id : Nat
  bank : Bool
  moved : List PbNo
  current : Option PbNo
  deriving DecidableEq, Repr

/-- The repair record of a course (R430). -/
structure Repair where
  failed : List (BitVec 5) := []
  qstack : Bool := false
  withheld : Bool := false
  spare : Option (BitVec 5) := none
  deriving DecidableEq, Repr

/-- A log entry of R8: the register and who wrote it. -/
structure LockLog where
  reg : RegAddr
  who : Accessor
  deriving DecidableEq, Repr

/-- Work of a PB core that waits while it does not run (R374): PB1's domain orders, writes of TARGET and ends of training or BIST; PB3's
ADMIT changes and rail-table writes; PB0's restarts of other cores, their ends, and the BMC's writes of DBG_DOOR and DBG_BUF (R410). -/
inductive PbWork where
  | order (d t : Nat)
  | target (d : Nat) (t : BitVec 3)
  | reached (d : Nat)
  | linkAdmit (l : Nat) (on : Bool)
  | railEntry (entry : BitVec 16) (lo hi : Word)
  | railGen (v : Word) (drain : Bool)
  | module
  | restart (v : Word)
  | runs (n : PbNo)
  | door (len : Nat)
  | dbgBuf (off : Nat) (v : Word)
  deriving DecidableEq, Repr

/-- Pegbox (R364 to R376). `t0` is the T0 of each PB core and `localMem` its 256 KiB of local memory, which a restart loses (R372). The shared
2 MiB are the fields that R365 says they hold, and `shared` what a debugger has written to them. `ran` marks the cores that have run since
module reset, `digests` the SHA-384 of the images they run (R403), `waiting` their work while they do not; `admitting` tells that PB3 is
between steps 2 and 4 of R322; `malformedLog` is what Pegbox logs of discarded packets (R285). -/
structure Pegbox where
  t0 : Map Thread := []
  localMem : Map (Map Byte) := []
  shared : Map Byte := []
  ran : BitVec 4 := 0
  digests : Map (BitVec 384) := []
  waiting : List PbWork := []
  admitting : Bool := false
  bank : BitVec 4 := 0
  bootfail : BitVec 4 := 0
  wdog : BitVec 4 := 0
  restarting : BitVec 4 := 0
  run : BitVec 4 := 0
  wdogMs : BitVec 16 := 1000
  kickAt : Map Nat := []
  bankRec : Bool := false
  flashA : Map Byte := []
  flashB : Map Byte := []
  repair : Map Repair := []
  boardSsc : Bool := false
  boardEmuLock : Bool := false
  rpBoot : BitVec 6 := 0
  journal : List JEntry := []
  nextId : Nat := 0
  events : List HEvent := []
  dropped : Word := 0
  images : Map LoadedImage := []
  nextHandle : Nat := 1
  programs : Map Program := []
  act : Option Activation := none
  lockLog : List LockLog := []
  malformedLog : List Header := []
  pbRdb : Map Word := []
  deriving DecidableEq, Repr

/-! ## Power (spec/14) -/

/-- A shell (Table 14.2). SETPOINT is in force from mesh cycle `setAt`, `prior` until then (R382). VALUE is `value`; a regulator's, in
1/160 mV, is as of mesh cycle `valueAt` and slews on. `lost` tells that a fault or a failed calibration has unsettled the block. -/
structure Shell where
  lock : Bool := false
  en : Bool := false
  setpoint : BitVec 16 := 0
  result : Byte := 0
  trim : Byte := 0
  lockViol : Bool := false
  wrBusy : Bool := false
  fault : Bool := false
  busy : Bool := false
  lost : Bool := false
  value : Nat := 0
  valueAt : Nat := 0
  prior : BitVec 16 := 0
  setAt : Nat := 64
  deriving DecidableEq, Repr

/-- DOM_STAT of a domain (Table 14.9). -/
structure Dom where
  refused : Bool := false
  target : BitVec 3 := 4
  state : BitVec 3 := 4
  deriving DecidableEq, Repr

/-- Ranks of power masters (R392). -/
inductive Rank where
  | host | bmc | pb0
  deriving DecidableEq, Repr

/-- A power request of the present tick (R393). -/
inductive PowerReq where
  | cap (master : Nat) (watts : BitVec 16)
  | capMsg (id : Nat) (watts : BitVec 16)
  | offline (master : Nat) (inst : Nat) (off : Bool)
  | moduleState (rank : Rank)
  deriving DecidableEq, Repr

/-- The power manager. `hot` marks sensors over their alarm threshold by number, over their hardware limit by 64 + number, and `hotAt` holds
the threshold in °C that set the mark (R391); `samples` are the input powers of the last 20 ticks (1 ms). -/
structure Power where
  shells : Map Shell := []
  sels : Map Word := []
  doms : Map Dom := []
  domSel : BitVec 6 := 0
  capPb0 : BitVec 16 := 0
  fastcap : Bool := false
  hwtherm : Bool := false
  trip : Bool := false
  pool : Nat := 0
  boosted : List CourseNo := []
  lastGrant : Nat := 31
  boostEn : BitVec 32 := 0
  hot : Map Bool := []
  hotAt : Map Nat := []
  reqs : List PowerReq := []
  samples : List Nat := []
  variantB : Bool := false
  deriving DecidableEq, Repr

/-! ## Security and debug (spec/15) -/

/-- A debug session (R404, R406, R408): its path, level and region (TENANT), the mesh cycle at which its lifetime ends, and the threads
it stopped. -/
structure Session where
  id : Nat
  path : DbgPath
  level : BitVec 2
  region : Option RegionNo
  ends : Option Nat
  parked : List (NodeNo × ThreadNo)
  deriving DecidableEq, Repr

/-- A trace record that the collector has yet to write (R415): of a taken branch or (`fault`) of a fault record, with its bundle address and
TIME_LO. -/
structure TraceRec where
  fault : Bool
  node : Nat
  thread : ThreadNo
  addr : Word
  time : Word
  deriving DecidableEq, Repr

/-- A nonce issued to a requester, and the mesh cycle of its issue (R408). -/
structure NonceRec where
  path : DbgPath
  nonce : DWord
  issued : Nat := 0
  deriving DecidableEq, Repr

/-- A debug, lifecycle or attestation request that PB0 serves (R409, R397, R403). -/
inductive Pb0Req where
  | nonce (path : DbgPath)
  | open_ (path : DbgPath) (level : BitVec 2) (token : List Byte)
  | end_ (path : DbgPath)
  | stop (path : DbgPath) (node : NodeNo) (mask : BitVec 4)
  | release (path : DbgPath) (node : NodeNo) (mask : BitVec 4)
  | step (path : DbgPath) (node : NodeNo) (mask : BitVec 4)
  | read (path : DbgPath) (target : DbgTarget) (len : Nat)
  | write (path : DbgPath) (target : DbgTarget) (data : List Byte)
  | trace (path : DbgPath) (ctl : Word) (base : DWord) (len : Word)
  | lifecycle (path : DbgPath) (target : BitVec 3) (token : List Byte)
  | spdm (fn : FnNo) (code : Byte) (index : Byte) (nonce : BitVec 256)
  deriving DecidableEq, Repr

/-- A response on a debug path (R409): the status and what was read. -/
structure DbgResp where
  path : DbgPath
  status : Nat
  data : List Byte
  deriving DecidableEq, Repr

/-- What the key store keeps (R396, R400): the private keys DeviceID, from UDS, and Alias, from the CDI. -/
structure KeyStore where
  deviceId : BitVec 384
  alias_ : BitVec 384
  deriving DecidableEq, Repr

/-- An SPDM answer over DOE (R403): the request's code, its contents, and the device's nonce and the Alias key's signature, which some
answers carry. -/
structure SpdmResp where
  fn : FnNo
  code : Byte
  index : Byte
  contents : List Byte
  nonce : Option (BitVec 256)
  signature : Option (List Byte)
  deriving DecidableEq, Repr

/-- The security node. The UDS fuses are Config.uds with the bits of `udsBlow` blown since; `keys` is the key store, `svn` the SVN fuses; `traceDue`
holds, oldest first, the records that the collector has yet to write. -/
structure Security where
  life : BitVec 3 := 3
  lifeFuse : BitVec 3 := 3
  udsBlow : BitVec 384 := 0
  keys : Option KeyStore := none
  keyHash : Map (BitVec 384) := []
  keyRev : BitVec 4 := 0
  svn : BitVec 64 := 0
  spareFuse : Map (BitVec 5) := []
  trimFuse : Map Byte := []
  level : BitVec 2 := 0
  rdbg : BitVec 32 := 0
  rdone : BitVec 32 := 0
  ctlLock : Bool := false
  emuLock : Bool := false
  traceEn : Bool := false
  traceRegion : BitVec 5 := 0
  traceDest : Bool := false
  traceBase : DWord := 0
  traceLen : Word := 0
  traceLost : Byte := 0
  traceNext : BitVec 24 := 0
  traceDue : List TraceRec := []
  sessions : List Session := []
  nextSession : Nat := 0
  nonces : List NonceRec := []
  waiting : List Pb0Req := []
  resps : List DbgResp := []
  spdm : List SpdmResp := []
  ir : Byte := 0x01
  dbgacc : List Byte := []
  deriving DecidableEq, Repr

/-! ## Module hardware (spec/17) -/

/-- A module quiesce (R442-R445): whether the button holds it, whether the grace has ended, whether step 6 is reached, and the mesh cycle of
the starting event. The latch and STBY_EN hold it as they stand. -/
structure Quiesce where
  button : Bool
  graceOver : Bool
  safe : Bool
  start : Nat := 0
  deriving DecidableEq, Repr

/-- The pins and the state of the module's hardware. -/
structure Phys where
  addrSel : BitVec 3 := 0
  vin : Bool := true
  pwrEn : Bool := true
  pwrgd : Bool := true
  latchOpen : Bool := false
  stby : Bool := false
  quiesce : Option Quiesce := none
  returning : Bool := false
  thermtrip : Bool := false
  deriving DecidableEq, Repr

/-- What leaves the module (log 9): an MSI-X vector of a function, a frame on a link, or a trace record on lanes
12 to 15 of the root port, and an Unsupported Request completion at a root port or (none) at the endpoint. -/
inductive OutEvent where
  | msix (f : FnNo) (vector : BitVec 6)
  | frame (link : LinkNo) (bytes : List Byte)
  | trace (record : List Byte)
  | unsupported (port : Option (BitVec 2))
  deriving DecidableEq, Repr

/-- The R3 holding registers and shadows, by accessor and lower register. -/
structure WideRegs where
  hold : List ((Accessor × RegAddr) × Word) := []
  shadow : List ((Accessor × RegAddr) × Word) := []
  deriving DecidableEq, Repr

end Sys2Proof.Machine
end

