-- ==== Sys2Proof/Machine/State.lean ====
section
/-! DEFINITION. State: the whole module, the queue of waiting commands, and the reasons a command can stop. -/

namespace Sys2Proof.Machine

open Sys2Proof

/-- Why the model stops. Raised by a command that names a unit which the address map of the module does not have (R18, R21, R195):
a Camhar op or core event at a node that is no core node, a link event at a node that is no L node. Safe: no such command exists. -/
inductive Fault where
  | noSuchUnit
  deriving DecidableEq, Repr

/-- Why a command is turned away. `notModelled` is raised only by exec's arms for a command without a meaning. Safe. -/
inductive Refusal where
  | notModelled (mnemonic : String)
  deriving DecidableEq, Repr

/-- The state of the block. Cores and node sides are keyed by node number, courses by course number, links by link number; L nodes
by node number; controllers 0-31 are quarter-stacks, 32-47 far channels. `pending`, `mc`, `free`, `rdata`, `rbytes` and `outbox` are the
model's own: waiting commands, mesh cycles since reset (log 2), the index of the next free value (log 3), the value the last
register or aperture read returned, as a word and (`rbytes`) as all bytes of an aperture read, and what left the module (log 9). -/
structure State where
  pending : List Instr := []
  mc : Nat := 0
  free : Nat := 0
  rdata : DWord := 0
  rbytes : List Byte := []
  outbox : List OutEvent := []
  module : BitVec 16 := 0xFFFF
  cores : Map Core := []
  nodes : Map NodeIO := []
  ctls : Map MemCtl := []
  courses : Map Course := []
  links : Map Link := []
  lnodes : Map LNode := []
  rail : Rail := {}
  host : HostIf := {}
  emu : Emu := {}
  pb : Pegbox := {}
  pwr : Power := {}
  sec : Security := {}
  phys : Phys := {}
  wide : WideRegs := {}
  deriving DecidableEq, Repr

/-- The machine right after reset: every field at the default its declaration states. -/
def State.reset : State := {}

end Sys2Proof.Machine
end

