-- ==== Sys2Proof/Machine/Geometry.lean ====
section
/-! DEFINITION. The floorplan: coordinates, courses, node kinds, numbering of cores, links and far channels (spec/01). -/

namespace Sys2Proof.Machine

open Sys2Proof

/-- Mesh coordinates of a node number (R16). -/
def nodeX (n : Nat) : Nat := n % 40
def nodeY (n : Nat) : Nat := n / 40

/-- The node at (x, y). -/
def nodeAt (x y : Nat) : Nat := 40 * y + x

/-- The course that contains a node (R17). -/
def courseOf (n : Nat) : Nat := 8 * (nodeY n / 6) + nodeX n / 5

/-- Course coordinates (R17). -/
def courseX (c : Nat) : Nat := c % 8
def courseY (c : Nat) : Nat := c / 8

/-- The number 5·ly + lx of a node's course-local position. -/
def posOf (n : Nat) : Nat := 5 * (nodeY n % 6) + nodeX n % 5

/-- The node at a course-local position. -/
def nodeOfPos (c pos : Nat) : Nat := nodeAt (5 * courseX c + pos % 5) (6 * courseY c + pos / 5)

/-- Kinds of auxiliary port nodes (Table 1.1). -/
inductive AuxKind where
  | link | far | service
  deriving DecidableEq, Repr

/-- The F courses in course-number order (Table 1.1): place f is far index f. -/
def farCourses : List Nat := [1, 6, 8, 15, 19, 20, 26, 29]

/-- The S courses (Table 1.3): PCIe endpoint, root port, Pegbox, security node. -/
def serviceCourses : List Nat := [10, 13, 17, 22]

/-- The L courses in course-number order (Table 1.1): place i carries links 2i and 2i + 1. -/
def linkCourses : List Nat := [0, 2, 3, 4, 5, 7, 9, 11, 12, 14, 16, 18, 21, 23, 24, 25, 27, 28, 30, 31]

def auxKind (c : Nat) : AuxKind :=
  if farCourses.contains c then .far else if serviceCourses.contains c then .service else .link

/-- Node kinds (R18, R21). -/
inductive NodeKind where
  | core | hbm | link | far | service
  deriving DecidableEq, Repr

/-- Course-local positions of the HBM and auxiliary port nodes: (2, 1) and (2, 4). -/
def hbmPos : Nat := 7
def auxPos : Nat := 22

def nodeKind (n : Nat) : NodeKind :=
  if posOf n = hbmPos then .hbm
  else if posOf n = auxPos then
    match auxKind (courseOf n) with
    | .link => .link
    | .far => .far
    | .service => .service
  else .core

def isCore (n : Nat) : Bool := decide (nodeKind n = .core)

/-- The service nodes' numbers (Table 1.3). -/
def pcieNode : Nat := nodeAt 12 10
def rootNode : Nat := nodeAt 27 10
def pegboxNode : Nat := nodeAt 7 16
def securityNode : Nat := nodeAt 32 16

/-- The port nodes of a course. -/
def hbmNode (c : Nat) : Nat := nodeOfPos c hbmPos
def auxNode (c : Nat) : Nat := nodeOfPos c auxPos

/-- The place of an element in a list. -/
def placeOf (x : Nat) : List Nat → Option Nat
  | [] => none
  | y :: ys => if y = x then some 0 else (placeOf x ys).map (· + 1)

/-- The node that carries a link, and a link node's first link (R21). -/
def linkNode (l : Nat) : Nat := auxNode (linkCourses.getD (l / 2) 0)
def firstLink (n : Nat) : Option Nat := (placeOf (courseOf n) linkCourses).map (2 * ·)

/-- The link connector of a link, and the first of its four lanes there (R433). -/
def linkConnector (l : Nat) : Nat × Nat := (l / 2, 4 * (l % 2))

/-- The far index of an F node (R21). -/
def farIndex (c : Nat) : Option Nat := placeOf c farCourses

/-- The memory controllers of a node: an HBM port node has its course's quarter-stack (R23), an F node two far channels; far channel
j is controller 32 + j. -/
def ctlsOf (n : Nat) : List Nat :=
  match nodeKind n with
  | .hbm => [courseOf n]
  | .far => match farIndex (courseOf n) with
    | some f => [32 + 2 * f, 32 + 2 * f + 1]
    | none => []
  | _ => []

/-- The course positions that hold cores, in the order of R20. -/
def corePositions : List Nat := (List.range 30).filter fun p => decide (p ≠ hbmPos ∧ p ≠ auxPos)

/-- The course-local position of logical core i of a course with a spare position (R20). -/
def logicalPos (spare i : Nat) : Nat := (corePositions.filter fun p => decide (p ≠ spare)).getD i 0

/-- The logical index of a course-local position (R20); none for the spare and port nodes. -/
def logicalIndex (spare pos : Nat) : Option Nat := placeOf pos (corePositions.filter fun p => decide (p ≠ spare))

/-- Whether course c lies in the rectangle of corner courses. -/
def inRect (cx0 cy0 cx1 cy1 : Nat) (c : Nat) : Bool :=
  decide (cx0 ≤ courseX c ∧ courseX c ≤ cx1 ∧ cy0 ≤ courseY c ∧ courseY c ≤ cy1)

/-- The courses of a rectangle in course-number order. -/
def rectCourses (cx0 cy0 cx1 cy1 : Nat) : List Nat := (List.range 32).filter (inRect cx0 cy0 cx1 cy1)

/-- Hops of a minimal path (R286). -/
def hops (a b : Nat) : Nat :=
  (max (nodeX a) (nodeX b) - min (nodeX a) (nodeX b)) + (max (nodeY a) (nodeY b) - min (nodeY a) (nodeY b))

/-! ## Outcomes of commands that name a unit -/

/-- The outcome of a command of a core: the model stops where the node is no core node (log 1). -/
def atCore (n : NodeNo) (s' : State) : Host.Outcome State Fault Refusal :=
  if isCore n.val then .next s' else .fault .noSuchUnit

/-- The outcome of a command of an L node. -/
def atLink (n : NodeNo) (s' : State) : Host.Outcome State Fault Refusal :=
  if nodeKind n.val = .link then .next s' else .fault .noSuchUnit

/-- The outcome of a command of a memory controller's node. -/
def atMemory (n : NodeNo) (s' : State) : Host.Outcome State Fault Refusal :=
  if nodeKind n.val = .hbm ∨ nodeKind n.val = .far then .next s' else .fault .noSuchUnit

/-- The core of a scrubbed place, if it names one. -/
def scrubNode : ScrubPlace → Option NodeNo
  | .scratchpad n _ => some n
  | .imem n _ => some n
  | .tile n _ _ => some n
  | .acc n _ => some n
  | .tier1 .. => none
  | .tier2 .. => none
  | .cacheLine n _ _ => some n
  | .message n _ => some n
  | .burst n _ _ => some n
  | .linkBuffer _ => none
  | .pegbox _ => none

/-- Mesh cycles in a microsecond and in a second (R14). -/
def usMc : Nat := 1600
def secMc : Nat := 1600000000

/-- The step of an empty queue: one mesh cycle passes (log 2). -/
def tick (s : State) : State := { s with mc := s.mc + 1 }

end Sys2Proof.Machine
end

