-- ==== Sys2Proof/Machine/Maps.lean ====
section
/-! DEFINITION. Sparse maps in canonical form, lists as little-endian bytes, and bit fields: the helpers every operation uses. -/

namespace Sys2Proof.Machine

open Sys2Proof

variable {α : Type}

/-- The value at a key; d is what an unlisted key holds. -/
def mapGet (d : α) : Map α → Nat → α
  | [], _ => d
  | (k, v) :: m, i => if k = i then v else mapGet d m i

/-- The map without a key. -/
def mapDel : Map α → Nat → Map α
  | [], _ => []
  | (k, v) :: m, i => if k = i then mapDel m i else (k, v) :: mapDel m i

/-- The map with a listed entry at a key, in its place. -/
def mapPut : Map α → Nat → α → Map α
  | [], i, x => [(i, x)]
  | (k, v) :: m, i, x => if i < k then (i, x) :: (k, v) :: m else if k = i then (i, x) :: m else (k, v) :: mapPut m i x

/-- Writes a key: the default value removes the entry, so that equal maps are equal lists. -/
def mapSet [DecidableEq α] (d : α) (m : Map α) (i : Nat) (x : α) : Map α :=
  if x = d then mapDel m i else mapPut m i x

/-- Canonical form above a lower bound: keys strictly rising from lo, no entry equal to d. -/
def mapWfFrom [DecidableEq α] (d : α) : Nat → Map α → Bool
  | _, [] => true
  | lo, (k, v) :: m => decide (lo ≤ k) && decide (v ≠ d) && mapWfFrom d (k + 1) m

/-- Canonical form: keys strictly rising, no entry equal to d. -/
def mapWf [DecidableEq α] (d : α) (m : Map α) : Bool := mapWfFrom d 0 m

/-! ## Byte memories -/

/-- Memory contents in canonical form (an unlisted byte reads 0, log 5). -/
abbrev Memory.wf (m : Map Byte) : Bool := mapWf 0 m

/-- Memory contents in canonical form where an unlisted byte has a value of its own: keys strictly rising. -/
def Memory.listedWf (m : Map Byte) : Bool := mapWf none (m.map fun e => (e.1, some e.2))

/-- Reads n bytes from an offset. -/
def readBytes (m : Map Byte) (off n : Nat) : List Byte :=
  (List.range n).map fun i => mapGet 0 m (off + i)

/-- Writes bytes from an offset. -/
def writeBytes (m : Map Byte) : Nat → List Byte → Map Byte
  | _, [] => m
  | off, b :: bs => writeBytes (mapSet 0 m off b) (off + 1) bs

/-- Little-endian value of bytes (R134). -/
def leNat : List Byte → Nat
  | [] => 0
  | b :: bs => b.toNat + 256 * leNat bs

/-- n little-endian bytes of a value. -/
def leBytes : Nat → Nat → List Byte
  | 0, _ => []
  | n + 1, x => BitVec.ofNat 8 x :: leBytes n (x / 256)

/-- A w-bit value from little-endian bytes. -/
def leBits (w : Nat) (bs : List Byte) : BitVec w := BitVec.ofNat w (leNat bs)

/-- A list cut or zero-filled to n bytes. -/
def padTo (n : Nat) (bs : List Byte) : List Byte := bs.take n ++ List.replicate (n - bs.length) 0

/-- Word i of a list of little-endian bytes. -/
def wordAt (bs : List Byte) (i : Nat) : Word := leBits 32 ((bs.drop (4 * i)).take 4)

/-! ## Fields -/

/-- Bits hi:lo of a value, as a number. -/
def fieldOf {w : Nat} (x : BitVec w) (hi lo : Nat) : Nat := (x.toNat / 2 ^ lo) % 2 ^ (hi + 1 - lo)

/-- One bit of a value. -/
def bitOf {w : Nat} (x : BitVec w) (i : Nat) : Bool := x.getLsbD i

/-- A bit as a number. -/
def bn (b : Bool) : Nat := if b then 1 else 0

/-- A register word from fields given with their lowest bit. -/
def packWord (fs : List (Nat × Nat)) : Word :=
  BitVec.ofNat 32 (fs.foldl (fun a f => a + f.1 * 2 ^ f.2) 0)

/-- Sets or clears bit i of a value. -/
def setBit {w : Nat} (x : BitVec w) (i : Nat) (b : Bool) : BitVec w :=
  if b then x ||| (1#w <<< i) else x &&& ~~~(1#w <<< i)

/-- A count that saturates at the top of its field. -/
def satAdd {w : Nat} (x : BitVec w) (n : Nat) : BitVec w := BitVec.ofNat w (min (x.toNat + n) (2 ^ w - 1))

/-- ceil(a / b). -/
def ceilDiv (a b : Nat) : Nat := (a + b - 1) / b

/-- The first element that satisfies p, with its place. -/
def findWith (p : α → Bool) : List α → Option (Nat × α)
  | [] => none
  | x :: xs => if p x then some (0, x) else (findWith p xs).map fun r => (r.1 + 1, r.2)

/-- The list with the element at a place changed. -/
def modifyAt (f : α → α) : Nat → List α → List α
  | _, [] => []
  | 0, x :: xs => f x :: xs
  | n + 1, x :: xs => x :: modifyAt f n xs

/-- The list without its first element that satisfies p. -/
def removeFirst (p : α → Bool) : List α → List α
  | [] => []
  | x :: xs => if p x then xs else x :: removeFirst p xs

/-- The value of an association list at a key. -/
def assocGet {κ : Type} [DecidableEq κ] (k : κ) : List (κ × α) → Option α
  | [] => none
  | (k', v) :: m => if k' = k then some v else assocGet k m

/-- The association list with a key set. -/
def assocSet {κ : Type} [DecidableEq κ] (k : κ) (v : α) (m : List (κ × α)) : List (κ × α) :=
  (k, v) :: m.filter fun e => decide (e.1 ≠ k)

/-- The association list without a key. -/
def assocDel {κ : Type} [DecidableEq κ] (k : κ) (m : List (κ × α)) : List (κ × α) :=
  m.filter fun e => decide (e.1 ≠ k)

end Sys2Proof.Machine
end

