-- ==== Sys2Proof/Machine/Ops.lean ====
section
/-! DEFINITION. Named operations over State, cores, threads, memories and packets: every read and write of a register or memory
goes through them. -/

namespace Sys2Proof.Machine

open Sys2Proof

/-! ## Parts of State by number -/

def State.core (s : State) (n : Nat) : Core := mapGet {} s.cores n
def State.setCore (s : State) (n : Nat) (c : Core) : State := { s with cores := mapSet {} s.cores n c }
def State.modCore (s : State) (n : Nat) (f : Core → Core) : State := s.setCore n (f (s.core n))

def State.node (s : State) (n : Nat) : NodeIO := mapGet {} s.nodes n
def State.setNode (s : State) (n : Nat) (x : NodeIO) : State := { s with nodes := mapSet {} s.nodes n x }
def State.modNode (s : State) (n : Nat) (f : NodeIO → NodeIO) : State := s.setNode n (f (s.node n))

def State.ctl (s : State) (i : Nat) : MemCtl := mapGet {} s.ctls i
def State.setCtl (s : State) (i : Nat) (x : MemCtl) : State := { s with ctls := mapSet {} s.ctls i x }
def State.modCtl (s : State) (i : Nat) (f : MemCtl → MemCtl) : State := s.setCtl i (f (s.ctl i))

def State.course (s : State) (c : Nat) : Course := mapGet {} s.courses c
def State.setCourse (s : State) (c : Nat) (x : Course) : State := { s with courses := mapSet {} s.courses c x }
def State.modCourse (s : State) (c : Nat) (f : Course → Course) : State := s.setCourse c (f (s.course c))

def State.link (s : State) (l : Nat) : Link := mapGet {} s.links l
def State.setLink (s : State) (l : Nat) (x : Link) : State := { s with links := mapSet {} s.links l x }
def State.modLink (s : State) (l : Nat) (f : Link → Link) : State := s.setLink l (f (s.link l))

def State.lnode (s : State) (n : Nat) : LNode := mapGet {} s.lnodes n
def State.setLnode (s : State) (n : Nat) (x : LNode) : State := { s with lnodes := mapSet {} s.lnodes n x }

/-- A thread of a core. -/
def Core.thread (c : Core) (k : Nat) : Thread := mapGet {} c.threads k
def Core.setThread (c : Core) (k : Nat) (t : Thread) : Core := { c with threads := mapSet {} c.threads k t }
def Core.modThread (c : Core) (k : Nat) (f : Thread → Thread) : Core := c.setThread k (f (c.thread k))

def State.thread (s : State) (n k : Nat) : Thread := (s.core n).thread k
def State.setThread (s : State) (n k : Nat) (t : Thread) : State := s.setCore n ((s.core n).setThread k t)
def State.modThread (s : State) (n k : Nat) (f : Thread → Thread) : State := s.setThread n k (f (s.thread n k))

def Core.chan (c : Core) (i : Nat) : DmaChan := mapGet {} c.dma.chans i
def Core.setChan (c : Core) (i : Nat) (x : DmaChan) : Core :=
  { c with dma := { c.dma with chans := mapSet {} c.dma.chans i x } }

/-! ## Registers of a thread (R33, R79) -/

/-- g0 reads zero. -/
def Thread.getG (t : Thread) (r : GReg) : Word := if r = 0 then 0 else mapGet 0 t.g r.toNat
/-- g0 ignores writes. -/
def Thread.setG (t : Thread) (r : GReg) (v : Word) : Thread :=
  if r = 0 then t else { t with g := mapSet 0 t.g r.toNat v }
/-- p0 reads true. -/
def Thread.getP (t : Thread) (r : PReg) : Bool := if r = 0 then true else mapGet false t.p r.toNat
/-- p0 ignores writes. -/
def Thread.setP (t : Thread) (r : PReg) (v : Bool) : Thread :=
  if r = 0 then t else { t with p := mapSet false t.p r.toNat v }
def Thread.getS (t : Thread) (r : SReg) : Cap := mapGet {} t.s r.toNat
def Thread.setS (t : Thread) (r : SReg) (v : Cap) : Thread := { t with s := mapSet {} t.s r.toNat v }
def Thread.getV (t : Thread) (r : VReg) : Vec := mapGet 0 t.v r.toNat
def Thread.setV (t : Thread) (r : VReg) (v : Vec) : Thread := { t with v := mapSet 0 t.v r.toNat v }

/-- A pair holds bits 31:0 in the even register and bits 63:32 in the next; the pair of g0 reads zero (R79). -/
def Thread.getPair (t : Thread) (r : GReg) : DWord := if r = 0 then 0 else t.getG (r + 1) ++ t.getG r
/-- Writes to the pair of g0 are discarded: g1 is not written (R79). -/
def Thread.setPair (t : Thread) (r : GReg) (v : DWord) : Thread :=
  if r = 0 then t else (t.setG r (v.truncate 32)).setG (r + 1) ((v >>> 32).truncate 32)

/-! ## Time, regions and modules -/

/-- The 100 MHz timestamp (R98, Table 3.7): 16 mesh cycles to a tick (log 2). -/
def State.time (s : State) : DWord := BitVec.ofNat 64 (s.mc / 16)
def State.timeLo (s : State) : Word := BitVec.ofNat 32 (s.mc / 16)

/-- The region of a node's course (R297). -/
def State.regionOf (s : State) (n : Nat) : BitVec 5 := (s.course (courseOf n)).region

/-- Whether region r exists, and its courses in ascending number (R297, R302). -/
def State.regionCourses (s : State) (r : Nat) : List Nat :=
  (List.range 32).filter fun c => (s.course c).valid && decide ((s.course c).region.toNat = r)

/-- The rank p of a node's course in its region (R302). -/
def State.rankOf (s : State) (c : Nat) : Nat :=
  (placeOf c (s.regionCourses (s.course c).region.toNat)).getD 0

/-- A node that holds an exposed core: a core position that is not the spare of a course (R197, R301). -/
def State.exposed (s : State) (n : Nat) : Bool :=
  isCore n && decide (posOf n ≠ (s.course (courseOf n)).spare.toNat)

/-- The logical index of a core node (R20), 0 for the spare. -/
def State.logical (s : State) (n : Nat) : Nat :=
  (logicalIndex (s.course (courseOf n)).spare.toNat (posOf n)).getD 0

/-- The node of region core number i (R302). -/
def State.regionCore (s : State) (r i : Nat) : Option Nat :=
  match (s.regionCourses r)[i / 27]? with
  | some c => some (nodeOfPos c (logicalPos (s.course c).spare.toNat (i % 27)))
  | none => none

/-- The cores of a course that are exposed, in logical order. -/
def State.courseCores (s : State) (c : Nat) : List Nat :=
  ((corePositions.filter fun p => decide (p ≠ (s.course c).spare.toNat))).map (nodeOfPos c)

/-- The cores of a region by region core number (R302). -/
def State.regionCores (s : State) (r : Nat) : List Nat := (s.regionCourses r).flatMap s.courseCores

/-- The supervisor thread of a core (R36). -/
def Core.supvThread (c : Core) : Thread := c.thread c.ctl.supv.val

/-- MODULE with this module's own ID as 0xFFFF (R103, R318). -/
def State.normModule (s : State) (m : BitVec 16) : BitVec 16 := if m = s.module then 0xFFFF else m

/-! ## Free values (log 3) -/

/-- A free value of w bits, and the state after it is drawn. -/
def State.drawBits (s : State) (w : Nat) : BitVec w × State :=
  (Config.freeBits w s.free, { s with free := s.free + 1 })
def State.drawChoice (s : State) : Bool × State := (Config.freeChoice s.free, { s with free := s.free + 1 })
/-- A free count of 0 to m. -/
def State.drawUpTo (s : State) (m : Nat) : Word × State :=
  if m = 0 then (0, s) else (BitVec.ofNat 32 ((Config.freeCount s.free).toNat % (m + 1)), { s with free := s.free + 1 })
def State.drawCount (s : State) : Word × State := (Config.freeCount s.free, { s with free := s.free + 1 })

/-! ## Address map (Table 7.1, Table 7.2) -/

def scratchBase : Nat := 0x080000000000
def blockBase : Nat := 0x0F0000000000
def tier2Base : Nat := 0x010000000000
def tier1End : Nat := 0x006000000000
def scratchSize : Nat := 0x200000

/-- The device address of a core's scratchpad, and of a node block. -/
def scratchAddr (n : Nat) : Addr := BitVec.ofNat 48 (scratchBase + n * 0x400000)
def blockAddr (n : Nat) : Addr := BitVec.ofNat 48 (blockBase + n * 0x100000)

/-- The parts of the device address space (R195). -/
inductive Place where
  | tier1 (off : Nat)
  | tier2 (slot off : Nat)
  | scratch (n off : Nat)
  | block (n off : Nat)
  | unmapped
  deriving DecidableEq, Repr

def placeOfAddr (a : Addr) : Place :=
  let x := a.toNat
  if x < tier1End then .tier1 x
  else if tier2Base ≤ x ∧ x < 2 * tier2Base then .tier2 ((x - tier2Base) / 0x2000000000) ((x - tier2Base) % 0x2000000000)
  else if scratchBase ≤ x ∧ x < scratchBase + 960 * 0x400000 then
    let o := (x - scratchBase) % 0x400000
    if o < scratchSize then .scratch ((x - scratchBase) / 0x400000) o else .unmapped
  else if blockBase ≤ x ∧ x < blockBase + 960 * 0x100000 then
    .block ((x - blockBase) / 0x100000) ((x - blockBase) % 0x100000)
  else .unmapped

/-- Tier-1 interleave (R207): the course and the offset in its quarter-stack, for region r. -/
def State.tier1Map (s : State) (r : Nat) (a : Nat) : Option (Nat × Nat) :=
  let cs := s.regionCourses r
  let n := cs.length
  if a < n * 0x300000000 then
    match cs[(a / 4096) % n]? with
    | some c => some (c, (a / 4096 / n) * 4096 + a % 4096)
    | none => none
  else none

/-- Tier-2 placement (R209): the far course of a slot if region r owns it, with the far channel and its offset. -/
def State.tier2Map (s : State) (r slot off : Nat) : Option (Nat × Nat × Nat) :=
  match farCourses[slot]? with
  | some c =>
    if (s.regionCourses r).contains c then some (c, 2 * slot + (off / 4096) % 2, (off / 8192) * 4096 + off % 4096) else none
  | none => none

/-- The node whose scratchpad slot of 4 MiB holds an address. -/
def scratchSlot (a : Addr) : Option Nat :=
  let x := a.toNat
  if scratchBase ≤ x ∧ x < scratchBase + 960 * 0x400000 then some ((x - scratchBase) / 0x400000) else none

/-- The node that serves an address for traffic of region r; none where no node does (R195, R197, R207, R209). The unmapped upper 2 MiB of
an exposed core's slot is refused by that core (R205). -/
def State.serverOf (s : State) (r : Nat) (a : Addr) : Option Nat :=
  match placeOfAddr a with
  | .tier1 x => (s.tier1Map r x).map fun m => hbmNode m.1
  | .tier2 slot off => (s.tier2Map r slot off).map fun m => auxNode m.1
  | .scratch n _ => if s.exposed n then some n else none
  | .block n _ => if isCore n ∧ ¬ s.exposed n then none else some n
  | .unmapped => match scratchSlot a with
    | some n => if s.exposed n then some n else none
    | none => none

/-- The scratchpad offset of an access that lies wholly in core n's own scratchpad (R106). -/
def ownScratch (n : Nat) (a : Addr) (size : Nat) : Option Nat :=
  match placeOfAddr a with
  | .scratch m off => if m = n ∧ off + size ≤ scratchSize then some off else none
  | _ => none

/-- Whether an address falls in a core's instruction memory (R68, Table 7.2). -/
def inImem (a : Addr) : Bool :=
  match placeOfAddr a with
  | .block n off => isCore n && decide (off < 0x20000)
  | _ => false

/-- The offset in core n's own instruction memory (R69, R112). -/
def ownImem (n : Nat) (a : Addr) : Option Nat :=
  match placeOfAddr a with
  | .block m off => if m = n ∧ isCore n ∧ off < 0x20000 then some off else none
  | _ => none

/-! ## SRAM with ECC words of 8 bytes (R419, R422) -/

/-- The keys of the aligned u-byte words that n bytes at an offset touch. -/
def wordsOf (u off n : Nat) : List Nat :=
  if n = 0 then [] else (List.range ((off + n - 1) / u - off / u + 1)).map (off / u + ·)

/-- Whether a read of n bytes meets a poisoned word (R422). -/
def poisonedAt (u : Nat) (p : Map Bool) (off n : Nat) : Bool := (wordsOf u off n).any fun w => mapGet false p w

/-- Poison after a write of n bytes: a write of the whole ECC word clears it (R422). -/
def clearPoison (u : Nat) (p : Map Bool) (off n : Nat) : Map Bool :=
  (wordsOf u off n).foldl (fun p w => if off ≤ w * u ∧ w * u + u ≤ off + n then mapSet false p w false else p) p

/-- Every other write to any byte of a granule clears its tag (R106). -/
def clearTags (tags : Map Bool) (off n : Nat) : Map Bool :=
  (wordsOf 16 off n).foldl (fun t g => mapSet false t g false) tags

def CoreMem.readScratch (m : CoreMem) (off n : Nat) : List Byte := readBytes m.scratch off n

/-- A plain write to the scratchpad. -/
def CoreMem.writeScratch (m : CoreMem) (off : Nat) (bs : List Byte) : CoreMem :=
  { m with scratch := writeBytes m.scratch off bs, tags := clearTags m.tags off bs.length
           poison := clearPoison 8 m.poison off bs.length }

/-- A capability written with its tag (R106): granule off / 16. -/
def CoreMem.writeCap (m : CoreMem) (off : Nat) (c : Cap) : CoreMem :=
  let m' := m.writeScratch off (leBytes 16 c.bits.toNat)
  { m' with tags := mapSet false m'.tags (off / 16) c.tag }

def CoreMem.readCap (m : CoreMem) (off : Nat) : Cap :=
  { bits := leBits 128 (readBytes m.scratch off 16), tag := mapGet false m.tags (off / 16) }

def CoreMem.writeImem (m : CoreMem) (off : Nat) (bs : List Byte) : CoreMem :=
  { m with imem := writeBytes m.imem off bs, imemPoison := clearPoison 8 m.imemPoison off bs.length }

/-- Block b of instruction memory: 32 bytes (R44). -/
def CoreMem.imemBlock (m : CoreMem) (b : Nat) : List Byte := readBytes m.imem (b * 32) 32

/-- The op word at an instruction-memory offset (R40; little-endian, spec/03). -/
def CoreMem.opWord (m : CoreMem) (off : Nat) : Word := leBits 32 (readBytes m.imem off 4)

def Core.modMem (c : Core) (f : CoreMem → CoreMem) : Core := { c with mem := f c.mem }

/-- A thread's view of blocks that a DMA write is about to change: what they held stays fetchable until its ifence (R72). -/
def Thread.keepOld (t : Thread) (old : List (Nat × List Byte)) : Thread :=
  { t with stale := t.stale ++ old.filter fun e => ! t.stale.contains e }

/-- A DMA write to instruction memory (R72). -/
def Core.dmaImem (c : Core) (off : Nat) (bs : List Byte) : Core :=
  let old := (wordsOf 32 off bs.length).map fun b => (b, c.mem.imemBlock b)
  ((List.range 4).foldl (fun c k => c.modThread k (·.keepOld old)) c).modMem fun m => m.writeImem off bs

/-- After an istore a thread fetches afresh, and every block it may fetch holds the new word (R70). -/
def Thread.afterIstore (t : Thread) (off : Nat) (bs : List Byte) : Thread :=
  let put (e : Nat × List Byte) : Nat × List Byte :=
    if e.1 = off / 32 then (e.1, e.2.take (off % 32) ++ bs ++ e.2.drop (off % 32 + bs.length)) else e
  { t with fbuf := [], stale := t.stale.map put }

/-- An istore commits: the word is written and every fetch buffer is discarded (R70). -/
def Core.istore (c : Core) (off : Nat) (bs : List Byte) : Core :=
  ((List.range 4).foldl (fun c k => c.modThread k (·.afterIstore off bs)) c).modMem fun m => m.writeImem off bs

/-! ## Read cache (R210 to R216) -/

/-- Set of an address: A[13:7]; keys are set × 4 + way. -/
def cacheSet (a : Addr) : Nat := (a.toNat / 128) % 128
def lineAddr (a : Addr) : Addr := BitVec.ofNat 48 (a.toNat / 128 * 128)

def noLine : CacheLine := { addr := 0, data := [] }

def CoreMem.cacheWay (m : CoreMem) (a : Addr) : Option Nat :=
  (List.range 4).find? fun w =>
    decide ((mapGet noLine m.cache (cacheSet a * 4 + w)).data ≠ [] ∧
      (mapGet noLine m.cache (cacheSet a * 4 + w)).addr = lineAddr a)

/-- Pseudo-LRU on three bits: bit 0 chooses the half to replace, bits 1 and 2 the way within each half (R210; the manual names
pseudo-LRU and no tree, log 12). -/
def plruVictim (b : BitVec 3) : Nat :=
  if bitOf b 0 then (if bitOf b 2 then 3 else 2) else (if bitOf b 1 then 1 else 0)
def plruTouch (b : BitVec 3) (w : Nat) : BitVec 3 :=
  if w < 2 then setBit (setBit b 0 true) 1 (decide (w = 0)) else setBit (setBit b 0 false) 2 (decide (w = 2))

def CoreMem.touch (m : CoreMem) (a : Addr) (w : Nat) : CoreMem :=
  { m with plru := mapSet 0 m.plru (cacheSet a) (plruTouch (mapGet 0 m.plru (cacheSet a)) w) }

/-- Installs a line: a free way, else the pseudo-LRU victim. -/
def CoreMem.install (m : CoreMem) (a : Addr) (data : List Byte) : CoreMem :=
  let free := (List.range 4).find? fun w => decide ((mapGet noLine m.cache (cacheSet a * 4 + w)).data = [])
  let w := match m.cacheWay a with
    | some w => w
    | none => free.getD (plruVictim (mapGet 0 m.plru (cacheSet a)))
  ({ m with cache := mapSet noLine m.cache (cacheSet a * 4 + w) { addr := lineAddr a, data := data } }).touch a w

/-- A draining store updates its line if present (R212). -/
def CoreMem.updateLine (m : CoreMem) (a : Addr) (bs : List Byte) : CoreMem :=
  match m.cacheWay a with
  | none => m
  | some w =>
    let l := mapGet noLine m.cache (cacheSet a * 4 + w)
    let o := a.toNat % 128
    let l' : CacheLine := { l with data := l.data.take o ++ bs ++ l.data.drop (o + bs.length) }
    { m with cache := mapSet noLine m.cache (cacheSet a * 4 + w) l' }

/-- Drops the lines for which p holds. -/
def CoreMem.dropLines (m : CoreMem) (p : Addr → Bool) : CoreMem :=
  { m with cache := m.cache.filter fun e => ! p e.2.addr }

/-! ## Parts of the module -/

def modPwr (f : Power → Power) (s : State) : State := { s with pwr := f s.pwr }
def modPb (f : Pegbox → Pegbox) (s : State) : State := { s with pb := f s.pb }
def modEmu (f : Emu → Emu) (s : State) : State := { s with emu := f s.emu }

/-- Whether PBn runs. -/
def State.pbRuns (s : State) (n : Nat) : Bool := bitOf s.pb.run n

/-- Work of PBn, done at once where it runs; while it does not, it waits (R374). -/
def pbDoes (n : Nat) (w : PbWork) (act : State → State) (s : State) : State :=
  if s.pbRuns n then act s else modPb (fun b => { b with waiting := b.waiting ++ [w] }) s

/-! ## Power domains (Tables 14.3, 14.4) -/

/-- DOM_STAT at reset. -/
def domReset (d : Nat) : Dom := if d = 32 ∨ d = 33 ∨ d = 56 then { target := 0, state := 0 } else {}

def State.dom (s : State) (d : Nat) : Dom := mapGet (domReset d) s.pwr.doms d
def modDom (d : Nat) (f : Dom → Dom) (s : State) : State :=
  modPwr (fun p => { p with doms := mapSet (domReset d) p.doms d (f (mapGet (domReset d) p.doms d)) }) s

/-- The die of a node: 0 W, 1 E. -/
def dieOf (n : Nat) : Nat := nodeX n / 20

/-- Whether the die mesh that holds a node's router has its clock (R26, Table 14.4). -/
def State.meshUp (s : State) (n : Nat) : Bool := decide ((s.dom (32 + dieOf n)).state.toNat ≤ 1)

/-! ## Packets -/

/-- KIND codes (Table 10.2). -/
def kWrite : BitVec 5 := 0
def kRedF32 : BitVec 5 := 1
def kRedBf16 : BitVec 5 := 2
def kRead : BitVec 5 := 3
def kReadStrided : BitVec 5 := 4
def kReadTransposed : BitVec 5 := 5
def kAtomic : BitVec 5 := 6
def kRdb : BitVec 5 := 7
def kData : BitVec 5 := 8
def kRspErr : BitVec 5 := 9
def kAck : BitVec 5 := 0xA
def kNack : BitVec 5 := 0xB
def kFinc : BitVec 5 := 0xC
def kMsg : BitVec 5 := 0xD
def kCancel : BitVec 5 := 0xE

/-- The payload of an RDB that asks for one test of its condition (R98; layout log 8). -/
def onceMark : List Byte := padTo 16 [1]

/-- CLASS codes (Table 10.1). -/
def clsCtrl : BitVec 2 := 0
def clsReq : BitVec 2 := 1
def clsRsp : BitVec 2 := 2
def clsBulk : BitVec 2 := 3

/-- Refusal kinds (Tables 7.3, 11.7) and FULL (R264). -/
def refWindow : BitVec 3 := 1
def refUnmapped : BitVec 3 := 2
def refDestLost : BitVec 3 := 3
def refLinkDown : BitVec 3 := 4
def refFull : BitVec 3 := 5

def isCtrl (h : Header) : Bool := decide (h.cls = clsCtrl)

/-- A packet reaches its node's local side: CTRL packets the control list, others the receive list. -/
def NodeIO.deliver (x : NodeIO) (p : Packet) : NodeIO :=
  if isCtrl p.h then { x with ctrl := x.ctrl ++ [p] } else { x with rx := x.rx ++ [p] }

/-- A node sends a packet: one for its own node takes no mesh path (log 13); others wait at the source to enter the router. -/
def State.send (s : State) (p : Packet) : State :=
  let n := p.h.snode.toNat
  if p.h.dnode = p.h.snode then s.modNode n (·.deliver p)
  else s.modNode n fun x => { x with out := x.out ++ [p] }

/-- The LEN field of a payload of n bytes. -/
def lenOf (n : Nat) : Byte := BitVec.ofNat 8 (ceilDiv n 16)

/-- 16-byte payload whose first byte is a refusal kind. -/
def kindPayload (k : BitVec 3) : List Byte := padTo 16 [k.zeroExtend 8]

/-- The answer of node n to a request packet: same TAG and REGION, to its source. -/
def replyTo (n : Nat) (p : Packet) (kind : BitVec 5) (cls : BitVec 2) (data : List Byte) : Packet :=
  { h := { module := 0xFFFF, addr := p.h.addr, dnode := p.h.snode, snode := BitVec.ofNat 10 n, region := p.h.region, cls := cls
           kind := kind, len := lenOf data.length, tag := p.h.tag }
    data := data }

def ackOf (n : Nat) (p : Packet) : Packet := replyTo n p kAck clsCtrl []
def nackOf (n : Nat) (p : Packet) (k : BitVec 3) : Packet := replyTo n p kNack clsCtrl (kindPayload k)
def dataOf (n : Nat) (p : Packet) (bs : List Byte) : Packet := replyTo n p kData clsRsp bs
def rspErrOf (n : Nat) (p : Packet) (k : BitVec 3) : Packet := replyTo n p kRspErr clsRsp (kindPayload k)

/-- The refusal of a packet by node n: RSP_ERR for what awaits a response, NACK for the rest (R205, Table 10.2). -/
def refusalOf (n : Nat) (p : Packet) (k : BitVec 3) : Packet :=
  if p.h.kind = kRead ∨ p.h.kind = kReadStrided ∨ p.h.kind = kReadTransposed ∨ p.h.kind = kAtomic ∨ p.h.kind = kRdb
  then rspErrOf n p k else nackOf n p k

/-- A RSP_ERR of a poisoned word: kind 7 in byte 0 and the structure code in byte 1 (R423; log 8). -/
def poisonedOf (n : Nat) (p : Packet) (structure_ : Nat) : Packet :=
  replyTo n p kRspErr clsRsp (padTo 16 [7, BitVec.ofNat 8 structure_])

/-- The lowest TAG that no request of the core holds. -/
def Core.freeTag (c : Core) : Option (BitVec 10) :=
  let used := c.reqs.map fun r => r.1.toNat
  ((List.range 1024).find? fun i => ! used.contains i).map (BitVec.ofNat 10)

/-- Where core n sends a request for an address in a module and region, or the refusal it meets at once: a link-bound one goes to the
steering node (R318, R319), one of this module to the node that serves it. -/
def State.destOf (s : State) (n : Nat) (module : BitVec 16) (region : BitVec 6) (a : Addr) :
    Except (BitVec 3) (BitVec 10 × BitVec 16) :=
  if s.normModule module ≠ 0xFFFF then
    let ctl := (s.core n).ctl
    if ctl.gwValid then .ok (ctl.gwNode, module) else .error refUnmapped
  else
    match s.serverOf region.toNat a with
    | some d => .ok (BitVec.ofNat 10 d, 0xFFFF)
    | none => .error refUnmapped

/-- A request packet of core n. -/
def reqPacket (n : Nat) (dst : BitVec 10 × BitVec 16) (region : BitVec 6) (a : Addr) (kind : BitVec 5) (cls : BitVec 2)
    (tag : BitVec 10) (data : List Byte) : Packet :=
  { h := { module := dst.2, addr := a, dnode := dst.1, snode := BitVec.ofNat 10 n, region := region, cls := cls, kind := kind
           len := lenOf data.length, tag := tag }
    data := data }

/-- What a request's TAG is recorded in, when it goes out: the withdrawn load or the rdb of its thread (R50, R273). -/
def Thread.tagged (t : Thread) (tag : BitVec 10) : ReqKind → Thread
  | .load _ => { t with load := t.load.map fun w => { w with tag := some tag } }
  | .rdb _ _ => { t with wait := t.wait.map fun w => match w.kind with
      | .rdb gd _ m r a => { w with kind := .rdb gd (some tag) m r a }
      | _ => w }
  | _ => t

/-- The thread whose load or rdb a request is. -/
def ReqKind.waiter : ReqKind → Option ThreadNo
  | .load k => some k
  | .rdb k _ => some k
  | _ => none

/-- A request of core n leaves under a TAG. -/
def State.sendTagged (s : State) (n : Nat) (kind : ReqKind) (tag : BitVec 10) (p : Packet) : State :=
  let s1 := s.modCore n fun c =>
    let c1 := match kind.waiter with
      | some k => c.modThread k.val (·.tagged tag kind)
      | none => c
    { c1 with reqs := c1.reqs ++ [(tag, kind)] }
  s1.send { p with h := { p.h with tag := tag, snode := BitVec.ofNat 10 n } }

/-- A request of core n leaves under the lowest free TAG, or waits for one (Table 10.1). -/
def State.request (s : State) (n : Nat) (kind : ReqKind) (p : Packet) : State :=
  match (s.core n).freeTag with
  | some tag => s.sendTagged n kind tag p
  | none => s.modCore n fun c => { c with tagQueue := c.tagQueue ++ [(kind, p)] }

/-- Requests that waited for a TAG leave, in order, while one is free. -/
def pumpTags (n : Nat) : Nat → State → State
  | 0, s => s
  | m + 1, s =>
    match (s.core n).tagQueue, (s.core n).freeTag with
    | (kind, p) :: r, some tag => pumpTags n m ((s.modCore n fun c => { c with tagQueue := r }).sendTagged n kind tag p)
    | _, _ => s

/-! ## Health events (R354, R425) -/

/-- Raises a health event: counted in HEALTH_CNT, and queued for PB2, up to 4,096 (R354, R371). -/
def State.health (s : State) (e : HEvent) : State :=
  let emu := { s.emu with healthCnt := s.emu.healthCnt + 1 }
  if s.pb.events.length < 4096 then { s with emu := emu, pb := { s.pb with events := s.pb.events ++ [e] } }
  else { s with emu := emu, pb := { s.pb with dropped := s.pb.dropped + 1 } }

/-- The HEALTH_EVENT ECC record (Table 16.3). -/
def eccRecord (s : State) (structure_ kind index : Nat) (uncorr : Bool) (addr : Nat) : List Byte :=
  [BitVec.ofNat 8 structure_, BitVec.ofNat 8 kind, BitVec.ofNat 8 index, BitVec.ofNat 8 (bn uncorr)]
    ++ leBytes 8 addr ++ leBytes 4 s.timeLo.toNat

/-- Counts an uncorrectable error of a core's SRAM and raises its event (R424, R425). -/
def State.coreEcc (s : State) (n structure_ : Nat) (addr : Nat) : State :=
  let s1 := s.modCore n fun c =>
    { c with ctl := { c.ctl with eccLast := BitVec.ofNat 4 structure_, eccUncorr := satAdd c.ctl.eccUncorr 1 } }
  let c := courseOf n
  let inst := mapGet {} s1.emu.insts c
  let s2 := { s1 with emu := { s1.emu with insts := mapSet {} s1.emu.insts c { inst with uncorr := satAdd inst.uncorr 1 } } }
  s2.health { code := 6, record := eccRecord s structure_ 0 c true addr, region := if (s.course c).valid then some (s.regionOf n) else none }

/-- Counts a corrected error of a core's SRAM (R424). -/
def State.coreCorr (s : State) (n : Nat) : State :=
  let s1 := s.modCore n fun c => { c with ctl := { c.ctl with eccCorr := satAdd c.ctl.eccCorr 1 } }
  let c := courseOf n
  let inst := mapGet {} s1.emu.insts c
  { s1 with emu := { s1.emu with insts := mapSet {} s1.emu.insts c { inst with corr := satAdd inst.corr 1 } } }

/-- Runs f over a list, the state passed through. -/
def foldState {α : Type} (f : α → State → State) : List α → State → State
  | [], s => s
  | x :: xs, s => foldState f xs (f x s)

/-- The delay after a further FULL refusal: 32 mc, doubling up to 1,024 (R265). -/
def nextDelay (d : Nat) : Nat := if d = 0 then 32 else min (2 * d) 1024

/-! ## Sessions and trace (R404, R408, R415) -/

def modSec (f : Security → Security) (s : State) : State := { s with sec := f s.sec }

/-- Sessions on a region (R408). -/
def onRegion (r : Nat) (e : Session) : Bool := match e.region with
  | some x => decide (x.val = r)
  | none => false

/-- Whether a session's lifetime still runs (R408). -/
def State.live (s : State) (e : Session) : Bool := match e.ends with
  | some t => decide (s.mc < t)
  | none => true

/-- The region of a core's course, if it has one. -/
def nodeRegion (s : State) (n : Nat) : Option Nat := if (s.course (courseOf n)).valid then some (s.regionOf n).toNat else none

/-- Whether a core is traced: of TRACE_CTL.REGION under DBG-TENANT, any under DBG-FULL. -/
def traced (s : State) (n : Nat) : Bool :=
  s.sec.traceEn && s.sec.sessions.any fun e => s.live e &&
    (decide (e.level = 3) || (decide (e.level = 2) && onRegion s.sec.traceRegion.toNat e && decide (nodeRegion s n = some s.sec.traceRegion.toNat)))

/-- A taken branch, or a fault record, of a traced core makes a trace record (R415). -/
def traceEvent (fault : Bool) (n : Nat) (k : ThreadNo) (addr : Word) (s : State) : State :=
  if traced s n then
    modSec (fun x => { x with traceDue := x.traceDue ++ [{ fault := fault, node := n, thread := k, addr := addr, time := s.timeLo }] }) s
  else s

/-! ## Register fields -/

/-- One field of a write under R8, R11 and R12: its value afterwards, whether its lock refused it, and whether the running block did. -/
def fieldWrite {α : Type} [DecidableEq α] (locked running : Bool) (old new : α) : α × Bool × Bool :=
  if new = old then (old, false, false) else if locked then (old, true, false) else if running then (old, false, true) else (new, false, false)

end Sys2Proof.Machine
end

