-- ==== Sys2Proof/Machine/Caps.lean ====
section
/-! DEFINITION. Capabilities: fields, the access checks of Table 4.3, derivation (R110), and fault codes and detail words (R119,
R122). -/

namespace Sys2Proof.Machine

open Sys2Proof

/-- A fault: its code (Table 4.7) and detail word (Table 4.9). -/
structure FaultInfo where
  code : Byte
  detail : Word
  deriving DecidableEq, Repr

/-! ## Fault codes (Table 4.7) -/

def fIllegal : Byte := 0x01
def fTag : Byte := 0x02
def fBounds : Byte := 0x03
def fPerm : Byte := 0x04
def fSealed : Byte := 0x05
def fAlign : Byte := 0x06
def fDivZero : Byte := 0x07
def fOverflow : Byte := 0x08
def fAccRange : Byte := 0x09
def fTileCfg : Byte := 0x0A
def fFmt : Byte := 0x0B
def fEcc : Byte := 0x0C
def fChan : Byte := 0x0D
def fFret : Byte := 0x0E

/-- Detail of 0x02-0x05: register 3:0, slot class 6:4, cause 11:8. -/
def capFault (code : Byte) (reg cls cause : Nat) : FaultInfo := { code := code, detail := packWord [(reg, 0), (cls, 4), (cause, 8)] }
def alignFault (cls : Nat) : FaultInfo := { code := fAlign, detail := packWord [(cls, 4)] }
def eccFault (structure_ : Nat) : FaultInfo := { code := fEcc, detail := packWord [(structure_, 0)] }
/-- Detail of 0x07 and 0x08: slot class 6:4, lowest faulting lane 15:8. -/
def laneFault (code : Byte) (cls lane : Nat) : FaultInfo := { code := code, detail := packWord [(cls, 4), (lane, 8)] }
/-- Detail of 0x0A and 0x0B: tile 3:0, reason 11:8. -/
def tileFault (code : Byte) (tile reason : Nat) : FaultInfo := { code := code, detail := packWord [(tile, 0), (reason, 8)] }
/-- Detail of 0x0D: channel 3:0, reason 6:4. -/
def chanFault (chan reason : Nat) : FaultInfo := { code := fChan, detail := packWord [(chan, 0), (reason, 4)] }
def fretFault (f : Nat) : FaultInfo := { code := fFret, detail := packWord [(f, 0)] }
def illegal (d : Nat) : FaultInfo := { code := fIllegal, detail := packWord [(d, 0)] }

/-! ## Fields (Table 4.1) -/

def Cap.base (c : Cap) : Addr := c.bits.truncate 48
def Cap.limit (c : Cap) : Word := (c.bits >>> 48).truncate 32
def Cap.module (c : Cap) : BitVec 16 := (c.bits >>> 80).truncate 16
def Cap.perm (c : Cap) : BitVec 12 := (c.bits >>> 96).truncate 12
def Cap.otype (c : Cap) : Byte := (c.bits >>> 108).truncate 8
def Cap.region (c : Cap) : BitVec 6 := (c.bits >>> 116).truncate 6
def Cap.resv (c : Cap) : BitVec 6 := (c.bits >>> 122).truncate 6

/-- A capability from its fields. -/
def mkCap (tag : Bool) (base : Addr) (limit : Word) (module : BitVec 16) (perm : BitVec 12) (otype : Byte) (region : BitVec 6) : Cap :=
  { bits := (0 : BitVec 6) ++ region ++ otype ++ perm ++ module ++ limit ++ base, tag := tag }

/-- A capability with a non-zero reserved bit is treated as tagless (Table 4.1). -/
def Cap.tagged (c : Cap) : Bool := c.tag && decide (c.resv = 0)
def Cap.sealed_ (c : Cap) : Bool := decide (c.otype ≠ 0)
def Cap.has (c : Cap) (b : Nat) : Bool := bitOf c.perm b

def Cap.withBaseLimit (c : Cap) (base : Addr) (limit : Word) : Cap :=
  { c with bits := (c.bits &&& ~~~(BitVec.ofNat 128 (2 ^ 80 - 1))) ||| (limit ++ base).zeroExtend 128 }
def Cap.withPerm (c : Cap) (p : BitVec 12) : Cap :=
  { c with bits := (c.bits &&& ~~~(BitVec.ofNat 128 (0xFFF * 2 ^ 96))) ||| (p.zeroExtend 128 <<< 96) }
def Cap.withOtype (c : Cap) (o : Byte) : Cap :=
  { c with bits := (c.bits &&& ~~~(BitVec.ofNat 128 (0xFF * 2 ^ 108))) ||| (o.zeroExtend 128 <<< 108) }

/-! Permission bits (Table 4.2). -/
def pR : Nat := 0
def pW : Nat := 1
def pX : Nat := 2
def pLdcap : Nat := 3
def pStcap : Nat := 4
def pAtomic : Nat := 5
def pDma : Nat := 6
def pRemote : Nat := 7
def pVolatile : Nat := 8
def pSeal : Nat := 9
def pUnseal : Nat := 10
def pGate : Nat := 11

/-- PERM from the list of permission bits. -/
def permOf (bs : List Nat) : BitVec 12 := BitVec.ofNat 12 (bs.foldl (fun a b => a + 2 ^ b) 0)

/-- A type key carries SEAL, UNSEAL or both (R110). -/
def Cap.isKey (c : Cap) : Bool := ! c.sealed_ && (c.has pSeal || c.has pUnseal)
def Cap.keyType (c : Cap) : Byte := c.bits.truncate 8
def Cap.keyMask (c : Cap) : Byte := (c.bits >>> 8).truncate 8

/-- Whose access is checked: this module's ID and the thread's region (Table 4.3 steps 3 and 4). -/
structure Domain where
  module : BitVec 16
  region : BitVec 5
  deriving DecidableEq, Repr

/-- MODULE names this module: 0xFFFF or its own ID (Table 4.1). -/
def Cap.isLocal (c : Cap) (d : Domain) : Bool := decide (c.module = 0xFFFF ∨ c.module = d.module)
/-- REGION differs from the region; 32-63 always do (Table 4.1). -/
def Cap.foreign (c : Cap) (d : Domain) : Bool := decide (c.region ≠ d.region.zeroExtend 6)

/-- The lowest-numbered permission of the list that is absent. -/
def Cap.absent (c : Cap) (ps : List Nat) : Option Nat := (List.range 12).find? fun b => ps.contains b && ! c.has b

/-- Steps 1 to 5 of Table 4.3. -/
def checkRights (c : Cap) (d : Domain) (reg cls : Nat) (ps : List Nat) : Option FaultInfo :=
  if ! c.tagged then some (capFault fTag reg cls 0)
  else if c.sealed_ then some (capFault fSealed reg cls 0)
  else if c.isLocal d && c.foreign d then some (capFault fPerm reg cls 12)
  else if ! c.isLocal d && ! c.has pRemote then some (capFault fPerm reg cls 7)
  else match c.absent ps with
    | some b => some (capFault fPerm reg cls b)
    | none => none

/-- Steps 7 and 8 of Table 4.3: bounds in 33 bits, then alignment of BASE + offset (R108). -/
def checkRange (c : Cap) (reg cls : Nat) (off size unit : Nat) : Option FaultInfo :=
  if off + size > c.limit.toNat + 1 then some (capFault fBounds reg cls 0)
  else if (c.base.toNat + off) % unit ≠ 0 then some (alignFault cls)
  else none

/-- The device address BASE + offset. -/
def Cap.addrAt (c : Cap) (off : Nat) : Addr := c.base + BitVec.ofNat 48 off

/-- All the checks of an access (Table 4.3); `op` is step 6: the cause of an op-specific refusal. -/
def checkAccess (c : Cap) (d : Domain) (reg cls : Nat) (ps : List Nat) (op : Option Nat) (off size unit : Nat) : Option FaultInfo :=
  match checkRights c d reg cls ps with
  | some f => some f
  | none => match op with
    | some cause => some (capFault fPerm reg cls cause)
    | none => checkRange c reg cls off size unit

/-! ## Derivation (Table 4.4) -/

def capSub (c : Cap) (reg : Nat) (ga gb : Word) : Except FaultInfo Cap :=
  if ! c.tagged then .error (capFault fTag reg 1 0)
  else if c.sealed_ then .error (capFault fSealed reg 1 0)
  else if c.isKey then .error (capFault fPerm reg 1 9)
  else if ga.toNat + gb.toNat > c.limit.toNat then .error (capFault fBounds reg 1 0)
  else .ok (c.withBaseLimit (c.base + ga.zeroExtend 48) gb)

def capPerm (c : Cap) (reg : Nat) (ga : Word) : Except FaultInfo Cap :=
  if ! c.tagged then .error (capFault fTag reg 1 0)
  else if c.sealed_ then .error (capFault fSealed reg 1 0)
  else .ok (c.withPerm (c.perm &&& ga.truncate 12))

def capBind (a b : Cap) (ra rb : Nat) (d : Domain) : Except FaultInfo Cap :=
  if ! a.tagged then .error (capFault fTag ra 1 0)
  else if ! b.tagged then .error (capFault fTag rb 1 0)
  else if a.sealed_ then .error (capFault fSealed ra 1 0)
  else if b.sealed_ then .error (capFault fSealed rb 1 0)
  else if ! b.has pSeal then .error (capFault fPerm rb 1 9)
  else if b.foreign d then .error (capFault fPerm rb 1 12)
  else if b.keyMask ≠ 0 ∨ b.keyType < 0x10 then .error (capFault fBounds rb 1 4)
  else .ok (a.withOtype b.keyType)

/-- The key covers type u (R110). -/
def Cap.covers (key : Cap) (u : Byte) : Bool := decide (u &&& ~~~key.keyMask = key.keyType &&& ~~~key.keyMask)

def capFree (a b : Cap) (ra rb : Nat) (d : Domain) : Except FaultInfo Cap :=
  if ! a.tagged then .error (capFault fTag ra 1 0)
  else if ! b.tagged then .error (capFault fTag rb 1 0)
  else if a.otype < 0x10 then .error (capFault fSealed ra 1 1)
  else if b.sealed_ then .error (capFault fSealed rb 1 0)
  else if ! b.isKey then .error (capFault fPerm rb 1 9)
  else if ! b.has pUnseal then .error (capFault fPerm rb 1 10)
  else if b.foreign d then .error (capFault fPerm rb 1 12)
  else if ! b.covers a.otype then .error (capFault fBounds rb 1 4)
  else .ok (a.withOtype 0)

def capKey (c : Cap) (reg : Nat) (ga : Word) : Except FaultInfo Cap :=
  let ty : Byte := ga.truncate 8
  let mask : Byte := (ga >>> 8).truncate 8
  if ! c.tagged then .error (capFault fTag reg 1 0)
  else if c.sealed_ then .error (capFault fSealed reg 1 0)
  else if ! c.isKey then .error (capFault fPerm reg 1 9)
  else if ga >>> 16 ≠ 0 ∨ mask &&& ~~~c.keyMask ≠ 0 ∨ (ty ^^^ c.keyType) &&& ~~~c.keyMask ≠ 0 then .error (capFault fBounds reg 1 4)
  else .ok (c.withBaseLimit ((ga &&& 0xFFFF).zeroExtend 48) c.limit)

/-- The field of cget (Table 3.6, OPC 0x1E). -/
def capField (c : Cap) (f : Nat) : Word :=
  match f with
  | 0 => c.base.truncate 32
  | 1 => (c.base >>> 32).zeroExtend 32
  | 2 => c.limit
  | 3 => c.module.zeroExtend 32
  | 4 => c.perm.zeroExtend 32
  | 5 => c.otype.zeroExtend 32
  | 6 => c.region.zeroExtend 32
  | _ => BitVec.ofNat 32 (bn c.tagged)

/-- cwsr of FAULT_GATE or FAULT_GDATA: a tagless value, or one of the thread's region (Table 4.4). -/
def capSpecial (c : Cap) (reg : Nat) (d : Domain) : Except FaultInfo Cap :=
  if c.tagged && c.foreign d then .error (capFault fPerm reg 1 12) else .ok c

/-! ## Gates (R112 to R116) -/

/-- The checks that callg and handler entry make on the pair (R115), before ESC and GDEPTH; ra and rb name the registers. -/
def gateCheck (a b : Cap) (ra rb : Nat) (d : Domain) (n : Nat) : Option FaultInfo :=
  if ! a.tagged then some (capFault fTag ra 3 0)
  else if a.isLocal d && a.foreign d then some (capFault fPerm ra 3 12)
  else match a.absent [pX, pGate] with
    | some p => some (capFault fPerm ra 3 p)
    | none =>
      if a.otype < 0x10 then some (capFault fSealed ra 3 1)
      else match ownImem n a.base with
        | none => some (capFault fPerm ra 3 15)
        | some off =>
          if off % 4 ≠ 0 then some (alignFault 3)
          else if ! b.tagged then some (capFault fTag rb 3 0)
          else if b.isLocal d && b.foreign d then some (capFault fPerm rb 3 12)
          else if b.otype ≠ a.otype then some (capFault fSealed rb 3 1)
          else none

/-- A return capability (Table 4.6). -/
def returnCap (n : Nat) (off : Word) (fframe savedTh : Bool) (region : BitVec 5) : Cap :=
  mkCap true (blockAddr n + off.zeroExtend 48) (BitVec.ofNat 32 (bn fframe + 2 * bn savedTh)) 0xFFFF (permOf [pX]) 1 (region.zeroExtend 6)

/-- The scratchpad offset of frame d of thread k's gate stack (R113, R114). -/
def frameOff (k d : Nat) : Nat := 0x1FE000 + 512 * k + 32 * d

/-- GSTACK of thread k of core n (R113). -/
def gstackCap (n k : Nat) (region : BitVec 5) : Cap :=
  mkCap true (scratchAddr n + BitVec.ofNat 48 (0x1FE000 + 512 * k)) 511 0xFFFF 0 0 (region.zeroExtend 6)

end Sys2Proof.Machine
end

