-- ==== Sys2Proof/Machine/Operands.lean ====
section
/-! DEFINITION. Bundles, slots, operand forms and extensions (R40, R80, R81, R86), destinations of ops (R41), and what an op needs
from the coprocessors (R45). -/

namespace Sys2Proof

def Src2.isImm : Src2 → Bool
  | .imm _ => true
  | .reg _ => false

def LsOff.isImm : LsOff → Bool
  | .imm _ => true
  | .reg _ => false

def LdFn.size : LdFn → Nat
  | .b | .bu => 1
  | .h | .hu => 2
  | .w | .vw => 4
  | .d | .vd => 8
  | .c => 16
  | .v => 64

def StFn.size : StFn → Nat
  | .b => 1
  | .h => 2
  | .w => 4
  | .d => 8
  | .c => 16
  | .v => 64

def AmoFn.size : AmoFn → Nat
  | .addW | .minW | .maxW | .swapW | .casW | .faddF32 => 4
  | .addD | .minD | .maxD | .swapD | .casD => 8
  | .faddBf16 => 2

def Src2.regs : Src2 → List GReg
  | .reg r => [r]
  | .imm _ => []
def LsOff.regs : LsOff → List GReg
  | .reg r => [r]
  | .imm _ => []

end Sys2Proof

namespace Sys2Proof.Machine

open Sys2Proof

/-- A slot of a bundle: class, condition, the op or the detail code of an undefined opcode (Table 2.8), and whether its word breaks a
rule of its op (detail 0x7). -/
structure Slot where
  cls : Nat
  psense : Bool
  psel : PReg
  op : Except Nat Op
  broken : Bool := false
  ext : BitVec 24

/-- A bundle: its offset, its slots in order, and whether the eighth op lacked a stop bit. -/
structure Bundle where
  addr : Word
  slots : List Slot
  noStop : Bool

/-- Class 7. -/
def clsExt : Nat := 7

/-- The slot class of an op given as a command: ALU-A where Table 3.5 has it, else the class of its table. -/
def opClass : Op → Nat
  | .alu f _ _ _ => match f with
    | .mul | .mulh | .mulhu | .mulO | .div | .divu | .rem | .remu => 1
    | _ => 0
  | .cmp .. | .pred .. => 0
  | .pair .. | .mulwD .. | .rsr .. | .wsr .. | .crsr .. | .cwsr .. | .csub .. | .cperm .. | .cbind .. | .cfree .. | .ckey ..
  | .cget .. | .cmov .. => 1
  | .load .. | .store .. | .acq .. | .acqAll | .amo .. => 2
  | .br .. | .bl .. | .jr .. | .jrl .. | .callg .. | .retg | .exit => 3
  | .vec .. | .vbcast .. | .vext .. | .vins .. => 4
  | .mat .. => 5
  | .finc .. | .fincI .. | .fincR .. | .fwait .. | .fread .. | .send .. | .waitd .. | .retd | .rdb .. | .istore .. | .ifence
  | .dmaStart .. | .dmaWr .. | .dmaRd .. => 6

/-- Column X of the op tables: whether the op takes an extension (R80). -/
def takesExt : Op → Bool
  | .alu f _ _ b => b.isImm && decide (f ≠ .clz ∧ f ≠ .popc)
  | .cmp _ _ _ b => b.isImm
  | .pair _ _ _ b => b.isImm
  | .load _ _ _ o => o.isImm
  | .store _ _ _ o => o.isImm
  | .amo _ _ _ o => o.isImm
  | .fwait .. | .waitd .. | .rdb .. => true
  | .mat (.mma _ _ _ _ z _) => decide (z = 1)
  | _ => false

/-- HI24 of the bundle's EXT op. -/
def Bundle.extOf (b : Bundle) : Option (BitVec 24) :=
  (b.slots.find? fun s => decide (s.cls = clsExt)).map (·.ext)

/-- The slot that the EXT op extends: the lowest class that takes an extension (R80). -/
def Bundle.extended (b : Bundle) : Option Nat :=
  (b.slots.find? fun s => match s.op with
    | .ok o => decide (s.cls ≠ clsExt) && takesExt o
    | .error _ => false).map (·.cls)

/-- The extension that a slot's op has. -/
def Bundle.extFor (b : Bundle) (s : Slot) : Option (BitVec 24) :=
  if b.extended = some s.cls then b.extOf else none

/-- The value of an IMM8 field (R81). -/
def immValue (x : Option (BitVec 24)) (i : Byte) : Word :=
  match x with
  | none => i.signExtend 32
  | some h => h ++ i

/-- The b operand of an R or I form. -/
def src2 (t : Thread) (x : Option (BitVec 24)) : Src2 → Word
  | .reg r => t.getG r
  | .imm i => immValue x i

/-- The b operand of a pair op: a pair, or the immediate sign-extended to 64 bits (Table 3.6). -/
def src2Pair (t : Thread) (x : Option (BitVec 24)) : Src2 → DWord
  | .reg r => t.getPair r
  | .imm i => (immValue x i).signExtend 64

/-- The offset of an LS-form op (R86). -/
def lsOffset (t : Thread) (x : Option (BitVec 24)) (size : Nat) : LsOff → Nat
  | .reg r => (t.getG r).toNat
  | .imm i => match x with
    | none => i.toNat * size
    | some h => h.toNat * 256 + i.toNat

/-! ## Destinations (R41 detail 0x2) -/

inductive Dest where
  | g (r : Nat)
  | p (r : Nat)
  | s (r : Nat)
  | v (r : Nat)
  | tile (r : Nat)
  | acc (r : Nat)
  deriving DecidableEq, Repr

/-- A scalar destination; g0 ignores writes. -/
def destG (r : GReg) : List Dest := if r = 0 then [] else [.g r.toNat]
def destPair (r : GReg) : List Dest := if r = 0 then [] else [.g r.toNat, .g (r.toNat + 1)]
def destP (r : PReg) : List Dest := if r = 0 then [] else [.p r.toNat]

/-- The registers, predicates, tiles and accumulator tiles that an op names as destinations. -/
def destsOf : Op → List Dest
  | .alu _ rd _ _ => destG rd
  | .cmp _ pd _ _ => destP pd
  | .pred _ pd _ _ => destP pd
  | .pair _ rd _ _ => destPair rd
  | .mulwD rd _ _ => destPair rd
  | .rsr rd _ => destG rd
  | .crsr sd _ => [.s sd.toNat]
  | .csub sd _ _ _ => [.s sd.toNat]
  | .cperm sd _ _ => [.s sd.toNat]
  | .cbind sd _ _ => [.s sd.toNat]
  | .cfree sd _ _ => [.s sd.toNat]
  | .ckey sd _ _ => [.s sd.toNat]
  | .cmov sd _ => [.s sd.toNat]
  | .cget rd _ _ => destG rd
  | .load f rt _ _ => match f with
    | .v => [.v (rt.toNat % 16)]
    | .c => [.s (rt.toNat % 16)]
    | .d | .vd => destPair rt
    | _ => destG rt
  | .amo f rt _ _ => if f.size = 8 then destPair rt else destG rt
  | .bl rl _ => destG rl
  | .jrl rl _ => destG rl
  | .vec _ _ vd _ _ _ => [.v vd.toNat]
  | .vbcast _ _ v => [.v v.toNat]
  | .vext _ g _ _ => destG g
  | .vins _ _ v _ => [.v v.toNat]
  | .mat m => match m with
    | .tcfg t _ => [.tile t.toNat]
    | .tld t _ _ _ _ => [.tile t.toNat]
    | .accCfg a _ => [.acc a.toNat]
    | .mma a _ _ _ _ _ => [.acc a.toNat]
    | .accNorm a => [.acc a.toNat]
    | .accCvt _ t _ => [.tile t.toNat]
    | _ => []
  | .fwait _ _ pd => destP pd
  | .fread _ gd => destG gd
  | .waitd _ pd => destP pd
  | .rdb gd _ _ pd => destG gd ++ destP pd
  | .dmaRd g _ => destG g
  | _ => []

/-- Whether a list holds an element twice. -/
def hasDup : List Dest → Bool
  | [] => false
  | x :: xs => xs.contains x || hasDup xs

/-! ## Register reads, for the hazard of a pending dma.rd (R47) -/

/-- The scalar registers an op reads or writes. -/
def gregsOf : Op → List GReg
  | .alu _ rd ra b => rd :: ra :: b.regs
  | .cmp _ _ ra b => ra :: b.regs
  | .pair _ rd ra b => [rd, rd + 1, ra, ra + 1] ++ b.regs ++ b.regs.map (· + 1)
  | .mulwD rd ra rb => [rd, rd + 1, ra, rb]
  | .rsr rd _ => [rd]
  | .wsr _ ra => [ra]
  | .csub _ _ a b => [a, b]
  | .cperm _ _ a => [a]
  | .ckey _ _ a => [a]
  | .cget rd _ _ => [rd]
  | .load f rt _ o => (match f with | .v | .c => [] | .d | .vd => [rt, rt + 1] | _ => [rt]) ++ o.regs
  | .store f rt _ o => (match f with | .v | .c => [] | .d => [rt, rt + 1] | _ => [rt]) ++ o.regs
  | .amo f rt _ o => (match f with | .casD => [rt, rt + 1, rt + 2, rt + 3] | _ => [rt, rt + 1]) ++ o.regs
  | .bl rl _ => [rl]
  | .jr ra => [ra]
  | .jrl rl ra => [rl, ra]
  | .vbcast _ g _ => [g]
  | .vext _ g _ _ => [g]
  | .vins _ g _ _ => [g]
  | .mat m => match m with
    | .tcfg _ a => [a]
    | .tld _ _ a b _ => [a, b]
    | .tst _ _ a b => [a, b]
    | .tsave _ a => [a]
    | .trestore _ a => [a]
    | .accCfg _ a => [a]
    | .accCvtS _ _ a b => [a, b]
    | .mseqRun _ _ a => [a]
    | _ => []
  | .finc _ a => [a]
  | .fincR _ a b => [a, b]
  | .fwait _ a _ => [a]
  | .fread _ g => [g]
  | .send _ g n _ => (List.range n.toNat).map fun i => g + BitVec.ofNat 5 i
  | .waitd a _ => [a]
  | .rdb g _ a _ => [g, a]
  | .istore _ a b => [a, b]
  | .dmaStart _ _ _ a => [a]
  | .dmaWr _ g => [g]
  | .dmaRd g _ => [g]
  | _ => []

end Sys2Proof.Machine
end

