-- ==== Sys2Proof/Machine/OpDecode.lean ====
section
/-! DEFINITION. Camhar op words: the decoder of bits 23:0 per class (Tables 3.4 to 3.15) and the reading of a bundle from instruction
memory (R40, R41). An encoding that Table 2.8 makes illegal answers its detail code. -/

namespace Sys2Proof.Machine

open Sys2Proof

/-- Bits hi:lo of an op word as a value of w bits. -/
def fld (w : Nat) (x : Word) (hi lo : Nat) : BitVec w := BitVec.ofNat w (fieldOf x hi lo)

/-- A decoded word: its op, and whether it keeps the rules of its op: fields marked "0" are zero (R78), registers and formats are
allowed. A word that breaks one is illegal with detail 0x7; it still names its destinations (R41). -/
abbrev Decoded := Except Nat (Op × Bool)

def zeroes (ok : Bool) (o : Op) : Decoded := .ok (o, ok)

/-- The field hi:lo is zero. -/
def isZ (x : Word) (hi lo : Nat) : Bool := decide (fieldOf x hi lo = 0)

/-- The b operand of an R or I form; false where a must-be-zero bit is set. -/
def decSrc2 (x : Word) : Bool × Src2 :=
  if bitOf x 8 then (true, .imm (fld 8 x 7 0)) else (isZ x 2 0, .reg (fld 5 x 7 3))

/-- The ALU functions of Table 3.5 by opcode. -/
def aluA : List AluFn := [.add, .sub, .addO, .subO, .and, .or, .xor, .andn, .sll, .srl, .sra, .min, .max, .minu, .maxu]
def cmpFns : List CmpFn := [.eq, .ne, .lt, .ge, .ltu, .geu]
def predFns : List PredFn := [.pand, .por, .pxor, .pandn]
/-- The ALU functions of Table 3.6 by opcode 0x00-0x0F. -/
def aluB : List AluFn := [.add, .sub, .and, .or, .xor, .sll, .srl, .sra, .mul, .mulh, .mulhu, .mulO, .div, .divu, .rem, .remu]
def pairFns : List PairFn := [.add, .sub, .sll, .srl, .sra]

def opcOf (x : Word) : Nat := fieldOf x 23 19

/-- A pair names an even register (R79). -/
def even (r : GReg) : Bool := decide (r.toNat % 2 = 0)

def decAluA (x : Word) : Decoded :=
  let opc := opcOf x
  let rd := fld 5 x 18 14
  let ra := fld 5 x 13 9
  let b := decSrc2 x
  if opc < 0x0F then
    match aluA[opc]? with
    | some f => zeroes b.1 (.alu f rd ra b.2)
    | none => .error 6
  else if opc = 0x0F then zeroes (isZ x 8 0) (.alu .clz rd ra (.reg 0))
  else if opc = 0x10 then zeroes (isZ x 8 0) (.alu .popc rd ra (.reg 0))
  else if opc < 0x17 then
    match cmpFns[opc - 0x11]? with
    | some f => zeroes (isZ x 18 17 && b.1) (.cmp f (fld 3 x 16 14) ra b.2)
    | none => .error 6
  else if opc < 0x1B then
    match predFns[opc - 0x17]? with
    | some f => zeroes (isZ x 18 17 && isZ x 13 12 && isZ x 8 6 && isZ x 2 0) (.pred f (fld 3 x 16 14) (fld 3 x 11 9) (fld 3 x 5 3))
    | none => .error 6
  else .error 6

/-- The special registers of Table 3.7: readable, writable. -/
def srReadable (n : Byte) : Bool := decide (n ≤ 0x08 ∨ (0x20 ≤ n ∧ n ≤ 0x2F))
def srWritable (n : Byte) : Bool := decide (n ≤ 0x03 ∨ n = 0x08 ∨ (0x20 ≤ n ∧ n ≤ 0x2F))

/-- The b operand of add.d and sub.d is a pair; the shifts take b[5:0] of one register (Table 3.6; log 15). -/
def srcEven : PairFn → Src2 → Bool
  | .add, .reg r => even r
  | .sub, .reg r => even r
  | _, _ => true

def decAluB (x : Word) : Decoded :=
  let opc := opcOf x
  let rd := fld 5 x 18 14
  let ra := fld 5 x 13 9
  let b := decSrc2 x
  let sd := fld 4 x 18 15
  let sa := fld 4 x 14 11
  let ga := fld 5 x 10 6
  let gb := fld 5 x 5 1
  let z0 := isZ x 0 0
  if opc < 0x10 then
    match aluB[opc]? with
    | some f => zeroes b.1 (.alu f rd ra b.2)
    | none => .error 6
  else if opc < 0x15 then
    match pairFns[opc - 0x10]? with
    | some f => zeroes (b.1 && even rd && even ra && srcEven f b.2) (.pair f rd ra b.2)
    | none => .error 6
  else if opc = 0x15 then zeroes (isZ x 8 8 && isZ x 2 0 && even rd) (.mulwD rd ra (fld 5 x 7 3))
  else if opc = 0x16 then zeroes (bitOf x 8 && isZ x 13 9 && srReadable (fld 8 x 7 0)) (.rsr rd (fld 8 x 7 0))
  else if opc = 0x17 then zeroes (bitOf x 8 && isZ x 18 14 && srWritable (fld 8 x 7 0)) (.wsr (fld 8 x 7 0) ra)
  else if opc = 0x18 then zeroes (isZ x 14 11 && isZ x 5 0 && decide (ga ≤ 2)) (.crsr sd ga)
  else if opc = 0x19 then zeroes (isZ x 18 15 && isZ x 5 0 && decide (ga ≤ 1)) (.cwsr ga sa)
  else if opc = 0x1A then zeroes z0 (.csub sd sa ga gb)
  else if opc = 0x1B then zeroes (isZ x 5 0) (.cperm sd sa ga)
  else if opc = 0x1C then
    zeroes (isZ x 5 0) (if bitOf x 10 then .cfree sd sa (fld 4 x 9 6) else .cbind sd sa (fld 4 x 9 6))
  else if opc = 0x1D then zeroes (isZ x 5 0) (.ckey sd sa ga)
  else if opc = 0x1E then zeroes (bitOf x 8 && isZ x 13 13 && decide ((fld 8 x 7 0 : Byte) ≤ 7)) (.cget rd (fld 4 x 12 9) (fld 8 x 7 0))
  else zeroes (isZ x 10 0) (.cmov sd sa)

def ldFns : List LdFn := [.b, .bu, .h, .hu, .w, .d, .v, .c]
def stFns : List StFn := [.b, .h, .w, .d, .v, .c]
def amoFns : List AmoFn := [.addW, .addD, .minW, .minD, .maxW, .maxD, .swapW, .swapD, .casW, .casD, .faddF32, .faddBf16]

/-- RT rules of Table 3.8: even pairs; vector and capability registers in RT[3:0]. -/
def ldRtOk (f : LdFn) (rt : GReg) : Bool :=
  match f with
  | .d | .vd => even rt
  | .v | .c => decide (rt < 16)
  | _ => true
def stRtOk (f : StFn) (rt : GReg) : Bool :=
  match f with
  | .d => even rt
  | .v | .c => decide (rt < 16)
  | _ => true
def amoRtOk (f : AmoFn) (rt : GReg) : Bool :=
  match f with
  | .casW => even rt
  | .casD => decide (rt.toNat % 4 = 0)
  | .addD | .minD | .maxD | .swapD => even rt
  | _ => true

def decLsu (x : Word) : Decoded :=
  let opc := opcOf x
  let rt := fld 5 x 18 14
  let cap := fld 4 x 13 10
  let off : LsOff := if bitOf x 9 then .imm (fld 8 x 7 0) else .reg (fld 5 x 8 4)
  let offOk := if bitOf x 9 then isZ x 8 8 else isZ x 3 0
  if opc < 0x08 then
    match ldFns[opc]? with
    | some f => zeroes (offOk && ldRtOk f rt) (.load f rt cap off)
    | none => .error 6
  else if opc < 0x0E then
    match stFns[opc - 0x08]? with
    | some f => zeroes (offOk && stRtOk f rt) (.store f rt cap off)
    | none => .error 6
  else if opc = 0x0E then zeroes offOk (.load .vw rt cap off)
  else if opc = 0x0F then zeroes (offOk && even rt) (.load .vd rt cap off)
  else if opc = 0x10 then zeroes (isZ x 18 14 && isZ x 9 0) (.acq cap)
  else if opc = 0x11 then zeroes (isZ x 18 0) .acqAll
  else if opc < 0x1E then
    match amoFns[opc - 0x12]? with
    | some f => zeroes (offOk && amoRtOk f rt) (.amo f rt cap off)
    | none => .error 6
  else .error 6

def decBru (x : Word) : Decoded :=
  let opc := fieldOf x 23 20
  let rl := fld 5 x 19 15
  if opc = 0 then zeroes (isZ x 19 15) (.br (fld 15 x 14 0))
  else if opc = 1 then zeroes true (.bl rl (fld 15 x 14 0))
  else if opc = 2 then zeroes (isZ x 19 15 && isZ x 9 0) (.jr (fld 5 x 14 10))
  else if opc = 3 then zeroes (isZ x 9 0) (.jrl rl (fld 5 x 14 10))
  else if opc = 4 then zeroes (isZ x 19 15 && isZ x 6 0) (.callg (fld 4 x 14 11) (fld 4 x 10 7))
  else if opc = 5 then zeroes (isZ x 19 0) .retg
  else if opc = 6 then zeroes (isZ x 19 0) .exit
  else .error 6

/-- Width in bits of a format (Table 3.3). -/
def fmtWidth (f : BitVec 4) : Nat :=
  match f.toNat with
  | 0x0 => 32
  | 0x1 => 16
  | 0x2 => 16
  | 0x3 => 8
  | 0x4 => 8
  | 0x5 => 6
  | 0x6 => 6
  | 0x7 => 4
  | 0x8 => 8
  | 0x9 => 4
  | 0xA => 64
  | 0xB => 16
  | 0xC => 32
  | 0xD => 8
  | 0xE => 8
  | _ => 8

def isIntFmt (f : BitVec 4) : Bool := decide (f = 0x8 ∨ f = 0xB ∨ f = 0xC)
def isFloatFmt (f : BitVec 4) : Bool := decide (f = 0xA ∨ f = 0x0 ∨ f = 0x1 ∨ f = 0x2)
/-- The formats the vector unit accepts (R90). -/
def vecFmtOk (f : BitVec 4) : Bool := isIntFmt f || isFloatFmt f
/-- The formats of vcvt (R92). -/
def cvtFmtOk (f : BitVec 4) : Bool := vecFmtOk f || decide (f = 0x3 ∨ f = 0x4 ∨ f = 0xD)

/-- The part rule of vcvt (R92). -/
def cvtPartOk (src dst : BitVec 4) (q : BitVec 2) : Bool :=
  let a := fmtWidth src
  let b := fmtWidth dst
  let r := max a b / min a b
  decide (r ≤ 4 ∧ q.toNat < r)

/-- The per-op rules of V-form ops (R90, R91, R92): formats, MOD, VB = 0. -/
def vecOk (f : VecFn) (fmt : BitVec 4) (vb : VReg) (md : BitVec 3) : Bool :=
  match f with
  | .add | .sub | .mul | .fma | .min | .max => vecFmtOk fmt && decide (md = 0)
  | .div => isFloatFmt fmt && decide (md = 0)
  | .sqrt => isFloatFmt fmt && decide (md = 0 ∧ vb = 0)
  | .and | .or | .xor => decide (md = 0)
  | .shl => isIntFmt fmt && decide (md = 0)
  | .shr => isIntFmt fmt && decide (md ≤ 1)
  | .cmp => vecFmtOk fmt && decide (md ≤ 4)
  | .sel => vecFmtOk fmt && decide (md = 0)
  | .cvt q => cvtFmtOk fmt && cvtFmtOk vb && cvtPartOk fmt vb q && decide (md ≤ 5)
  | .redAdd | .redMax => vecFmtOk fmt && decide (md = 0 ∧ vb = 0)
  | .mov => vecFmtOk fmt && decide (md = 0 ∧ vb = 0)
  | .perm => vecFmtOk fmt && decide (md = 0)

def vecFns : List VecFn := [.add, .sub, .mul, .fma, .min, .max, .div, .sqrt, .and, .or, .xor, .shl, .shr, .cmp, .sel, .cvt 0, .cvt 1, .cvt 2,
  .cvt 3, .redAdd, .redMax]

/-- A LANE at or above the lane count is illegal (R91). -/
def laneOk (fmt : BitVec 4) (lane : BitVec 6) : Bool := vecFmtOk fmt && decide (lane.toNat < 512 / fmtWidth fmt)

def decVec (x : Word) : Decoded :=
  let opc := opcOf x
  let fmt := fld 4 x 18 15
  let vd := fld 4 x 14 11
  let va := fld 4 x 10 7
  let vb := fld 4 x 6 3
  let md := fld 3 x 2 0
  let g := fld 5 x 14 10
  let v := fld 4 x 9 6
  let lane := fld 6 x 5 0
  if opc < 0x15 then
    match vecFns[opc]? with
    | some f => zeroes (vecOk f fmt vb md) (.vec f fmt vd va vb md)
    | none => .error 6
  else if opc = 0x15 then zeroes (vecFmtOk fmt && decide (lane = 0)) (.vbcast fmt g v)
  else if opc = 0x16 then zeroes (laneOk fmt lane) (.vext fmt g v lane)
  else if opc = 0x17 then zeroes (laneOk fmt lane) (.vins fmt g v lane)
  else if opc = 0x18 then zeroes (vecOk .mov fmt vb md) (.vec .mov fmt vd va vb md)
  else if opc = 0x19 then zeroes (vecOk .perm fmt vb md) (.vec .perm fmt vd va vb md)
  else .error 6

def decMat (x : Word) : Decoded :=
  let opc := fieldOf x 23 20
  let acc := fld 6 x 19 14
  let tile := fld 4 x 17 14
  let tcCap := fld 4 x 13 10
  let tcGa := fld 5 x 9 5
  let tcGb := fld 5 x 4 0
  let tmT := fld 4 x 19 16
  let tmCap := fld 4 x 15 12
  let tmGa := fld 5 x 11 7
  let tmGb := fld 5 x 6 2
  let m (ok : Bool) (o : MatOp) : Decoded := zeroes ok (.mat o)
  if opc = 0x0 then m (isZ x 19 18 && isZ x 13 10 && isZ x 4 0) (.tcfg tile tcGa)
  else if opc = 0x1 then m (isZ x 0 0) (.tld tmT tmCap tmGa tmGb (bitOf x 1))
  else if opc = 0x2 then m (isZ x 1 0) (.tst tmT tmCap tmGa tmGb)
  else if opc = 0x3 then m (isZ x 19 18 && isZ x 13 0) (.trel tile)
  else if opc = 0x4 then m (isZ x 19 14 && isZ x 4 0) (.tsave tcCap tcGa)
  else if opc = 0x5 then m (isZ x 19 14 && isZ x 4 0) (.trestore tcCap tcGa)
  else if opc = 0x6 then m (isZ x 13 10 && isZ x 4 0) (.accCfg acc tcGa)
  else if opc = 0x7 then
    m (isZ x 0 0 && decide (fieldOf x 5 4 ≠ 3 ∧ fieldOf x 3 2 ≠ 3))
      (.mma acc (fld 4 x 13 10) (fld 4 x 9 6) (fld 2 x 5 4) (fld 2 x 3 2) (bitOf x 1))
  else if opc = 0x8 then m (isZ x 13 0) (.accNorm acc)
  else if opc = 0x9 then m (isZ x 6 0 && decide (fieldOf x 9 7 ≤ 5)) (.accCvt acc (fld 4 x 13 10) (fld 3 x 9 7))
  else if opc = 0xA then m true (.accCvtS acc tcCap tcGa tcGb)
  else if opc = 0xB then m (isZ x 19 14 && isZ x 4 0) (.mseqRun false tcCap tcGa)
  else if opc = 0xC then m (isZ x 19 14 && isZ x 4 0) (.mseqRun true tcCap tcGa)
  else .error 6

def decSyn (x : Word) : Decoded :=
  let opc := opcOf x
  let f := fld 6 x 18 13
  let frGa := fld 5 x 12 8
  let frPd := fld 3 x 7 5
  let cap := fld 4 x 18 15
  let cpGa := fld 5 x 14 10
  let cpGb := fld 5 x 9 5
  let cpPd := fld 3 x 4 2
  let frOk := isZ x 4 0
  let ch := fld 3 x 18 16
  let dsCap := fld 4 x 15 12
  let dsGa := fld 5 x 11 7
  if opc = 0x00 then zeroes (frOk && isZ x 7 5) (.finc f frGa)
  else if opc = 0x01 then zeroes (frOk && isZ x 7 5) (.fincI f frGa)
  else if opc = 0x02 then zeroes (isZ x 4 0) (.fincR cap cpGa cpGb)
  else if opc = 0x03 then zeroes frOk (.fwait f frGa frPd)
  else if opc = 0x04 then zeroes (frOk && isZ x 7 5) (.fread f frGa)
  else if opc = 0x05 then zeroes (isZ x 2 0) (.send cap cpGa (fld 3 x 9 7) (fld 4 x 6 3))
  else if opc = 0x06 then zeroes (isZ x 10 0) (.waitd (fld 5 x 18 14) (fld 3 x 13 11))
  else if opc = 0x07 then zeroes (isZ x 18 0) .retd
  else if opc = 0x08 then zeroes (isZ x 1 0) (.rdb cpGb cap cpGa cpPd)
  else if opc = 0x09 then zeroes (isZ x 4 0) (.istore cap cpGa cpGb)
  else if opc = 0x0A then zeroes (isZ x 18 0) .ifence
  else if opc = 0x0B then zeroes (isZ x 6 0) (.dmaStart false ch dsCap dsGa)
  else if opc = 0x0C then zeroes (isZ x 6 0) (.dmaStart true ch dsCap dsGa)
  else if opc = 0x0D then zeroes (isZ x 8 0) (.dmaWr (fld 5 x 18 14) (fld 5 x 13 9))
  else if opc = 0x0E then zeroes (isZ x 8 0) (.dmaRd (fld 5 x 13 9) (fld 5 x 18 14))
  else .error 6

/-! ## Rules of ops -/

/-- The per-op rules of the instruction reference (R41 detail 0x7). DEDUCED (log 43): a crsr of a number above 2 breaks Table 3.7 as an rsr
of an unlisted number does; R85 names rsr, wsr and cwsr. -/
def opLegal : Op → Bool
  | .pair f rd ra b => even rd && even ra && srcEven f b
  | .mulwD rd _ _ => even rd
  | .rsr _ n => srReadable n
  | .wsr n _ => srWritable n
  | .crsr _ n => decide (n ≤ 2)
  | .cwsr n _ => decide (n ≤ 1)
  | .cget _ _ f => decide (f ≤ 7)
  | .load f rt _ _ => ldRtOk f rt
  | .store f rt _ _ => stRtOk f rt
  | .amo f rt _ _ => amoRtOk f rt
  | .vec f fmt _ _ vb md => vecOk f fmt vb md
  | .vbcast fmt _ _ => vecFmtOk fmt
  | .vext fmt _ _ lane => laneOk fmt lane
  | .vins fmt _ _ lane => laneOk fmt lane
  | .mat (.mma _ _ _ g z _) => decide (g ≠ 3 ∧ z ≠ 3)
  | .mat (.accCvt _ _ rm) => decide (rm ≤ 5)
  | _ => true

/-- HI24[23:10] of an extension of mma.z must be zero (R95). -/
def extLegal (o : Op) (x : Option (BitVec 24)) : Bool :=
  match o, x with
  | .mat (.mma ..), some h => decide (h.toNat < 1024)
  | _, _ => true

/-- The op of a word by its class; class 7 is EXT and decodes to no op. -/
def decodeOp (cls : Nat) (x : Word) : Decoded :=
  match cls with
  | 0 => decAluA x
  | 1 => decAluB x
  | 2 => decLsu x
  | 3 => decBru x
  | 4 => decVec x
  | 5 => decMat x
  | 6 => decSyn x
  | _ => zeroes true .ifence

/-- A slot from a word (Table 2.6). -/
def slotOf (x : Word) : Slot :=
  let d := decodeOp (fieldOf x 26 24) x
  { cls := fieldOf x 26 24, psense := bitOf x 30, psel := fld 3 x 29 27, op := d.map (·.1)
    broken := match d with
      | .ok r => ! r.2
      | .error _ => false
    ext := fld 24 x 23 0 }

/-- Reads up to 8 words from an offset, ended by the first stop bit (R40, R41); words past the end of the memory are not read. -/
def bundleWords (rd : Nat → Word) : Nat → Nat → List Word
  | 0, _ => []
  | n + 1, off =>
    if off + 4 > 0x20000 then []
    else
      let x := rd off
      if bitOf x 31 then [x] else x :: bundleWords rd n (off + 4)

/-- The bundle at an offset, and whether it runs past the end of instruction memory (Table 2.8, 0x5). -/
def fetchBundle (rd : Nat → Word) (off : Word) : Bundle × Bool :=
  let ws := bundleWords rd 8 off.toNat
  let stopped := match ws.getLast? with
    | some x => bitOf x 31
    | none => false
  ({ addr := off, slots := ws.map slotOf, noStop := decide (ws.length = 8) && ! stopped },
   decide (ws.length < 8) && ! stopped)

/-- Whether a bundle runs past the end of instruction memory (Table 2.8, 0x5). -/
def Bundle.pastEnd (b : Bundle) : Bool := decide (b.addr.toNat + 4 * b.slots.length > 0x20000)

/-- The bundle of one op given as a command (log 4). -/
def commandBundle (pc : Word) (c : OpAt) (o : Op) : Bundle :=
  let s : Slot := { cls := opClass o, psense := c.psense, psel := c.psel, op := .ok o, ext := 0 }
  { addr := pc
    slots := match c.ext with
      | none => [s]
      | some h => [s, { cls := clsExt, psense := false, psel := 0, op := .ok .ifence, ext := h }]
    noStop := false }

end Sys2Proof.Machine
end

