-- ==== Sys2Proof/Machine/Numbers.lean ====
section
/-! DEFINITION. Number formats: exact values, rounding and conversion (R133 to R158). -/

namespace Sys2Proof.Machine

open Sys2Proof

/-- An exact value: NaN (NAR too, with its mark), an infinity, or (-1)^neg × m × 2^e; a zero keeps its sign (R138). -/
inductive Val where
  | nan (nar : Bool)
  | inf (neg : Bool)
  | fin (neg : Bool) (m : Nat) (e : Int)
  deriving DecidableEq, Repr

/-- Kinds of formats (Table 5.1). -/
inductive FmtKind where
  | ieee | e4m3 | small | int | ue8m0 | ue4m3
  deriving DecidableEq, Repr

/-- Parameters of a format (Table 5.2): width, exponent and mantissa bits, bias. -/
structure FmtInfo where
  kind : FmtKind
  w : Nat
  e : Nat
  m : Nat
  bias : Nat
  deriving DecidableEq, Repr

/-- The formats by code (Tables 3.3, 5.1, 5.2). -/
def fmtInfo (f : BitVec 4) : FmtInfo :=
  match f.toNat with
  | 0x0 => ⟨.ieee, 32, 8, 23, 127⟩
  | 0x1 => ⟨.ieee, 16, 8, 7, 127⟩
  | 0x2 => ⟨.ieee, 16, 5, 10, 15⟩
  | 0x3 => ⟨.ieee, 8, 5, 2, 15⟩
  | 0x4 => ⟨.e4m3, 8, 4, 3, 7⟩
  | 0x5 => ⟨.small, 6, 3, 2, 3⟩
  | 0x6 => ⟨.small, 6, 2, 3, 1⟩
  | 0x7 => ⟨.small, 4, 2, 1, 1⟩
  | 0x8 => ⟨.int, 8, 0, 0, 0⟩
  | 0x9 => ⟨.int, 4, 0, 0, 0⟩
  | 0xA => ⟨.ieee, 64, 11, 52, 1023⟩
  | 0xB => ⟨.int, 16, 0, 0, 0⟩
  | 0xC => ⟨.int, 32, 0, 0, 0⟩
  | 0xD => ⟨.ue8m0, 8, 8, 0, 127⟩
  | _ => ⟨.ue4m3, 8, 4, 3, 7⟩

/-- Number of bits of a natural number. -/
def bitLen (n : Nat) : Nat := if n = 0 then 0 else n.log2 + 1

/-- The exact value of an element's bits (R135, R139, R141). -/
def valOf (f : BitVec 4) (x : Nat) : Val :=
  let i := fmtInfo f
  match i.kind with
  | .int =>
    if x < 2 ^ (i.w - 1) then .fin false x 0 else .fin true (2 ^ i.w - x) 0
  | .ue8m0 => if x = 0xFF then .nan false else .fin false 1 ((x : Int) - 127)
  | .ue4m3 =>
    if x ≥ 0x7F then .nan false
    else if x / 8 = 0 then .fin false x (-9)
    else .fin false (8 + x % 8) ((x / 8 : Nat) - 10 : Int)
  | k =>
    let neg := decide (x / 2 ^ (i.w - 1) % 2 = 1)
    let e := x / 2 ^ i.m % 2 ^ i.e
    let m := x % 2 ^ i.m
    let emin : Int := 1 - (i.bias : Int) - i.m
    if k = .ieee ∧ e = 2 ^ i.e - 1 then (if m = 0 then .inf neg else .nan false)
    else if k = .e4m3 ∧ e = 15 ∧ m = 7 then .nan false
    else if e = 0 then .fin neg m emin
    else .fin neg (2 ^ i.m + m) (emin + e - 1)

/-- Canonical NaN of a format; formats without one give +0 (R137, Table 5.6). -/
def canonNan (f : BitVec 4) : Nat :=
  match f.toNat with
  | 0x0 => 0x7FC00000
  | 0x1 => 0x7FC0
  | 0x2 => 0x7E00
  | 0x3 => 0x7F
  | 0x4 => 0x7F
  | 0xA => 0x7FF8000000000000
  | 0xD => 0xFF
  | 0xE => 0x7F
  | _ => 0

/-- Flags of FPFLAGS (Table 2.5). -/
def flInvalid : BitVec 5 := 1
def flDivZero : BitVec 5 := 2
def flOverflow : BitVec 5 := 4
def flUnderflow : BitVec 5 := 8
def flInexact : BitVec 5 := 16

/-- The stochastic-rounding generator (R152). -/
def srBits (seed step tile row col : Word) : Nat :=
  let x := seed ^^^ (step * 0x9E3779B1)
  let x := x ^^^ (tile <<< 20) ^^^ (row <<< 10) ^^^ col
  let x := (x ^^^ (x >>> 16)) * 0x7FEB352D
  let x := (x ^^^ (x >>> 15)) * 0x846CA68B
  let x := x ^^^ (x >>> 16)
  (x &&& 0xFFFF).toNat

/-- Rounds the magnitude m × 2^e to a multiple of 2^q: the multiple, and whether it is inexact. `mode` is a code 0-4 (Table 5.5), r
the generator value, neg the sign (R150, R151). -/
def roundMag (mode : Nat) (r : Nat) (neg : Bool) (m : Nat) (e q : Int) : Nat × Bool :=
  if q ≤ e then (m * 2 ^ (e - q).toNat, false)
  else
    let sh := (q - e).toNat
    let t := m / 2 ^ sh
    let d := m % 2 ^ sh
    let up : Bool :=
      match mode with
      | 0 => decide (2 * d > 2 ^ sh ∨ (2 * d = 2 ^ sh ∧ t % 2 = 1))
      | 1 => false
      | 2 => ! neg && decide (d ≠ 0)
      | 3 => neg && decide (d ≠ 0)
      | _ => decide (d * 65536 / 2 ^ sh + r ≥ 65536)
    (if up then t + 1 else t, decide (d ≠ 0))

/-- The encoding of the largest finite magnitude (Table 5.2). -/
def maxFinite (i : FmtInfo) : Nat :=
  match i.kind with
  | .ieee => (2 ^ i.e - 1) * 2 ^ i.m - 1
  | .small => 2 ^ (i.e + i.m) - 1
  | _ => 0x7E

/-- A finite non-zero magnitude rounded to a floating-point format: sign applied, flags (R154, R156, Table 5.6). -/
def roundFloat (f : BitVec 4) (mode r : Nat) (neg : Bool) (m : Nat) (e : Int) : Nat × BitVec 5 :=
  let i := fmtInfo f
  let sign := if neg && decide (i.kind ≠ .ue4m3) then 2 ^ (i.w - 1) else 0
  let emin : Int := 1 - (i.bias : Int)
  let k : Int := e + bitLen m - 1
  let q : Int := max k emin - i.m
  let res := roundMag mode r neg m e q
  let t := res.1
  let inexact := res.2
  let q1 := if t = 2 ^ (i.m + 1) then q + 1 else q
  let t1 := if t = 2 ^ (i.m + 1) then 2 ^ i.m else t
  let enc : Nat := if t1 < 2 ^ i.m then t1 else ((q1 + i.m + i.bias).toNat) * 2 ^ i.m + (t1 - 2 ^ i.m)
  if enc > maxFinite i then
    match i.kind with
    | .ieee =>
      let toInf := decide (mode = 0 ∨ mode ≥ 4) || (decide (mode = 2) && ! neg) || (decide (mode = 3) && neg)
      ((if toInf then maxFinite i + 1 else maxFinite i) + sign, flOverflow ||| flInexact)
    | .ue4m3 => (maxFinite i, flOverflow)
    | _ => (maxFinite i + sign, flOverflow ||| flInexact)
  else
    let fl : BitVec 5 := if inexact then flInexact else 0
    let tiny := decide (enc ≠ 0 ∧ enc < 2 ^ i.m)
    (enc + sign, if inexact && tiny then fl ||| flUnderflow else fl)

/-- A value to an integer format (R154, R156). -/
def roundInt (w : Nat) (mode r : Nat) (neg : Bool) (m : Nat) (e : Int) : Nat × BitVec 5 :=
  let res := roundMag mode r neg m e 0
  let lim := if neg then 2 ^ (w - 1) else 2 ^ (w - 1) - 1
  if res.1 > lim then ((if neg then 2 ^ w - lim else lim) % 2 ^ w, flInvalid)
  else ((if neg then 2 ^ w - res.1 else res.1) % 2 ^ w, if res.2 then flInexact else 0)

/-- A positive value to ue8m0 (R155). -/
def roundScale (mode r : Nat) (m : Nat) (e : Int) : Nat × BitVec 5 :=
  let k : Int := e + bitLen m - 1
  if k < -127 then (0, flInexact)
  else
    let exact := decide (m = 2 ^ (bitLen m - 1))
    let half := 3 * 2 ^ (bitLen m - 1)
    let up : Bool :=
      if exact then false
      else match mode with
        | 0 => decide (2 * m > half ∨ (2 * m = half ∧ (k + 127) % 2 = 1))
        | 1 => false
        | 2 => true
        | 3 => false
        | _ => decide ((m - 2 ^ (bitLen m - 1)) * 65536 / 2 ^ (bitLen m - 1) + r ≥ 65536)
    let e2 := (k + 127).toNat + bn up
    if e2 > 0xFE then (0xFE, flOverflow) else (e2, if exact then 0 else flInexact)

/-- Conversion of an exact value to a format under a mode code 0-4 (R154, Table 5.6): bits and flags. -/
def convert (f : BitVec 4) (mode r : Nat) (x : Val) : Nat × BitVec 5 :=
  let i := fmtInfo f
  match x with
  | .nan nar =>
    match i.kind with
    | .ieee => (canonNan f, if nar then flInvalid else 0)
    | _ => (canonNan f, flInvalid)
  | .inf neg =>
    match i.kind with
    | .ieee => (maxFinite i + 1 + (if neg then 2 ^ (i.w - 1) else 0), 0)
    | .e4m3 => (0x7E + (if neg then 0x80 else 0), flOverflow)
    | .small => (maxFinite i + (if neg then 2 ^ (i.w - 1) else 0), flOverflow)
    | .int => (if neg then 2 ^ (i.w - 1) else 2 ^ (i.w - 1) - 1, flInvalid)
    | .ue8m0 => if neg then (0xFF, flInvalid) else (0xFE, 0)
    | .ue4m3 => if neg then (0, flInvalid) else (0x7E, 0)
  | .fin neg m e =>
    match i.kind with
    | .int => roundInt i.w mode r neg m e
    | .ue8m0 => if neg ∨ m = 0 then (0xFF, flInvalid) else roundScale mode r m e
    | .ue4m3 => if m = 0 then (0, 0) else if neg then (0, flInvalid) else roundFloat f mode r neg m e
    | _ => if m = 0 then (if neg then 2 ^ (i.w - 1) else 0, 0) else roundFloat f mode r neg m e

/-! ## Arithmetic of floating-point lanes (R91, R137, R138) -/

/-- The exact signed integer of a finite value at exponent q ≤ its own. -/
def alignTo (q : Int) (neg : Bool) (m : Nat) (e : Int) : Int :=
  let v : Int := m * 2 ^ (e - q).toNat
  if neg then -v else v

/-- The exact sum of two finite values; an exact zero sum is +0 but for two zeros of one sign (R138). -/
def finAdd (na : Bool) (ma : Nat) (ea : Int) (nb : Bool) (mb : Nat) (eb : Int) : Val :=
  let q := min ea eb
  let v := alignTo q na ma ea + alignTo q nb mb eb
  if v = 0 then .fin (na && nb && decide (ma = 0 ∧ mb = 0)) 0 0 else .fin (decide (v < 0)) v.natAbs q

/-- Sum: infinity minus infinity is invalid. -/
def valAdd : Val → Val → Val × BitVec 5
  | .nan _, _ => (.nan false, 0)
  | _, .nan _ => (.nan false, 0)
  | .inf a, .inf b => if a = b then (.inf a, 0) else (.nan false, flInvalid)
  | .inf a, .fin .. => (.inf a, 0)
  | .fin .., .inf b => (.inf b, 0)
  | .fin na ma ea, .fin nb mb eb => (finAdd na ma ea nb mb eb, 0)

def valNeg : Val → Val
  | .nan b => .nan b
  | .inf n => .inf (! n)
  | .fin n m e => .fin (! n) m e

/-- Product: zero times infinity is invalid. -/
def valMul : Val → Val → Val × BitVec 5
  | .nan _, _ => (.nan false, 0)
  | _, .nan _ => (.nan false, 0)
  | .inf a, .inf b => (.inf (a != b), 0)
  | .inf a, .fin b m _ => if m = 0 then (.nan false, flInvalid) else (.inf (a != b), 0)
  | .fin a m _, .inf b => if m = 0 then (.nan false, flInvalid) else (.inf (a != b), 0)
  | .fin na ma ea, .fin nb mb eb => (.fin (na != nb) (ma * mb) (ea + eb), 0)

def isNan : Val → Bool
  | .nan _ => true
  | _ => false

/-- Fused multiply-add with one rounding; the flag of zero times infinity plus NaN is left open (log 14). -/
def valFma (a b c : Val) : Val × BitVec 5 :=
  let p := valMul a b
  if isNan c then (.nan false, if p.2 ≠ 0 && Config.fmaInvalidNan then flInvalid else 0)
  else
    let r := valAdd p.1 c
    (r.1, p.2 ||| r.2)

/-- Quotient with a sticky bit below 70 bits: rounding it to any format of the vector unit rounds the exact quotient. -/
def valDiv : Val → Val → Val × BitVec 5
  | .nan _, _ => (.nan false, 0)
  | _, .nan _ => (.nan false, 0)
  | .inf _, .inf _ => (.nan false, flInvalid)
  | .inf a, .fin b _ _ => (.inf (a != b), 0)
  | .fin a _ _, .inf b => (.fin (a != b) 0 0, 0)
  | .fin na ma ea, .fin nb mb eb =>
    if mb = 0 then (if ma = 0 then (.nan false, flInvalid) else (.inf (na != nb), flDivZero))
    else if ma = 0 then (.fin (na != nb) 0 0, 0)
    else
      let sh := 70 + bitLen mb
      let q := ma * 2 ^ sh / mb
      let rem := ma * 2 ^ sh % mb
      (.fin (na != nb) (2 * q + (if rem = 0 then 0 else 1)) (ea - eb - sh - 1), 0)

/-- Integer square root by bisection on the bits. -/
def isqrtFrom : Nat → Nat → Nat → Nat
  | 0, _, r => r
  | b + 1, n, r =>
    let t := r + 2 ^ b
    if t * t ≤ n then isqrtFrom b n t else isqrtFrom b n r

/-- Square root with a sticky bit; the root of -0 is -0, of a negative value invalid. -/
def valSqrt : Val → Val × BitVec 5
  | .nan _ => (.nan false, 0)
  | .inf n => if n then (.nan false, flInvalid) else (.inf false, 0)
  | .fin n m e =>
    if m = 0 then (.fin n 0 0, 0)
    else if n then (.nan false, flInvalid)
    else
      let odd := decide (e % 2 ≠ 0)
      let m1 := (if odd then 2 * m else m) * 2 ^ 140
      let e1 : Int := ((if odd then e - 1 else e) - 140) / 2
      let r := isqrtFrom (bitLen m1 / 2 + 1) m1 0
      (.fin false (2 * r + (if r * r = m1 then 0 else 1)) (e1 - 1), 0)

/-- Order of two numbers: none if unordered. -/
def valCmp : Val → Val → Option Ordering
  | .nan _, _ => none
  | _, .nan _ => none
  | .inf a, .inf b => some (if a = b then .eq else if a then .lt else .gt)
  | .inf a, .fin .. => some (if a then .lt else .gt)
  | .fin .., .inf b => some (if b then .gt else .lt)
  | .fin na ma ea, .fin nb mb eb =>
    let q := min ea eb
    some (compare (alignTo q na ma ea) (alignTo q nb mb eb))

/-- The floating add of amo.fadd and reduce writes: RNE, canonical NaN, no flags (R220, R221). -/
def faddBits (f : BitVec 4) (a b : Nat) : Nat := (convert f 0 0 (valAdd (valOf f a) (valOf f b)).1).1

/-- The mode that a rounding field selects: code 5 takes RMODE, whose values 5-7 act as RNE (R82). -/
def modeOf (rm : Nat) (rmode : BitVec 3) : Nat :=
  if rm = 5 then (if rmode.toNat ≥ 5 then 0 else rmode.toNat) else rm

end Sys2Proof.Machine
end

