-- ==== Sys2Proof/Machine/Flags.lean ====
section
/-! DEFINITION. Flags and enables: signed overflow of scalar ops, FPFLAGS, FAULT_EN and the TSW (R84, R91, R119, R120, Table 2.5). -/

namespace Sys2Proof.Machine

open Sys2Proof

/-- FAULT_EN bits (Table 4.8). -/
def enIdiv (t : Thread) : Bool := bitOf t.faultEn 0
def enVdiv (t : Thread) : Bool := bitOf t.faultEn 1
def enIovf (t : Thread) : Bool := bitOf t.faultEn 2
def enVovf (t : Thread) : Bool := bitOf t.faultEn 3
def enAccr (t : Thread) : Bool := bitOf t.faultEn 4

/-- Whether a mathematical integer does not fit 32 signed bits. -/
def ovf32 (x : Int) : Bool := decide (x < -2147483648 ∨ x > 2147483647)

/-- Sets the sticky flags of an op that commits (R157). -/
def Thread.addFlags (t : Thread) (f : BitVec 5) : Thread := { t with fpflags := t.fpflags ||| f }

/-- STATE codes (Table 2.4). -/
def TState.code : TState → BitVec 3
  | .idle => 0
  | .running => 1
  | .waiting => 2
  | .parkedFault => 3
  | .parkedDebug => 4
  | .dead => 6

/-- TH reads as 1 while ESC = 1 (R126). -/
def Thread.thNow (t : Thread) : Bool := t.esc || t.th

/-- TSW of thread k (Table 2.5). -/
def Thread.tsw (t : Thread) (k : Nat) : Word :=
  packWord [(t.fpflags.toNat, 16), (t.lastFault.toNat, 8), (k, 5), (bn t.esc, 4), (bn t.thNow, 3), (t.st.code.toNat, 0)]

/-- wsr TSW: FPFLAGS is W1C, TH is RW but while ESC = 1 (Table 2.5, R126). -/
def Thread.writeTsw (t : Thread) (v : Word) : Thread :=
  { t with fpflags := t.fpflags &&& ~~~(BitVec.ofNat 5 (fieldOf v 20 16)), th := if t.esc then t.th else bitOf v 3 }

end Sys2Proof.Machine
end

