-- ==== Sys2Proof/Machine/Alu.lean ====
section
/-! DEFINITION. Scalar ops: ALU-A and ALU-B (R83, R84), special registers (R85) and capability ops (R110), as what an op does to its
thread at WB. -/

namespace Sys2Proof.Machine

open Sys2Proof

/-- What an op of a bundle comes to at E4: its writes at WB and its work from CM on, a fault, an uncorrectable word of the core's own
memories (structure and offset), or a withdrawal (R50, R52, R56, R423). -/
inductive OpRes where
  | done (w : Thread → Thread) (act : State → State)
  | fault (f : FaultInfo)
  | ecc (structure_ off : Nat)
  | withdraw (act : State → State)

/-- An op that only writes its thread. -/
def OpRes.write (w : Thread → Thread) : OpRes := .done w id

/-- What an op reads: its thread and core before the bundle, who it is, and the time. -/
structure Ctx where
  n : Nat
  k : ThreadNo
  t : Thread
  c : Core
  module : BitVec 16
  region : BitVec 5
  logical : Nat
  timeLo : Word
  timeHi : Word
  pc : Word
  link : Word
  cls : Nat
  ext : Option (BitVec 24)

def Ctx.dom (x : Ctx) : Domain := { module := x.module, region := x.region }

/-- The result of an ALU function, with the fault it raises when enabled: OVERFLOW or DIV_ZERO (R83, R84). -/
def aluResult (f : AluFn) (a b : Word) : Word × Bool × Bool :=
  let sa := a.toInt
  let sb := b.toInt
  match f with
  | .add => (a + b, false, false)
  | .sub => (a - b, false, false)
  | .addO => (a + b, ovf32 (sa + sb), false)
  | .subO => (a - b, ovf32 (sa - sb), false)
  | .and => (a &&& b, false, false)
  | .or => (a ||| b, false, false)
  | .xor => (a ^^^ b, false, false)
  | .andn => (a &&& ~~~b, false, false)
  | .sll => (a <<< (b.toNat % 32), false, false)
  | .srl => (a >>> (b.toNat % 32), false, false)
  | .sra => (a.sshiftRight (b.toNat % 32), false, false)
  | .min => (if sa ≤ sb then a else b, false, false)
  | .max => (if sa ≤ sb then b else a, false, false)
  | .minu => (if a.toNat ≤ b.toNat then a else b, false, false)
  | .maxu => (if a.toNat ≤ b.toNat then b else a, false, false)
  | .clz => (BitVec.ofNat 32 (32 - bitLen a.toNat), false, false)
  | .popc => (BitVec.ofNat 32 ((List.range 32).countP fun i => a.getLsbD i), false, false)
  | .mul => (a * b, false, false)
  | .mulh => (BitVec.ofInt 32 (sa * sb / 4294967296), false, false)
  | .mulhu => (BitVec.ofNat 32 (a.toNat * b.toNat / 4294967296), false, false)
  | .mulO => (a * b, ovf32 (sa * sb), false)
  | .div => if b = 0 then (0xFFFFFFFF, false, true) else (BitVec.ofInt 32 (sa.tdiv sb), false, false)
  | .divu => if b = 0 then (0xFFFFFFFF, false, true) else (BitVec.ofNat 32 (a.toNat / b.toNat), false, false)
  | .rem => if b = 0 then (a, false, true) else (BitVec.ofInt 32 (sa.tmod sb), false, false)
  | .remu => if b = 0 then (a, false, true) else (BitVec.ofNat 32 (a.toNat % b.toNat), false, false)

def evalAlu (x : Ctx) (f : AluFn) (rd ra : GReg) (b : Src2) : OpRes :=
  let r := aluResult f (x.t.getG ra) (src2 x.t x.ext b)
  if r.2.1 && enIovf x.t then .fault (laneFault fOverflow x.cls 0)
  else if r.2.2 && enIdiv x.t then .fault (laneFault fDivZero x.cls 0)
  else .write fun t => t.setG rd r.1

def cmpResult (f : CmpFn) (a b : Word) : Bool :=
  match f with
  | .eq => decide (a = b)
  | .ne => decide (a ≠ b)
  | .lt => decide (a.toInt < b.toInt)
  | .ge => decide (b.toInt ≤ a.toInt)
  | .ltu => decide (a.toNat < b.toNat)
  | .geu => decide (b.toNat ≤ a.toNat)

def evalCmp (x : Ctx) (f : CmpFn) (pd : PReg) (ra : GReg) (b : Src2) : OpRes :=
  .write fun t => t.setP pd (cmpResult f (x.t.getG ra) (src2 x.t x.ext b))

def predResult (f : PredFn) (a b : Bool) : Bool :=
  match f with
  | .pand => a && b
  | .por => a || b
  | .pxor => a != b
  | .pandn => a && ! b

def evalPred (x : Ctx) (f : PredFn) (pd pa pb : PReg) : OpRes :=
  .write fun t => t.setP pd (predResult f (x.t.getP pa) (x.t.getP pb))

/-- Pair ops (Table 3.6): b is a pair or an immediate; shifts use b[5:0]. -/
def pairResult (f : PairFn) (a b : DWord) : DWord :=
  match f with
  | .add => a + b
  | .sub => a - b
  | .sll => a <<< (b.toNat % 64)
  | .srl => a >>> (b.toNat % 64)
  | .sra => a.sshiftRight (b.toNat % 64)

def evalPair (x : Ctx) (f : PairFn) (rd ra : GReg) (b : Src2) : OpRes :=
  .write fun t => t.setPair rd (pairResult f (x.t.getPair ra) (src2Pair x.t x.ext b))

def evalMulw (x : Ctx) (rd ra rb : GReg) : OpRes :=
  .write fun t => t.setPair rd (BitVec.ofInt 64 ((x.t.getG ra).toInt * (x.t.getG rb).toInt))

/-! ## Special registers (Table 3.7) -/

/-- WHO: logical core, course, region, thread. -/
def whoWord (x : Ctx) : Word :=
  packWord [(x.logical, 0), (courseOf x.n, 5), (x.region.toNat, 10), (x.k.val, 15)]

/-- rsr. TIME_HI gives the upper word that the thread's last TIME_LO read held back (R3); 0 before any. -/
def srRead (x : Ctx) (n : Byte) : Word :=
  match n.toNat with
  | 0x00 => x.t.tsw x.k.val
  | 0x01 => x.t.faultEn.zeroExtend 32
  | 0x02 => x.t.seed
  | 0x03 => x.t.rmode.zeroExtend 32
  | 0x04 => x.timeLo
  | 0x05 => x.t.timeShadow.getD x.timeHi
  | 0x06 => whoWord x
  | 0x07 => x.module.zeroExtend 32
  | 0x08 => x.t.dret
  | m => mapGet 0 x.t.handlers (m - 0x20)

def evalRsr (x : Ctx) (rd : GReg) (n : Byte) : OpRes :=
  .write fun t =>
    let t1 := t.setG rd (srRead x n)
    if n = 0x04 then { t1 with timeShadow := some x.timeHi } else if n = 0x05 then { t1 with timeShadow := none } else t1

/-- wsr of a writable number. -/
def srWrite (t : Thread) (n : Byte) (v : Word) : Thread :=
  match n.toNat with
  | 0x00 => t.writeTsw v
  | 0x01 => { t with faultEn := v.truncate 5 }
  | 0x02 => { t with seed := v, vcvts := 0 }
  | 0x03 => { t with rmode := v.truncate 3 }
  | 0x08 => { t with dret := v }
  | m => { t with handlers := mapSet 0 t.handlers (m - 0x20) v }

def evalWsr (x : Ctx) (n : Byte) (ra : GReg) : OpRes := .write fun t => srWrite t n (x.t.getG ra)

def evalCrsr (x : Ctx) (sd : SReg) (n : GReg) : OpRes :=
  .write fun t => t.setS sd (match n.toNat with | 0 => x.t.faultGate | 1 => x.t.faultGdata | _ => x.t.gstack)

/-! ## Capability ops -/

/-- A derivation that writes sd. -/
def derive_ (r : Except FaultInfo Cap) (sd : SReg) : OpRes :=
  match r with
  | .error f => .fault f
  | .ok c => .write fun t => t.setS sd c

def evalCwsr (x : Ctx) (n : GReg) (sa : SReg) : OpRes :=
  match capSpecial (x.t.getS sa) sa.toNat x.dom with
  | .error f => .fault f
  | .ok c => .write fun t => if n = 0 then { t with faultGate := c } else { t with faultGdata := c }

def evalCsub (x : Ctx) (sd sa : SReg) (ga gb : GReg) : OpRes := derive_ (capSub (x.t.getS sa) sa.toNat (x.t.getG ga) (x.t.getG gb)) sd
def evalCperm (x : Ctx) (sd sa : SReg) (ga : GReg) : OpRes := derive_ (capPerm (x.t.getS sa) sa.toNat (x.t.getG ga)) sd
def evalCbind (x : Ctx) (sd sa sb : SReg) : OpRes := derive_ (capBind (x.t.getS sa) (x.t.getS sb) sa.toNat sb.toNat x.dom) sd
def evalCfree (x : Ctx) (sd sa sb : SReg) : OpRes := derive_ (capFree (x.t.getS sa) (x.t.getS sb) sa.toNat sb.toNat x.dom) sd
def evalCkey (x : Ctx) (sd sa : SReg) (ga : GReg) : OpRes := derive_ (capKey (x.t.getS sa) sa.toNat (x.t.getG ga)) sd
def evalCget (x : Ctx) (rd : GReg) (sa : SReg) (f : Byte) : OpRes := .write fun t => t.setG rd (capField (x.t.getS sa) f.toNat)
def evalCmov (x : Ctx) (sd sa : SReg) : OpRes := .write fun t => t.setS sd (x.t.getS sa)

end Sys2Proof.Machine
end

