-- ==== Sys2Proof/Machine/Vector.lean ====
section
/-! DEFINITION. The vector unit (R90 to R93): lanes, arithmetic, comparison, conversion, reduction and lane moves. -/

namespace Sys2Proof.Machine

open Sys2Proof

/-- Lane i of a vector of w-bit lanes. -/
def laneOf (w : Nat) (v : Vec) (i : Nat) : Nat := v.toNat / 2 ^ (w * i) % 2 ^ w

def lanes (w : Nat) (v : Vec) : List Nat := (List.range (512 / w)).map (laneOf w v)

/-- A vector from its lanes, lane 0 lowest. -/
def packLanes (w : Nat) : List Nat → Nat
  | [] => 0
  | x :: xs => x % 2 ^ w + 2 ^ w * packLanes w xs

def ofLanes (w : Nat) (xs : List Nat) : Vec := BitVec.ofNat 512 (packLanes w xs)

/-- The signed value of a w-bit lane. -/
def sLane (w x : Nat) : Int := if x < 2 ^ (w - 1) then x else (x : Int) - 2 ^ w

/-- A result lane with its flags. -/
abbrev LaneRes := Nat × BitVec 5

/-- An exact result rounded to nearest even (R91). -/
def rne (f : BitVec 4) (r : Val × BitVec 5) : LaneRes :=
  match r.1 with
  | .nan _ => (canonNan f, r.2)
  | v => let c := convert f 0 0 v; (c.1, c.2 ||| r.2)

def wrapLane (w : Nat) (x : Int) : LaneRes := ((x % 2 ^ w).toNat, 0)

/-- vmin and vmax of float lanes: a NaN operand yields the other operand; on zeros of different sign the sign is open (log 14). -/
def minMaxF (f : BitVec 4) (isMin : Bool) (a b : Nat) : Nat :=
  let x := valOf f a
  let y := valOf f b
  match valCmp x y with
  | none => if isNan x then b else a
  | some .lt => if isMin then a else b
  | some .gt => if isMin then b else a
  | some .eq =>
    if a = b then a
    else
      let neg := Config.minMaxZero isMin (decide (b < a))
      if neg then 2 ^ (fmtWidth f - 1) else 0

/-- Lane-wise arithmetic on a, b and the old lane of vd. -/
def laneArith (f : VecFn) (fmt : BitVec 4) (a b d : Nat) : LaneRes :=
  let w := fmtWidth fmt
  if isIntFmt fmt then
    let x := sLane w a
    let y := sLane w b
    match f with
    | .add => wrapLane w (x + y)
    | .sub => wrapLane w (x - y)
    | .mul => wrapLane w (x * y)
    | .fma => wrapLane w (x * y + sLane w d)
    | .min => (if x ≤ y then a else b, 0)
    | _ => (if x ≤ y then b else a, 0)
  else
    let x := valOf fmt a
    let y := valOf fmt b
    match f with
    | .add => rne fmt (valAdd x y)
    | .sub => rne fmt (valAdd x (valNeg y))
    | .mul => rne fmt (valMul x y)
    | .fma => rne fmt (valFma x y (valOf fmt d))
    | .div => rne fmt (valDiv x y)
    | .sqrt => rne fmt (valSqrt x)
    | .min => (minMaxF fmt true a b, 0)
    | _ => (minMaxF fmt false a b, 0)

/-- Shifts of integer lanes, the count modulo w. -/
def laneShift (left logical : Bool) (w a b : Nat) : Nat :=
  let n := b % w
  if left then a * 2 ^ n % 2 ^ w
  else if logical then a / 2 ^ n
  else ((sLane w a / 2 ^ n) % 2 ^ w).toNat

/-- Order of two lanes of a format. -/
def laneCmp (fmt : BitVec 4) (a b : Nat) : Option Ordering :=
  if isIntFmt fmt then some (compare (sLane (fmtWidth fmt) a) (sLane (fmtWidth fmt) b)) else valCmp (valOf fmt a) (valOf fmt b)

/-- vcmp by MOD: eq, ne, lt, le, unordered. -/
def cmpMod (md : Nat) (o : Option Ordering) : Bool :=
  match md with
  | 0 => decide (o = some .eq)
  | 1 => decide (o ≠ some .eq)
  | 2 => decide (o = some .lt)
  | 3 => decide (o = some .lt ∨ o = some .eq)
  | _ => decide (o = none)

/-- One level of the pairwise tree of vred.add (R93). -/
def treeLevel (fmt : BitVec 4) : List LaneRes → List LaneRes
  | a :: b :: xs =>
    let r := laneArith .add fmt a.1 b.1 0
    (r.1, r.2 ||| a.2 ||| b.2) :: treeLevel fmt xs
  | xs => xs

/-- The levels of the tree: at most 6. -/
def treeSum (fmt : BitVec 4) : Nat → List LaneRes → LaneRes
  | 0, xs => xs.headD (0, 0)
  | n + 1, xs => if xs.length ≤ 1 then xs.headD (0, 0) else treeSum fmt n (treeLevel fmt xs)

/-- The largest lane; a NaN lane yields the other, and lanes that are all NaN give the canonical NaN (log 14). -/
def maxLane (fmt : BitVec 4) : List Nat → Nat
  | [] => 0
  | [x] => if ! isIntFmt fmt && isNan (valOf fmt x) then canonNan fmt else x
  | x :: xs => (laneArith .max fmt x (maxLane fmt xs) 0).1

/-- The fault of a vector op's flags: DIV_ZERO or OVERFLOW where enabled, at the lowest faulting lane (R91, R122). -/
def vecFault (t : Thread) (cls : Nat) (fl : List (BitVec 5)) : Option FaultInfo :=
  let hit := findWith (fun f => (enVdiv t && decide (f &&& flDivZero ≠ 0)) || (enVovf t && decide (f &&& flOverflow ≠ 0))) fl
  match hit with
  | none => none
  | some (i, f) => some (laneFault (if enVdiv t && decide (f &&& flDivZero ≠ 0) then fDivZero else fOverflow) cls i)

/-- The vector written by lanes with their flags. -/
def vecWrite (x : Ctx) (w : Nat) (vd : VReg) (rs : List LaneRes) : OpRes :=
  match vecFault x.t x.cls (rs.map (·.2)) with
  | some f => .fault f
  | none => .write fun t => (t.setV vd (ofLanes w (rs.map (·.1)))).addFlags (rs.foldl (fun a r => a ||| r.2) 0)

/-- vcvt of part q (R92): narrowing writes destination lanes from q × (512 / ws), widening reads source lanes from q × (512 / wd).
Under SR the step is the thread's count of vcvt ops since SEED was written, the column the lane of the source. -/
def evalVcvt (x : Ctx) (q : Nat) (src : BitVec 4) (vd va : VReg) (dst : BitVec 4) (md : BitVec 3) : OpRes :=
  let ws := fmtWidth src
  let wd := fmtWidth dst
  let mode := modeOf md.toNat x.t.rmode
  let a := x.t.getV va
  let conv (i lane : Nat) : LaneRes :=
    convert dst mode (srBits x.t.seed x.t.vcvts 0 0 (BitVec.ofNat 32 lane)) (valOf src (laneOf ws a i))
  let rs : List LaneRes :=
    if wd ≥ ws then (List.range (512 / wd)).map fun i => conv (q * (512 / wd) + i) (q * (512 / wd) + i)
    else (List.range (512 / ws)).map fun i => conv i i
  let count (t : Thread) : Thread := { t with vcvts := t.vcvts + 1 }
  let fl := rs.foldl (fun a r => a ||| r.2) 0
  match vecFault x.t x.cls (rs.map (·.2)) with
  | some f => .fault f
  | none =>
    if wd ≥ ws then .write fun t => count ((t.setV vd (ofLanes wd (rs.map (·.1)))).addFlags fl)
    else
      let old := lanes wd (x.t.getV vd)
      let at_ := q * (512 / ws)
      .write fun t => count ((t.setV vd (ofLanes wd (old.take at_ ++ rs.map (·.1) ++ old.drop (at_ + 512 / ws)))).addFlags fl)

/-- V-form ops (Table 3.10). -/
def evalVec (x : Ctx) (f : VecFn) (fmt : BitVec 4) (vd va vb : VReg) (md : BitVec 3) : OpRes :=
  let w := fmtWidth fmt
  let a := x.t.getV va
  let b := x.t.getV vb
  let d := x.t.getV vd
  let n := 512 / w
  let each (g : Nat → LaneRes) : OpRes := vecWrite x w vd ((List.range n).map g)
  match f with
  | .and => .write fun t => t.setV vd (a &&& b)
  | .or => .write fun t => t.setV vd (a ||| b)
  | .xor => .write fun t => t.setV vd (a ^^^ b)
  | .sel => .write fun t => t.setV vd ((d &&& a) ||| (~~~d &&& b))
  | .mov => .write fun t => t.setV vd a
  | .shl => each fun i => (laneShift true true w (laneOf w a i) (laneOf w b i), 0)
  | .shr => each fun i => (laneShift false (decide (md = 1)) w (laneOf w a i) (laneOf w b i), 0)
  | .cmp => each fun i => (if cmpMod md.toNat (laneCmp fmt (laneOf w a i) (laneOf w b i)) then 2 ^ w - 1 else 0, 0)
  | .perm => each fun i => (laneOf w a (laneOf w b i % n), 0)
  | .cvt q => evalVcvt x q.toNat fmt vd va vb md
  | .redAdd =>
    let r := treeSum fmt 6 ((lanes w a).map fun l => (l, 0))
    vecWrite x w vd [r]
  | .redMax => vecWrite x w vd [(maxLane fmt (lanes w a), 0)]
  | .div => each fun i => laneArith .div fmt (laneOf w a i) (laneOf w b i) 0
  | .sqrt => each fun i => laneArith .sqrt fmt (laneOf w a i) 0 0
  | g => each fun i => laneArith g fmt (laneOf w a i) (laneOf w b i) (laneOf w d i)

def evalVbcast (x : Ctx) (fmt : BitVec 4) (g : GReg) (v : VReg) : OpRes :=
  let w := fmtWidth fmt
  .write fun t => t.setV v (ofLanes w (List.replicate (512 / w) (x.t.getG g).toNat))

/-- vext: integers sign-extended, floats as raw bits zero-extended, f64 bits 31:0. -/
def evalVext (x : Ctx) (fmt : BitVec 4) (g : GReg) (v : VReg) (lane : BitVec 6) : OpRes :=
  let w := fmtWidth fmt
  let l := laneOf w (x.t.getV v) lane.toNat
  .write fun t => t.setG g (if isIntFmt fmt then BitVec.ofInt 32 (sLane w l) else BitVec.ofNat 32 l)

def evalVins (x : Ctx) (fmt : BitVec 4) (g : GReg) (v : VReg) (lane : BitVec 6) : OpRes :=
  let w := fmtWidth fmt
  let old := lanes w (x.t.getV v)
  .write fun t => t.setV v (ofLanes w (modifyAt (fun _ => (x.t.getG g).toNat) lane.toNat old))

end Sys2Proof.Machine
end

