-- ==== Sys2Proof/Machine/Matrix.lean ====
section
/-! DEFINITION. The matrix unit: tile file, configuration checks, mma, accumulators, conversion, tsave and trestore (R159 to R185).
Each function is the whole effect of one op on a core. -/

namespace Sys2Proof.Machine

open Sys2Proof

/-! ## Configurations (Table 3.12, R159) -/

def tileCfgOf (w : Word) : TileCfg :=
  { rows := fld 6 w 5 0, rlen := fld 5 w 10 6, fmt := fld 4 w 14 11, scen := bitOf w 15, stile := fld 4 w 19 16
    blk := fld 3 w 22 20, dir := bitOf w 23 }

def TileCfg.nrows (c : TileCfg) : Nat := c.rows.toNat + 1
/-- Row length in bytes. -/
def TileCfg.rowBytes (c : TileCfg) : Nat := (c.rlen.toNat + 1) * 16
def TileCfg.size (c : TileCfg) : Nat := c.nrows * c.rowBytes
def TileCfg.width (c : TileCfg) : Nat := fmtWidth c.fmt
/-- Elements per row. -/
def TileCfg.elems (c : TileCfg) : Nat := c.rowBytes * 8 / c.width
/-- Block size: 8, 16, 32, 64 or 128. -/
def TileCfg.block (c : TileCfg) : Nat := 8 * 2 ^ c.blk.toNat

def Matrix.cfg (m : Matrix) (t : Nat) : TileCfg := mapGet {} m.tiles t
def Matrix.used (m : Matrix) (t : Nat) : Bool := bitOf m.inUse t

/-- Bytes of the file that tiles other than t occupy. -/
def Matrix.otherSizes (m : Matrix) (t : Nat) : Nat :=
  ((List.range 16).filter (· ≠ t)).foldl (fun a i => a + (m.cfg i).size) 0

/-- The least multiple of 16 that holds n bytes. -/
def round16 (n : Nat) : Nat := ceilDiv n 16 * 16

def isIntElem (f : BitVec 4) : Bool := decide (f = 0x8 ∨ f = 0x9 ∨ f = 0xB ∨ f = 0xC)
def isScaleFmt (f : BitVec 4) : Bool := decide (f = 0xD ∨ f = 0xE)

/-- Reasons 0x5 and 0x6 of a configuration with SCEN = 1 (R140, R163, Table 6.1). -/
def scaleReason (m : Matrix) (c : TileCfg) : Option Nat :=
  if ! c.scen then none
  else
    let sc := m.cfg c.stile.toNat
    if isIntElem c.fmt || isScaleFmt c.fmt || ! isScaleFmt sc.fmt || sc.scen then some 0x5
    else
      let e := c.elems
      let b := c.block
      let ok := if c.dir then decide (sc.nrows = ceilDiv c.nrows b ∧ sc.rowBytes = round16 e)
        else decide (sc.nrows = c.nrows ∧ e % b = 0 ∧ sc.rowBytes = round16 (e / b))
      if ok then none else some 0x6

/-- The TILE_CFG reason of a tcfg word (Table 6.1). -/
def tcfgReason (m : Matrix) (t : Nat) (w : Word) : Option Nat :=
  let c := tileCfgOf w
  if w >>> 24 ≠ 0 ∨ c.blk > 4 ∨ c.fmt = 0xA ∨ c.fmt = 0xF then some 0x1
  else if m.otherSizes t + c.size > 131072 then some 0x2
  else if c.rowBytes * 8 % c.width ≠ 0 then some 0x3
  else if c.scen ∧ c.stile.toNat = t then some 0x4
  else scaleReason m c

/-! ## Accumulator descriptors (Table 3.13, R177) -/

def Matrix.desc (m : Matrix) (a : Nat) : AccDesc := mapGet { base := BitVec.ofNat 9 a } m.descs a
def Matrix.setDesc (m : Matrix) (a : Nat) (d : AccDesc) : Matrix :=
  { m with descs := mapSet { base := BitVec.ofNat 9 a } m.descs a d }
def AccDesc.nrows (d : AccDesc) : Nat := (d.rows.toNat + 1) * 8
def AccDesc.ncols (d : AccDesc) : Nat := (d.cols.toNat + 1) * 16
def AccDesc.entries (d : AccDesc) : Nat := d.nrows * d.ncols
def AccDesc.first (d : AccDesc) : Nat := d.base.toNat * 128
def AccDesc.entry (d : AccDesc) (row col : Nat) : Nat := d.first + row * d.ncols + col

def accDescOf (w : Word) : AccDesc :=
  { base := fld 9 w 8 0, rows := fld 4 w 12 9, cols := fld 3 w 15 13, s := fld 10 w 25 16, chunk := 0 }

/-- Reason 0x9 (R96). -/
def accCfgBad (w : Word) : Bool :=
  let d := accDescOf w
  decide (w >>> 26 ≠ 0 ∨ d.first + d.entries > 65536)

def groupSize (g : BitVec 2) : Nat := 4 * 2 ^ g.toNat

/-- Kc of Table 6.3; none for a format without a matrix rate. -/
def kcOf (f : BitVec 4) : Option Nat :=
  match f.toNat with
  | 0x0 => some 1
  | 0x1 | 0x2 => some 8
  | 0x3 | 0x4 | 0x8 => some 16
  | 0x5 | 0x6 | 0x7 | 0x9 => some 32
  | _ => none

/-- The configuration checks of an mma, in the order of R160. -/
def mmaCheck (m : Matrix) (acc ta tb : Nat) (g : BitVec 2) : Option FaultInfo :=
  let a := m.cfg ta
  let b := m.cfg tb
  if a.fmt ≠ b.fmt then some (tileFault fFmt ta 1)
  else if kcOf a.fmt = none then some (tileFault fFmt ta 2)
  else
    let d := m.desc acc
    let ra := scaleReason m a
    let rb := scaleReason m b
    if ra = some 5 then some (tileFault fTileCfg ta 5)
    else if rb = some 5 then some (tileFault fTileCfg tb 5)
    else if ra = some 6 then some (tileFault fTileCfg ta 6)
    else if rb = some 6 then some (tileFault fTileCfg tb 6)
    else if a.elems ≠ b.elems ∨ a.elems % groupSize g ≠ 0 then some (tileFault fTileCfg ta 7)
    else if a.nrows > d.nrows then some (tileFault fTileCfg ta 8)
    else if b.nrows > d.ncols then some (tileFault fTileCfg tb 8)
    else none

def cvtCheck (m : Matrix) (acc t : Nat) : Option FaultInfo :=
  let c := m.cfg t
  let d := m.desc acc
  match scaleReason m c with
  | some r => some (tileFault fTileCfg t r)
  | none => if c.nrows ≠ d.nrows ∨ c.elems < d.ncols ∨ d.nrows > 64 then some (tileFault fTileCfg t 0xA) else none

/-- The control word of acc.cvt.s (Table 3.14): mode, format, stride. -/
def ctlMode (w : Word) : Nat := fieldOf w 26 24
def ctlFmt (w : Word) : BitVec 4 := fld 4 w 23 20
def ctlStride (w : Word) : Nat := fieldOf w 19 0
def ctlRow (d : AccDesc) (w : Word) : Nat := d.ncols * fmtWidth (ctlFmt w) / 8
def ctlStep (d : AccDesc) (w : Word) : Nat := if ctlStride w = 0 then ctlRow d w else ctlStride w

def cvtSBad (d : AccDesc) (w : Word) : Bool :=
  decide (w >>> 27 ≠ 0 ∨ ctlFmt w = 0xA ∨ ctlFmt w = 0xF ∨ ctlMode w > 5 ∨ (ctlStride w ≠ 0 ∧ ctlStride w < ctlRow d w))

/-- The configuration checks of a MAT op (Table 6.1, R160). -/
def matCfgCheck (m : Matrix) (w : MatWork) : Option FaultInfo :=
  match w with
  | .tcfg t v => (tcfgReason m t.toNat v).map (tileFault fTileCfg t.toNat)
  | .accCfg _ v => if accCfgBad v then some (tileFault fTileCfg 0 9) else none
  | .tld t _ _ _ x =>
    let k := (m.cfg t.toNat).width
    if x ∧ k ≠ 8 ∧ k ≠ 16 ∧ k ≠ 32 then some (tileFault fTileCfg t.toNat 0xB) else none
  | .mma a ta tb g _ _ _ => mmaCheck m a.toNat ta.toNat tb.toNat g
  | .accCvt a t _ => cvtCheck m a.toNat t.toNat
  | .accCvtS a _ _ v => if cvtSBad (m.desc a.toNat) v then some (tileFault fTileCfg 0 0xA) else none
  | _ => none

/-! ## Scratchpad rows of MAT ops (R164 to R166) -/

/-- The rows an op touches: offset and length of each; rows whose extent is fixed only at execution are the header (R166). -/
def matRows (m : Matrix) (w : MatWork) : List (Nat × Nat) :=
  match w with
  | .tld t _ off st x =>
    let c := m.cfg t.toNat
    if x then (List.range c.elems).map fun j => (off.toNat + j * st.toNat, ceilDiv (c.nrows * c.width) 8)
    else (List.range c.nrows).map fun i => (off.toNat + i * st.toNat, c.rowBytes)
  | .tst t _ off st =>
    let c := m.cfg t.toNat
    (List.range c.nrows).map fun i => (off.toNat + i * st.toNat, c.rowBytes)
  | .tsave _ off => [(off.toNat, 16)]
  | .trestore _ off => [(off.toNat, 16)]
  | .accCvtS a _ off v =>
    let d := m.desc a.toNat
    (List.range d.nrows).map fun i => (off.toNat + i * ctlStep d v, ctlRow d v)
  | .mseqRun _ _ off => [(off.toNat, 64)]
  | _ => []

/-- Capability, needed permissions, alignment unit and row stride of a MAT op's scratchpad access. -/
def matCap (w : MatWork) : Option (Cap × List Nat × Nat × Nat) :=
  match w with
  | .tld _ c _ st _ => some (c, [pR], 16, st.toNat)
  | .tst _ c _ st => some (c, [pW], 16, st.toNat)
  | .tsave c _ => some (c, [pW], 16, 0)
  | .trestore c _ => some (c, [pR], 16, 0)
  | .accCvtS _ c _ _ => some (c, [pW], 4, 0)
  | .mseqRun _ c _ => some (c, [pR], 64, 0)
  | _ => none

/-- Every row checked under Table 4.3, the own scratchpad at step 6 (R166): the first failure of the first row that fails. -/
def checkRows (c : Cap) (d : Domain) (n reg : Nat) (unit stride : Nat) : List (Nat × Nat) → Option FaultInfo
  | [] => none
  | (off, len) :: rs =>
    if ownScratch n (c.addrAt off) len = none then some (capFault fPerm reg 5 14)
    else match checkRange c reg 5 off len unit with
      | some f => some f
      | none => if stride % unit ≠ 0 then some (alignFault 5) else checkRows c d n reg unit stride rs

/-- The capability checks of a MAT op; reg names its register. -/
def matCapCheck (m : Matrix) (w : MatWork) (d : Domain) (n reg : Nat) : Option FaultInfo :=
  match matCap w with
  | none => none
  | some (c, ps, unit, stride) =>
    match checkRights c d reg 5 ps with
    | some f => some f
    | none => checkRows c d n reg unit stride (matRows m w)

/-- Whether a configuration fixes how many rows an op moves, or their length. -/
def rowsByCfg : MatWork → Bool
  | .tld .. => true
  | .tst .. => true
  | .accCvtS .. => true
  | _ => false

/-- The capability checks of an op whose rows wait for a pending configuration: its rights, and the alignment of its address and stride. -/
def matRightsCheck (m : Matrix) (w : MatWork) (d : Domain) (n reg : Nat) : Option FaultInfo :=
  if ! rowsByCfg w then matCapCheck m w d n reg
  else match matCap w with
    | none => none
    | some (c, ps, unit, stride) =>
      match checkRights c d reg 5 ps with
      | some f => some f
      | none =>
        if (c.addrAt ((matRows m w).headD (0, 0)).1).toNat % unit ≠ 0 ∨ stride % unit ≠ 0 then some (alignFault 5) else none

/-- The scratchpad offset of an offset in a capability of the own scratchpad. -/
def scratchOff (n : Nat) (c : Cap) (off : Nat) : Nat := (c.addrAt off).toNat - (scratchBase + n * 0x400000)

/-- The range that an op holds in the own scratchpad (R167): whether it writes, its first offset and its length. -/
def matRange (m : Matrix) (n : Nat) (w : MatWork) : Option (Bool × Nat × Nat) :=
  let hull (c : Cap) (rs : List (Nat × Nat)) : Nat × Nat :=
    let lo := rs.foldl (fun a r => min a r.1) (rs.headD (0, 0)).1
    let hi := rs.foldl (fun a r => max a (r.1 + r.2)) 0
    (scratchOff n c lo, hi - lo)
  match w with
  | .tld _ c _ _ _ => let h := hull c (matRows m w); some (false, h.1, h.2)
  | .tst _ c _ _ => let h := hull c (matRows m w); some (true, h.1, h.2)
  | .tsave c off => some (true, scratchOff n c off.toNat, 0x20010)
  | .trestore c off => some (false, scratchOff n c off.toNat, 0x20010)
  | .accCvtS _ c _ _ => let h := hull c (matRows m w); some (true, h.1, h.2)
  | _ => none

/-! ## Engines and sharing (R169) -/

def engineOf (w : MatWork) : Option Engine :=
  match w with
  | .tld .. | .tst .. | .tsave .. | .trestore .. => some .mover
  | .mma .. => some .datapath
  | .mseqRun .. => none
  | _ => some .converter

/-- A tile with its scale tile, if it has one. -/
def withScale (m : Matrix) (t : Nat) : List Nat :=
  let c := m.cfg t
  if c.scen then [t, c.stile.toNat] else [t]

/-- Tiles an op reads and writes; tsave and trestore name every tile. -/
def matReads (m : Matrix) (w : MatWork) : List Nat :=
  match w with
  | .tst t .. => [t.toNat]
  | .tsave .. => List.range 16
  | .mma _ a b .. => withScale m a.toNat ++ withScale m b.toNat
  | _ => []
def matWrites (m : Matrix) (w : MatWork) : List Nat :=
  match w with
  | .tcfg t _ => [t.toNat]
  | .tld t .. => [t.toNat]
  | .trel t => [t.toNat]
  | .trestore .. => List.range 16
  | .accCvt _ t _ => withScale m t.toNat
  | _ => []

/-- Accumulator tile an op names, and whether it writes its entries or descriptor. -/
def matAcc (w : MatWork) : Option (Nat × Bool) :=
  match w with
  | .accCfg a _ => some (a.toNat, true)
  | .mma a .. => some (a.toNat, true)
  | .accNorm a => some (a.toNat, true)
  | .accCvt a .. => some (a.toNat, false)
  | .accCvtS a .. => some (a.toNat, false)
  | _ => none

def rangesMeet (a n b m : Nat) : Bool := decide (a < b + m ∧ b < a + n)

/-- The accumulator descriptor whose entries an op touches: an acc.cfg clears those of its new one (R96). -/
def matDesc (m : Matrix) (w : MatWork) (acc : Nat) : AccDesc :=
  match w with
  | .accCfg _ v => accDescOf v
  | _ => m.desc acc

/-- Whether two ops share a tile, scale tile or accumulator entry that one of them writes (R169), each under the configurations of its turn. -/
def matShare (ma : Matrix) (a : MatWork) (mb : Matrix) (b : MatWork) : Bool :=
  let ra := matReads ma a
  let wa := matWrites ma a
  let rb := matReads mb b
  let wb := matWrites mb b
  let tiles := wa.any (fun t => rb.contains t || wb.contains t) || wb.any (fun t => ra.contains t)
  let acc := match matAcc a, matAcc b with
    | some (x, w1), some (y, w2) =>
      let da := matDesc ma a x
      let db := matDesc mb b y
      (w1 || w2) && (decide (x = y) || rangesMeet da.first da.entries db.first db.entries)
    | _, _ => false
  tiles || acc

/-- Tiles and accumulator tiles that a table's step names (R192). -/
def matNames (m : Matrix) (w : MatWork) : List Nat × List Nat :=
  (matReads m w ++ matWrites m w, match matAcc w with | some (a, _) => [a] | none => [])

/-! ## Tile contents -/

/-- A byte of a tile: zero while the tile is not in use (R162). -/
def Matrix.tileByte (m : Matrix) (t off : Nat) : Byte := if m.used t then mapGet 0 (mapGet [] m.tileData t) off else 0

def Matrix.tileBytes (m : Matrix) (t : Nat) : List Byte := (List.range (m.cfg t).size).map (m.tileByte t)

/-- The rows of a tile from bytes, packed end to end; the tile becomes in use. -/
def Matrix.setTile (m : Matrix) (t : Nat) (bs : List Byte) : Matrix :=
  { m with tileData := mapSet [] m.tileData t (writeBytes [] 0 bs), inUse := setBit m.inUse t true }

def Matrix.clearTile (m : Matrix) (t : Nat) : Matrix := { m with tileData := mapDel m.tileData t, inUse := setBit m.inUse t false }

/-- Element k of row i of a tile, as bits (R134). -/
def Matrix.elem (m : Matrix) (t : Nat) (i k : Nat) : Nat :=
  let c := m.cfg t
  let w := c.width
  let at_ := i * c.rowBytes + w * k / 8
  leNat ((List.range (w / 8 + 2)).map fun j => m.tileByte t (at_ + j)) / 2 ^ (w * k % 8) % 2 ^ w

/-- The scale element of element (i, k) (R163). -/
def Matrix.scaleOf (m : Matrix) (t : Nat) (i k : Nat) : Val :=
  let c := m.cfg t
  if c.scen then
    let sc := m.cfg c.stile.toNat
    let at_ := if c.dir then i / c.block * sc.rowBytes + k else i * sc.rowBytes + k / c.block
    valOf sc.fmt (m.tileByte c.stile.toNat at_).toNat
  else .fin false 1 0

/-- Element (i, k) times its scale, exactly (R144, R145). -/
def Matrix.operand (m : Matrix) (t : Nat) (i k : Nat) : Val :=
  (valMul (valOf (m.cfg t).fmt (m.elem t i k)) (m.scaleOf t i k)).1

/-! ## mma (R172 to R181) -/

/-- The exact sum of group g of output (row, col) (R174, R145). -/
def groupSum (m : Matrix) (ta tb : Nat) (gs g row col : Nat) : Val :=
  (List.range gs).foldl (fun a i => (valAdd a (valMul (m.operand ta row (g * gs + i)) (m.operand tb col (g * gs + i))).1).1) (.fin false 0 0)

def nar : BitVec 36 := 0x800000000
def accMax : Int := 34359738367

/-- An accumulation in progress: entries, S, replays made, whether an entry saturated, whether one became NAR. -/
structure AccRun where
  acc : Map (BitVec 36)
  s : Int
  replays : Nat
  sat : Bool
  nar : Bool

def AccRun.put (r : AccRun) (e : Nat) (v : BitVec 36) : AccRun := { r with acc := mapSet 0 r.acc e v }

/-- What alignment and the generator depend on: SEED, step, accumulator tile, whether .rn. -/
structure AlignArgs where
  seed : Word
  step : Word
  acc : Nat
  rn : Bool

/-- A group sum aligned to 2^S (R179). -/
def alignSum (x : AlignArgs) (s : Int) (row col : Nat) (neg : Bool) (m : Nat) (e : Int) : Int :=
  let r := srBits x.seed x.step (BitVec.ofNat 32 x.acc) (BitVec.ofNat 32 row) (BitVec.ofNat 32 col)
  let v := (roundMag (if x.rn then 0 else 4) r neg m e s).1
  if neg then -(v : Int) else v

/-- Whether an entry would leave the range at group g (R180); special sums and NAR entries do not. -/
def wouldLeave (x : AlignArgs) (d : AccDesc) (r : AccRun) (o : Nat × Nat × Val) : Bool :=
  match o.2.2 with
  | .fin neg m e =>
    let v := mapGet 0 r.acc (d.entry o.1 o.2.1)
    v ≠ nar && decide ((v.toInt + alignSum x r.s o.1 o.2.1 neg m e).natAbs > accMax.natAbs)
  | _ => false

/-- The group addition of one output (R148, R179, R147). -/
def addOne (x : AlignArgs) (d : AccDesc) (r : AccRun) (o : Nat × Nat × Val) : AccRun :=
  let e0 := d.entry o.1 o.2.1
  let v := mapGet 0 r.acc e0
  if v = nar then r
  else match o.2.2 with
    | .nan _ => { r.put e0 nar with nar := true }
    | .inf neg =>
      let opposite := if neg then accMax else -accMax
      if v.toInt = opposite then { r.put e0 nar with nar := true }
      else { r.put e0 (BitVec.ofInt 36 (if neg then -accMax else accMax)) with sat := true }
    | .fin neg m e =>
      let t := v.toInt + alignSum x r.s o.1 o.2.1 neg m e
      if t.natAbs > accMax.natAbs then { r.put e0 (BitVec.ofInt 36 (if t < 0 then -accMax else accMax)) with sat := true }
      else r.put e0 (BitVec.ofInt 36 t)

/-- Rescale replay n: S + 1, every non-NAR entry of the tile halved under SR (R180). -/
def replayOnce (x : AlignArgs) (d : AccDesc) (n : Nat) (r : AccRun) : AccRun :=
  let halve (a : Map (BitVec 36)) (i : Nat) : Map (BitVec 36) :=
    let e0 := d.first + i
    let v := mapGet 0 a e0
    if v = nar then a
    else
      let rb := srBits x.seed x.step (BitVec.ofNat 32 (64 * n + x.acc)) (BitVec.ofNat 32 (i / d.ncols)) (BitVec.ofNat 32 (i % d.ncols))
      let h := (roundMag 4 rb false v.toInt.natAbs 0 1).1
      mapSet 0 a e0 (BitVec.ofInt 36 (if v.toInt < 0 then -(h : Int) else h))
  { r with acc := (List.range d.entries).foldl halve r.acc, s := r.s + 1, replays := r.replays + 1 }

/-- Replays while an entry of the block would leave the range: at most three, none at S = 511 (R180). -/
def replays (x : AlignArgs) (d : AccDesc) (outs : List (Nat × Nat × Val)) : Nat → Nat → AccRun → AccRun
  | 0, _, r => r
  | fuel + 1, n, r =>
    if outs.any (wouldLeave x d r) && decide (r.s < 511) then replays x d outs fuel (n + 1) (replayOnce x d n r) else r

/-- Group g of one block of 8 rows by 16 columns (R173, R180); integer operands replay nothing (R181). -/
def blockGroup (m : Matrix) (job : MatJob) (d : AccDesc) (acc ta tb gs : Nat) (rn isInt : Bool) (chunk : Nat) (rb cb g : Nat) (r : AccRun) : AccRun :=
  let rows := (List.range 8).map (rb * 8 + ·) |>.filter (· < (m.cfg ta).nrows)
  let cols := (List.range 16).map (cb * 16 + ·) |>.filter (· < (m.cfg tb).nrows)
  let outs := rows.flatMap fun i => cols.map fun j => (i, j, groupSum m ta tb gs g i j)
  let x : AlignArgs := { seed := job.seed, step := BitVec.ofNat 32 (chunk * 256 + g), acc := acc, rn := rn }
  let r1 := if isInt then r else replays x d outs 3 1 r
  outs.foldl (fun r o => addOne x d r o) r1

/-- floor(log2) of the magnitude of a finite non-zero value. -/
def logOf : Val → Option Int
  | .fin _ m e => if m = 0 then none else some (e + bitLen m - 1)
  | _ => none

/-- The largest floor(log2) of a list of sums, NaN and infinite ones ignored (R178, R148). -/
def maxLog (xs : List Val) : Option Int :=
  xs.foldl (fun a v => match a, logOf v with
    | none, o => o
    | some x, some y => some (max x y)
    | some x, none => some x) none

/-- An mma (R172 to R181): the new matrix unit and whether an entry saturated. -/
def mmaExec (m : Matrix) (job : MatJob) (acc ta tb : Nat) (g z : BitVec 2) (rn : Bool) (s0 : BitVec 10) : Matrix × Bool :=
  let d := m.desc acc
  let a := m.cfg ta
  let b := m.cfg tb
  let gs := groupSize g
  let kc := (kcOf a.fmt).getD 1
  let isInt := isIntElem a.fmt
  let zero := decide (z ≠ 0)
  let acc0 := if zero then (List.range d.entries).foldl (fun m i => mapSet 0 m (d.first + i) 0) m.acc else m.acc
  let chunk := if zero then 0 else d.chunk.toNat
  let blocks := ceilDiv a.nrows 8 * ceilDiv b.nrows 16
  let s : Int :=
    if isInt then 0
    else if z = 1 then s0.toInt
    else if z = 2 then
      let sums := (List.range a.nrows).flatMap fun i => (List.range b.nrows).map fun j => groupSum m ta tb gs 0 i j
      match maxLog sums with
      | some l => max (-512) (min 511 (l - 27))
      | none => d.s.toInt
    else d.s.toInt
  let run0 : AccRun := { acc := acc0, s := s, replays := 0, sat := false, nar := false }
  let places := (List.range (ceilDiv a.nrows 8)).flatMap fun rb => (List.range (ceilDiv b.nrows 16)).flatMap fun cb =>
    (List.range (a.elems / gs)).map fun gi => (rb, cb, gi)
  let run := places.foldl (fun r p => blockGroup m job d acc ta tb gs rn isInt chunk p.1 p.2.1 p.2.2 r) run0
  let busy := blocks * ceilDiv a.elems kc + (if z = 2 then blocks * ceilDiv gs kc else 0)
  let d1 : AccDesc := { d with s := BitVec.ofInt 10 run.s, chunk := BitVec.ofNat 24 (chunk + 1) }
  ({ (m.setDesc acc d1) with
      acc := run.acc, accSat := m.accSat || run.sat, narSeen := m.narSeen || run.nar
      replayCnt := m.replayCnt + BitVec.ofNat 32 run.replays, busyCyc := m.busyCyc + BitVec.ofNat 32 busy }, run.sat)

/-! ## Other accumulator ops (R177, R182 to R185) -/

def accCfgExec (m : Matrix) (acc : Nat) (w : Word) : Matrix :=
  let d := accDescOf w
  { (m.setDesc acc d) with acc := (List.range d.entries).foldl (fun a i => mapSet 0 a (d.first + i) 0) m.acc }

/-- acc.norm (R182). -/
def accNormExec (m : Matrix) (acc : Nat) : Matrix :=
  let d := m.desc acc
  let mags := (List.range d.entries).map fun i =>
    let v := mapGet 0 m.acc (d.first + i)
    if v = nar then 0 else v.toInt.natAbs
  let top := mags.foldl max 0
  if top = 0 ∨ top ≥ 2 ^ 27 then m
  else
    let l : Nat := (min (27 - ((bitLen top : Int) - 1)) (d.s.toInt + 512)).toNat
    let scale (a : Map (BitVec 36)) (i : Nat) : Map (BitVec 36) :=
      let v := mapGet 0 a (d.first + i)
      if v = nar then a else mapSet 0 a (d.first + i) (BitVec.ofInt 36 (v.toInt * 2 ^ l))
    { (m.setDesc acc { d with s := BitVec.ofInt 10 (d.s.toInt - l) }) with acc := (List.range d.entries).foldl scale m.acc }

/-- The value of an entry (R146). -/
def Matrix.entryVal (m : Matrix) (d : AccDesc) (row col : Nat) : Val :=
  let v := mapGet 0 m.acc (d.entry row col)
  if v = nar then .nan true else .fin (decide (v.toInt < 0)) v.toInt.natAbs d.s.toInt

/-- Elements packed into bytes (R134). -/
def packBytes (w n : Nat) (xs : List Nat) : List Byte := leBytes n (packLanes w xs)

/-- SR bits of a conversion (R183). -/
def cvtBits (job : MatJob) (d : AccDesc) (acc row col : Nat) : Nat :=
  srBits job.seed (d.chunk.zeroExtend 32) (BitVec.ofNat 32 (256 + acc)) (BitVec.ofNat 32 row) (BitVec.ofNat 32 col)

/-- The exponent of a format's largest finite value, and that value (R184). -/
def eMaxOf (f : BitVec 4) : Int :=
  match f.toNat with
  | 0x0 | 0x1 => 127
  | 0x2 | 0x3 => 15
  | 0x4 => 8
  | 0x5 => 4
  | _ => 2
def largestOf (f : BitVec 4) : Val := valOf f (maxFinite (fmtInfo f))

/-- The scale of a block whose largest magnitude is top × 2^S: its byte (R184). -/
def blockScale (elem scale : BitVec 4) (top : Nat) (s : Int) : Nat :=
  if scale = 0xD then
    if top = 0 then 127 else (max 0 (min 254 ((bitLen top : Int) - 1 + s - eMaxOf elem + 127))).toNat
  else if top = 0 then 0x38
  else (convert 0xE 2 0 (valDiv (.fin false top s) (largestOf elem)).1).1

/-- The largest magnitude of the entries of a list of places. -/
def topOf (m : Matrix) (d : AccDesc) (ps : List (Nat × Nat)) : Nat :=
  ps.foldl (fun a p => match m.entryVal d p.1 p.2 with
    | .fin _ x _ => max a x
    | _ => a) 0

/-- acc.cvt (R183, R184): the new unit and the flags. -/
def accCvtExec (m : Matrix) (job : MatJob) (acc t rm : Nat) : Matrix × BitVec 5 :=
  let d := m.desc acc
  let c := m.cfg t
  let mode := modeOf rm job.rmode
  let b := c.block
  let e := c.elems
  let sc := m.cfg c.stile.toNat
  let scaleAt (i k : Nat) : Nat :=
    let ps := if c.dir then ((List.range b).map fun j => (i / b * b + j, k)).filter fun p => p.1 < d.nrows ∧ p.2 < d.ncols
      else ((List.range b).map fun j => (i, k / b * b + j)).filter fun p => p.2 < d.ncols
    blockScale c.fmt sc.fmt (topOf m d ps) d.s.toInt
  let elemAt (i k : Nat) : LaneRes :=
    let v := m.entryVal d i k
    let x := if c.scen then (valDiv v (valOf sc.fmt (scaleAt i k))).1 else v
    let x1 := match v with
      | .nan n => .nan n
      | _ => x
    convert c.fmt mode (cvtBits job d acc i k) x1
  let rows := (List.range d.nrows).map fun i => (List.range e).map fun k => if k < d.ncols then elemAt i k else (0, 0)
  let data := rows.flatMap fun r => packBytes c.width c.rowBytes (r.map (·.1))
  let flags := rows.foldl (fun a r => r.foldl (fun a x => a ||| x.2) a) 0
  let m1 := m.setTile t data
  let m2 :=
    if c.scen then
      let nb := if c.dir then e else e / b
      let srows := (List.range sc.nrows).flatMap fun i =>
        padTo sc.rowBytes ((List.range nb).map fun k => BitVec.ofNat 8 (if c.dir then scaleAt (i * b) k else scaleAt i (k * b)))
      m1.setTile c.stile.toNat srows
    else m1
  (m2, flags)

/-- acc.cvt.s (R185): the rows to write and the flags. -/
def accCvtSRows (m : Matrix) (job : MatJob) (acc : Nat) (ctl : Word) : List (List Byte) × BitVec 5 :=
  let d := m.desc acc
  let f := ctlFmt ctl
  let mode := modeOf (ctlMode ctl) job.rmode
  let rows := (List.range d.nrows).map fun i =>
    (List.range d.ncols).map fun k => convert f mode (cvtBits job d acc i k) (m.entryVal d i k)
  (rows.map fun r => packBytes (fmtWidth f) (ctlRow d ctl) (r.map (·.1)), rows.foldl (fun a r => r.foldl (fun a x => a ||| x.2) a) 0)

/-! ## Poison of the tile file and accumulator memory (R422, R423) -/

/-- The keys of tile t's ECC words: t × 4096 + offset / 8. -/
def tileWords (m : Matrix) (t : Nat) : List Nat := (List.range ((m.cfg t).size / 8)).map (t * 4096 + ·)

/-- The structure that an op's read of a poisoned word names: 2 tile file, 3 accumulator; none if it reads none. -/
def matPoison (c : Core) (w : MatWork) : Option Nat :=
  let ts := match w with
    | .tsave .. => (List.range 16).filter c.mat.used
    | _ => matReads c.mat w
  if ts.any fun t => c.mat.used t && (tileWords c.mat t).any fun k => mapGet false c.mem.tilePoison k then some 2
  else
    let readsAcc := match w with
      | .mma _ _ _ _ z _ _ => decide (z = 0)
      | .accNorm _ | .accCvt .. | .accCvtS .. => true
      | _ => false
    match matAcc w with
    | some (a, _) =>
      let d := c.mat.desc a
      if readsAcc && (List.range d.entries).any fun i => mapGet false c.mem.accPoison (d.first + i) then some 3 else none
    | none => none

end Sys2Proof.Machine
end

