-- ==== Sys2Proof/Machine/Faults.lean ====
section
/-! DEFINITION. Taking a fault: parking, handler entry, escalation, death, deferred faults and fault records (R52 to R55, R119 to
R129). -/

namespace Sys2Proof.Machine

open Sys2Proof

/-! Channel-15 tags (Table 4.13). -/
def tagParked : BitVec 4 := 1
def tagEscalated : BitVec 4 := 2
def tagDead : BitVec 4 := 3
def tagEscBusy : BitVec 4 := 4
def tagDeferDropped : BitVec 4 := 5
def tagCoreLost : BitVec 4 := 6
def tagCtlAck : BitVec 4 := 9
def tagThreadCtl : BitVec 4 := 15

/-- Word 0 of a fault record (Table 4.12). -/
def recordWord0 (s : State) (n k : Nat) (code : Byte) : Word :=
  packWord [(code.toNat, 0), (k, 8), (s.logical n, 10), (courseOf n, 15), ((s.regionOf n).toNat, 20)]

/-- A fault record joins the records of its thread that wait to leave (R128, R129), and the trace (R415). -/
def pushRecord (s : State) (n : Nat) (k : ThreadNo) (tag : BitVec 4) (code : Byte) (addr detail : Word) : State :=
  (traceEvent true n k addr s).modThread n k.val fun t =>
    { t with records := t.records ++ [{ tag := tag, w0 := recordWord0 s n k.val code, w1 := addr, w2 := detail, w3 := s.timeLo }] }

/-- A deferred fault of thread k is discarded: its DEFER_DROPPED record, and its coprocessor starts no op of the thread until the thread
next runs (R55). -/
def dropFault (n : Nat) (k : ThreadNo) (d : Deferred) (s : State) : State :=
  pushRecord (s.modCore n fun c => { c with afterDrop := c.afterDrop ++ [(d.cop, k)] }) n k tagDeferDropped d.code d.pc d.detail

/-- A fault that a coprocessor detects after release is held (R54). DEDUCED (log 42): one against a thread that has ended already is
discarded as R55 says, and one in a halted core is discarded without a record, as R76 says of those that the halt finds. -/
def deferFault (s : State) (n : Nat) (cop : Cop) (k : ThreadNo) (f : FaultInfo) (pc : Word) : State :=
  let d : Deferred := { cop := cop, thread := k, code := f.code, detail := f.detail ||| 0x80000000, pc := pc }
  let t := s.thread n k.val
  if (s.core n).ctl.halted then s
  else if t.st = .idle ∨ t.st = .dead then dropFault n k d s
  else s.modCore n fun c => { c with deferred := c.deferred ++ [d] }

/-- Discards the deferred faults held against a thread that ended (R55). -/
def dropDeferred (s : State) (n : Nat) (k : ThreadNo) : State :=
  let mine := (s.core n).deferred.filter fun d => decide (d.thread = k)
  foldState (dropFault n k) mine (s.modCore n fun c => { c with deferred := c.deferred.filter fun d => decide (d.thread ≠ k) })

/-- Whether a coprocessor starts no op of a thread: it holds a fault of the thread (R54), or discarded one and the thread has not run
since (R55). -/
def Core.holds (c : Core) (cop : Cop) (k : ThreadNo) : Bool :=
  (c.deferred.any fun d => decide (d.cop = cop ∧ d.thread = k)) || c.afterDrop.contains (cop, k)

/-- The thread stops issuing in a state: no bundle outstanding, no wait (R89, R127). -/
def Thread.stopIn (t : Thread) (st : TState) : Thread := { t with st := st, load := none, wait := none, held := none, fbuf := [] }

/-- exit, at CM (R89): IDLE; a thread that leaves escalation by exit clears ESC (R127). -/
def exitThread (s : State) (n : Nat) (k : ThreadNo) : State :=
  dropDeferred (s.modThread n k.val fun t => { t.stopIn .idle with esc := false }) n k

/-- DEAD, with its record (R127). -/
def killDead (s : State) (n : Nat) (k : ThreadNo) (code : Byte) (addr detail : Word) : State :=
  pushRecord (dropDeferred (s.modThread n k.val fun t => t.stopIn .dead) n k) n k tagDead code addr detail

/-- PARKED_FAULT, with its record; `at_` is the bundle that took the fault (R123, R126). -/
def park (s : State) (n : Nat) (k : ThreadNo) (tag : BitVec 4) (code : Byte) (at_ addr detail : Word) : State :=
  pushRecord (s.modThread n k.val fun t => { t.stopIn .parkedFault with parkedPc := at_ }) n k tag code addr detail

/-- The four words of a handler record (Table 4.10). -/
structure HandlerRecord where
  w0 : Word
  w1 : Word
  w2 : Word
  w3 : Word

def HandlerRecord.bytes (r : HandlerRecord) : List Byte :=
  leBytes 4 r.w0.toNat ++ leBytes 4 r.w1.toNat ++ leBytes 4 r.w2.toNat ++ leBytes 4 r.w3.toNat

def handlerRecord (s : State) (n : Nat) (k : ThreadNo) (f : FaultInfo) (at_ addr : Word) (deferred : Bool) : HandlerRecord :=
  { w0 := packWord [(f.code.toNat, 0), (k.val, 8), ((s.thread n k.val).gdepth.toNat, 10), (if deferred then addr.toNat / 4 else 0, 16)]
    w1 := at_, w2 := f.detail, w3 := s.timeLo }

/-- The scratchpad offset of the escalation stack (R114, Table 4.17). -/
def escBase (c : Core) : Nat := (c.ctl.escPage.getD 0).toNat * 4096

/-- A fault at a step of handler entry (R125, R126): s15 is the thread's before the fault. DESIGN CHOICE (log 43): where another thread has
ESC = 1 and SET = 0 as well, R126's first case goes first. -/
def escalate (s : State) (n : Nat) (k : ThreadNo) (f entry : FaultInfo) (rec : HandlerRecord) (s15 : Cap) (at_ addr : Word) : State :=
  let c := s.core n
  let other := (List.range 4).any fun j => decide (j ≠ k.val) && (c.thread j).esc
  let s0 := s.modThread n k.val fun t => t.setS 15 s15
  if other then park s0 n k tagEscBusy f.code at_ addr f.detail
  else match c.ctl.escPage, c.ctl.escVector with
    | some page, some vec =>
      let base := page.toNat * 4096
      let er : HandlerRecord := { w0 := entry.code.zeroExtend 32, w1 := 0, w2 := entry.detail ||| 0x40000000, w3 := s.timeLo }
      let s1 := s0.modCore n fun c => c.modMem fun m => ((m.writeScratch base rec.bytes).writeScratch (base + 0x10) er.bytes).writeCap (base + 0x20) s15
      let cap := mkCap true (scratchAddr n + BitVec.ofNat 48 base) 0xFFF 0xFFFF (permOf [pR, pW]) 0 ((s.regionOf n).zeroExtend 6)
      let s2 := s1.modThread n k.val fun t =>
        { (t.setS 15 cap) with esc := true, th := true, pc := (vec.zeroExtend 32) <<< 2, load := none, wait := none, held := none, st := .running }
      pushRecord s2 n k tagEscalated f.code addr f.detail
    | _, _ => killDead s0 n k f.code addr f.detail

/-- Whether two byte ranges of device addresses overlap. -/
def overlaps (a : Addr) (n : Nat) (b : Addr) (m : Nat) : Bool := decide (a.toNat < b.toNat + m ∧ b.toNat < a.toNat + n)

/-- Handler entry writes its record through the unsealed data capability: into the own scratchpad at once where no buffered store of
the thread overlaps it, else behind the thread's buffered stores, waiting for room where all eight entries are in use (R61, R222, log
16). -/
def writeThrough (s : State) (n : Nat) (k : ThreadNo) (c : Cap) (pc : Word) (bs : List Byte) : State :=
  let a := c.base
  let t := s.thread n k.val
  let entry : SbEntry := { addr := a, data := bs, capTag := none, module := s.normModule c.module, region := c.region, pc := pc, seq := t.storeSeq }
  let buffered := s.modThread n k.val fun t =>
    if t.sb.length < 8 then { t with sb := t.sb ++ [entry], storeSeq := t.storeSeq + 1 }
    else { t with entryWrite := some entry, storeSeq := t.storeSeq + 1 }
  match ownScratch n a bs.length with
  | some off =>
    if s.normModule c.module = 0xFFFF ∧ ! (t.sb.any fun e => overlaps e.addr e.data.length a bs.length) then
      s.modCore n fun c => c.modMem fun m => m.writeScratch off bs
    else buffered
  | none => buffered

/-- The offset of thread k's frame d (R113): through GSTACK, or its place in the reserved area where GSTACK is not set. -/
def frameAt (t : Thread) (n k d : Nat) : Nat :=
  match ownScratch n t.gstack.base 512 with
  | some off => if t.gstack.tag then off + 32 * d else frameOff k d
  | none => frameOff k d

/-- Pushes a gate frame: return capability and the present s15 (R113, R115). -/
def pushFrame (s : State) (n : Nat) (k : ThreadNo) (ret : Cap) : State :=
  let t := s.thread n k.val
  let off := frameAt t n k.val t.gdepth.toNat
  let s1 := s.modCore n fun c => c.modMem fun m => (m.writeCap off ret).writeCap (off + 16) (t.getS 15)
  s1.modThread n k.val fun t => { t with gdepth := t.gdepth + 1 }

/-- Handler entry (R124). DESIGN CHOICE (log 43): the detail word of a check of R115 names register 0 for FAULT_GATE and 1 for FAULT_GDATA,
which Table 4.9 does not number, and class 3; the write of the record names s15. -/
def handlerEntry (s : State) (n : Nat) (k : ThreadNo) (f : FaultInfo) (at_ addr : Word) (deferred : Bool) : State :=
  let t := s.thread n k.val
  let rec_ := handlerRecord s n k f at_ addr deferred
  let d : Domain := { module := s.module, region := s.regionOf n }
  let s15 := t.getS 15
  match gateCheck t.faultGate t.faultGdata 0 1 d n with
  | some e => escalate s n k f e rec_ s15 at_ addr
  | none =>
    if t.gdepth = 16 then escalate s n k f (capFault fBounds 0 3 1) rec_ s15 at_ addr
    else
      let s1 := pushFrame s n k (returnCap n at_ true false (s.regionOf n))
      let data := t.faultGdata.withOtype 0
      let s2 := s1.modThread n k.val fun t => t.setS 15 data
      match checkAccess data d 15 3 [pW] (if inImem data.base then some 13 else none) 0 16 16 with
      | some e => escalate s2 n k f e rec_ s15 at_ addr
      | none =>
        let s3 := writeThrough s2 n k data at_ rec_.bytes
        s3.modThread n k.val fun t =>
          { t with th := true, pc := (t.faultGate.base - blockAddr n).truncate 32, load := none, wait := none, held := none }

/-- Takes a fault at the bundle at `at_`; addr is the bundle that caused it (R52, R54, R121 to R127). -/
def takeFault (s : State) (n : Nat) (k : ThreadNo) (f : FaultInfo) (at_ addr : Word) (deferred : Bool) : State :=
  let s1 := s.modThread n k.val fun t => { t with lastFault := f.code, load := none, held := none, fbuf := [] }
  let t := s1.thread n k.val
  if t.esc then killDead s1 n k f.code addr f.detail
  else if f.code = fEcc ∧ fieldOf f.detail 3 0 = 6 then
    escalate s1 n k f f (handlerRecord s1 n k f at_ addr deferred) (t.getS 15) at_ addr
  else if t.th then park s1 n k tagParked f.code at_ addr f.detail
  else handlerEntry s1 n k f at_ addr deferred

end Sys2Proof.Machine
end

