-- ==== Sys2Proof/Machine/Lsu.lean ====
section
/-! DEFINITION. The load/store unit: store-buffer forwarding and holds, read cache, loads that leave the core, stores, atomics, acq
(R50, R51, R61, R65, R68, R86, R87, R167, R210 to R222). -/

namespace Sys2Proof.Machine

open Sys2Proof

/-- MODULE as the thread's module sees it: this module is 0xFFFF. -/
def Ctx.norm (x : Ctx) (m : BitVec 16) : BitVec 16 := if m = x.module then 0xFFFF else m

/-- A bundle held under R61 or R222 (sb) or under R65 or R167: it is withdrawn and issues again when the hold ends. The cycles of the
hold are a free count (log 3). -/
def holdThread (h : Hold) (n : Nat) (k : ThreadNo) (s : State) : State :=
  let d := s.drawCount
  let s1 := d.2.modThread n k.val fun t => { t with held := some h }
  s1.modCore n fun c =>
    { c with ctl := if h.sb then { c.ctl with sbStall := c.ctl.sbStall + d.1 } else { c.ctl with rtStall := c.ctl.rtStall + d.1 } }

def heldRes (x : Ctx) (sb : Bool) (module : BitVec 16) (a : Addr) (size : Nat) : OpRes :=
  .withdraw (holdThread { sb := sb, module := module, addr := a, size := size } x.n x.k)

/-- Whether a byte range meets a segment. -/
def Seg.meets (g : Seg) (module : BitVec 16) (a : Addr) (size : Nat) : Bool :=
  decide (g.module = module) && overlaps g.base (g.limit.toNat + 1) a size

def segMeets (o : Option Seg) (module : BitVec 16) (a : Addr) (size : Nat) : Bool :=
  match o with
  | some g => g.meets module a size
  | none => false

/-- Range checks (Table 2.15): a load is held by a pending destination, a store by a pending source too. Only entries of operations
released before `seq` count for a queued operation. -/
def rangeHeld (c : Core) (store : Bool) (seq : Option Nat) (module : BitVec 16) (a : Addr) (size : Nat) : Bool :=
  c.ranges.any fun e =>
    (match seq with | some q => decide (e.seq < q) | none => true) &&
      (segMeets e.dst module a size || (store && segMeets e.src module a size))

/-- The configurations after a pending tcfg or acc.cfg (R170). -/
def Matrix.ahead (m : Matrix) (w : MatWork) : Matrix :=
  match w with
  | .tcfg t v => { m with tiles := mapSet {} m.tiles t.toNat (tileCfgOf v) }
  | .accCfg a v => m.setDesc a.toNat (accDescOf v)
  | _ => m

/-- The MAT ops released and not completed, in release order. -/
def Matrix.pending (m : Matrix) : List MatJob := m.active.map (·.2) ++ m.queue

/-- The place of an op in the unit's order: an op of a table stands where its mseq.run does, since every later op that names one of the
table's tiles waits for the table's end (R161, R169, R192). -/
def Matrix.place (m : Matrix) (j : MatJob) : Nat :=
  match m.seq with
  | some r => if j.fromSeq then r.job.seq else j.seq
  | none => j.seq

/-- The pending ops released before a place, which alone install configurations before it. -/
def Matrix.older (m : Matrix) (q : Nat) : List MatJob := m.pending.filter fun b => decide (b.seq < q) && ! b.fromSeq

/-- The unit with the configurations that those ops leave (R170). -/
def Matrix.before (m : Matrix) (q : Nat) : Matrix := (m.older q).foldl (fun a b => a.ahead b.work) m

/-- The unit with the configurations in force at an op's turn. -/
def Matrix.turn (m : Matrix) (j : MatJob) : Matrix := m.before (m.place j)

/-- Holds of R167: a written range holds loads and stores, a read range stores. -/
def matHeld (c : Core) (n : Nat) (store : Bool) (a : Addr) (size : Nat) : Bool :=
  match ownScratch n a size with
  | none => false
  | some off => (c.mat.pending ++ c.mat.seqOps).any fun j => match matRange (c.mat.turn j) n j.work with
    | some (wr, lo, len) => (wr || store) && rangesMeet lo len off size
    | none => false

/-- Whether an access of the LSU is held under R65 or R167. -/
def lsuHeld (x : Ctx) (store : Bool) (module : BitVec 16) (a : Addr) (size : Nat) : Bool :=
  rangeHeld x.c store none module a size || (decide (module = 0xFFFF) && matHeld x.c x.n store a size)

/-- The thread's buffered stores that overlap an access, oldest first. -/
def sbOverlap (t : Thread) (module : BitVec 16) (a : Addr) (size : Nat) : List SbEntry :=
  t.sb.filter fun e => decide (e.module = module) && overlaps e.addr e.data.length a size

/-- Drained stores not yet acknowledged that overlap an access (R222). -/
def unackedOverlap (t : Thread) (module : BitVec 16) (a : Addr) (size : Nat) : Bool :=
  t.unacked.any fun u => decide (u.module = module) && overlaps u.addr u.data.length a size

/-- What a read comes to: bytes with their tag and what else it does, or another outcome of the op. -/
inductive MemRes where
  | ok (bytes : List Byte) (tag : Bool) (act : State → State)
  | out (r : OpRes)

/-- The 16-byte payload of a READ: the byte count (Table 10.2). -/
def readPayload (size : Nat) : List Byte := padTo 16 (leBytes 2 size)

/-- The stores of a core that are on their way to a line, oldest first: a fill that begins now may be read before they land (R222). -/
def Core.inFlightTo (c : Core) (line : Addr) : List (Addr × List Byte) :=
  ((List.range 4).flatMap fun k => (c.thread k).unacked.filter fun u => decide (u.module = 0xFFFF) && overlaps u.addr u.data.length line 128).map
    fun u => (u.addr, u.data)

/-- Sends the request of a withdrawn load or atomic, as soon as a TAG is free; a refusal at once answers it (R50, R205, R319). -/
def requestLoad (n : Nat) (k : ThreadNo) (w : Withdrawn) (region : BitVec 6) (kind : BitVec 5) (payload : List Byte) (s : State) : State :=
  match s.destOf n w.module region w.addr with
  | .error r => s.modThread n k.val fun t => { t with load := some { w with resp := some (.refused r), ready := true } }
  | .ok dst =>
    let s1 := s.modThread n k.val fun t =>
      { t with load := some { w with merge := if w.fill then (s.core n).inFlightTo w.addr else [] } }
    s1.request n (.load k) (reqPacket n dst region w.addr kind clsReq 0 payload)

/-- The fault of a refused or poisoned answer (R205, R423, R325): CAP_BOUNDS with cause 4 + kind, or ECC_UNCORRECTABLE. -/
def respFault (x : Ctx) (reg : Nat) : Resp → Option FaultInfo
  | .data _ => none
  | .refused k => some (capFault fBounds reg x.cls (4 + k.toNat))
  | .poisoned c => some (eccFault c.toNat)

/-- The answer that the withdrawn bundle finds when it issues again: the same access of the same bundle. -/
def answerFor (x : Ctx) (amo : Bool) (module : BitVec 16) (a : Addr) (size : Nat) : Option (Withdrawn × Resp) :=
  match x.t.load with
  | some w => match w.resp with
    | some r =>
      if w.pc = x.pc ∧ w.ready ∧ w.amo = amo ∧ w.module = module ∧
          (if w.fill then w.addr = lineAddr a else w.addr = a ∧ w.size = size) then some (w, r) else none
    | none => none
  | none => none

/-- Whether an address is tier memory of this module, which alone the cache holds (R210). -/
def cacheable (module : BitVec 16) (a : Addr) : Bool :=
  decide (module = 0xFFFF) && (match placeOfAddr a with | .tier1 _ | .tier2 .. => true | _ => false)

/-- A read of memory by the LSU. `vol` reads at the point of coherence (R215), `cached` may hit and fill the cache (R210), reg names
the capability register. DEDUCED (log 44): a vld is never forwarded, since R51 withdraws it and R215 reads it at the point of coherence; a
buffered store that overlaps it holds it as R61 holds a load it does not forward. -/
def memRead (x : Ctx) (reg : Nat) (cap : Cap) (off size : Nat) (vol cached : Bool) : MemRes :=
  let a := cap.addrAt off
  let module := x.norm cap.module
  match answerFor x false module a size with
  | some (w, .data bs) => .ok (if w.fill then (bs.drop (a.toNat % 128)).take size else bs) false id
  | some (_, r) => .out (match respFault x reg r with | some f => .fault f | none => .write id)
  | none =>
    let held := lsuHeld x false module a size
    if held then .out (heldRes x false module a size)
    else
      let ov := sbOverlap x.t module a size
      match ov.getLast? with
      | some e =>
        if ! vol && decide (e.addr.toNat ≤ a.toNat ∧ a.toNat + size ≤ e.addr.toNat + e.data.length) then
          .ok ((e.data.drop (a.toNat - e.addr.toNat)).take size) (e.capTag.getD false) id
        else .out (heldRes x true module a size)
      | none =>
        if unackedOverlap x.t module a size then .out (heldRes x true module a size)
        else
          let own := if module = 0xFFFF then ownScratch x.n a size else none
          match own with
          | some o =>
            if poisonedAt 8 x.c.mem.poison o size then .out (.ecc 1 o)
            else .ok (x.c.mem.readScratch o size) (mapGet false x.c.mem.tags (o / 16)) id
          | none =>
            let hit := if cached && cacheable module a then x.c.mem.cacheWay a else none
            match hit with
            | some w =>
              let l := mapGet noLine x.c.mem.cache (cacheSet a * 4 + w)
              .ok ((l.data.drop (a.toNat % 128)).take size) false fun s => s.modCore x.n fun c => c.modMem (·.touch a w)
            | none =>
              let fill := cached && cacheable module a
              let wd : Withdrawn := { tag := none, pc := x.pc, addr := if fill then lineAddr a else a, size := if fill then 128 else size
                                      module := module, fill := fill, amo := false, dropFill := false, resp := none, ready := false }
              .out (.withdraw (requestLoad x.n x.k wd cap.region kRead (readPayload wd.size)))

/-- What a load writes from its bytes (Table 3.8). -/
def loadWrite (f : LdFn) (rt : GReg) (bs : List Byte) (tag : Bool) (t : Thread) : Thread :=
  match f with
  | .b => t.setG rt ((leBits 8 bs).signExtend 32)
  | .bu => t.setG rt ((leBits 8 bs).zeroExtend 32)
  | .h => t.setG rt ((leBits 16 bs).signExtend 32)
  | .hu => t.setG rt ((leBits 16 bs).zeroExtend 32)
  | .w | .vw => t.setG rt (leBits 32 bs)
  | .d | .vd => t.setPair rt (leBits 64 bs)
  | .v => t.setV (rt.truncate 4) (leBits 512 bs)
  | .c => t.setS (rt.truncate 4) { bits := leBits 128 bs, tag := tag }

def ldNeeds : LdFn → List Nat
  | .c => [pR, pLdcap]
  | .vw | .vd => [pR, pVolatile]
  | _ => [pR]

/-- Step 6 of ldc and stc: the bytes lie in the own scratchpad, or cause 14 (R106). -/
def ownCause (x : Ctx) (cap : Cap) (off size : Nat) : Option Nat :=
  if x.norm cap.module = 0xFFFF ∧ (ownScratch x.n (cap.addrAt off) size).isSome then none else some 14

def evalLoad (x : Ctx) (f : LdFn) (rt : GReg) (capReg : SReg) (o : LsOff) : OpRes :=
  let cap := x.t.getS capReg
  let off := lsOffset x.t x.ext f.size o
  let op6 := if f = .c then ownCause x cap off 16 else none
  match checkAccess cap x.dom capReg.toNat x.cls (ldNeeds f) op6 off f.size f.size with
  | some e => .fault e
  | none =>
    let vol := decide (f = .vw ∨ f = .vd)
    match memRead x capReg.toNat cap off f.size vol (! vol && decide (f ≠ .c)) with
    | .out r => r
    | .ok bs tag act => .done (loadWrite f rt bs tag) act

/-! ## Stores (R61, R68) -/

def storeData (t : Thread) (f : StFn) (rt : GReg) : List Byte :=
  match f with
  | .b => leBytes 1 (t.getG rt).toNat
  | .h => leBytes 2 (t.getG rt).toNat
  | .w => leBytes 4 (t.getG rt).toNat
  | .d => leBytes 8 (t.getPair rt).toNat
  | .v => leBytes 64 (t.getV (rt.truncate 4)).toNat
  | .c => leBytes 16 (t.getS (rt.truncate 4)).bits.toNat

/-- Step 6 of stores and atomics: an address in instruction memory is cause 13 (R68); stc outside the own scratchpad cause 14. -/
def storeCause (x : Ctx) (cap : Cap) (off : Nat) (isCap : Bool) : Option Nat :=
  if inImem (cap.addrAt off) then some 13 else if isCap then ownCause x cap off 16 else none

/-- A store enters the store buffer at WB. -/
def pushStore (e : SbEntry) (t : Thread) : Thread := { t with sb := t.sb ++ [{ e with seq := t.storeSeq }], storeSeq := t.storeSeq + 1 }

def evalStore (x : Ctx) (f : StFn) (rt : GReg) (capReg : SReg) (o : LsOff) : OpRes :=
  let cap := x.t.getS capReg
  let off := lsOffset x.t x.ext f.size o
  let needs := if f = .c then [pW, pStcap] else [pW]
  match checkAccess cap x.dom capReg.toNat x.cls needs (storeCause x cap off (decide (f = .c))) off f.size f.size with
  | some e => .fault e
  | none =>
    let a := cap.addrAt off
    let module := x.norm cap.module
    if lsuHeld x true module a f.size then heldRes x false module a f.size
    else
      let tag := if f = .c then some (x.t.getS (rt.truncate 4)).tag else none
      .write (pushStore { addr := a, data := storeData x.t f rt, capTag := tag, module := module, region := cap.region, pc := x.pc, seq := 0 })

/-! ## Atomics (R219, R220) -/

/-- Drops cached lines that meet p; a fill in flight for one returns its data and is not installed (R212, R214). -/
def acquire (p : Addr → Bool) (n : Nat) (s : State) : State :=
  s.modCore n fun c =>
    let mark (t : Thread) : Thread :=
      match t.load with
      | some w => if w.fill && p w.addr then { t with load := some { w with dropFill := true } } else t
      | none => t
    (List.range 4).foldl (fun c k => c.modThread k mark) (c.modMem (·.dropLines p))

def AmoCode (f : AmoFn) : Nat :=
  match f with
  | .addW => 0 | .addD => 1 | .minW => 2 | .minD => 3 | .maxW => 4 | .maxD => 5 | .swapW => 6 | .swapD => 7
  | .casW => 8 | .casD => 9 | .faddF32 => 10 | .faddBf16 => 11

def amoOfCode (c : Nat) : Option AmoFn :=
  [AmoFn.addW, .addD, .minW, .minD, .maxW, .maxD, .swapW, .swapD, .casW, .casD, .faddF32, .faddBf16][c]?

/-- The value that an atomic leaves (Table 3.8): old value, operand (or new value) and expected value. -/
def amoResult (f : AmoFn) (old operand expected : Nat) : Nat :=
  let w := f.size * 8
  match f with
  | .addW | .addD => (old + operand) % 2 ^ w
  | .minW | .minD => if sLane w old ≤ sLane w operand then old else operand
  | .maxW | .maxD => if sLane w old ≤ sLane w operand then operand else old
  | .swapW | .swapD => operand
  | .casW | .casD => if old = expected then operand else old
  | .faddF32 => faddBits 0x0 old operand
  | .faddBf16 => faddBits 0x1 old operand

/-- Operand and expected value of an atomic from its registers (Table 3.8). -/
def amoOperands (t : Thread) (f : AmoFn) (rt : GReg) : Nat × Nat :=
  match f with
  | .casW => ((t.getG (rt + 1)).toNat, (t.getG rt).toNat)
  | .casD => ((t.getPair (rt + 2)).toNat, (t.getPair rt).toNat)
  | .addD | .minD | .maxD | .swapD => ((t.getPair rt).toNat, 0)
  | .faddBf16 => ((t.getG rt).toNat % 65536, 0)
  | _ => ((t.getG rt).toNat, 0)

/-- The old value returns to RT, zero-extended, or to the pair RT. -/
def amoWrite (f : AmoFn) (rt : GReg) (old : Nat) (t : Thread) : Thread :=
  if f.size = 8 then t.setPair rt (BitVec.ofNat 64 old) else t.setG rt (BitVec.ofNat 32 old)

/-- The payload of an ATOMIC: op code, operand, expected value (Table 10.2; layout log 8). -/
def amoPayload (f : AmoFn) (op exp : Nat) : List Byte := leBytes 1 (AmoCode f) ++ leBytes 8 op ++ leBytes 8 exp

def evalAmo (x : Ctx) (f : AmoFn) (rt : GReg) (capReg : SReg) (o : LsOff) : OpRes :=
  let cap := x.t.getS capReg
  let off := lsOffset x.t x.ext f.size o
  match checkAccess cap x.dom capReg.toNat x.cls [pAtomic] (storeCause x cap off false) off f.size f.size with
  | some e => .fault e
  | none =>
    let a := cap.addrAt off
    let module := x.norm cap.module
    let ops := amoOperands x.t f rt
    match answerFor x true module a f.size with
    | some (_, .data bs) => .write (amoWrite f rt (leNat (bs.take f.size)))
    | some (_, r) => match respFault x capReg.toNat r with
      | some e => .fault e
      | none => .write id
    | none =>
      if lsuHeld x true module a f.size then heldRes x false module a f.size
      else if ! (sbOverlap x.t module a f.size).isEmpty || unackedOverlap x.t module a f.size then heldRes x true module a f.size
      else
        let own := if module = 0xFFFF then ownScratch x.n a f.size else none
        match own with
        | some p =>
          if poisonedAt 8 x.c.mem.poison p f.size then .ecc 1 p
          else
            let old := leNat (x.c.mem.readScratch p f.size)
            let new := amoResult f old ops.1 ops.2
            .done (amoWrite f rt old) fun s => s.modCore x.n fun c => c.modMem fun m => m.writeScratch p (leBytes f.size new)
        | none =>
          let wd : Withdrawn := { tag := none, pc := x.pc, addr := a, size := f.size, module := module, fill := false, amo := true
                                  dropFill := false, resp := none, ready := false }
          .withdraw fun s =>
            requestLoad x.n x.k wd cap.region kAtomic (amoPayload f ops.1 ops.2)
              (acquire (fun l => decide (module = 0xFFFF ∧ l = lineAddr a)) x.n s)

/-! ## acq (R214) -/

def evalAcq (x : Ctx) (capReg : SReg) : OpRes :=
  let cap := x.t.getS capReg
  match checkRights cap x.dom capReg.toNat x.cls [pR] with
  | some e => .fault e
  | none =>
    let here := decide (x.norm cap.module = 0xFFFF)
    .done id (acquire (fun l => here && overlaps l 128 cap.base (cap.limit.toNat + 1)) x.n)

def evalAcqAll (x : Ctx) : OpRes := .done id (acquire (fun _ => true) x.n)

end Sys2Proof.Machine
end

