-- ==== Sys2Proof/Machine/Branch.lean ====
section
/-! DEFINITION. The branch unit: branches, gates, return, exit (R88, R89, R112 to R118, R127) and the BTB (R48). -/

namespace Sys2Proof.Machine

open Sys2Proof

/-- A branch target in a register: below 0x2_0000, then a multiple of 4 (R88, in the order of Table 4.3). -/
def targetFault (tgt : Word) (cls : Nat) : Option FaultInfo :=
  if tgt.toNat ≥ 0x20000 then some (capFault fBounds 0 cls 0)
  else if tgt.toNat % 4 ≠ 0 then some (alignFault cls)
  else none

/-- An offset that no bundle has. -/
def badPc (w : Word) : Bool := decide (w.toNat % 4 ≠ 0 ∨ w.toNat ≥ 0x20000)

/-- TGT × 4 as an instruction-memory offset. -/
def tgtOffset (t : BitVec 15) : Word := t.zeroExtend 32 <<< 2

def Thread.goto (t : Thread) (a : Word) : Thread := { t with pc := a }

def evalBr (_x : Ctx) (tgt : BitVec 15) : OpRes := .write fun t => t.goto (tgtOffset tgt)
def evalBl (x : Ctx) (rl : GReg) (tgt : BitVec 15) : OpRes := .write fun t => (t.setG rl x.link).goto (tgtOffset tgt)

def evalJr (x : Ctx) (ra : GReg) : OpRes :=
  let a := x.t.getG ra
  match targetFault a x.cls with
  | some f => .fault f
  | none => .write fun t => t.goto a

/-- jrl reads ga before gl is written (Table 3.9, R43). -/
def evalJrl (x : Ctx) (rl ra : GReg) : OpRes :=
  let a := x.t.getG ra
  match targetFault a x.cls with
  | some f => .fault f
  | none => .write fun t => (t.setG rl x.link).goto a

/-- callg (R115): the frame takes the s15 of before the bundle. DESIGN CHOICE (log 43): the faults for ESC = 1 and GDEPTH = 16, which
concern no one operand, name the register of sa. -/
def evalCallg (x : Ctx) (sa sb : SReg) : OpRes :=
  let a := x.t.getS sa
  let b := x.t.getS sb
  match gateCheck a b sa.toNat sb.toNat x.dom x.n with
  | some f => .fault f
  | none =>
    if x.t.esc then .fault (capFault fPerm sa.toNat 3 15)
    else if x.t.gdepth = 16 then .fault (capFault fBounds sa.toNat 3 1)
    else
      let off := frameAt x.t x.n x.k.val x.t.gdepth.toNat
      let ret := returnCap x.n x.link false false x.region
      let frame (s : State) : State :=
        s.modCore x.n fun c => c.modMem fun m => (m.writeCap off ret).writeCap (off + 16) (x.t.getS 15)
      .done (fun t => { ((t.setS 15 (b.withOtype 0)).goto ((a.base - blockAddr x.n).truncate 32)) with gdepth := t.gdepth + 1 }) frame

/-- The target of a return: ALIGN, then CAP_BOUNDS cause 3 (R116). DESIGN CHOICE (log 43): no capability register is checked, and the detail
word names register 0. -/
def returnFault (tgt : Word) : Option FaultInfo :=
  if tgt.toNat % 4 ≠ 0 then some (alignFault 3)
  else if tgt.toNat ≥ 0x20000 then some (capFault fBounds 0 3 3)
  else none

/-- The escalation stack as a capability of the machinery (R114, R125). -/
def escCap (x : Ctx) : Cap :=
  mkCap true (scratchAddr x.n + BitVec.ofNat 48 (escBase x.c)) 0xFFF 0xFFFF (permOf [pR, pW]) 0 (x.region.zeroExtend 6)

/-- retg while ESC = 1 leaves escalation (R127). -/
def leaveEscalation (x : Ctx) : OpRes :=
  match memRead x 0 (escCap x) 0 16 false false with
  | .out r => r
  | .ok bs _ _ =>
    let tgt := wordAt bs 1
    match returnFault tgt with
    | some f => .fault f
    | none =>
      match memRead x 0 (escCap x) 0x20 16 false false with
      | .out r => r
      | .ok cb tag _ => .write fun t => { ((t.setS 15 { bits := leBits 128 cb, tag := tag }).goto tgt) with esc := false, th := true }

/-- The return through frame d (R116): s15 and GDEPTH with the target and the new TH. -/
def popFrame (x : Ctx) (off : Nat) (tgt : Word) (th : Option Bool) : OpRes :=
  match returnFault tgt with
  | some f => .fault f
  | none =>
    let s15 := x.c.mem.readCap (off + 16)
    .write fun t => { ((t.setS 15 s15).goto tgt) with gdepth := t.gdepth - 1, th := th.getD t.th }

/-- retg (R116). DESIGN CHOICE (log 43): CAP_BOUNDS cause 2 names register 0. -/
def evalRetg (x : Ctx) : OpRes :=
  if x.t.esc then leaveEscalation x
  else if x.t.gdepth = 0 then .fault (capFault fBounds 0 3 2)
  else
    let off := frameAt x.t x.n x.k.val (x.t.gdepth.toNat - 1)
    if poisonedAt 8 x.c.mem.poison off 32 then .ecc 6 off
    else
      let ret := x.c.mem.readCap off
      if bitOf ret.limit 0 then
        let s15 := x.t.getS 15
        match checkAccess s15 x.dom 15 3 [pR] none 0 16 16 with
        | some f => .fault f
        | none =>
          match memRead x 15 s15 0 16 false true with
          | .out r => r
          | .ok bs _ _ => popFrame x off (wordAt bs 1) (some (bitOf ret.limit 1))
      else popFrame x off ((ret.base - blockAddr x.n).truncate 32) none

def evalExit (x : Ctx) : OpRes := .done id fun s => exitThread s x.n x.k

/-- An empty BTB entry: its address is no bundle's. -/
def noBtb : BtbEntry := { addr := 1, target := 0 }

/-- The BTB entry at which a bundle address is looked up: direct-mapped (R34, R48, log 12). -/
def CoreMem.btbEntry (m : CoreMem) (addr : Word) : BtbEntry := mapGet noBtb m.btb (addr.toNat / 4 % 512)

/-- A bundle whose address hits in the BTB is predicted to go to the recorded target, one that misses to fall through (R48). -/
def CoreMem.predicted (m : CoreMem) (addr link : Word) : Word :=
  if (m.btbEntry addr).addr = addr then (m.btbEntry addr).target else link

/-- The BTB after a bundle has resolved: a taken branch records its target, and a bundle that falls through clears its entry (R48,
log 12). -/
def btbUpdate (m : CoreMem) (addr : Word) (taken : Bool) (target : Word) : CoreMem :=
  let i := addr.toNat / 4 % 512
  if taken then { m with btb := mapSet noBtb m.btb i { addr := addr, target := target } }
  else if (m.btbEntry addr).addr = addr then { m with btb := mapDel m.btb i } else m

end Sys2Proof.Machine
end

