-- ==== Sys2Proof/Machine/Syn.lean ====
section
/-! DEFINITION. The SYN unit: releases in order (R223, R265), frets (R250 to R254), waits (R98 to R101, R271 to R273), message
dispatch (R100, R269), istore (R69, R70). -/

namespace Sys2Proof.Machine

open Sys2Proof

/-! ## Quotas (R35, R36, Table 2.3) -/

/-- Whether thread k may take one more entry of a counted resource: total, STATIC quota, POOL reservation, holdings by thread. -/
def quotaFree (pool : Bool) (total quota res : Nat) (held : Nat → Nat) (k : Nat) : Bool :=
  if pool then
    let used := (List.range 4).foldl (fun a j => a + held j) 0
    let back := ((List.range 4).filter fun j => decide (j ≠ k ∧ held j = 0)).length * res
    decide (used + back < total)
  else decide (held k < quota)

def Core.synHeld (c : Core) (k : Nat) : Nat := (c.syn.queue.filter fun e => decide (e.thread.val = k) && ! e.own).length
def Core.matHeldBy (c : Core) (k : Nat) : Nat := (c.mat.pending.filter fun j => decide (j.thread.val = k) && ! j.fromSeq).length
def Core.dmaHeld (c : Core) (k : Nat) : Nat := (c.dma.queue.filter fun j => decide (j.thread.val = k)).length
def Core.rangeHeldBy (c : Core) (k : Nat) : Nat := (c.ranges.filter fun e => decide (e.thread.val = k)).length

/-- The thread to which a channel is bound (R262). -/
def Core.boundTo (c : Core) (chan : Nat) : Nat := if chan = 15 then c.ctl.supv.val else fieldOf c.ctl.bind (2 * chan + 1) (2 * chan)

/-- Whether a message to a channel finds a queue entry (R35, R36, R263, R264): channel 15 takes a reserved entry first; the eight
reserved entries take no message for any other channel. -/
def Core.msgRoom (c : Core) (chan : Nat) : Bool :=
  let k := c.boundTo chan
  let of (j : Nat) : List Msg := c.syn.msgs.filter fun m => decide (c.boundTo m.chan.toNat = j)
  let n15 := (c.syn.msgs.filter fun m => decide (m.chan = 15)).length
  let supv := c.ctl.supv.val
  if chan = 15 ∧ n15 < 8 then true
  else if c.ctl.pool then
    let back := ((List.range 4).filter fun j => decide (j ≠ k ∧ j ≠ supv) && (of j).isEmpty).length * 8
    decide (c.syn.msgs.length - min n15 8 + back + 8 < 256)
  else
    let mine := (of k).length
    if k = supv then decide (mine - min n15 8 + 8 < 64) else decide (mine < 64)

/-! ## Frets -/

def Core.fret (c : Core) (f : Nat) : Word := mapGet 0 c.syn.frets f

/-- A fret has reached its target: (int32)(f − t) ≥ 0 (R251). -/
def reached (f t : Word) : Bool := decide (0 ≤ (f - t).toInt)

def addIncOwn (n : Nat) (i : FretInc) (s : State) : State :=
  s.modCore n fun c => { c with syn := { c.syn with incOwn := c.syn.incOwn ++ [i] } }

/-- The fret that an address names in a fret page: core and index (Table 7.2). -/
def fretOf (a : Addr) : Option (Nat × Nat) :=
  match placeOfAddr a with
  | .block m off => if isCore m ∧ 0x22000 ≤ off ∧ off < 0x220C0 ∧ off % 4 = 0 then some (m, (off - 0x22000) / 4) else none
  | _ => none

/-- The channel that an address names in a channel page (R261). -/
def channelOf (a : Addr) : Option (Nat × Nat) :=
  match placeOfAddr a with
  | .block m off => if isCore m ∧ 0x23000 ≤ off ∧ off < 0x23100 ∧ off % 16 = 0 then some (m, (off - 0x23000) / 16) else none
  | _ => none

/-! ## Refusals recorded (Table 7.8) -/

/-- A refused store, finc.r, send or rdb of a thread (R205). -/
def noteRefusal (n : Nat) (k : Nat) (kind : BitVec 3) (pc : Word) (s : State) : State :=
  s.modThread n k fun t =>
    { t with remoteErr := { err := true, kind := kind, count := satAdd t.remoteErr.count 1, pc := (pc >>> 2).truncate 15 } }

/-! ## The SYN queue -/

/-- Releases a SYN op into the queue, with the epoch of its bundle (R56). -/
def pushSyn (n : Nat) (k : ThreadNo) (own : Bool) (epoch : BitVec 3) (pc : Word) (w : SynWork) (s : State) : State :=
  s.modCore n fun c =>
    let after := if own then 0 else (c.thread k.val).storeSeq
    { c with syn := { c.syn with queue := c.syn.queue ++
        [{ thread := k, epoch := epoch, own := own, pc := pc, after := after, work := w, stage := .queued, due := 0, delay := 0 }] } }

/-- Every store and atomic before a number has been acknowledged (R223). -/
def storesDone (t : Thread) (after : Nat) : Bool :=
  (t.sb.all fun e => decide (after ≤ e.seq)) && (t.unacked.all fun u => decide (after ≤ u.seq))

/-- Two sends to one channel (R265). -/
def sameChannel (a b : SynWork) : Bool :=
  match a, b with
  | .send m _ x _ _, .send m' _ y _ _ => decide (m = m' ∧ x = y)
  | _, _ => false

/-- Whether an entry may act, given the entries before it: none of its thread still waits to act, none to its channel is
unacknowledged, and its release condition holds (R223, R265). -/
def synReady (c : Core) (before : List SynEntry) (e : SynEntry) : Bool :=
  decide (e.stage = .queued) && (e.own || (storesDone (c.thread e.thread.val) e.after && ! c.holds .syn e.thread)) &&
    ! before.any fun b => (decide (b.stage = .queued ∧ b.thread = e.thread) && decide (b.own = e.own)) || sameChannel b.work e.work

/-- The payload of a MSG: tag and count, then the words (Table 10.2; layout log 8). -/
def msgPayload (words : List Word) (tag : BitVec 4) : List Byte :=
  padTo 16 [tag.zeroExtend 8 ||| (BitVec.ofNat 8 words.length <<< 4)] ++ words.flatMap fun w => leBytes 4 w.toNat

/-- Sends an entry's packet, or meets its refusal at once (R319). -/
def sendSyn (n : Nat) (e : SynEntry) (i : Nat) (module : BitVec 16) (region : BitVec 6) (a : Addr) (kind : BitVec 5) (payload : List Byte)
    (s : State) : State :=
  let drop (s : State) : State := s.modCore n fun c => { c with syn := { c.syn with queue := c.syn.queue.eraseIdx i } }
  match s.destOf n module region a, (s.core n).freeTag with
  | .error r, _ => noteRefusal n e.thread.val r e.pc (drop s)
  | .ok dst, some tag =>
    let s1 := s.modCore n fun c =>
      { c with
        syn := { c.syn with queue := modifyAt (fun e => { e with stage := .sent tag }) i c.syn.queue }
        reqs := c.reqs ++ [(tag, .syn e.thread e.pc e.own)] }
    s1.send (reqPacket n dst region a kind clsCtrl tag payload)
  | .ok _, none => s

/-- Acts on entry i: a local increment is applied at the fret logic, a remote one or a message is sent (R250, R256, R261). -/
def actSyn (n i : Nat) (e : SynEntry) (s : State) : State :=
  let drop (s : State) : State := s.modCore n fun c => { c with syn := { c.syn with queue := c.syn.queue.eraseIdx i } }
  match e.work with
  | .finc f v => addIncOwn n { f := f, v := v } (drop s)
  | .fincR m r a v =>
    match fretOf a with
    | some (o, f) =>
      if o = n ∧ s.normModule m = 0xFFFF then addIncOwn n { f := BitVec.ofNat 6 f, v := v } (drop s)
      else sendSyn n e i m r a kFinc (padTo 16 (leBytes 4 v.toNat)) s
    | none => sendSyn n e i m r a kFinc (padTo 16 (leBytes 4 v.toNat)) s
  | .send m r a ws tag => sendSyn n e i m r a kMsg (msgPayload ws tag) s

/-- One pass over the queue from place i: acts on each entry that may act. -/
def synPass (n : Nat) : Nat → Nat → State → State
  | 0, _, s => s
  | fuel + 1, i, s =>
    let q := (s.core n).syn.queue
    match q[i]? with
    | none => s
    | some e =>
      if synReady (s.core n) (q.take i) e then
        let s1 := actSyn n i e s
        synPass n fuel (if (s1.core n).syn.queue.length < q.length then i else i + 1) s1
      else synPass n fuel (i + 1) s

/-- The SYN unit processes what it may (R265). -/
def synPump (n : Nat) (s : State) : State := synPass n (s.core n).syn.queue.length 0 s

/-! ## Waits -/

/-- Whether a wait's timeout has expired: the first tick in which TIME − start reaches HI24 is over (R98, R272). -/
def Wait.over (w : Wait) (s : State) : Bool := match w.limit with
  | some l => decide (16 * (w.start + l + 1) ≤ s.mc)
  | none => false

/-- Ends a wait: RUNNING at the bundle that follows, with the status (R98). -/
def endWait (n k : Nat) (w : Wait) (ok : Bool) (s : State) : State :=
  s.modThread n k fun t => { (t.setP w.pd ok) with st := .running, wait := none, pc := w.next }

/-- A debug stop of a thread takes effect (R412, R413). -/
def parkDebug (n k : Nat) (s : State) : State :=
  (s.modThread n k fun t => { t with st := .parkedDebug, wait := none }).modCore n fun c =>
    { c with ctl := { c.ctl with dbgPend := setBit c.ctl.dbgPend k false } }

/-- A thread blocks at the bundle `at_`: WAITING from its release (R271), or PARKED_DEBUG where a stop is pending (R413). -/
def beginWait (n k : Nat) (at_ : Word) (w : Wait) (s : State) : State :=
  let s1 := s.modThread n k fun t => { t with st := .waiting, wait := some w, pc := at_ }
  if bitOf (s.core n).ctl.dbgPend k then parkDebug n k s1 else s1

/-- The oldest message on the channels of a mask (R100). -/
def oldestMsg (c : Core) (mask : BitVec 16) : Option (Nat × Msg) := findWith (fun m => bitOf mask m.chan.toNat) c.syn.msgs

/-- Dispatches a message to a thread in a waitd at bundle `at_` (R100): DRET, g24-g28 and pd are written, then a misaligned handler
faults ALIGN. -/
def dispatchMsg (n : Nat) (k : ThreadNo) (at_ : Word) (pd : PReg) (i : Nat) (m : Msg) (s : State) : State :=
  let s1 := s.modCore n fun c => { c with syn := { c.syn with msgs := c.syn.msgs.eraseIdx i } }
  let w (j : Nat) : Word := m.words.getD j 0
  let g28 := packWord [(m.words.length, 8), (m.chan.toNat, 4), (m.tag.toNat, 0)]
  let s2 := s1.modThread n k.val fun t =>
    { ((((((t.setG 24 (w 0)).setG 25 (w 1)).setG 26 (w 2)).setG 27 (w 3)).setG 28 g28).setP pd true) with
      dret := at_, st := .running, wait := none }
  let h := mapGet 0 (s2.thread n k.val).handlers m.chan.toNat
  if h.toNat % 4 ≠ 0 then takeFault s2 n k (alignFault 6) at_ at_ false
  else s2.modThread n k.val fun t => { t with pc := h }

/-- Re-evaluates the waitd of a WAITING thread (R269); an event after the timeout comes too late (R272). -/
def wakeMsg (n : Nat) (k : ThreadNo) (s : State) : State :=
  let t := s.thread n k.val
  match t.st, t.wait with
  | .waiting, some w =>
    match w.kind with
    | .msg mask =>
      match oldestMsg (s.core n) mask with
      | some (i, m) => if w.over s then s else dispatchMsg n k t.pc w.pd i m s
      | none => s
    | _ => s
  | _, _ => s

/-- Re-evaluates the fwait of a WAITING thread (R252, R272). -/
def wakeFret (n : Nat) (k : ThreadNo) (s : State) : State :=
  let t := s.thread n k.val
  match t.st, t.wait with
  | .waiting, some w =>
    match w.kind with
    | .fret f target => if reached ((s.core n).fret f.toNat) target && ! w.over s then endWait n k.val w true s else s
    | _ => s
  | _, _ => s

def allThreads : List ThreadNo := [0, 1, 2, 3]

def wakeAllMsg (n : Nat) (s : State) : State := foldState (wakeMsg n) allThreads s
def wakeAllFret (n : Nat) (s : State) : State := foldState (wakeFret n) allThreads s

/-! ## SYN ops at E4 and from release on (Table 3.15) -/

def evalFinc (x : Ctx) (f : BitVec 6) (v : Word) : OpRes :=
  if f ≥ 48 then .fault (fretFault f.toNat) else .done id (pushSyn x.n x.k false x.t.epoch x.pc (.finc f v))

/-- finc.i: n = 0 means 32. -/
def fincImm (n : BitVec 5) : Word := if n = 0 then 32 else n.zeroExtend 32

def evalFincR (x : Ctx) (capReg : SReg) (ga gb : GReg) : OpRes :=
  let cap := x.t.getS capReg
  let off := (x.t.getG ga).toNat
  match checkAccess cap x.dom capReg.toNat x.cls [pW] none off 4 4 with
  | some f => .fault f
  | none => .done id (pushSyn x.n x.k false x.t.epoch x.pc (.fincR (x.norm cap.module) cap.region (cap.addrAt off) (x.t.getG gb)))

/-- HI24 as a limit; HI24 = 0 tests once (R98). -/
def extLimit (x : Ctx) : Option Nat := x.ext.map (·.toNat)

def evalFwait (x : Ctx) (f : BitVec 6) (ga : GReg) (pd : PReg) : OpRes :=
  if f ≥ 48 then .fault (fretFault f.toNat)
  else
    let target := x.t.getG ga
    .done id fun s =>
      if reached ((s.core x.n).fret f.toNat) target then s.modThread x.n x.k.val (·.setP pd true)
      else if extLimit x = some 0 then s.modThread x.n x.k.val (·.setP pd false)
      else beginWait x.n x.k.val x.pc { kind := .fret f target, start := s.mc / 16, limit := extLimit x, pd := pd, next := (s.thread x.n x.k.val).pc } s

def evalFread (x : Ctx) (f : BitVec 6) (gd : GReg) : OpRes :=
  if f ≥ 48 then .fault (fretFault f.toNat) else .write fun t => t.setG gd (x.c.fret f.toNat)

/-- send (R261, R274): the access check, then reasons 1, 2 and 3. -/
def evalSend (x : Ctx) (capReg : SReg) (gw : GReg) (cnt : BitVec 3) (tag : BitVec 4) : OpRes :=
  let cap := x.t.getS capReg
  match checkAccess cap x.dom capReg.toNat x.cls [pW] none 0 16 16 with
  | some f => .fault f
  | none =>
    let ch := channelOf cap.base
    let no := match ch with | some (_, i) => i | none => 0
    if cnt = 0 ∨ cnt > 4 then .fault (chanFault no 1)
    else if no = 15 ∧ tag ≤ 9 then .fault (chanFault 15 2)
    else if ch = none then .fault (chanFault 0 3)
    else
      let words := (List.range cnt.toNat).map fun i => x.t.getG (gw + BitVec.ofNat 5 i)
      .done id (pushSyn x.n x.k false x.t.epoch x.pc (.send (x.norm cap.module) cap.region cap.base words tag))

/-- The lowest channel of a mask that is not bound to the thread (Table 9.2). -/
def unboundIn (c : Core) (k : Nat) (mask : BitVec 16) : Option Nat :=
  (List.range 16).find? fun i => bitOf mask i && decide (c.boundTo i ≠ k)

def evalWaitd (x : Ctx) (ga : GReg) (pd : PReg) : OpRes :=
  let mask : BitVec 16 := (x.t.getG ga).truncate 16
  match unboundIn x.c x.k.val mask with
  | some i => .fault (chanFault i 4)
  | none =>
    if mask = 0 ∧ x.ext = none then .fault (chanFault 0 5)
    else .done id fun s =>
      match oldestMsg (s.core x.n) mask with
      | some (i, m) => dispatchMsg x.n x.k x.pc pd i m s
      | none =>
        if extLimit x = some 0 then s.modThread x.n x.k.val (·.setP pd false)
        else
          let next := (s.thread x.n x.k.val).pc
          beginWait x.n x.k.val x.pc { kind := .msg mask, start := s.mc / 16, limit := extLimit x, pd := pd, next := next } s

/-- retd (R101). -/
def evalRetd (x : Ctx) : OpRes :=
  if x.t.dret.toNat % 4 ≠ 0 then .fault (alignFault x.cls) else .write fun t => t.goto x.t.dret

/-- rdb (R273): the request goes out, as soon as a TAG is free, and the thread waits. With HI24 = 0 the request asks the node for one test
of the condition (R98), and the node answers at once; a refusal at once completes the op with pd false (log 17). -/
def evalRdb (x : Ctx) (gd : GReg) (capReg : SReg) (ga : GReg) (pd : PReg) : OpRes :=
  let cap := x.t.getS capReg
  let off := (x.t.getG ga).toNat
  match checkAccess cap x.dom capReg.toNat x.cls [pR] none off 4 4 with
  | some f => .fault f
  | none => .done id fun s =>
    let module := x.norm cap.module
    let a := cap.addrAt off
    let once := decide (extLimit x = some 0)
    match s.destOf x.n module cap.region a with
    | .ok dst =>
      if bitOf (s.core x.n).ctl.dbgPend x.k.val then
        parkDebug x.n x.k.val (s.modThread x.n x.k.val (·.goto x.pc))
      else
        let s1 := beginWait x.n x.k.val x.pc
          { kind := .rdb gd none module cap.region a, start := s.mc / 16, limit := if once then none else extLimit x, pd := pd
            next := (s.thread x.n x.k.val).pc } s
        s1.request x.n (.rdb x.k x.pc) (reqPacket x.n dst cap.region a kRdb clsReq 0 (if once then onceMark else []))
    | .error r => noteRefusal x.n x.k.val r x.pc (s.modThread x.n x.k.val (·.setP pd false))

/-- istore (R69, R70): a segment outside the own instruction memory is CAP_PERM, cause 13 (log 18). -/
def evalIstore (x : Ctx) (capReg : SReg) (ga gb : GReg) : OpRes :=
  let cap := x.t.getS capReg
  let off := (x.t.getG ga).toNat
  let place := if x.norm cap.module = 0xFFFF then ownImem x.n (cap.addrAt off) else none
  match checkAccess cap x.dom capReg.toNat x.cls [pW] (if place = none then some 13 else none) off 4 4 with
  | some f => .fault f
  | none =>
    let v := x.t.getG gb
    .done id fun s => s.modCore x.n fun c => c.istore (place.getD 0) (leBytes 4 v.toNat)

/-- ifence (R72): the thread's fetch buffer is discarded, and it fetches what DMA wrote before. -/
def evalIfence (x : Ctx) : OpRes :=
  .done id fun s => s.modThread x.n x.k.val fun t => { t with fbuf := [], stale := [] }

end Sys2Proof.Machine
end

