-- ==== Sys2Proof/Machine/Release.lean ====
section
/-! DEFINITION. MAT and DMA ops at E4 and their release (R53, R56, R63, R94, R170, R228 to R230, R246). -/

namespace Sys2Proof.Machine

open Sys2Proof

/-! ## MAT ops -/

/-- A MAT op with the operand values its bundle reads (R94, R95). -/
def matWorkOf (t : Thread) (x : Option (BitVec 24)) (m : MatOp) : MatWork :=
  match m with
  | .tcfg d a => .tcfg d (t.getG a)
  | .tld d c a b tr => .tld d (t.getS c) (t.getG a) (t.getG b) tr
  | .tst d c a b => .tst d (t.getS c) (t.getG a) (t.getG b)
  | .trel d => .trel d
  | .tsave c a => .tsave (t.getS c) (t.getG a)
  | .trestore c a => .trestore (t.getS c) (t.getG a)
  | .accCfg acc a => .accCfg acc (t.getG a)
  | .mma acc a b g z rn => .mma acc a b g z rn (if z = 1 then (x.getD 0).truncate 10 else 0)
  | .accNorm acc => .accNorm acc
  | .accCvt acc d rm => .accCvt acc d rm
  | .accCvtS acc c a b => .accCvtS acc (t.getS c) (t.getG a) (t.getG b)
  | .mseqRun nt c a => .mseqRun nt (t.getS c) (t.getG a)

/-- The capability register that a MAT op names. -/
def matCapReg (m : MatOp) : SReg :=
  match m with
  | .tld _ c _ _ _ => c
  | .tst _ c _ _ => c
  | .tsave c _ => c
  | .trestore c _ => c
  | .accCvtS _ c _ _ => c
  | .mseqRun _ c _ => c
  | _ => 0

/-- Whether a tcfg or acc.cfg that changes a tile or accumulator tile an op at place q depends on is pending (R170); a tcfg depends on
the sizes of all tiles. -/
def matPendingCfg (m : Matrix) (q : Nat) (w : MatWork) : Bool :=
  let names := matNames (m.before q) w
  let now := matNames m w
  (m.older q).any fun j => match j.work with
    | .tcfg t _ => (match w with | .tcfg .. => true | _ => names.1.contains t.toNat || now.1.contains t.toNat)
    | .accCfg a _ => names.2.contains a.toNat
    | _ => false

/-- The checks of an op at place q before it waits (R53, R160, R170), against the configurations in force. DEDUCED (log 46): where a
configuration that the op depends on is pending, the checks of its configuration and of the rows that it fixes wait for its execution. -/
def matCheck (m : Matrix) (q : Nat) (w : MatWork) (d : Domain) (n reg : Nat) : Option FaultInfo :=
  if matPendingCfg m q w then matRightsCheck m w d n reg
  else match matCapCheck m w d n reg with
    | some f => some f
    | none => matCfgCheck m w

/-- The segment of a capability (R63). -/
def segOf (s : State) (c : Cap) : Seg := { module := s.normModule c.module, base := c.base, limit := c.limit }

/-- Releases a MAT op into the matrix queue with the SEED, RMODE and ACCR that its bundle reads; a tracked mseq.run takes its
range-table entry (R63, R186). -/
def releaseMat (x : Ctx) (reg : SReg) (w : MatWork) (s : State) : State :=
  s.modCore x.n fun c =>
    let job : MatJob := { seq := c.relSeq, thread := x.k, epoch := x.t.epoch, pc := x.pc, seed := x.t.seed, rmode := x.t.rmode, accr := enAccr x.t
                          after := (c.thread x.k.val).storeSeq, work := w, reg := reg, fromSeq := false, step := 0 }
    let ranges := match w with
      | .mseqRun false cap _ =>
        let g := some (segOf s cap)
        c.ranges ++ [{ thread := x.k, seq := c.relSeq, ch := none, src := g, dst := g }]
      | _ => c.ranges
    { c with relSeq := c.relSeq + 1, ranges := ranges, mat := { c.mat with queue := c.mat.queue ++ [job] } }

/-- A MAT op at E4 (R53, R170). -/
def evalMat (x : Ctx) (m : MatOp) : OpRes :=
  let w := matWorkOf x.t x.ext m
  match matCheck x.c.mat x.c.relSeq w x.dom x.n (matCapReg m).toNat with
  | some f => .fault f
  | none => .done id (releaseMat x (matCapReg m) w)

/-! ## DMA ops -/

/-- The core's own memory as a thread's buffered stores will leave it (R230). -/
def drained (s : State) (n k : Nat) : CoreMem :=
  ((s.thread n k).sb.filter fun e => decide (e.module = 0xFFFF)).foldl
    (fun m e => match ownScratch n e.addr e.data.length with
      | some off => m.writeScratch off e.data
      | none => m) (s.core n).mem

/-- What a descriptor read of 64 bytes of the own scratchpad gives (R230). -/
def readDesc (m : CoreMem) (off : Nat) : Resp :=
  if poisonedAt 8 m.poison off 64 then .poisoned 1 else .data (m.readScratch off 64)

/-- SCAP and DCAP of a descriptor (Table 8.1). -/
def descScap (w0 : Word) : Nat := fieldOf w0 3 0
def descDcap (w0 : Word) : Nat := fieldOf w0 7 4

/-- Releases a dma.start: the capability file (R229), the first descriptor (R230), and for a tracked one the range-table entry
(R233). -/
def releaseStart (x : Ctx) (nt : Bool) (ch : BitVec 3) (cap : Cap) (off : Word) (s : State) : State :=
  let caps := (List.range 16).map fun i => x.t.getS (BitVec.ofNat 4 i)
  let d := readDesc (drained s x.n x.k.val) (scratchOff x.n cap off.toNat)
  s.modCore x.n fun c =>
    let job : DmaJob := { seq := c.relSeq, thread := x.k, epoch := x.t.epoch, pc := x.pc, after := (c.thread x.k.val).storeSeq
                          work := .start nt ch cap off caps (some d) }
    let segs : Option Seg × Option Seg := match d with
      | .data bs =>
        let w0 := wordAt bs 0
        (some (segOf s (caps.getD (descScap w0) {})), some (segOf s (caps.getD (descDcap w0) {})))
      | _ => (none, none)
    let ranges := if nt then c.ranges
      else c.ranges ++ [{ thread := x.k, seq := c.relSeq, ch := some ch, src := segs.1, dst := segs.2 }]
    { c with relSeq := c.relSeq + 1, ranges := ranges, dma := { c.dma with queue := c.dma.queue ++ [job] } }

/-- Releases a dma.wr or dma.rd. -/
def releaseDma (x : Ctx) (w : DmaWork) (s : State) : State :=
  s.modCore x.n fun c =>
    { c with
      relSeq := c.relSeq + 1
      dma := { c.dma with queue := c.dma.queue ++
        [{ seq := c.relSeq, thread := x.k, epoch := x.t.epoch, pc := x.pc, after := (c.thread x.k.val).storeSeq, work := w }] } }

def evalDmaStart (x : Ctx) (nt : Bool) (ch : BitVec 3) (capReg : SReg) (ga : GReg) : OpRes :=
  let cap := x.t.getS capReg
  let off := x.t.getG ga
  match checkAccess cap x.dom capReg.toNat x.cls [pR] (ownCause x cap off.toNat 64) off.toNat 64 64 with
  | some f => .fault f
  | none => .done id (releaseStart x nt ch cap off)

def evalDmaWr (x : Ctx) (reg g : GReg) : OpRes := .done id (releaseDma x (.wr reg (x.t.getG g)))

/-- dma.rd: gd is unavailable until it is written (R228). -/
def evalDmaRd (x : Ctx) (g reg : GReg) : OpRes :=
  .done (fun t => if g = 0 then t else { t with rdPending := t.rdPending ++ [g] }) (releaseDma x (.rd g reg))

end Sys2Proof.Machine
end

