-- ==== Sys2Proof/Machine/Bundle.lean ====
section
/-! DEFINITION. Bundles: legality (R41), readiness (R45), selection (R46), execution as one step (R42, R43, R48, R52, R54, R56, R59),
BUNDLE_ISSUE with its fetch (R44, R72), and gating of cores and courses (R275, R276). -/

namespace Sys2Proof.Machine

open Sys2Proof

/-! ## Gating -/

/-- A gated core (R275). Answers of the thread-control logic and fault records on their way are no ops of the SYN unit: a THREAD_CTL that
wakes no thread leaves the course in its state (R278). -/
def Core.gated (c : Core) : Bool :=
  (List.range 4).all (fun k => decide ((c.thread k).st ≠ .running) && (c.thread k).sb.isEmpty)
    && c.mat.pending.isEmpty && c.mat.seqOps.isEmpty && decide (c.mat.seq = none)
    && (List.range 8).all (fun i => decide ((c.chan i).state = 0)) && c.dma.queue.isEmpty && c.syn.queue.all (·.own)

/-- A course under LEND follows its cores (Table 9.3). DESIGN CHOICE (log 43): a course that MODE takes out of LEND leaves DWELL for AWAKE and
LENT for RECLAIM, since a course under GATE never lends (R278). -/
def courseSync (cn : Nat) (s : State) : State :=
  let c := s.course cn
  if c.lend then
    let all := (s.courseCores cn).all fun n => (s.core n).gated
    match c.wstate, all with
    | .awake, true => s.setCourse cn { c with wstate := .dwell, dwellAt := s.mc }
    | .dwell, false => s.setCourse cn { c with wstate := .awake }
    | .lent, false => s.setCourse cn { c with wstate := .reclaim }
    | _, _ => s
  else match c.wstate with
    | .dwell => s.setCourse cn { c with wstate := .awake }
    | .lent => s.setCourse cn { c with wstate := .reclaim }
    | _ => s

/-- What follows an event at a core: requests that waited for a TAG leave, the SYN unit processes what it may, and the course follows the
gates of its cores. -/
def settle (n : Nat) (s : State) : State :=
  courseSync (courseOf n) (synPump n (pumpTags n (s.core n).tagQueue.length s))

/-! ## Legality (Table 2.8) -/

/-- R37: the channel that a bundle names and its thread may not. -/
def chanBarred (c : Core) (k : Nat) (o : Op) : Option Nat :=
  match o with
  | .dmaStart _ ch _ _ =>
    let i := ch.toNat
    if c.ctl.pool then
      match (c.chan i).run with
      | some r => if (c.chan i).state ≠ 0 ∧ r.thread.val ≠ k then some i else none
      | none => none
    else if i / 2 ≠ k then some i else none
  | _ => none

def slotOps (b : Bundle) : List Op := b.slots.filterMap fun s => match s.op with
  | .ok o => if s.cls = clsExt then none else some o
  | .error _ => none

/-- Classes strictly rising. -/
def rising : List Nat → Bool
  | a :: b :: r => decide (a < b) && rising (b :: r)
  | _ => true

/-- The detail word of an illegal bundle: the lowest code of Table 2.8 that applies. -/
def bundleIllegal (c : Core) (k : Nat) (b : Bundle) (pastEnd : Bool) : Option FaultInfo :=
  let ops := slotOps b
  let err (d : Nat) : Bool := b.slots.any fun s => match s.op with
    | .error e => decide (e = d)
    | .ok _ => false
  if ! rising (b.slots.map (·.cls)) then some (illegal 1)
  else if hasDup (ops.flatMap destsOf) then some (illegal 2)
  else if b.slots.any (fun s => decide (s.cls = clsExt ∧ (s.psense ∨ s.psel ≠ 0))) then some (illegal 3)
  else if b.extOf.isSome && b.extended.isNone then some (illegal 4)
  else if pastEnd then some (illegal 5)
  else if err 6 then some (illegal 6)
  else match ops.filterMap (chanBarred c k) with
    | ch :: _ => some { code := fIllegal, detail := packWord [(7, 0), (ch, 8)] }
    | [] =>
      if b.slots.any (·.broken) || ops.any (fun o => ! opLegal o) ||
          b.slots.any (fun s => match s.op with | .ok o => ! extLegal o (b.extFor s) | .error _ => false) then some (illegal 7)
      else if b.noStop then some (illegal 8)
      else none

/-! ## Evaluation -/

/-- An op at E4. -/
def evalOp (x : Ctx) (o : Op) : OpRes :=
  match o with
  | .alu f rd ra b => evalAlu x f rd ra b
  | .cmp f pd ra b => evalCmp x f pd ra b
  | .pred f pd pa pb => evalPred x f pd pa pb
  | .pair f rd ra b => evalPair x f rd ra b
  | .mulwD rd ra rb => evalMulw x rd ra rb
  | .rsr rd n => evalRsr x rd n
  | .wsr n ra => evalWsr x n ra
  | .crsr sd n => evalCrsr x sd n
  | .cwsr n sa => evalCwsr x n sa
  | .csub sd sa ga gb => evalCsub x sd sa ga gb
  | .cperm sd sa ga => evalCperm x sd sa ga
  | .cbind sd sa sb => evalCbind x sd sa sb
  | .cfree sd sa sb => evalCfree x sd sa sb
  | .ckey sd sa ga => evalCkey x sd sa ga
  | .cget rd sa f => evalCget x rd sa f
  | .cmov sd sa => evalCmov x sd sa
  | .load f rt cap off => evalLoad x f rt cap off
  | .store f rt cap off => evalStore x f rt cap off
  | .acq cap => evalAcq x cap
  | .acqAll => evalAcqAll x
  | .amo f rt cap off => evalAmo x f rt cap off
  | .br t => evalBr x t
  | .bl rl t => evalBl x rl t
  | .jr ra => evalJr x ra
  | .jrl rl ra => evalJrl x rl ra
  | .callg sa sb => evalCallg x sa sb
  | .retg => evalRetg x
  | .exit => evalExit x
  | .vec f fmt vd va vb md => evalVec x f fmt vd va vb md
  | .vbcast fmt g v => evalVbcast x fmt g v
  | .vext fmt g v lane => evalVext x fmt g v lane
  | .vins fmt g v lane => evalVins x fmt g v lane
  | .mat m => evalMat x m
  | .finc f ga => evalFinc x f (x.t.getG ga)
  | .fincI f n => evalFinc x f (fincImm n)
  | .fincR cap ga gb => evalFincR x cap ga gb
  | .fwait f ga pd => evalFwait x f ga pd
  | .fread f gd => evalFread x f gd
  | .send cap gw n tag => evalSend x cap gw n tag
  | .waitd ga pd => evalWaitd x ga pd
  | .retd => evalRetd x
  | .rdb gd cap ga pd => evalRdb x gd cap ga pd
  | .istore cap ga gb => evalIstore x cap ga gb
  | .ifence => evalIfence x
  | .dmaStart nt ch cap ga => evalDmaStart x nt ch cap ga
  | .dmaWr reg g => evalDmaWr x reg g
  | .dmaRd g reg => evalDmaRd x g reg

/-- The offset after a bundle. -/
def Bundle.link (b : Bundle) : Word := b.addr + BitVec.ofNat 32 (4 * b.slots.length)

def ctxOf (s : State) (n : Nat) (k : ThreadNo) (b : Bundle) (sl : Slot) : Ctx :=
  { n := n, k := k, t := s.thread n k.val, c := s.core n, module := s.module, region := s.regionOf n, logical := s.logical n
    timeLo := s.timeLo, timeHi := s.time.extractLsb' 32 32, pc := b.addr, link := b.link, cls := sl.cls, ext := b.extFor sl }

/-- Whether a slot's condition holds (R42). -/
def Slot.holds (sl : Slot) (t : Thread) : Bool := t.getP sl.psel != sl.psense

/-- The ops of a bundle that execute, with their outcomes before any of them writes (R43). -/
def outcomes (s : State) (n : Nat) (k : ThreadNo) (b : Bundle) : List (Slot × Op × OpRes) :=
  b.slots.filterMap fun sl => match sl.op with
    | .ok o => if sl.cls ≠ clsExt ∧ sl.holds (s.thread n k.val) then some (sl, o, evalOp (ctxOf s n k b sl) o) else none
    | .error _ => none

/-- The coprocessor whose queue an op enters (Table 2.7). -/
def copOf : Op → Option Cop
  | .mat _ => some .mat
  | .dmaStart .. | .dmaWr .. | .dmaRd .. => some .dma
  | .finc .. | .fincI .. | .fincR .. | .fwait .. | .fread .. | .send .. | .waitd .. | .retd | .rdb .. | .istore .. | .ifence => some .syn
  | _ => none

/-- The blocking ops (R271). -/
def blocking : Op → Bool
  | .fwait .. | .waitd .. | .rdb .. => true
  | _ => false

/-- The most cycles that a coprocessor can have worked on an op before its release (R59): the datapath and the mover at most the 8 cc from
D2 to CM, Plectrum one for the fetch of a first descriptor, the SYN unit one for a fret it read or a message it assembled. -/
def squashMax : Op → Nat
  | .mat m => match m with
    | .tld .. | .tst .. | .tsave .. | .trestore .. | .mma .. => 8
    | _ => 0
  | .dmaStart .. | .finc .. | .fincI .. | .fincR .. | .fwait .. | .fread .. | .send .. => 1
  | _ => 0

def isMma : Op → Bool
  | .mat (.mma ..) => true
  | _ => false

/-- What SQUASH_CYC grows by for the discarded ops is fixed by timing alone, within R59's bounds (log 3); the cycles of an mma are cycles of
the datapath, which MAT_BUSY_CYC counts too (R194). -/
def squash (n : Nat) : List Op → State → State
  | [], s => s
  | o :: r, s =>
    let d := s.drawUpTo (squashMax o)
    squash n r (d.2.modCore n fun c =>
      { c with ctl := { c.ctl with squashCyc := c.ctl.squashCyc + d.1 }
               mat := if isMma o then { c.mat with busyCyc := c.mat.busyCyc + d.1 } else c.mat })

/-- The coprocessor ops of a bundle. -/
def copOps (b : Bundle) : List Op := (slotOps b).filter fun o => (copOf o).isSome

/-- The first fault of a bundle, in class order. -/
def firstFault : List (Slot × Op × OpRes) → Option OpRes
  | [] => none
  | (_, _, .fault f) :: _ => some (.fault f)
  | (_, _, .ecc a b) :: _ => some (.ecc a b)
  | _ :: r => firstFault r

def firstWithdraw : List (Slot × Op × OpRes) → Option (State → State)
  | [] => none
  | (_, _, .withdraw a) :: _ => some a
  | _ :: r => firstWithdraw r

def applyWrites (t : Thread) : List (Slot × Op × OpRes) → Thread
  | [] => t
  | (_, _, .done w _) :: r => applyWrites (w t) r
  | _ :: r => applyWrites t r

def applyActs (s : State) : List (Slot × Op × OpRes) → State
  | [] => s
  | (_, _, .done _ a) :: r => applyActs (a s) r
  | _ :: r => applyActs s r

def isBru (o : Op) : Bool := decide (opClass o = 3)
/-- BRU ops that redirect. -/
def redirects : Op → Bool
  | .br _ | .bl .. | .jr _ | .jrl .. | .callg .. | .retg => true
  | _ => false

/-- The deferred fault that a bundle takes (R54): of a coprocessor to which an executing op dispatches, or of any for a blocking op. -/
def deferredFor (c : Core) (k : ThreadNo) (ops : List Op) : Option Deferred :=
  c.deferred.find? fun d => decide (d.thread = k) && ops.any fun o => blocking o || decide (copOf o = some d.cop)

/-! ## Issue, flush and completion -/

/-- The quotas of Table 2.3 that a bundle needs. -/
def quotasFree (c : Core) (k : Nat) (b : Bundle) : Bool :=
  (slotOps b).all fun o =>
    let pool := c.ctl.pool
    (match copOf o with
      | some .mat => quotaFree pool 16 4 1 c.matHeldBy k
      | some .dma => quotaFree pool 8 2 1 c.dmaHeld k
      | some .syn => quotaFree pool 16 4 1 c.synHeld k
      | none => true) &&
    (match o with
      | .dmaStart false .. => quotaFree pool 16 4 1 c.rangeHeldBy k
      | .mat (.mseqRun false ..) => quotaFree pool 16 4 1 c.rangeHeldBy k
      | .store .. => decide ((c.thread k).sb.length < 8)
      | _ => true)

/-- ISSUE_CNT counts every bundle issued, and the epoch every BRU op issued, whatever becomes of them (R56, R75, R88). -/
def countIssue (n : Nat) (k : ThreadNo) (b : Bundle) (s : State) : State :=
  (s.modCore n fun c => { c with ctl := { c.ctl with issueCnt := c.ctl.issueCnt + 1 } }).modThread n k.val fun t =>
    { t with epoch := if (slotOps b).any isBru then t.epoch + 1 else t.epoch }

/-- The bundle that instruction memory holds at an address. -/
def bundleAt (c : Core) (a : Word) : Bundle := (fetchBundle c.mem.opWord a).1

/-- Younger bundles of a thread that issued along its predicted path and are flushed: how many of at most `m` timing alone fixes (log 3).
Each was issued (R75) and its coprocessor ops are squashed (R59); `br` counts the unresolved branches, at most two (R45). -/
def flushYounger (n : Nat) (k : ThreadNo) : Nat → Nat → Word → State → State
  | 0, _, _, s => s
  | m + 1, br, a, s =>
    let d := s.drawChoice
    let c := d.2.core n
    let b := bundleAt c a
    let hasBru := (slotOps b).any isBru
    if ! badPc a && quotasFree c k.val b && ! (hasBru && decide (br ≥ 2)) && d.1 then
      flushYounger n k m (if hasBru then br + 1 else br) (c.mem.predicted a b.link) (squash n (copOps b) (countIssue n k b d.2))
    else d.2

/-- Bundles that issue before a branch resolves at E2, before a fault is taken at WB, and before an op acts at CM (Table 2.9). -/
def untilE2 : Nat := 4
def untilWB : Nat := 7
def untilCM : Nat := 8

/-- The bundles that a thread issued after a bundle, along its prediction, are flushed. -/
def flushAfter (n : Nat) (k : ThreadNo) (b : Bundle) (m : Nat) (s : State) : State :=
  flushYounger n k m (if (slotOps b).any isBru then 1 else 0) ((s.core n).mem.predicted b.addr b.link) s

/-- A bundle that completes nothing: its coprocessor ops are squashed, and the thread's younger bundles flushed (R50, R52, R56). -/
def discard (n : Nat) (k : ThreadNo) (b : Bundle) (m : Nat) (s : State) : State := flushAfter n k b m (squash n (copOps b) s)

/-- A branch resolves at E2, and the BTB is updated; against its prediction it flushes the younger bundles on the predicted path and
restarts the fetch (R48). A bundle without a branch is predicted from a stale entry of the BTB alone (R71). A retg that pops a frame of a
fault entry always counts as mispredicted (R117). A retd goes to DRET against its prediction, since the BTB never holds it (R101, log 45). A
taken branch is traced (R415). -/
def resolve (n : Nat) (k : ThreadNo) (b : Bundle) (taken always : Bool) (s : State) : State :=
  let s := if taken && (slotOps b).any isBru then traceEvent false n k b.addr s else s
  let mem := (s.core n).mem
  let next := (s.thread n k.val).pc
  let hit := decide ((mem.btbEntry b.addr).addr = b.addr)
  let record (s : State) : State :=
    if (slotOps b).any isBru || hit then s.modCore n fun c => c.modMem fun m => btbUpdate m b.addr taken next else s
  if mem.predicted b.addr b.link = next ∧ ! always then record s
  else (record (flushAfter n k b untilE2 s)).modThread n k.val fun t => { t with fbuf := [] }

/-- An istore flushes what any thread that runs issued after it (R70), an ifence what its own thread did (R72). -/
def flushAtCM (n : Nat) (k : ThreadNo) (ops : List Op) (s : State) : State :=
  let flush (j : ThreadNo) (s : State) : State :=
    if j = k ∨ (s.thread n j.val).st = .running then flushYounger n j untilCM 0 (s.thread n j.val).pc s else s
  if ops.any fun o => match o with | .istore .. => true | _ => false then foldState flush allThreads s
  else if ops.contains .ifence then flush k s
  else s

/-- Whether a retg pops a frame of a fault entry (R116, R117). -/
def popsFault (s : State) (n : Nat) (k : ThreadNo) (ops : List Op) : Bool :=
  let t := s.thread n k.val
  ops.contains .retg && ! t.esc && decide (t.gdepth ≠ 0) &&
    bitOf ((s.core n).mem.readCap (frameAt t n k.val (t.gdepth.toNat - 1))).limit 0

/-- What ops do after release. In a bundle that exits, the thread is IDLE at CM, and a blocking op of the bundle neither waits nor takes a
message (R89, log 45). -/
def released (rs : List (Slot × Op × OpRes)) : List (Slot × Op × OpRes) :=
  if rs.any fun r => decide (r.2.1 = .exit) then rs.filter fun r => ! blocking r.2.1 else rs

/-- The bundle's completion: writes at WB, the branch unit's record, coprocessor ops released at CM, a debug stop at a
safepoint, which flushes the younger bundles (R412). -/
def completeBundle (s : State) (n : Nat) (k : ThreadNo) (b : Bundle) (rs : List (Slot × Op × OpRes)) : State :=
  let ops := rs.map (·.2.1)
  let s1 := s.modThread n k.val fun t => applyWrites { t with pc := b.link, load := none, held := none } rs
  let taken := ops.any redirects
  let target := (s1.thread n k.val).pc
  let s2 := resolve n k b taken (popsFault s n k ops) s1
  let s3 := flushAtCM n k ops (applyActs s2 (released rs))
  let safe := ops.any (fun o => blocking o || decide (o = .ifence)) || (taken && decide (target.toNat ≤ b.addr.toNat))
  if safe && bitOf (s3.core n).ctl.dbgPend k.val && decide ((s3.thread n k.val).st = .running) then
    parkDebug n k.val (flushYounger n k untilCM 0 target s3) else s3

/-- One bundle of a thread, from D1 to CM. A load that leaves the core withdraws the bundle at E2, before any fault of the bundle is taken at
WB (R50, R52). -/
def runBundle (n : Nat) (k : ThreadNo) (b : Bundle) (pastEnd : Bool) (s : State) : State :=
  let s0 := countIssue n k b s
  let c := s0.core n
  let t := s0.thread n k.val
  match bundleIllegal c k.val b pastEnd with
  | some f => takeFault (flushAfter n k b untilWB s0) n k f b.addr b.addr false
  | none =>
    let rs := outcomes s0 n k b
    let ops := rs.map (·.2.1)
    let dead := (copOps b).filter fun o => ! ops.contains o
    match deferredFor c k ops with
    | some d =>
      let s1 := s0.modCore n fun c => { c with deferred := removeFirst (fun e => decide (e = d)) c.deferred }
      takeFault (discard n k b untilWB s1) n k { code := d.code, detail := d.detail } b.addr d.pc true
    | none =>
      match firstWithdraw rs with
      | some act => act (discard n k b untilE2 (s0.setThread n k.val { t with load := none, held := none }))
      | none =>
        match firstFault rs with
        | some (.fault f) => takeFault (discard n k b untilWB s0) n k f b.addr b.addr false
        | some (.ecc st off) => takeFault (discard n k b untilWB (s0.coreEcc n st off)) n k (eccFault st) b.addr b.addr false
        | _ => completeBundle (squash n dead s0) n k b rs

/-! ## Readiness (R45) -/

/-- Whether the bundle's load or store is still held under R61, R65, R167 or R222. -/
def stillHeld (s : State) (n : Nat) (k : ThreadNo) (b : Bundle) : Bool :=
  match firstWithdraw (outcomes s n k b) with
  | some act => ((act (s.setThread n k.val { s.thread n k.val with held := none })).thread n k.val).held.isSome
  | none => false

/-- A thread is ready to issue a bundle, its words apart (R45). -/
def bundleReady (s : State) (n : Nat) (k : ThreadNo) (b : Bundle) : Bool :=
  let c := s.core n
  let t := s.thread n k.val
  decide (t.st = .running)
    && (match t.load with | some w => w.ready | none => true)
    && ! (t.held.isSome && stillHeld s n k b)
    && quotasFree c k.val b
    && ((slotOps b).flatMap gregsOf).all (fun r => ! t.rdPending.contains r)
    && t.entryWrite.isNone && decide (c.lost = none)

/-! ## Fetch (R44) -/

/-- The block of a thread's program counter. -/
def Thread.pcBlock (t : Thread) : Nat := t.pc.toNat / 32

/-- The fetch buffer from the block of the program counter on: blocks passed are dropped, and a buffer that does not lead there holds
nothing of use. -/
def Thread.buffered (t : Thread) : List (Nat × List Byte) :=
  match t.fbuf with
  | e :: r => if e.1 = t.pcBlock then e :: r else match r with
    | e' :: r' => if e'.1 = t.pcBlock then e' :: r' else []
    | [] => []
  | [] => []

/-- The block that a thread fetches next, none where its buffer of 64 bytes is full, at the end of instruction memory, or where it does not
run. -/
def Thread.nextBlock (t : Thread) : Option Nat :=
  let b := t.pcBlock + t.buffered.length
  if t.st = .running ∧ t.buffered.length < 2 ∧ b < 4096 then some b else none

/-- The thread that fetch serves: the most free buffer space, then the lowest number. -/
def fetchThread (c : Core) : Option ThreadNo :=
  let want := allThreads.filter fun k => (c.thread k.val).nextBlock.isSome
  match want.find? fun k => (c.thread k.val).buffered.isEmpty with
  | some k => some k
  | none => want.head?

/-- One of the versions of a block that a thread may fetch: what instruction memory holds, or what it held before a DMA write that the
thread has not fenced (R72); the choice is free (log 3). -/
def pickVersion (now : List Byte) : List (List Byte) → State → List Byte × State
  | [], s => (now, s)
  | v :: r, s =>
    let d := s.drawChoice
    if d.1 then (v, d.2) else pickVersion now r d.2

/-- One aligned block of 32 bytes is fetched for a thread (R44). -/
def fetchBlock (n : Nat) (k : ThreadNo) (b : Nat) (s : State) : State :=
  let t := s.thread n k.val
  let v := pickVersion ((s.core n).mem.imemBlock b) ((t.stale.filter fun e => decide (e.1 = b)).map (·.2)) s
  v.2.modThread n k.val fun t => { t with fbuf := t.buffered ++ [(b, v.1)] }

/-- Fetch runs ahead of issue, block by block, until no thread has room (R44); how far it has come when a bundle issues is timing (log 2). -/
def fetchAhead (n : Nat) : Nat → State → State
  | 0, s => s
  | m + 1, s =>
    match fetchThread (s.core n) with
    | none => s
    | some k => match (s.thread n k.val).nextBlock with
      | some b => fetchAhead n m (fetchBlock n k b s)
      | none => s

/-- The word at an offset as a thread's fetch buffer holds it. -/
def Thread.fetchWord (t : Thread) (off : Nat) : Word :=
  match t.buffered.find? fun e => decide (e.1 = off / 32) with
  | some e => leBits 32 ((e.2.drop (off % 32)).take 4)
  | none => 0

/-- A bundle is whole in its thread's fetch buffer. -/
def Thread.holdsBundle (t : Thread) (b : Bundle) : Bool :=
  (wordsOf 32 b.addr.toNat (4 * b.slots.length)).all fun w => t.buffered.any fun e => decide (e.1 = w)

/-! ## Issue (R46) -/

/-- The bundle at a thread's program counter, from its fetch buffer. -/
def nextBundle (s : State) (n : Nat) (k : Nat) : Bundle × Bool := fetchBundle (s.thread n k).fetchWord (s.thread n k).pc

def threadReady (s : State) (n : Nat) (k : ThreadNo) : Bool :=
  (s.thread n k.val).holdsBundle (nextBundle s n k.val).1 && bundleReady s n k (nextBundle s n k.val).1

/-- The thread that issues: one in escalation first, then the one ready longest, then the lowest number. -/
def pickThread (s : State) (n : Nat) : Option ThreadNo :=
  let rs := allThreads.filter (threadReady s n)
  let waited (k : ThreadNo) : Nat := mapGet 0 (s.core n).waits k.val
  match rs.find? fun k => (s.thread n k.val).esc with
  | some k => some k
  | none => rs.foldl (fun a k => match a with
    | none => some k
    | some j => if waited k > waited j then some k else some j) none

/-- The ready threads that did not issue have waited one issue more (R46). -/
def countWaits (s : State) (n : Nat) (k : ThreadNo) : State :=
  let put (m : Map Nat) (j : ThreadNo) : Map Nat :=
    mapSet 0 m j.val (if j ≠ k ∧ threadReady s n j then mapGet 0 m j.val + 1 else 0)
  s.modCore n fun c => { c with waits := allThreads.foldl put c.waits }

/-- An uncorrectable word of instruction memory under a fetched bundle (R423). -/
def fetchPoisoned (m : CoreMem) (b : Bundle) : Bool := poisonedAt 8 m.imemPoison b.addr.toNat (4 * b.slots.length)

/-- The bundle at a thread's program counter issues. -/
def issueThread (s : State) (n : Nat) (k : ThreadNo) : State :=
  let nb := nextBundle s n k.val
  let s1 := countWaits s n k
  if fetchPoisoned (s.core n).mem nb.1 then
    takeFault ((countIssue n k nb.1 s1).coreEcc n 0 nb.1.addr.toNat) n k (eccFault 0) nb.1.addr nb.1.addr false
  else runBundle n k nb.1 nb.2 s1

/-- BUNDLE_ISSUE (R44 to R46): fetch has run on, and the bundle of the selected ready thread issues; none where no thread is ready
(log 1). -/
def execBundleIssue (node : NodeNo) (s : State) : Host.Outcome State Fault Refusal :=
  let s1 := fetchAhead node.val 8 s
  atCore node <| match pickThread s1 node.val with
    | some k => settle node.val (issueThread s1 node.val k)
    | none => s1

/-- A Camhar op given as a command (log 4): the bundle of that op, at the program counter of a thread that is ready for it; nothing
where the thread is not. -/
def issueOne (c : OpAt) (o : Op) (s : State) : Host.Outcome State Fault Refusal :=
  let n := c.node.val
  let b := commandBundle (s.thread n c.thread.val).pc c o
  atCore c.node <| if bundleReady s n c.thread b then settle n (runBundle n c.thread b b.pastEnd (countWaits s n c.thread)) else s

end Sys2Proof.Machine
end

