-- ==== Sys2Proof/Machine/AluOps.lean ====
section
/-! DEFINITION. Commands of the scalar ALUs (Tables 3.5 to 3.7), each the bundle of that op (log 4). -/

namespace Sys2Proof.Machine

open Sys2Proof

/-- ADD (R83). -/
def execAdd (c : OpAt) (rd : GReg) (ra : GReg) (b : Src2) (s : State) : Host.Outcome State Fault Refusal :=
  issueOne c (.alu .add rd ra b) s

/-- SUB (R83). -/
def execSub (c : OpAt) (rd : GReg) (ra : GReg) (b : Src2) (s : State) : Host.Outcome State Fault Refusal :=
  issueOne c (.alu .sub rd ra b) s

/-- ADD_O (R83). -/
def execAddO (c : OpAt) (rd : GReg) (ra : GReg) (b : Src2) (s : State) : Host.Outcome State Fault Refusal :=
  issueOne c (.alu .addO rd ra b) s

/-- SUB_O (R83). -/
def execSubO (c : OpAt) (rd : GReg) (ra : GReg) (b : Src2) (s : State) : Host.Outcome State Fault Refusal :=
  issueOne c (.alu .subO rd ra b) s

/-- AND (R83). -/
def execAnd (c : OpAt) (rd : GReg) (ra : GReg) (b : Src2) (s : State) : Host.Outcome State Fault Refusal :=
  issueOne c (.alu .and rd ra b) s

/-- OR (R83). -/
def execOr (c : OpAt) (rd : GReg) (ra : GReg) (b : Src2) (s : State) : Host.Outcome State Fault Refusal :=
  issueOne c (.alu .or rd ra b) s

/-- XOR (R83). -/
def execXor (c : OpAt) (rd : GReg) (ra : GReg) (b : Src2) (s : State) : Host.Outcome State Fault Refusal :=
  issueOne c (.alu .xor rd ra b) s

/-- ANDN (R83). -/
def execAndn (c : OpAt) (rd : GReg) (ra : GReg) (b : Src2) (s : State) : Host.Outcome State Fault Refusal :=
  issueOne c (.alu .andn rd ra b) s

/-- SLL (R83). -/
def execSll (c : OpAt) (rd : GReg) (ra : GReg) (b : Src2) (s : State) : Host.Outcome State Fault Refusal :=
  issueOne c (.alu .sll rd ra b) s

/-- SRL (R83). -/
def execSrl (c : OpAt) (rd : GReg) (ra : GReg) (b : Src2) (s : State) : Host.Outcome State Fault Refusal :=
  issueOne c (.alu .srl rd ra b) s

/-- SRA (R83). -/
def execSra (c : OpAt) (rd : GReg) (ra : GReg) (b : Src2) (s : State) : Host.Outcome State Fault Refusal :=
  issueOne c (.alu .sra rd ra b) s

/-- MIN (R83). -/
def execMin (c : OpAt) (rd : GReg) (ra : GReg) (b : Src2) (s : State) : Host.Outcome State Fault Refusal :=
  issueOne c (.alu .min rd ra b) s

/-- MAX (R83). -/
def execMax (c : OpAt) (rd : GReg) (ra : GReg) (b : Src2) (s : State) : Host.Outcome State Fault Refusal :=
  issueOne c (.alu .max rd ra b) s

/-- MINU (R83). -/
def execMinu (c : OpAt) (rd : GReg) (ra : GReg) (b : Src2) (s : State) : Host.Outcome State Fault Refusal :=
  issueOne c (.alu .minu rd ra b) s

/-- MAXU (R83). -/
def execMaxu (c : OpAt) (rd : GReg) (ra : GReg) (b : Src2) (s : State) : Host.Outcome State Fault Refusal :=
  issueOne c (.alu .maxu rd ra b) s

/-- CLZ (R83). -/
def execClz (c : OpAt) (rd : GReg) (ra : GReg) (s : State) : Host.Outcome State Fault Refusal :=
  issueOne c (.alu .clz rd ra (.reg 0)) s

/-- POPC (R83). -/
def execPopc (c : OpAt) (rd : GReg) (ra : GReg) (s : State) : Host.Outcome State Fault Refusal :=
  issueOne c (.alu .popc rd ra (.reg 0)) s

/-- CMP_EQ (R83). -/
def execCmpEq (c : OpAt) (pd : PReg) (ra : GReg) (b : Src2) (s : State) : Host.Outcome State Fault Refusal :=
  issueOne c (.cmp .eq pd ra b) s

/-- CMP_NE (R83). -/
def execCmpNe (c : OpAt) (pd : PReg) (ra : GReg) (b : Src2) (s : State) : Host.Outcome State Fault Refusal :=
  issueOne c (.cmp .ne pd ra b) s

/-- CMP_LT (R83). -/
def execCmpLt (c : OpAt) (pd : PReg) (ra : GReg) (b : Src2) (s : State) : Host.Outcome State Fault Refusal :=
  issueOne c (.cmp .lt pd ra b) s

/-- CMP_GE (R83). -/
def execCmpGe (c : OpAt) (pd : PReg) (ra : GReg) (b : Src2) (s : State) : Host.Outcome State Fault Refusal :=
  issueOne c (.cmp .ge pd ra b) s

/-- CMP_LTU (R83). -/
def execCmpLtu (c : OpAt) (pd : PReg) (ra : GReg) (b : Src2) (s : State) : Host.Outcome State Fault Refusal :=
  issueOne c (.cmp .ltu pd ra b) s

/-- CMP_GEU (R83). -/
def execCmpGeu (c : OpAt) (pd : PReg) (ra : GReg) (b : Src2) (s : State) : Host.Outcome State Fault Refusal :=
  issueOne c (.cmp .geu pd ra b) s

/-- PAND (R83). -/
def execPand (c : OpAt) (pd : PReg) (pa : PReg) (pb : PReg) (s : State) : Host.Outcome State Fault Refusal :=
  issueOne c (.pred .pand pd pa pb) s

/-- POR (R83). -/
def execPor (c : OpAt) (pd : PReg) (pa : PReg) (pb : PReg) (s : State) : Host.Outcome State Fault Refusal :=
  issueOne c (.pred .por pd pa pb) s

/-- PXOR (R83). -/
def execPxor (c : OpAt) (pd : PReg) (pa : PReg) (pb : PReg) (s : State) : Host.Outcome State Fault Refusal :=
  issueOne c (.pred .pxor pd pa pb) s

/-- PANDN (R83). -/
def execPandn (c : OpAt) (pd : PReg) (pa : PReg) (pb : PReg) (s : State) : Host.Outcome State Fault Refusal :=
  issueOne c (.pred .pandn pd pa pb) s

/-- MUL (R84). -/
def execMul (c : OpAt) (rd : GReg) (ra : GReg) (b : Src2) (s : State) : Host.Outcome State Fault Refusal :=
  issueOne c (.alu .mul rd ra b) s

/-- MULH (R84). -/
def execMulh (c : OpAt) (rd : GReg) (ra : GReg) (b : Src2) (s : State) : Host.Outcome State Fault Refusal :=
  issueOne c (.alu .mulh rd ra b) s

/-- MULHU (R84). -/
def execMulhu (c : OpAt) (rd : GReg) (ra : GReg) (b : Src2) (s : State) : Host.Outcome State Fault Refusal :=
  issueOne c (.alu .mulhu rd ra b) s

/-- MUL_O (R84). -/
def execMulO (c : OpAt) (rd : GReg) (ra : GReg) (b : Src2) (s : State) : Host.Outcome State Fault Refusal :=
  issueOne c (.alu .mulO rd ra b) s

/-- DIV (R84). -/
def execDiv (c : OpAt) (rd : GReg) (ra : GReg) (b : Src2) (s : State) : Host.Outcome State Fault Refusal :=
  issueOne c (.alu .div rd ra b) s

/-- DIVU (R84). -/
def execDivu (c : OpAt) (rd : GReg) (ra : GReg) (b : Src2) (s : State) : Host.Outcome State Fault Refusal :=
  issueOne c (.alu .divu rd ra b) s

/-- REM (R84). -/
def execRem (c : OpAt) (rd : GReg) (ra : GReg) (b : Src2) (s : State) : Host.Outcome State Fault Refusal :=
  issueOne c (.alu .rem rd ra b) s

/-- REMU (R84). -/
def execRemu (c : OpAt) (rd : GReg) (ra : GReg) (b : Src2) (s : State) : Host.Outcome State Fault Refusal :=
  issueOne c (.alu .remu rd ra b) s

/-- ADD_D (R84). -/
def execAddD (c : OpAt) (rd : GReg) (ra : GReg) (b : Src2) (s : State) : Host.Outcome State Fault Refusal :=
  issueOne c (.pair .add rd ra b) s

/-- SUB_D (R84). -/
def execSubD (c : OpAt) (rd : GReg) (ra : GReg) (b : Src2) (s : State) : Host.Outcome State Fault Refusal :=
  issueOne c (.pair .sub rd ra b) s

/-- SLL_D (R84). -/
def execSllD (c : OpAt) (rd : GReg) (ra : GReg) (b : Src2) (s : State) : Host.Outcome State Fault Refusal :=
  issueOne c (.pair .sll rd ra b) s

/-- SRL_D (R84). -/
def execSrlD (c : OpAt) (rd : GReg) (ra : GReg) (b : Src2) (s : State) : Host.Outcome State Fault Refusal :=
  issueOne c (.pair .srl rd ra b) s

/-- SRA_D (R84). -/
def execSraD (c : OpAt) (rd : GReg) (ra : GReg) (b : Src2) (s : State) : Host.Outcome State Fault Refusal :=
  issueOne c (.pair .sra rd ra b) s

/-- MULW_D (R84). -/
def execMulwD (c : OpAt) (rd : GReg) (ra : GReg) (rb : GReg) (s : State) : Host.Outcome State Fault Refusal :=
  issueOne c (.mulwD rd ra rb) s

/-- RSR (R85). -/
def execRsr (c : OpAt) (rd : GReg) (n : Byte) (s : State) : Host.Outcome State Fault Refusal :=
  issueOne c (.rsr rd n) s

/-- WSR (R85). -/
def execWsr (c : OpAt) (n : Byte) (ra : GReg) (s : State) : Host.Outcome State Fault Refusal :=
  issueOne c (.wsr n ra) s

end Sys2Proof.Machine
end

