-- ==== Sys2Proof/Machine/BranchOps.lean ====
section
/-! DEFINITION. Commands of the branch unit (Table 3.9), each the bundle of that op (log 4). -/

namespace Sys2Proof.Machine

open Sys2Proof

/-- BR (R88). -/
def execBr (c : OpAt) (tgt : BitVec 15) (s : State) : Host.Outcome State Fault Refusal :=
  issueOne c (.br tgt) s

/-- BL (R88). -/
def execBl (c : OpAt) (rl : GReg) (tgt : BitVec 15) (s : State) : Host.Outcome State Fault Refusal :=
  issueOne c (.bl rl tgt) s

/-- JR (R88). -/
def execJr (c : OpAt) (ra : GReg) (s : State) : Host.Outcome State Fault Refusal :=
  issueOne c (.jr ra) s

/-- JRL (R88). -/
def execJrl (c : OpAt) (rl : GReg) (ra : GReg) (s : State) : Host.Outcome State Fault Refusal :=
  issueOne c (.jrl rl ra) s

/-- CALLG (R115). -/
def execCallg (c : OpAt) (sa : SReg) (sb : SReg) (s : State) : Host.Outcome State Fault Refusal :=
  issueOne c (.callg sa sb) s

/-- RETG (R116). -/
def execRetg (c : OpAt) (s : State) : Host.Outcome State Fault Refusal :=
  issueOne c .retg s

/-- EXIT (R89). -/
def execExit (c : OpAt) (s : State) : Host.Outcome State Fault Refusal :=
  issueOne c .exit s

end Sys2Proof.Machine
end

