-- ==== Sys2Proof/Machine/CapOps.lean ====
section
/-! DEFINITION. Commands of the capability ops (Tables 3.6, 4.4), each the bundle of that op (log 4). -/

namespace Sys2Proof.Machine

open Sys2Proof

/-- CRSR (R85). -/
def execCrsr (c : OpAt) (sd : SReg) (n : GReg) (s : State) : Host.Outcome State Fault Refusal :=
  issueOne c (.crsr sd n) s

/-- CWSR (R110). -/
def execCwsr (c : OpAt) (n : GReg) (sa : SReg) (s : State) : Host.Outcome State Fault Refusal :=
  issueOne c (.cwsr n sa) s

/-- CSUB (R110). -/
def execCsub (c : OpAt) (sd : SReg) (sa : SReg) (ga : GReg) (gb : GReg) (s : State) : Host.Outcome State Fault Refusal :=
  issueOne c (.csub sd sa ga gb) s

/-- CPERM (R110). -/
def execCperm (c : OpAt) (sd : SReg) (sa : SReg) (ga : GReg) (s : State) : Host.Outcome State Fault Refusal :=
  issueOne c (.cperm sd sa ga) s

/-- CBIND (R110). -/
def execCbind (c : OpAt) (sd : SReg) (sa : SReg) (sb : SReg) (s : State) : Host.Outcome State Fault Refusal :=
  issueOne c (.cbind sd sa sb) s

/-- CFREE (R110). -/
def execCfree (c : OpAt) (sd : SReg) (sa : SReg) (sb : SReg) (s : State) : Host.Outcome State Fault Refusal :=
  issueOne c (.cfree sd sa sb) s

/-- CKEY (R110). -/
def execCkey (c : OpAt) (sd : SReg) (sa : SReg) (ga : GReg) (s : State) : Host.Outcome State Fault Refusal :=
  issueOne c (.ckey sd sa ga) s

/-- CGET (R84). -/
def execCget (c : OpAt) (rd : GReg) (sa : SReg) (f : Byte) (s : State) : Host.Outcome State Fault Refusal :=
  issueOne c (.cget rd sa f) s

/-- CMOV (R84). -/
def execCmov (c : OpAt) (sd : SReg) (sa : SReg) (s : State) : Host.Outcome State Fault Refusal :=
  issueOne c (.cmov sd sa) s

end Sys2Proof.Machine
end

