-- ==== Sys2Proof/Machine/Dma.lean ====
section
/-! DEFINITION. Plectrum: descriptors (R231, R232), bursts (R234 to R238), completion, errors, aborts and records (R239 to R245), level
and watermark (R248, R249), registers (R246, R247), and the engine's steps. -/

namespace Sys2Proof.Machine

open Sys2Proof

/-! ## Descriptors (Table 8.1) -/

/-- The fields of a descriptor. -/
structure Desc where
  ws : List Word

def Desc.w (d : Desc) (i : Nat) : Word := d.ws.getD i 0
def Desc.rfretEn (d : Desc) : Bool := bitOf (d.w 0) 22
def Desc.lfretEn (d : Desc) : Bool := bitOf (d.w 0) 21
def Desc.chain (d : Desc) : Bool := bitOf (d.w 0) 20
def Desc.flow (d : Desc) : Bool := bitOf (d.w 0) 19
def Desc.notify (d : Desc) : Bool := bitOf (d.w 0) 18
def Desc.red (d : Desc) : Nat := fieldOf (d.w 0) 17 16
def Desc.tail (d : Desc) : Bool := bitOf (d.w 0) 15
def Desc.burst (d : Desc) : Nat := 128 * 2 ^ fieldOf (d.w 0) 14 13
def Desc.esize (d : Desc) : Nat := 2 ^ fieldOf (d.w 0) 12 11
def Desc.smode (d : Desc) : Nat := fieldOf (d.w 0) 10 8
def Desc.dcap (d : Desc) : Nat := fieldOf (d.w 0) 7 4
def Desc.scap (d : Desc) : Nat := fieldOf (d.w 0) 3 0
def Desc.soff (d : Desc) : Nat := (d.w 1).toNat
def Desc.doff (d : Desc) : Nat := (d.w 2).toNat
def Desc.dw (d : Desc) : Nat := fieldOf (d.w 3) 12 8
def Desc.sw (d : Desc) : Nat := fieldOf (d.w 3) 4 0
def Desc.cnt0 (d : Desc) : Nat := (d.w 4).toNat
def Desc.n2 (d : Desc) : Nat := fieldOf (d.w 5) 31 16 + 1
def Desc.n1 (d : Desc) : Nat := fieldOf (d.w 5) 15 0 + 1
def Desc.sxstr (d : Desc) : Nat := (d.w 10).toNat
def Desc.lfret (d : Desc) : BitVec 6 := fld 6 (d.w 11) 13 8
def Desc.nch (d : Desc) : BitVec 4 := fld 4 (d.w 11) 3 0
def Desc.rnode (d : Desc) : Nat := fieldOf (d.w 12) 25 16
def Desc.rmodule (d : Desc) : BitVec 16 := fld 16 (d.w 12) 15 0
def Desc.rfret (d : Desc) : Nat := fieldOf (d.w 13) 5 0
def Desc.next (d : Desc) : Word := d.w 14
def Desc.rec_ (d : Desc) : Word := d.w 15
def Desc.total (d : Desc) : Nat := d.cnt0 * d.n1 * d.n2

/-- Reason 0x1: bits that must be zero, undefined SMODE or RED. -/
def Desc.badZero (d : Desc) : Bool :=
  decide (d.w 0 >>> 23 ≠ 0) || decide (d.w 3 &&& 0xFFFFE0E0 ≠ 0) || decide (d.smode > 2 ∨ d.red = 3)
    || decide (d.smode = 0 ∧ d.w 10 ≠ 0) || decide (d.w 11 &&& 0xFFFFC0F0 ≠ 0) || (! d.lfretEn && decide (d.lfret ≠ 0))
    || decide (d.w 12 >>> 26 ≠ 0) || decide (d.w 13 >>> 6 ≠ 0) || (! d.rfretEn && decide (d.w 12 ≠ 0 ∨ d.w 13 ≠ 0))

def wrapBad (w : Nat) : Bool := decide (1 ≤ w ∧ w ≤ 5)

/-- Reason 0x3. -/
def Desc.badShape (d : Desc) : Bool :=
  let strides := [d.w 6, d.w 7, d.w 8, d.w 9, d.w 10]
  let notMult (k : Nat) : Bool := (d.w 1 :: d.w 2 :: d.w 4 :: strides).any fun x => decide (x.toNat % k ≠ 0)
  decide (d.cnt0 = 0)
    || (decide (d.smode = 1) && decide (d.cnt0 % d.esize ≠ 0 ∨ d.sxstr % d.esize ≠ 0 ∨ d.sxstr > 65536))
    || (decide (d.smode = 2) && decide (d.esize = 8 ∨ d.cnt0 ≠ 64 * d.esize ∨ d.sxstr % 16 ≠ 0 ∨ d.sxstr > 65536))
    || (decide (d.red = 1) && notMult 4) || (decide (d.red = 2) && notMult 2)

/-- Reason 0x6. -/
def Desc.badFret (d : Desc) (s : State) (dcap : Cap) : Bool :=
  let here := decide (s.normModule dcap.module = 0xFFFF)
  let core := if here then s.exposed d.rnode && decide ((s.regionOf d.rnode).zeroExtend 6 = dcap.region) && (s.course (courseOf d.rnode)).valid
    else isCore d.rnode
  (d.lfretEn && decide (d.lfret ≥ 48))
    || (d.rfretEn && (decide (d.rfret ≥ 48 ∨ s.normModule d.rmodule ≠ s.normModule dcap.module ∨ d.rnode ≥ 960) || ! core))

/-- The reason of Table 8.2 for which a descriptor is refused; `first` is the chain's first descriptor. -/
def descBad (s : State) (r : ChainRun) (first d : Desc) : Option Nat :=
  if d.badZero then some 1
  else if wrapBad d.sw || wrapBad d.dw then some 2
  else if d.badShape then some 3
  else if d.total > 0xFFFFFFFF then some 4
  else if d.nch = 15 then some 5
  else if d.badFret s (r.caps.getD d.dcap {}) then some 6
  else if ! r.nt && decide (d.scap ≠ first.scap ∨ d.dcap ≠ first.dcap) then some 7
  else if d.next.toNat % 64 ≠ 0 ∨ (! d.chain ∧ d.next ≠ 0) then some 8
  else none

/-! ## Addresses (R234) -/

/-- Offsets are computed in 33 bits. -/
def off33 (x : Int) : Nat := (x % 8589934592).toNat

/-- wrap(o, base, w). -/
def wrapOff (o base w : Nat) : Nat := if w = 0 then o else base / 2 ^ w * 2 ^ w + o % 2 ^ w

/-- Rows and byte of place p of a descriptor: i2, i1, b. -/
def Desc.place (d : Desc) (p : Nat) : Nat × Nat × Nat := (p / (d.cnt0 * d.n1), p / d.cnt0 % d.n1, p % d.cnt0)

/-- The source offset of place p. -/
def Desc.src (d : Desc) (p : Nat) : Nat :=
  let (i2, i1, b) := d.place p
  let srow : Int := (d.soff : Int) + i1 * (d.w 6).toInt + i2 * (d.w 7).toInt
  let e := b / d.esize
  let o : Int := match d.smode with
    | 0 => srow + b
    | 1 => srow + e * d.sxstr + b % d.esize
    | _ => srow + (e % 8) * d.sxstr + (e / 8) * d.esize + b % d.esize
  wrapOff (off33 o) d.soff d.sw

/-- The destination offset of place p. -/
def Desc.dst (d : Desc) (p : Nat) : Nat :=
  let (i2, i1, b) := d.place p
  wrapOff (off33 ((d.doff : Int) + i1 * (d.w 8).toInt + i2 * (d.w 9).toInt + b)) d.doff d.dw

/-- Bytes to the wrap point of an offset. -/
def toWrap (o w : Nat) : Nat := if w = 0 then 0x200000000 else 2 ^ w - o % 2 ^ w

/-- The length of the burst that starts at place p (R235). -/
def Desc.burstLen (d : Desc) (p : Nat) : Nat :=
  let o := d.dst p
  let a := min (min d.burst (d.cnt0 - p % d.cnt0)) (min (toWrap o d.dw) (1024 - o % 1024))
  if d.smode = 0 then min a (min (toWrap (d.src p) d.sw) (1024 - d.src p % 1024)) else a

/-! ## Checks (R236, R242) -/

/-- DETAIL of a CAP error from the fault that the check raises (R242). -/
def capDetail (source : Bool) (f : FaultInfo) : Byte :=
  BitVec.ofNat 8 (128 * bn source + 16 * (f.code.toNat - 2) + (if f.code = fAlign then 0 else fieldOf f.detail 11 8))

/-- The first failing check of a burst: its DETAIL. -/
def burstCheck (s : State) (n : Nat) (r : ChainRun) (d : Desc) (p len : Nat) : Option Byte :=
  let dom : Domain := { module := s.module, region := s.regionOf n }
  let sc := r.caps.getD d.scap {}
  let dc := r.caps.getD d.dcap {}
  let top := ((List.range len).map fun i => d.src (p + i)).foldl max 0
  let src : Option FaultInfo :=
    if sc.tagged && ! sc.sealed_ && ! sc.isLocal dom then some (capFault fPerm 0 0 7)
    else checkAccess sc dom 0 0 [pR, pDma] none top 1 1
  match src with
  | some f => some (capDetail true f)
  | none =>
    (checkAccess dc dom 0 0 [pW, pDma] none (d.dst p) len (match d.red with | 1 => 4 | 2 => 2 | _ => 1)).map (capDetail false)

/-! ## Channel state (Table 8.9) -/

/-- The place of the descriptor in progress: the earliest with bytes left to start, else the last one read (R244). -/
def ChainRun.current (r : ChainRun) : Nat :=
  match findWith (fun d : DescRun => decide (d.started < (Desc.mk d.words).total)) r.descs with
  | some (i, _) => i
  | none => r.descs.length - 1

/-- Whether descriptor i is the last that the chain may run: CHAIN = 0, or the count of DMA_CHAIN (R232 reason 0x9). -/
def lastDesc (limit : BitVec 16) (i : Nat) (d : Desc) : Bool := ! d.chain || decide (limit ≠ 0 ∧ i + 1 ≥ limit.toNat)

/-- Whether a burst of the chain remains to start: an error or an abort leaves none (R243, R244). -/
def ChainRun.more (r : ChainRun) (limit : BitVec 16) : Bool :=
  r.err.isNone && ! r.aborting && (r.fetching.isSome || r.descs.any (fun d => decide (d.started < (Desc.mk d.words).total))
    || (match r.descs.getLast? with
      | some d => ! lastDesc limit (r.descs.length - 1) ⟨d.words⟩
      | none => true))

/-- The place of the descriptor in progress: that of the reported error, if any (R232, R243). -/
def ChainRun.inProgress (r : ChainRun) : Nat :=
  match r.err with
  | some e => e.desc
  | none => r.current

/-- STATE, OFFSET and RESIDUE follow the chain and its descriptor in progress. -/
def DmaChan.sync (c : DmaChan) : DmaChan :=
  match c.run with
  | none => { c with state := 0 }
  | some r =>
    let st : BitVec 3 :=
      if (r.err.isSome || r.aborting) && ! r.finished then 3
      else if ! r.msgs.isEmpty then 4
      else if r.more c.chainLimit then 1 else 2
    let c1 := { c with state := st }
    let place := r.inProgress
    if r.finished then c1
    else match r.descs[place]? with
    | some d => { c1 with desc := d.off, residue := BitVec.ofNat 32 ((Desc.mk d.words).total - d.started) }
    | none => match r.fetching, r.err, r.descs.getLast? with
      | some o, _, _ => { c1 with desc := o }
      | none, some _, some d => { c1 with desc := (Desc.mk d.words).next }
      | _, _, _ => c1

def modChan (n i : Nat) (f : DmaChan → DmaChan) (s : State) : State := s.modCore n fun c => c.setChan i (f (c.chan i)).sync
def modRun (n i : Nat) (f : ChainRun → ChainRun) (s : State) : State := modChan n i (fun c => { c with run := c.run.map f }) s
def setDma (n : Nat) (f : Plectrum → Plectrum) (s : State) : State := s.modCore n fun c => { c with dma := f c.dma }

/-! ## Range-table entries (R66) -/

/-- Frees segments of a channel's entry; the entry goes when both are free. -/
def freeSegs (ch : Nat) (src dst : Bool) (c : Core) : Core :=
  let f (e : RangeEntry) : RangeEntry :=
    if e.ch = some (BitVec.ofNat 3 ch) then { e with src := if src then none else e.src, dst := if dst then none else e.dst } else e
  { c with ranges := (c.ranges.map f).filter fun e => ! (decide (e.ch = some (BitVec.ofNat 3 ch)) && e.src.isNone && e.dst.isNone) }

/-- The entry of a queued start is not the one of the chain that runs: a start takes its entry over when it is accepted. -/
def queuedEntry (c : Core) (seq : Nat) : Bool := c.dma.queue.any fun j => decide (j.seq = seq)

def freeChanSegs (n ch : Nat) (src dst : Bool) (s : State) : State :=
  s.modCore n fun c =>
    let waiting := c.ranges.filter fun e => queuedEntry c e.seq
    let live := { c with ranges := c.ranges.filter fun e => ! queuedEntry c e.seq }
    { c with ranges := (freeSegs ch src dst live).ranges ++ waiting }

/-- Whether a read of a channel is under way or waits for its TAG. -/
def chanReads (c : Core) (ch : Nat) : Bool :=
  ((c.reqs.map (·.2)) ++ c.tagQueue.map (·.1)).any fun k => match k with
    | .dmaRead i _ _ _ => decide (i.toNat = ch)
    | _ => false

/-- No burst of the chain is left to start or to read: the source segment is free (R66). -/
def freeReadSeg (n ch : Nat) (s : State) : State :=
  let c := (s.core n).chan ch
  match c.run with
  | none => s
  | some r => if r.more c.chainLimit || chanReads (s.core n) ch then s else freeChanSegs n ch true false s

/-- Whether one error of a chain comes before another: it arose first, or in the same mc in an earlier burst (R243). -/
def ChainErr.before (a b : ChainErr) : Bool :=
  decide (a.mc = b.mc ∧ (a.desc < b.desc ∨ (a.desc = b.desc ∧ a.at_ < b.at_)))

/-- An error of a chain: the first to arise stands (R243). -/
def chainError (n i : Nat) (code detail : Byte) (desc at_ : Nat) (s : State) : State :=
  let e : ChainErr := { code := code, detail := detail, desc := desc, at_ := at_, mc := s.mc }
  freeReadSeg n i <| modRun n i (fun r => match r.err with
    | some f => if e.before f then { r with err := some e } else r
    | none => { r with err := some e }) s

/-! ## Completion (R239, R240) -/

/-- An increment of a remote fret leaves for another core (R239, R256), under a TAG as soon as one is free; for this core it goes to the
fret logic. A refusal is recorded with the thread and the bundle of the start (R205, R260). -/
def sendRfret (n : Nat) (r : ChainRun) (d : Desc) (s : State) : State :=
  let dcap := r.caps.getD d.dcap {}
  let module := s.normModule d.rmodule
  let a : Addr := blockAddr d.rnode + BitVec.ofNat 48 (0x22000 + 4 * d.rfret)
  if module = 0xFFFF ∧ d.rnode = n then addIncOwn n { f := BitVec.ofNat 6 d.rfret, v := 1 } s
  else match s.destOf n module dcap.region a with
    | .ok dst => s.request n (.dmaFret r.thread r.pc) (reqPacket n dst dcap.region a kFinc clsCtrl 0 (padTo 16 (leBytes 4 1)))
    | .error k => noteRefusal n r.thread.val k r.pc s

/-- A message of the channel joins those that wait to be accepted; none where NCH is 15 (R240). -/
def pushMsg (n ch : Nat) (nch : BitVec 4) (tag : BitVec 4) (w0 w1 : Word) (s : State) : State :=
  if nch = 15 then s else modRun n ch (fun r => { r with msgs := r.msgs ++ [{ chan := nch, tag := tag, w0 := w0, w1 := w1 }] }) s

/-- The chain is over: the entry is freed, and the channel is idle once no message waits (R239, R243). -/
def chainOver (n ch : Nat) (s : State) : State :=
  let s1 := freeChanSegs n ch true true s
  modChan n ch (fun c => match c.run with
    | some r => if r.msgs.isEmpty then { c with run := none } else { c with run := some { r with finished := true } }
    | none => c) s1

/-- Descriptor i has every write, and every earlier write of the channel, acknowledged. -/
def descDone (r : ChainRun) (i : Nat) (d : DescRun) : Bool :=
  ! d.completed && decide (d.started = (Desc.mk d.words).total ∧ d.started ≠ 0)
    && r.bursts.all (fun b => decide (b.desc > i ∨ b.stage = .acked))
    && (match r.err with
      | some e => decide (i < e.desc)
      | none => true)

/-- The first descriptor not completed, with its effects if it may complete (R239). -/
def completeOne (n ch : Nat) (s : State) : Option State :=
  let c := (s.core n).chan ch
  match c.run with
  | none => none
  | some r =>
    match findWith (fun d : DescRun => ! d.completed) r.descs with
    | none => none
    | some (i, d) =>
      if ! descDone r i d || r.finished then none
      else
        let de : Desc := ⟨d.words⟩
        let s1 := modRun n ch (fun r => { r with descs := modifyAt (fun d => { d with completed := true }) i r.descs
                                                 bursts := r.bursts.filter fun b => decide (b.desc ≠ i) }) s
        let s2 := if de.lfretEn then addIncOwn n { f := de.lfret, v := 1 } s1 else s1
        let s3 := if de.rfretEn then sendRfret n r de s2 else s2
        let s4 := if de.notify then pushMsg n ch de.nch 1 (BitVec.ofNat 32 ch) d.off s3 else s3
        if r.err.isSome || r.aborting then some s4
        else if ! de.chain then some (chainOver n ch s4)
        else if lastDesc c.chainLimit i de then some (chainError n ch 8 9 (i + 1) 0 s4)
        else some s4

/-- Completes every descriptor that may. -/
def completeDescs (n ch : Nat) : Nat → State → State
  | 0, s => s
  | fuel + 1, s => match completeOne n ch s with
    | some s' => completeDescs n ch fuel s'
    | none => s

def finishDescs (n ch : Nat) (s : State) : State :=
  completeDescs n ch (match ((s.core n).chan ch).run with | some r => r.descs.length + 1 | none => 0) s

/-! ## Level and watermark (R248, R249) -/

/-- NCH of the descriptor in progress, or of the last one read where that was never read (R240). -/
def ChainRun.nch (r : ChainRun) : BitVec 4 :=
  match (r.descs[r.inProgress]?).orElse fun _ => r.descs.getLast? with
  | some d => (Desc.mk d.words).nch
  | none => 15

def markOf (w : Word) : Nat := fieldOf w 30 0

/-- The level changes; a crossing of the mark from below sets CROSSED and may send WATERMARK. -/
def setLevel (c : DmaChan) (level : Word) : DmaChan :=
  let mark := markOf c.wmarkIn
  let crosses := decide (mark ≠ 0 ∧ c.level.toNat < mark ∧ mark ≤ level.toNat)
  let nch := match c.run with
    | some r => r.nch
    | none => 15
  let msg : Option DmaMsg :=
    if crosses && ! c.crossed && bitOf c.wmarkIn 31 && decide (nch ≠ 15) then
      some { chan := nch, tag := 4, w0 := 0, w1 := level }
    else none
  { c with level := level, crossed := c.crossed || crosses, wmsg := if msg.isSome then msg else c.wmsg }

/-- WATERMARK names its channel in word 0. -/
def nameWmsg (ch : Nat) (c : DmaChan) : DmaChan := { c with wmsg := c.wmsg.map fun m => { m with w0 := BitVec.ofNat 32 ch } }

/-- DMA_CREDIT (R248). -/
def creditChan (v : Word) (c : DmaChan) : DmaChan :=
  if v.toNat > c.level.toNat then { setLevel c 0 with creditErr := true } else setLevel c (c.level - v)

/-- A burst's write, or a piece of it, has been acknowledged (R217, R237, R239, R248). -/
def dmaAcked (n ch id len : Nat) (s : State) : State :=
  let upd (b : Burst) : Burst :=
    if b.id = id ∧ b.stage = .writing then { b with got := b.got + len, stage := if b.got + len ≥ b.len then .acked else b.stage } else b
  let s1 := modRun n ch (fun r => { r with bursts := r.bursts.map upd }) s
  let s2 := modChan n ch (fun c => nameWmsg ch (setLevel { c with bytes := c.bytes + BitVec.ofNat 32 len } (c.level + BitVec.ofNat 32 len))) s1
  finishDescs n ch s2

/-- A started burst fails with an error code and DETAIL (R241, R243). -/
def burstFails (n ch id : Nat) (code detail : Byte) (s : State) : State :=
  match ((s.core n).chan ch).run with
  | none => s
  | some r =>
    match r.bursts.find? fun b => decide (b.id = id) with
    | none => s
    | some b =>
      let s1 := modRun n ch (fun r => { r with bursts := r.bursts.map fun x => if x.id = id then { x with stage := .failed } else x }) s
      finishDescs n ch (chainError n ch code detail b.desc b.at_ s1)

/-- Bytes of a burst's read arrive (R237). -/
def dmaData (n ch id at_ : Nat) (bs : List Byte) (s : State) : State :=
  let upd (b : Burst) : Burst :=
    if b.id = id ∧ b.stage = .reading then
      { b with data := writeBytes b.data at_ bs, got := if b.got + bs.length ≥ b.len then 0 else b.got + bs.length
               stage := if b.got + bs.length ≥ b.len then .read else .reading }
    else b
  let s1 := modRun n ch (fun r => { r with bursts := r.bursts.map upd }) s
  let now : Bool := match ((s1.core n).chan ch).run with
    | some r => r.bursts.any fun b => decide (b.id = id ∧ b.stage = .read)
    | none => false
  freeReadSeg n ch (if now then setDma n (fun p => { p with ready := p.ready ++ [(BitVec.ofNat 3 ch, id)] }) s1 else s1)

/-! ## The read engine (R230, R237) -/

/-- Whether an address is the first of a unit of the tier interleave (R207, R209): the byte before it lies at another node. -/
def unitStart (a : Addr) : Bool :=
  match placeOfAddr a with
  | .tier1 _ => decide (a.toNat % 4096 = 0)
  | .tier2 _ _ => decide (a.toNat % 4096 = 0)
  | _ => false

/-- Runs of contiguous bytes that lie at one node: place in the burst, offset, length. A run ends where a unit of the tier interleave
ends, since no packet reaches two nodes (log 20); a linear burst whose capability starts at a multiple of 1 KiB is one run (R235). -/
def piecesOf (base : Addr) (offs : List Nat) : List (Nat × Nat × Nat) :=
  (offs.zipIdx).foldl (fun a p =>
    match a.getLast? with
    | some (i, o, l) => if p.1 = o + l ∧ ! unitStart (base + BitVec.ofNat 48 p.1) then a.dropLast ++ [(i, o, l + 1)] else a ++ [(p.2, p.1, 1)]
    | none => [(p.2, p.1, 1)]) []

/-- Whether bytes from a first to a last address lie in one scratchpad or one unit of the tier interleave. -/
def onePlace (lo hi : Addr) : Bool :=
  match placeOfAddr lo, placeOfAddr hi with
  | .scratch m _, .scratch k _ => decide (m = k)
  | .tier1 a, .tier1 b => decide (a / 4096 = b / 4096)
  | .tier2 i a, .tier2 j b => decide (i = j ∧ a / 4096 = b / 4096)
  | _, _ => false

/-- One packet of a burst's read: the place in the burst of its first byte, its source offset, its length, KIND and payload. -/
structure ReadReq where
  at_ : Nat
  off : Nat
  len : Nat
  kind : BitVec 5
  data : List Byte

/-- The payload of a strided or transposed read (R202; layout log 8): element size, wrap, first byte of the element or block, stride,
count of bytes, and the offset of the first byte within its wrap. -/
def Desc.gatherPayload (d : Desc) (p len : Nat) : List Byte :=
  let b := (d.place p).2.2
  let first := if d.smode = 1 then b % d.esize else b
  leBytes 1 d.esize ++ leBytes 1 d.sw ++ leBytes 2 first ++ leBytes 4 d.sxstr ++ leBytes 2 len ++ leBytes 2 0
    ++ leBytes 4 (if d.sw = 0 then 0 else d.src p % 2 ^ d.sw)

/-- The packets of a burst's read (R234, R235): one strided or transposed read under SMODE 1 or 2, one plain read under SMODE 0. Source
bytes that no one node holds take a plain read for each run of them (log 20). -/
def Desc.readReqs (d : Desc) (base : Addr) (p len : Nat) : List ReadReq :=
  let offs := (List.range len).map fun i => d.src (p + i)
  let at_ (o : Nat) : Addr := base + BitVec.ofNat 48 o
  if d.smode ≠ 0 ∧ onePlace (at_ (offs.foldl min (offs.headD 0))) (at_ (offs.foldl max 0)) then
    [{ at_ := 0, off := d.src p, len := len, kind := if d.smode = 1 then kReadStrided else kReadTransposed, data := d.gatherPayload p len }]
  else (piecesOf base offs).map fun x => { at_ := x.1, off := x.2.1, len := x.2.2, kind := kRead, data := readPayload x.2.2 }

/-- Sends the reads of a burst, each under a TAG as soon as one is free; a refusal at once fails the burst. -/
def sendReads (n ch id : Nat) (sc : Cap) : List ReadReq → State → State
  | [], s => s
  | q :: qs, s =>
    match s.destOf n 0xFFFF sc.region (sc.addrAt q.off) with
    | .error k => burstFails n ch id (k.zeroExtend 8) 0 s
    | .ok dst => sendReads n ch id sc qs (s.request n (.dmaRead (BitVec.ofNat 3 ch) id q.at_ q.len)
        (reqPacket n dst sc.region (sc.addrAt q.off) q.kind clsReq 0 q.data))

/-- Bytes of the buffer that a channel's bursts hold (R237). -/
def chanHeld (c : DmaChan) : Nat :=
  match c.run with
  | some r => ((r.bursts.filter fun b => decide (b.stage = .reading ∨ b.stage = .read ∨ b.stage = .writing)).map (·.len)).foldl (· + ·) 0
  | none => 0
def bufferHeld (c : Core) : Nat := ((List.range 8).map fun i => chanHeld (c.chan i)).foldl (· + ·) 0

/-- The next burst of a channel: its descriptor with its place. -/
def nextBurst (c : DmaChan) : Option (Nat × DescRun) :=
  match c.run with
  | some r =>
    if r.err.isSome || r.aborting || r.finished || ! r.msgs.isEmpty then none
    else findWith (fun d : DescRun => decide (d.started < (Desc.mk d.words).total) || (! d.completed && decide ((Desc.mk d.words).total = 0))) r.descs
  | none => none

/-- Whether the buffer and FLOW let a burst of len bytes start (R237, R248). -/
def burstRoom (c : Core) (ch : DmaChan) (d : Desc) (len : Nat) : Bool :=
  decide (bufferHeld c + len ≤ 32768 ∧ chanHeld ch < 16384)
    && (! (d.flow && decide (d.dw ≠ 0)) || decide (ch.level.toNat + chanHeld ch + len ≤ 2 ^ d.dw))

/-- The burst of a channel that may start, with the error it meets instead. -/
inductive BurstPlan where
  | fail (code detail : Byte) (desc at_ : Nat)
  | start (desc : Nat) (d : Desc) (at_ len : Nat)

def planBurst (s : State) (n i : Nat) : Option BurstPlan :=
  let c := s.core n
  let ch := c.chan i
  match nextBurst ch, ch.run with
  | some (j, dr), some r =>
    let d : Desc := ⟨dr.words⟩
    let first : Desc := ⟨(r.descs.headD dr).words⟩
    match (if dr.started = 0 then descBad s r first d else none) with
    | some e => some (.fail 6 (BitVec.ofNat 8 e) j 0)
    | none =>
      let len := d.burstLen dr.started
      match burstCheck s n r d dr.started len with
      | some e => some (.fail 5 e j dr.started)
      | none => if burstRoom c ch d len then some (.start j d dr.started len) else none
  | _, _ => none

/-- Starts a burst: its reads leave, and the next descriptor is prefetched with the last burst of this one (R230). -/
def startBurst (n i j : Nat) (d : Desc) (at_ len : Nat) (s : State) : State :=
  let c := (s.core n).chan i
  match c.run with
  | none => s
  | some r =>
    let id := r.nextBurst
    let last := decide (at_ + len = d.total)
    let b : Burst := { id := id, desc := j, at_ := at_, dcap := BitVec.ofNat 4 d.dcap, dst := d.dst at_, len := len, data := [], got := 0
                       tail := d.tail && last, red := BitVec.ofNat 2 d.red, stage := .reading }
    let fetch := if last && ! lastDesc c.chainLimit j d then some d.next else r.fetching
    let s1 := modRun n i (fun r => { r with nextBurst := id + 1, bursts := r.bursts ++ [b], fetching := fetch
                                            descs := modifyAt (fun x => { x with started := x.started + len }) j r.descs }) s
    let sc := r.caps.getD d.scap {}
    sendReads n i id sc (d.readReqs sc.base at_ len) s1

/-- BURST_READ (R236, R237): the first channel in round robin with a burst ready. -/
def readBurst (n : Nat) (s : State) : State :=
  let order := (List.range 8).map fun k => ((s.core n).dma.rr.toNat + k) % 8
  let pick := order.findSome? fun i => (planBurst s n i).map fun p => (i, p)
  match pick with
  | none => s
  | some (i, p) =>
    let s1 := setDma n (fun q => { q with rr := BitVec.ofNat 3 (i + 1) }) s
    match p with
    | .fail code detail j at_ => chainError n i code detail j at_ s1
    | .start j d at_ len => startBurst n i j d at_ len s1

def execBurstRead (node : NodeNo) (s : State) : Host.Outcome State Fault Refusal :=
  atCore node <| settle node.val (readBurst node.val s)

/-- DESCRIPTOR_FETCH (R230): the read of the first descriptor, or of the one at NEXT with its checks. -/
def fetchDesc (n i : Nat) (s : State) : State :=
  let c := s.core n
  let ch := c.chan i
  match ch.run with
  | none => s
  | some r =>
    match r.fetching with
    | none => s
    | some off =>
      let dom : Domain := { module := s.module, region := s.regionOf n }
      let here := s.normModule r.s.module = 0xFFFF ∧ (ownScratch n (r.s.addrAt off.toNat) 64).isSome
      let bad := checkAccess r.s dom 0 0 [pR] (if here then none else some 14) off.toNat 64 64
      let s1 := modRun n i (fun r => { r with fetching := none, prefetched := none }) s
      match bad with
      | some f => chainError n i 5 (capDetail true f) r.descs.length 0 s1
      | none =>
        match r.prefetched.getD (readDesc c.mem (scratchOff n r.s off.toNat)) with
        | .data bs =>
          let d : DescRun := { off := off, words := (List.range 16).map (wordAt bs), started := 0, completed := false }
          modChan n i (fun c => { c with wmarkIn := c.wmark, run := c.run.map fun r => { r with descs := r.descs ++ [d] } }) s1
        | .poisoned st => chainError n i 7 (0xF0 ||| st.zeroExtend 8) r.descs.length 0 (s1.coreEcc n 1 (scratchOff n r.s off.toNat))
        | .refused _ => s1

def execDescriptorFetch (node : NodeNo) (ch : BitVec 3) (s : State) : Host.Outcome State Fault Refusal :=
  atCore node <| settle node.val (fetchDesc node.val ch.toNat s)

/-! ## The write engine (R218, R237, R238) -/

/-- The KIND of a burst's write. -/
def writeKind (b : Burst) : BitVec 5 := match b.red.toNat with | 1 => kRedF32 | 2 => kRedBf16 | _ => kWrite

/-- Sends the write of a burst, or one for each unit of the tier interleave that it meets (log 20), under a TAG as soon as one is free. -/
def sendWrites (n ch : Nat) (b : Burst) (dc : Cap) : List (Nat × Nat × Nat) → State → State
  | [], s => s
  | (i, o, l) :: ps, s =>
    match s.destOf n (s.normModule dc.module) dc.region (dc.addrAt o) with
    | .error k => burstFails n ch b.id (k.zeroExtend 8) 0 s
    | .ok dst =>
      let p := reqPacket n dst dc.region (dc.addrAt o) (writeKind b) clsBulk 0 (readBytes b.data i l)
      sendWrites n ch b dc ps (s.request n (.dmaWrite (BitVec.ofNat 3 ch) b.id l) { p with h := { p.h with tail := b.tail, rflex := true } })

/-- A burst whose read completed may leave: a TAIL waits until every earlier write of its channel is acknowledged (R218). -/
def mayWrite (c : Core) (x : BitVec 3 × Nat) : Bool :=
  match (c.chan x.1.toNat).run with
  | some r => match r.bursts.find? fun b => decide (b.id = x.2) with
    | some b => ! b.tail || r.bursts.all fun o => decide (o.id ≥ b.id ∨ o.stage = .acked ∨ o.stage = .failed)
    | none => true
  | none => true

/-- BURST_WRITE (R237): the first burst, in the order reads completed, that may leave. -/
def writeBurst (n : Nat) (s : State) : State :=
  let c := s.core n
  match c.dma.ready.find? (mayWrite c) with
  | none => s
  | some x =>
    let ch := x.1.toNat
    let s1 := setDma n (fun p => { p with ready := p.ready.filter fun y => decide (y ≠ x) }) s
    match (c.chan ch).run with
    | none => s1
    | some r => match r.bursts.find? fun b => decide (b.id = x.2 ∧ b.stage = .read) with
      | none => s1
      | some b =>
        let dc := r.caps.getD b.dcap.toNat {}
        let ps := piecesOf dc.base ((List.range b.len).map (b.dst + ·))
        let s2 := modRun n ch (fun r => { r with bursts := r.bursts.map fun y => if y.id = b.id then { y with stage := .writing } else y }) s1
        sendWrites n ch b dc ps s2

def execBurstWrite (node : NodeNo) (s : State) : Host.Outcome State Fault Refusal :=
  atCore node <| settle node.val (writeBurst node.val s)

/-! ## Errors and abort (R243 to R245) -/

/-- Whether a request of a channel's bursts is outstanding. -/
def chanReqs (c : Core) (ch : Nat) : Bool :=
  chanReads c ch || ((c.reqs.map (·.2)) ++ c.tagQueue.map (·.1)).any fun k => match k with
    | .dmaWrite i _ _ => decide (i.toNat = ch)
    | _ => false

/-- The status record's words (Table 8.5). -/
def recordWords (ch : Nat) (code detail : Byte) (d : Option DescRun) : List Word :=
  let w0 := packWord [(code.toNat, 0), (ch, 8), (detail.toNat, 16)]
  match d with
  | none => [w0, 0, 0, 0]
  | some d =>
    let de : Desc := ⟨d.words⟩
    if d.started < de.total then
      [w0, BitVec.ofNat 32 (de.total - d.started), BitVec.ofNat 32 (de.src d.started), BitVec.ofNat 32 (de.dst d.started)]
    else [w0, 0, 0, 0]

/-- Writes the record through s at REC (R245): into the own scratchpad, or as a write to the place that s names, whose refusal also sets
REC_FAIL (log 20). -/
def writeRecord (n ch : Nat) (r : ChainRun) (rec_ : Word) (ws : List Word) (s : State) : State :=
  let dom : Domain := { module := s.module, region := s.regionOf n }
  let fail (s : State) : State := modChan n ch (fun c => { c with recFail := true }) s
  if rec_ = 0xFFFFFFFF then s
  else match checkAccess r.s dom 0 0 [pW] none rec_.toNat 16 16 with
    | some _ => fail s
    | none =>
      let bs := ws.flatMap fun w => leBytes 4 w.toNat
      let a := r.s.addrAt rec_.toNat
      match ownScratch n a 16 with
      | some off => if s.normModule r.s.module = 0xFFFF then s.modCore n fun c => c.modMem (·.writeScratch off bs) else fail s
      | none =>
        match s.destOf n (s.normModule r.s.module) r.s.region a with
        | .ok dst => s.request n (.dmaRec (BitVec.ofNat 3 ch)) (reqPacket n dst r.s.region a kWrite clsBulk 0 bs)
        | .error _ => fail s

/-- The record and the message of a chain that stops: code, DETAIL, and the descriptor in progress by its place (R240, R243, R244). -/
def stopChain (n ch : Nat) (r : ChainRun) (code detail : Byte) (place : Nat) (tag : BitVec 4) (s : State) : State :=
  let inProg := r.descs[place]?
  let src := match inProg with
    | some d => some d
    | none => r.descs.getLast?
  let w1 : Word := match inProg with
    | some d => d.off
    | none => match r.descs.getLast? with
      | some d => (Desc.mk d.words).next
      | none => ((s.core n).chan ch).desc
  let s1 := modChan n ch (fun c => { c with lastErr := code, detail := detail }) s
  let s2 := match src with
    | some d => writeRecord n ch r (Desc.mk d.words).rec_ (recordWords ch code detail inProg) s1
    | none => modChan n ch (fun c => { c with recFail := true }) s1
  let w0 := packWord [(ch, 0), (code.toNat, 8), (detail.toNat, 16)]
  let s3 := match src with
    | some d => pushMsg n ch (Desc.mk d.words).nch tag w0 w1 s2
    | none => s2
  modChan n ch (fun c => { c with desc := w1 }) (chainOver n ch s3)

/-- CHANNEL_DRAIN_END (R243, R244): every started burst has finished or failed. -/
def drainEnd (n ch : Nat) (s : State) : State :=
  let c := s.core n
  match (c.chan ch).run with
  | none => s
  | some r =>
    let busy := r.bursts.any (fun b => decide (b.stage = .reading ∨ b.stage = .read ∨ b.stage = .writing)) || chanReqs c ch || r.fetching.isSome
    if busy || r.finished then s
    else match r.err with
      | some e => stopChain n ch r e.code e.detail e.desc 3 s
      | none => if r.aborting then stopChain n ch r 9 0 r.current 2 s else s

def execChannelDrainEnd (node : NodeNo) (ch : BitVec 3) (s : State) : Host.Outcome State Fault Refusal :=
  atCore node <| settle node.val (drainEnd node.val ch.toNat s)

/-- A message enters a channel queue of the core and waiting threads look again (R263, R269). -/
def acceptMsg (n : Nat) (m : Msg) (s : State) : State :=
  wakeAllMsg n (s.modCore n fun c => { c with syn := { c.syn with msgs := c.syn.msgs ++ [m] } })

def DmaMsg.toMsg (m : DmaMsg) : Msg := { chan := m.chan, words := [m.w0, m.w1], tag := m.tag }

/-- PLECTRUM_MSG_ACCEPT (R240): the waiting WATERMARK, or else the channel's oldest held message, finds a queue entry. While the core is
halted every message is discarded (R76). -/
def acceptDmaMsg (n ch : Nat) (s : State) : State :=
  let c := s.core n
  let d := c.chan ch
  let take (m : DmaMsg) (s : State) : State := if c.ctl.halted then s else acceptMsg n m.toMsg s
  let room (m : DmaMsg) : Bool := c.ctl.halted || c.msgRoom m.chan.toNat
  match d.wmsg.filter room with
  | some m => take m (modChan n ch (fun c => { c with wmsg := none }) s)
  | none =>
    match d.run with
    | none => s
    | some r => match r.msgs with
      | [] => s
      | m :: ms =>
        if room m then
          let ended := r.finished && ms.isEmpty
          take m (modChan n ch (fun c => { c with run := if ended then none else some { r with msgs := ms } }) s)
        else s

def execPlectrumMsgAccept (node : NodeNo) (ch : BitVec 3) (s : State) : Host.Outcome State Fault Refusal :=
  atCore node <| settle node.val (acceptDmaMsg node.val ch.toNat s)

/-! ## Registers (R246, R247) -/

/-- DMA_CTL.ABORT (R244): nothing where no burst remains to start. -/
def abortChan (n ch : Nat) (s : State) : State :=
  let c := (s.core n).chan ch
  match c.run with
  | some r =>
    if r.finished || r.aborting || r.err.isSome || ! r.more c.chainLimit then s
    else freeReadSeg n ch (modRun n ch (fun r => { r with aborting := true }) s)
  | none => s

/-- The value of register word w through a DMA_SEL. -/
def dmaRead (c : Core) (sel : BitVec 3) (denied : Bool) (w : Nat) : Word :=
  let d := c.chan sel.toNat
  match w with
  | 0 => packWord [(sel.toNat, 0), (bn denied, 31)]
  | 2 => packWord [(d.state.toNat, 0), (d.lastErr.toNat, 8), (d.detail.toNat, 16), (bn d.recFail, 29), (bn d.creditErr, 30), (bn d.wrBusy, 31)]
  | 3 => d.desc
  | 4 => d.residue
  | 5 => d.chainLimit.zeroExtend 32
  | 6 => d.level
  | 8 => d.wmark
  | 9 => packWord [(bn (decide (markOf d.wmarkIn ≠ 0 ∧ markOf d.wmarkIn ≤ d.level.toNat)), 30), (bn d.crossed, 31)]
  | 10 => d.bytes
  | _ => 0

/-- Which DMA_SEL an access goes through: its channel and DENIED. -/
def viaSel (c : Core) (v : DmaVia) : BitVec 3 × Bool :=
  match v with
  | .thread k => ((c.thread k.val).selCh, (c.thread k.val).selDenied)
  | .page => (c.dma.pageCh, c.dma.pageDenied)

def setDenied (n : Nat) (v : DmaVia) (b : Bool) (s : State) : State :=
  match v with
  | .thread k => s.modThread n k.val fun t => { t with selDenied := b }
  | .page => setDma n (fun p => { p with pageDenied := b }) s

def setSel (n : Nat) (v : DmaVia) (ch : BitVec 3) (s : State) : State :=
  match v with
  | .thread k => s.modThread n k.val fun t => { t with selCh := ch }
  | .page => setDma n (fun p => { p with pageCh := ch }) s

/-- Whether R37 forbids an accessor to name a channel. -/
def dmaBarred (c : Core) (v : DmaVia) (ch : BitVec 3) : Bool :=
  match v with
  | .thread k => (chanBarred c k.val (.dmaStart false ch 0 0)).isSome
  | .page => false

/-- A write of register word w (Tables 8.7 to 8.10). -/
def dmaWrite (n : Nat) (v : DmaVia) (w : Nat) (x : Word) (s : State) : State :=
  let c := s.core n
  let sel := viaSel c v
  let ch := sel.1.toNat
  if w = 0 then setSel n v (x.truncate 3) (if bitOf x 31 then setDenied n v false s else s)
  else if w = 7 then modChan n ch (creditChan x) s
  else if w = 9 then if bitOf x 31 then modChan n ch (fun d => { d with crossed := false }) s else s
  else if w > 10 then s
  else if dmaBarred c v sel.1 then setDenied n v true s
  else match w with
    | 1 => if bitOf x 0 then abortChan n ch s else s
    | 2 => modChan n ch (fun d => { d with wrBusy := d.wrBusy && ! bitOf x 31, creditErr := d.creditErr && ! bitOf x 30
                                           recFail := d.recFail && ! bitOf x 29 }) s
    | 5 => modChan n ch (fun d =>
        let a := fieldWrite false (decide (d.state ≠ 0)) d.chainLimit (x.truncate 16)
        { d with chainLimit := a.1, wrBusy := d.wrBusy || a.2.2 }) s
    | 8 => modChan n ch (fun d => { d with wmark := x }) s
    | 10 => modChan n ch (fun d => { d with bytes := x }) s
    | _ => s

/-- DMA_ABORT (R244). -/
def execDmaAbort (node : NodeNo) (via : DmaVia) (s : State) : Host.Outcome State Fault Refusal :=
  atCore node (dmaWrite node.val via 1 1 s)

/-- DMA_CREDIT (R248). -/
def execDmaCredit (node : NodeNo) (via : DmaVia) (value : Word) (s : State) : Host.Outcome State Fault Refusal :=
  atCore node (dmaWrite node.val via 7 value s)

/-- DMA_WSTAT_CLEAR (R249). -/
def execDmaWstatClear (node : NodeNo) (via : DmaVia) (s : State) : Host.Outcome State Fault Refusal :=
  atCore node (dmaWrite node.val via 9 0x80000000 s)

/-! ## The DMA queue (R228) -/

/-- A tracked start is held by an older range-table entry, by older stores and atomics of its thread that have not landed, and by
older matrix ops, that overlap its segments (R65, Table 7.10). -/
def startHeld (s : State) (n : Nat) (j : DmaJob) : Bool :=
  let c := s.core n
  match c.ranges.find? fun e => decide (e.seq = j.seq) with
  | none => false
  | some e =>
    let t := c.thread j.thread.val
    let meets (g : Option Seg) (m : BitVec 16) (a : Addr) (l : Nat) : Bool := segMeets g m a l
    let byRange := c.ranges.any fun o => decide (o.seq < e.seq) &&
      ((match e.src with | some g => segMeets o.dst g.module g.base (g.limit.toNat + 1) | none => false) ||
       (match e.dst with
         | some g => segMeets o.src g.module g.base (g.limit.toNat + 1) || segMeets o.dst g.module g.base (g.limit.toNat + 1)
         | none => false))
    let byStore := (t.sb.any fun b => decide (b.seq < j.after) && (meets e.src b.module b.addr b.data.length || meets e.dst b.module b.addr b.data.length))
      || t.unacked.any fun u => decide (u.seq < j.after) && (meets e.src u.module u.addr u.data.length || meets e.dst u.module u.addr u.data.length)
    let byMat := (c.mat.pending ++ c.mat.seqOps).any fun m => decide (m.seq < j.seq) && (match matRange (c.mat.turn m) n m.work with
      | some (wr, lo, l) =>
        let a := scratchAddr n + BitVec.ofNat 48 lo
        (wr && meets e.src 0xFFFF a l) || meets e.dst 0xFFFF a l
      | none => false)
    byRange || byStore || byMat

/-- A start is accepted (R228, R229, R248). -/
def acceptStart (n : Nat) (j : DmaJob) (nt : Bool) (ch : Nat) (cap : Cap) (off : Word) (caps : List Cap) (d : Option Resp) (s : State) : State :=
  let r : ChainRun := { thread := j.thread, pc := j.pc, nt := nt, s := cap, caps := caps, descs := [], fetching := some off, prefetched := d
                        bursts := [], nextBurst := 0, err := none, aborting := false, msgs := [], finished := false }
  modChan n ch (fun c => { c with lastErr := 0, detail := 0, level := 0, run := some r }) s

/-- DMA_QUEUE_DEPART (R228): the op at the head leaves, a start once its channel is idle and nothing holds it. -/
def departDma (n : Nat) (s : State) : State :=
  let c := s.core n
  match c.dma.queue with
  | [] => s
  | j :: rest =>
    let s1 := setDma n (fun p => { p with queue := rest }) s
    match j.work with
    | .wr reg v => dmaWrite n (.thread j.thread) reg.toNat v s1
    | .rd g reg =>
      let sel := viaSel c (.thread j.thread)
      s1.modThread n j.thread.val fun t => { (t.setG g (dmaRead c sel.1 sel.2 reg.toNat)) with rdPending := t.rdPending.erase g }
    | .start nt ch cap off caps d =>
      if (c.chan ch.toNat).state ≠ 0 then s
      else if ! nt && startHeld s n j then
        let x := s.drawCount
        x.2.modCore n fun c => { c with ctl := { c.ctl with rtStall := c.ctl.rtStall + x.1 } }
      else acceptStart n j nt ch.toNat cap off caps d s1

def execDmaQueueDepart (node : NodeNo) (s : State) : Host.Outcome State Fault Refusal :=
  atCore node <| settle node.val (departDma node.val s)

end Sys2Proof.Machine
end

