-- ==== Sys2Proof/Machine/MatrixEvents.lean ====
section
/-! DEFINITION. The matrix unit's own steps: starting and completing ops on its engines (R161 to R171), and the sequencer (R186 to
R193). -/

namespace Sys2Proof.Machine

open Sys2Proof

/-! ## Rows in the own scratchpad -/

/-- The bytes of rows of the own scratchpad, by offset in a capability. -/
def rowsRead (m : CoreMem) (n : Nat) (c : Cap) (rs : List (Nat × Nat)) : List (List Byte) :=
  rs.map fun r => m.readScratch (scratchOff n c r.1) r.2

/-- Writes rows in order. -/
def rowsWrite (n : Nat) (c : Cap) : List (Nat × List Byte) → CoreMem → CoreMem
  | [], m => m
  | (off, bs) :: r, m => rowsWrite n c r (m.writeScratch (scratchOff n c off) bs)

/-- Whether a row meets a poisoned word (R423). -/
def rowsPoisoned (m : CoreMem) (n : Nat) (c : Cap) (rs : List (Nat × Nat)) : Bool :=
  rs.any fun r => poisonedAt 8 m.poison (scratchOff n c r.1) r.2

/-- The tile rows of tld.t: element i of source row j becomes element j of row i (R165). -/
def transposeRows (c : TileCfg) (src : List (List Byte)) : List Byte :=
  (List.range c.nrows).flatMap fun i => packBytes c.width c.rowBytes (src.map fun r => leNat r / 2 ^ (c.width * i) % 2 ^ c.width)

/-! ## tsave and trestore (R168) -/

/-- The tiles of a mask with their places in the layout: 16 bytes of header, then each tile's rows. -/
def layout (m : Matrix) (mask : BitVec 16) : List (Nat × Nat) :=
  ((List.range 16).filter (bitOf mask ·)).foldl
    (fun a t => a ++ [(t, a.foldl (fun o x => o + (m.cfg x.1).size) 16)]) []

/-- The bytes that the layout of a mask takes. -/
def layoutSize (m : Matrix) (mask : BitVec 16) : Nat :=
  ((List.range 16).filter (bitOf mask ·)).foldl (fun o t => o + (m.cfg t).size) 16

/-- The mask that a tsave writes or a trestore reads. -/
def saveMask (c : Core) (n : Nat) (w : MatWork) : BitVec 16 :=
  match w with
  | .trestore cap off => leBits 16 (c.mem.readScratch (scratchOff n cap off.toNat) 2)
  | _ => c.mat.inUse

/-- The rows that an op reads from the scratchpad at its execution. -/
def sourceRows (c : Core) (n : Nat) (w : MatWork) : List (Nat × Nat) :=
  match w with
  | .tld .. => matRows c.mat w
  | .trestore _ off => [(off.toNat, layoutSize c.mat (saveMask c n w))]
  | _ => []

/-- The check of the whole layout of tsave and trestore at execution (R166). -/
def layoutFault (c : Core) (n reg : Nat) (w : MatWork) (d : Domain) : Option FaultInfo :=
  match w, matCap w with
  | .tsave _ off, some (cap, ps, _, _) => match checkRights cap d reg 5 ps with
    | some f => some f
    | none => checkRows cap d n reg 16 0 [(off.toNat, layoutSize c.mat c.mat.inUse)]
  | .trestore _ off, some (cap, ps, _, _) => match checkRights cap d reg 5 ps with
    | some f => some f
    | none => checkRows cap d n reg 16 0 [(off.toNat, layoutSize c.mat (saveMask c n w))]
  | _, _ => none

/-- The deferred fault that an op meets when it starts (R54, R163, R166, R170, R423). -/
def startFault (s : State) (n : Nat) (j : MatJob) : Option FaultInfo :=
  let c := s.core n
  let d : Domain := { module := s.module, region := s.regionOf n }
  match matCapCheck c.mat j.work d n j.reg.toNat with
  | some f => some f
  | none => match matCfgCheck c.mat j.work with
    | some f => some f
    | none => match layoutFault c n j.reg.toNat j.work d with
      | some f => some f
      | none => match matPoison c j.work with
        | some st => some (eccFault st)
        | none => match matCap j.work with
          | some (cap, _, _, _) => if rowsPoisoned c.mem n cap (sourceRows c n j.work) then some (eccFault 1) else none
          | none => none

/-! ## Order of execution (R169, R171) -/

/-- The released ops that have not started, in release order: those of the queue and those the sequencer generated. -/
def mergeJobs : List MatJob → List MatJob → List MatJob
  | [], bs => bs
  | a :: as, bs => (bs.takeWhile fun b => decide (b.seq < a.seq)) ++ a :: mergeJobs as (bs.dropWhile fun b => decide (b.seq < a.seq))

def Matrix.waiting (m : Matrix) : List MatJob := mergeJobs m.queue m.seqOps

/-- Whether two ops touch overlapping bytes of the scratchpad that one of them writes: their results are those of release order. -/
def scratchShare (n : Nat) (ma : Matrix) (a : MatWork) (mb : Matrix) (b : MatWork) : Bool :=
  match matRange ma n a, matRange mb n b with
  | some (w1, lo1, l1), some (w2, lo2, l2) => (w1 || w2) && rangesMeet lo1 l1 lo2 l2
  | _, _ => false

/-- The tiles and accumulator tiles of a table's steps (R192). -/
def stepWork (r : SeqRun) (st : SeqStep) (first : Bool) : Option MatWork :=
  let t : TReg := fld 4 st.w0 11 8
  let acc : AccNo := fld 6 st.w0 21 16
  let off := mapGet 0 r.a (fieldOf st.w0 6 4)
  let z : BitVec 2 := if bitOf st.w0 27 && ! first then 0 else fld 2 st.w0 25 24
  match fieldOf st.w0 3 0 with
  | 1 => some (.tld t r.cap off st.w1 (bitOf st.w0 7))
  | 2 => some (.tst t r.cap off st.w1)
  | 3 => some (.mma acc t (fld 4 st.w0 15 12) (fld 2 st.w0 23 22) z (bitOf st.w0 26) (st.w1.truncate 10))
  | 4 => some (.accCvt acc t (fld 3 st.w0 30 28))
  | 5 => some (.accCvtS acc r.cap off st.w1)
  | 6 => some (.accNorm acc)
  | _ => none

def tableNames (m : Matrix) (r : SeqRun) : List Nat × List Nat :=
  let m' := m.before r.job.seq
  r.steps.foldl (fun a st => match stepWork r st true with
    | some w => (a.1 ++ (matNames m' w).1, a.2 ++ (matNames m' w).2)
    | none => a) ([], [])

/-- A queued op released after a running table waits for it where it names one of its tiles (R161, R192). -/
def tableHolds (m : Matrix) (j : MatJob) : Bool :=
  match m.seq with
  | none => false
  | some r =>
    let names := matNames (m.turn j) j.work
    let tn := tableNames m r
    decide (r.job.seq < j.seq) && ! j.fromSeq && (names.1.any (fun t => tn.1.contains t) || names.2.any (fun t => tn.2.contains t))

/-- Whether a range-table entry older than an op holds its scratchpad access (R65); a table's op does not wait on its own entry (R66). -/
def matRangeHeld (c : Core) (n : Nat) (j : MatJob) : Bool :=
  match matRange (c.mat.turn j) n j.work with
  | none => false
  | some (wr, lo, len) =>
    let own (e : RangeEntry) : Bool := j.fromSeq && (match c.mat.seq with
      | some r => decide (e.ch = none ∧ e.seq = r.job.seq)
      | none => false)
    let c' := { c with ranges := c.ranges.filter fun e => ! own e }
    rangeHeld c' wr (some j.seq) 0xFFFF (scratchAddr n + BitVec.ofNat 48 lo) len

/-- The thread's buffer holds no entry older than an op that touches the scratchpad (R167). -/
def bufferClear (c : Core) (j : MatJob) : Bool :=
  match matCap j.work with
  | none => true
  | some _ => (c.thread j.thread.val).sb.all fun e => decide (j.after ≤ e.seq)

/-- Whether an older op makes a later one wait (R169): they share what one of them writes, or bytes of the scratchpad that one of them
writes. A table's op does not wait for an op that waits for its table (R192), and no op waits for the bytes of a held one (R54). -/
def waitsFor (c : Core) (n : Nat) (b j : MatJob) : Bool :=
  let mb := c.mat.turn b
  let mj := c.mat.turn j
  ! (j.fromSeq && tableHolds c.mat b)
    && (matShare mb b.work mj j.work || (! c.holds .mat b.thread && scratchShare n mb b.work mj j.work))

/-- Whether a waiting op may start, given the waiting ops before it. A second mseq.run at the head holds the ops behind it (R190). -/
def mayStart (c : Core) (n : Nat) (before : List MatJob) (j : MatJob) : Bool :=
  let m := c.mat
  let free (b : MatJob) : Bool := c.holds .mat b.thread || tableHolds m b
  match engineOf j.work with
  | none => false
  | some e =>
    ! c.holds .mat j.thread && ! tableHolds m j && m.active.all (fun a => decide (a.1 ≠ e))
      && before.all (fun b => decide (engineOf b.work ≠ some e) || free b)
      && before.all (fun b => decide (engineOf b.work ≠ none) || j.fromSeq || c.holds .mat b.thread)
      && m.active.all (fun a => ! matShare (m.turn a.2) a.2.work (m.turn j) j.work && ! scratchShare n (m.turn a.2) a.2.work (m.turn j) j.work)
      && before.all (fun b => ! waitsFor c n b j)
      && bufferClear c j && ! matRangeHeld c n j

/-- The oldest op that may start. -/
def pickJob (c : Core) (n : Nat) : List MatJob → List MatJob → Option MatJob
  | _, [] => none
  | before, j :: js => if mayStart c n before j then some j else pickJob c n (before ++ [j]) js

def dropJob (j : MatJob) (m : Matrix) : Matrix :=
  { m with queue := m.queue.filter (fun x => decide (x.seq ≠ j.seq)), seqOps := m.seqOps.filter (fun x => decide (x.seq ≠ j.seq)) }

def modMat (n : Nat) (f : Matrix → Matrix) (s : State) : State := s.modCore n fun c => { c with mat := f c.mat }

/-- A fault of a table's step, or of an op it generated: the table stops at that step (R191). What it generated before, below release
number q, completes; what comes after, waiting ops and FINCs, does not. -/
def stopTable (n i q : Nat) (s : State) : State :=
  modMat n (fun m => match m.seq with
    | some r => { m with seq := some { r with finished := true, fincs := r.fincs.filter fun f => decide (f.1 ≤ q) }
                         seqOps := m.seqOps.filter (fun x => decide (x.seq < q)), seqFaulted := true, seqStep := BitVec.ofNat 6 i }
    | none => m) s

/-- A deferred fault of the matrix unit, with the error count of an uncorrectable word (R54, R424). -/
def matDefer (s : State) (n : Nat) (j : MatJob) (f : FaultInfo) : State :=
  let s1 := if f.code = fEcc then s.coreEcc n f.detail.toNat 0 else s
  let s2 := deferFault s1 n .mat j.thread f j.pc
  if j.fromSeq then stopTable n j.step j.seq s2 else s2

/-- MAT_OP_START (R171): the oldest op that may start takes its engine, or meets its deferred fault. -/
def startMat (n : Nat) (s : State) : State :=
  let c := s.core n
  match pickJob c n [] c.mat.waiting with
  | none =>
    if c.mat.waiting.any (matRangeHeld c n) then
      let d := s.drawCount
      d.2.modCore n fun c => { c with ctl := { c.ctl with rtStall := c.ctl.rtStall + d.1 } }
    else s
  | some j =>
    match startFault s n j, engineOf j.work with
    | some f, _ => matDefer (modMat n (dropJob j) s) n j f
    | none, some e => modMat n (fun m => { dropJob j m with active := m.active ++ [(e, j)] }) s
    | none, none => s

def execMatOpStart (node : NodeNo) (s : State) : Host.Outcome State Fault Refusal :=
  atCore node <| settle node.val (startMat node.val s)

/-! ## Effects at completion -/

/-- A write of tile t leaves no poisoned word in it (R422). -/
def clearTilePoison (t : Nat) (c : Core) : Core :=
  { c with mem := { c.mem with tilePoison := c.mem.tilePoison.filter fun e => decide (e.1 / 4096 ≠ t) } }

def clearAccPoison (d : AccDesc) (c : Core) : Core :=
  { c with mem := { c.mem with accPoison := c.mem.accPoison.filter fun e => decide (e.1 < d.first ∨ d.first + d.entries ≤ e.1) } }

/-- The bytes that a tsave writes (R168). -/
def saveBytes (m : Matrix) : List Byte :=
  padTo 16 (leBytes 2 m.inUse.toNat) ++ ((List.range 16).filter m.used).flatMap m.tileBytes

/-- trestore applies the mask and fills the tiles (R162, R168). -/
def restoreTiles (c : Core) (n : Nat) (cap : Cap) (off : Word) (mask : BitVec 16) : Core :=
  let places := layout c.mat mask
  (List.range 16).foldl (fun c' t =>
    match places.find? fun p => decide (p.1 = t) with
    | some p =>
      let bs := c.mem.readScratch (scratchOff n cap (off.toNat + p.2)) (c.mat.cfg t).size
      clearTilePoison t { c' with mat := c'.mat.setTile t bs }
    | none => clearTilePoison t { c' with mat := c'.mat.clearTile t }) c

/-- The effect of a MAT op on its core, with the flags it sets for its thread (R159 to R185) and whether an entry saturated. -/
def matEffect (c : Core) (n : Nat) (j : MatJob) : Core × BitVec 5 × Bool :=
  match j.work with
  | .tcfg t w =>
    let c1 := clearTilePoison t.toNat c
    ({ c1 with mat := { (c1.mat.clearTile t.toNat) with tiles := mapSet {} c1.mat.tiles t.toNat (tileCfgOf w) } }, 0, false)
  | .tld t cap _ _ x =>
    let rows := rowsRead c.mem n cap (matRows c.mat j.work)
    let bs := if x then transposeRows (c.mat.cfg t.toNat) rows else rows.flatten
    (clearTilePoison t.toNat { c with mat := c.mat.setTile t.toNat bs }, 0, false)
  | .tst t cap off st =>
    let k := c.mat.cfg t.toNat
    let bs := c.mat.tileBytes t.toNat
    let rows := (List.range k.nrows).map fun i => (off.toNat + i * st.toNat, (bs.drop (i * k.rowBytes)).take k.rowBytes)
    (c.modMem (rowsWrite n cap rows), 0, false)
  | .trel t => (clearTilePoison t.toNat { c with mat := c.mat.clearTile t.toNat }, 0, false)
  | .tsave cap off => (c.modMem (rowsWrite n cap [(off.toNat, saveBytes c.mat)]), 0, false)
  | .trestore cap off => (restoreTiles c n cap off (saveMask c n j.work), 0, false)
  | .accCfg a w => (clearAccPoison (accDescOf w) { c with mat := accCfgExec c.mat a.toNat w }, 0, false)
  | .mma a ta tb g z rn s0 =>
    let r := mmaExec c.mat j a.toNat ta.toNat tb.toNat g z rn s0
    (clearAccPoison (c.mat.desc a.toNat) { c with mat := r.1 }, 0, r.2)
  | .accNorm a => ({ c with mat := accNormExec c.mat a.toNat }, 0, false)
  | .accCvt a t rm =>
    let r := accCvtExec c.mat j a.toNat t.toNat rm.toNat
    (clearTilePoison t.toNat { c with mat := r.1 }, r.2, false)
  | .accCvtS a cap off ctl =>
    let r := accCvtSRows c.mat j a.toNat ctl
    let step := ctlStep (c.mat.desc a.toNat) ctl
    (c.modMem (rowsWrite n cap (r.1.zipIdx.map fun p => (off.toNat + p.2 * step, p.1))), r.2, false)
  | .mseqRun .. => (c, 0, false)

/-- An op completes (R169): its effect, its flags, and ACC_RANGE as a deferred fault where enabled (R54, R181). -/
def finishMat (n : Nat) (e : Engine) (s : State) : State :=
  let c := s.core n
  match c.mat.active.find? fun a => decide (a.1 = e) with
  | none => s
  | some (_, j) =>
    let r := matEffect c n j
    let s1 := s.setCore n r.1
    let s2 := modMat n (fun m => { m with active := removeFirst (fun a => decide (a.1 = e)) m.active }) s1
    let s3 := s2.modThread n j.thread.val (·.addFlags r.2.1)
    match j.work with
    | .mma a .. => if r.2.2 && j.accr then matDefer s3 n j { code := fAccRange, detail := a.zeroExtend 32 } else s3
    | _ => s3

/-- MAT_OP_COMPLETE (R169). -/
def execMatOpComplete (node : NodeNo) (engine : Engine) (s : State) : Host.Outcome State Fault Refusal :=
  atCore node <| settle node.val (finishMat node.val engine s)

/-! ## The sequencer (R186 to R193) -/

def stepOp (st : SeqStep) : Nat := fieldOf st.w0 3 0
def stepInc (st : SeqStep) : Word := st.w2
/-- The first step and the last of a LOOP. -/
def loopTarget (st : SeqStep) : Nat := fieldOf st.w1 5 0
def loopCount (st : SeqStep) : Nat := if fieldOf st.w1 31 8 = 0 then 2 ^ 24 else fieldOf st.w1 31 8

/-- Fields that must be zero and OPs that are undefined (Tables 6.6, 6.7, R189). -/
def stepBad (st : SeqStep) : Bool :=
  let op := stepOp st
  let noInc := decide (st.w2 ≠ 0)
  bitOf st.w0 31 || (decide (op ≠ 9) && decide (st.w3 ≠ 0)) ||
  (match op with
    | 1 | 2 | 5 => false
    | 3 => noInc || decide (st.w1.toNat ≥ 1024)
    | 4 | 6 => noInc || decide (st.w1 ≠ 0)
    | 7 => noInc || decide (fieldOf st.w1 7 6 ≠ 0 ∨ fieldOf st.w1 31 16 ≠ 0)
    | 8 => decide (fieldOf st.w1 31 6 ≠ 0)
    | 9 => false
    | _ => true)

/-- The LOOPs of a table: target and place. -/
def loopsOf (steps : List SeqStep) : List (Nat × Nat) :=
  steps.zipIdx.filterMap fun p => if stepOp p.1 = 9 then some (loopTarget p.1, p.2) else none

/-- A LOOP that breaks R189, by its place. -/
def loopBad (steps : List SeqStep) (l : Nat × Nat) : Bool :=
  let ls := loopsOf steps
  decide (l.1 > l.2) || ls.any (fun o => decide (o.2 < l.2) && ! (decide (o.2 < l.1) || decide (l.1 ≤ o.1)))
    || (List.range (l.2 + 1 - l.1)).any fun i => decide ((ls.filter fun o => decide (o.1 ≤ l.1 + i ∧ l.1 + i ≤ o.2)).length > 4)

/-- The first malformed step of a table (R191). -/
def tableBad (steps : List SeqStep) : Option Nat :=
  (List.range steps.length).find? fun i => match steps[i]? with
    | some st => stepBad st || (decide (stepOp st = 9) && loopBad steps (loopTarget st, i))
    | none => false

def stepAt (bs : List Byte) (i : Nat) : SeqStep :=
  let w (j : Nat) : Word := wordAt bs (16 + 4 * i + j)
  { w0 := w 0, w1 := w 1, w2 := w 2, w3 := w 3 }

/-- The table launched is over, or never began: the queue entry goes and, with no table running, so does its range entry (R66). -/
def dropRange (seq : Nat) (c : Core) : Core :=
  { c with ranges := c.ranges.filter fun e => ! decide (e.ch = none ∧ e.seq = seq) }

/-- The mseq.run at the head of the queue; ops of threads whose ops are held do not count (R54, R190). -/
def headRun (c : Core) : Option MatJob :=
  match c.mat.queue.find? fun j => ! c.holds .mat j.thread with
  | some j => match j.work with
    | .mseqRun .. => some j
    | _ => none
  | none => none

/-- A tracked mseq.run is held by an older entry that its segment meets (R65). -/
def tableHeld (c : Core) (j : MatJob) (g : Seg) : Bool :=
  c.ranges.any fun e => decide (e.seq < j.seq) &&
    (segMeets e.src g.module g.base (g.limit.toNat + 1) || segMeets e.dst g.module g.base (g.limit.toNat + 1))

/-- A table may start: none runs, its range is free of older entries (R65), its thread's buffer holds nothing older, and no op in
progress writes the table. -/
def tableMayStart (c : Core) (n : Nat) (j : MatJob) (nt : Bool) (g : Seg) (lo : Nat) : Bool :=
  decide (c.mat.seq = none) && (nt || ! tableHeld c j g) && bufferClear c j
    && c.mat.active.all fun a => match matRange (c.mat.turn a.2) n a.2.work with
      | some (wr, l, len) => ! wr || ! rangesMeet l len lo 1088
      | none => true

/-- The faults of reading a table: capability, poison, or malformed (R191); with the step it names. -/
def tableFault (s : State) (n : Nat) (j : MatJob) (cap : Cap) (off : Nat) : Option (FaultInfo × Nat) :=
  let c := s.core n
  let d : Domain := { module := s.module, region := s.regionOf n }
  let head := c.mem.readScratch (scratchOff n cap off) 64
  let ns := fieldOf (wordAt head 8) 6 0
  match matCapCheck c.mat j.work d n j.reg.toNat with
  | some f => some (f, 0)
  | none =>
    if poisonedAt 8 c.mem.poison (scratchOff n cap off) 64 then some (eccFault 1, 0)
    else if (wordAt head 8).toNat ≥ 128 ∨ ns = 0 ∨ ns > 64 ∨ (List.range 7).any (fun i => decide (wordAt head (9 + i) ≠ 0)) then
      some (tileFault fTileCfg 0 0xC, 0)
    else match checkRows cap d n j.reg.toNat 1 0 [(off, 64 + 16 * ns)] with
      | some f => some (f, 0)
      | none =>
        if poisonedAt 8 c.mem.poison (scratchOff n cap off) (64 + 16 * ns) then some (eccFault 1, 0)
        else
          let bs := c.mem.readScratch (scratchOff n cap off) (64 + 16 * ns)
          (tableBad ((List.range ns).map (stepAt bs))).map fun i => (tileFault fTileCfg 0 0xC, i)

/-- SEQ_TABLE_START (R190, R191). -/
def startTable (n : Nat) (s : State) : State :=
  let c := s.core n
  match headRun c with
  | none => s
  | some j =>
    match j.work with
    | .mseqRun nt cap off =>
      let lo := scratchOff n cap off.toNat
      if ! tableMayStart c n j nt (segOf s cap) lo then
        if ! nt && tableHeld c j (segOf s cap) then
          let d := s.drawCount
          d.2.modCore n fun c => { c with ctl := { c.ctl with rtStall := c.ctl.rtStall + d.1 } }
        else s
      else
        let s1 := modMat n (fun m => { dropJob j m with seqFaulted := false, seqAborted := false, seqThread := j.thread, seqStep := 0 }) s
        match tableFault s n j cap off.toNat with
        | some (f, i) =>
          let s2 := matDefer s1 n j f
          (modMat n (fun m => { m with seqFaulted := true, seqStep := BitVec.ofNat 6 i }) s2).modCore n (dropRange j.seq)
        | none =>
          let ns := fieldOf (wordAt (c.mem.readScratch lo 64) 8) 6 0
          let bs := c.mem.readScratch lo (64 + 16 * ns)
          let a := (List.range 8).foldl (fun a i => mapSet 0 a i (wordAt bs i)) ([] : Map Word)
          let r : SeqRun := { job := j, cap := cap, nt := nt, steps := (List.range ns).map (stepAt bs), a := a, step := 0, loops := []
                              fincs := [], finished := false }
          modMat n (fun m => { m with seq := some r }) s1
    | _ => s

def execSeqTableStart (node : NodeNo) (s : State) : Host.Outcome State Fault Refusal :=
  atCore node <| settle node.val (startTable node.val s)

/-- The step of the innermost LOOP around a step, if any. -/
def innermost (steps : List SeqStep) (i : Nat) : Option Nat :=
  ((loopsOf steps).find? fun l => decide (l.1 ≤ i ∧ i ≤ l.2)).map (·.2)

/-- The first iteration of the innermost loop around a step: that loop's count is inactive (R189). -/
def firstIteration (r : SeqRun) : Bool :=
  match innermost r.steps r.step with
  | some l => decide (mapGet 0 r.loops l = 0)
  | none => true

def SeqRun.addA (r : SeqRun) (i : Nat) (d : Word) : SeqRun := { r with a := mapSet 0 r.a i (mapGet 0 r.a i + d) }

/-- A LOOP step (R189). -/
def loopStep (r : SeqRun) (st : SeqStep) : SeqRun :=
  let left := (if mapGet 0 r.loops r.step = 0 then loopCount st else mapGet 0 r.loops r.step) - 1
  let r1 := { r with loops := mapSet 0 r.loops r.step left }
  if left ≠ 0 then { r1 with step := loopTarget st }
  else { ((r1.addA (fieldOf st.w0 6 4) st.w2).addA (fieldOf st.w0 10 8) st.w3) with step := r.step + 1 }

/-- The fault of a generated op (R188, R191): G, Z and RM codes that the op does not have, its capability, its configuration. -/
def genFault (s : State) (n : Nat) (j : MatJob) (w : MatWork) : Option FaultInfo :=
  let c := s.core n
  let d : Domain := { module := s.module, region := s.regionOf n }
  let badCode := match w with
    | .mma _ _ _ g z _ _ => decide (g = 3 ∨ z = 3)
    | .accCvt _ _ rm => decide (rm > 5)
    | _ => false
  if badCode then some (illegal 7)
  else matCheck c.mat j.seq w d n j.reg.toNat

/-- A generated op joins the unit in release order; the address register moves on (R188, R189). -/
def generate (n : Nat) (r : SeqRun) (st : SeqStep) (w : MatWork) (s : State) : State :=
  s.modCore n fun c =>
    let job : MatJob := { r.job with seq := c.relSeq, work := w, fromSeq := true, step := r.step }
    let inc := decide (stepOp st = 1 ∨ stepOp st = 2 ∨ stepOp st = 5)
    let r1 := if inc then r.addA (fieldOf st.w0 6 4) st.w2 else r
    { c with relSeq := c.relSeq + 1
             mat := { c.mat with seqOps := c.mat.seqOps ++ [job], seq := some { r1 with step := r.step + 1 } } }

/-- A fault of a step stops the table there. -/
def stepFault (n : Nat) (r : SeqRun) (f : FaultInfo) (s : State) : State :=
  matDefer s n { r.job with seq := (s.core n).relSeq, fromSeq := true, step := r.step } f

/-- SEQ_STEP (R188 to R191): a generated op, a LOOP, or a FINC that joins those that wait. -/
def seqStep (n : Nat) (s : State) : State :=
  match (s.core n).mat.seq with
  | none => s
  | some r =>
    if r.finished then s
    else match r.steps[r.step]? with
      | none => s
      | some st =>
        let fret : BitVec 6 := fld 6 st.w1 5 0
        if stepOp st = 9 then modMat n (fun m => { m with seq := some (loopStep r st) }) s
        else if stepOp st = 7 ∨ stepOp st = 8 then
          if fret ≥ 48 then stepFault n r (fretFault fret.toNat) s
          else if stepOp st = 7 then
            let f := ((s.core n).relSeq, fret, BitVec.ofNat 32 (fieldOf st.w1 15 8))
            modMat n (fun m => { m with seq := some { r with fincs := r.fincs ++ [f], step := r.step + 1 } }) s
          else s
        else match stepWork r st (firstIteration r) with
          | none => s
          | some w => match genFault s n r.job w with
            | some f => stepFault n r f s
            | none => generate n r st w s

def execSeqStep (node : NodeNo) (s : State) : Host.Outcome State Fault Refusal := atCore node (seqStep node.val s)

/-- The generated ops not yet completed. -/
def generated (m : Matrix) : List MatJob := m.seqOps ++ (m.active.map (·.2)).filter (·.fromSeq)

/-- SEQ_FINC (R190): the oldest waiting FINC whose elders have all completed. -/
def seqFinc (n : Nat) (s : State) : State :=
  let m := (s.core n).mat
  match m.seq with
  | none => s
  | some r => match r.fincs with
    | [] => s
    | (q, f, v) :: rest =>
      if (generated m).all fun j => decide (q ≤ j.seq) then
        addIncOwn n { f := f, v := v } (modMat n (fun m => { m with seq := some { r with fincs := rest } }) s)
      else s

def execSeqFinc (node : NodeNo) (s : State) : Host.Outcome State Fault Refusal := atCore node (seqFinc node.val s)

/-- SEQ_FWAIT_PASS (R188, R190). -/
def seqFwait (n : Nat) (s : State) : State :=
  let c := s.core n
  match c.mat.seq with
  | none => s
  | some r =>
    if r.finished then s
    else match r.steps[r.step]? with
      | none => s
      | some st =>
        let f := fieldOf st.w1 5 0
        let areg := fieldOf st.w0 6 4
        if stepOp st = 8 ∧ f < 48 ∧ reached (c.fret f) (mapGet 0 r.a areg) then
          modMat n (fun m => { m with seq := some { (r.addA areg st.w2) with step := r.step + 1 } }) s
        else s

def execSeqFwaitPass (node : NodeNo) (s : State) : Host.Outcome State Fault Refusal := atCore node (seqFwait node.val s)

/-- SEQ_TABLE_END (R190, R66): every generated op has completed and every FINC has taken effect. -/
def endTable (n : Nat) (s : State) : State :=
  let m := (s.core n).mat
  match m.seq with
  | none => s
  | some r =>
    if (r.finished ∨ r.steps.length ≤ r.step) ∧ r.fincs = [] ∧ generated m = [] then
      let last := if r.finished then m.seqStep else BitVec.ofNat 6 (r.steps.length - 1)
      (modMat n (fun m => { m with seq := none, seqStep := last }) s).modCore n (dropRange r.job.seq)
    else s

def execSeqTableEnd (node : NodeNo) (s : State) : Host.Outcome State Fault Refusal :=
  atCore node <| settle node.val (endTable node.val s)

/-- MSEQ_CTL.ABORT (R193): the running table generates no more; an abort with none running has no effect. -/
def abortTable (n : Nat) (s : State) : State :=
  modMat n (fun m => match m.seq with
    | some r =>
      if r.finished ∨ r.steps.length ≤ r.step then m
      else { m with seq := some { r with finished := true }, seqAborted := true, seqStep := BitVec.ofNat 6 r.step }
    | none => m) s

def execMseqAbort (node : NodeNo) (s : State) : Host.Outcome State Fault Refusal := atCore node (abortTable node.val s)

end Sys2Proof.Machine
end

