-- ==== Sys2Proof/Machine/CtlPage.lean ====
section
/-! DEFINITION. The node block of a core as registers: the control page (Tables 2.17, 4.15, 6.9, 7.4, 9.4, 11.15, 15.12, 16.2) and the
Plectrum page, with the lock and running rules (R8, R11, R12), core halt (R76), debug control (R412 to R414, R418) and core reset
(R360). -/

namespace Sys2Proof.Machine

open Sys2Proof

/-! ## Locks and running blocks -/

/-- Pegbox logs a write that R8 refused. -/
def logLock (reg : RegAddr) (who : Accessor) (s : State) : State :=
  { s with pb := { s.pb with lockLog := s.pb.lockLog ++ [{ reg := reg, who := who }] } }

/-- Whether an accessor is a Pegbox core. -/
def isPb : Accessor → Bool
  | .pb _ => true
  | _ => false

def modCtlPage (n : Nat) (f : CoreCtl → CoreCtl) (s : State) : State := s.modCore n fun c => { c with ctl := f c.ctl }

/-! ## Idle (R74) -/

/-- CORE_STAT.IDLE: every thread IDLE or DEAD, every queue and the range table empty, no deferred fault held; while HALTED, also every
store and burst complete (R76). DESIGN CHOICE (log 43): answers to a THREAD_CTL and outbound fault records, which the model keeps in the SYN
queue, hold IDLE at 0 like the thread's own entries. -/
def Core.idle (c : Core) : Bool :=
  (List.range 4).all (fun k => decide ((c.thread k).st = .idle ∨ (c.thread k).st = .dead))
    && c.mat.pending.isEmpty && c.mat.seqOps.isEmpty && decide (c.mat.seq = none)
    && c.dma.queue.isEmpty && c.syn.queue.isEmpty && c.syn.msgs.isEmpty && c.ranges.isEmpty && c.deferred.isEmpty
    && (! c.ctl.halted ||
      ((List.range 4).all (fun k => (c.thread k).sb.isEmpty && (c.thread k).unacked.isEmpty) &&
        (List.range 8).all fun i => decide ((c.chan i).run = none)))

/-! ## Cancels of rdb (R273) -/

/-- A thread's request that still waits for a TAG is withdrawn. -/
def dropUntagged (n : Nat) (k : ThreadNo) (s : State) : State :=
  s.modCore n fun c => { c with tagQueue := c.tagQueue.filter fun e => decide (e.1.waiter ≠ some k) }

/-- A waiting rdb sends its cancel; its TAG stays taken until the node answers (log 17). One that has not left yet is dropped. -/
def cancelRdb (n : Nat) (k : ThreadNo) (w : Wait) (s : State) : State :=
  match w.kind with
  | .rdb _ (some tag) module region a =>
    match s.destOf n module region a with
    | .ok dst => s.send (reqPacket n dst region a kCancel clsCtrl tag [])
    | .error _ => s
  | .rdb _ none _ _ _ => dropUntagged n k s
  | _ => s

def cancelWait (n : Nat) (k : ThreadNo) (s : State) : State :=
  match (s.thread n k.val).wait with
  | some w => cancelRdb n k w s
  | none => s

/-! ## Core halt (R76) -/

/-- A thread of a halted core becomes IDLE. -/
def haltThread (n : Nat) (k : ThreadNo) (s : State) : State :=
  (dropUntagged n k (cancelWait n k s)).modThread n k.val fun t => { t.stopIn .idle with esc := false }

/-- CORE_HALT.HALT written 1 by Pegbox (R76). -/
def haltCore (n : Nat) (s : State) : State :=
  let s1 := foldState (haltThread n) allThreads s
  let s2 := foldState (fun ch s => abortChan n ch s) (List.range 8) (abortTable n s1)
  s2.modCore n fun c => { c with deferred := [], afterDrop := [], syn := { c.syn with msgs := [] }, ctl := { c.ctl with halted := true } }

/-! ## Debug control (R412 to R414) -/

/-- A stop for a thread: a WAITING one parks at its wait's bundle, any other keeps the stop pending (R412 to R414). -/
def stopThread (n : Nat) (k : ThreadNo) (s : State) : State :=
  if (s.thread n k.val).st = .waiting then parkDebug n k.val (cancelWait n k s)
  else modCtlPage n (fun c => { c with dbgPend := setBit c.dbgPend k.val true }) s

/-- RELEASE: a parked thread runs, or a pending stop is cleared (R414). -/
def releaseThread (n : Nat) (k : ThreadNo) (s : State) : State :=
  if (s.thread n k.val).st = .parkedDebug then s.modThread n k.val fun t => { t with st := .running }
  else modCtlPage n (fun c => { c with dbgPend := setBit c.dbgPend k.val false }) s

/-- STEP: a release and a new stop at once (R414). -/
def stepThread (n : Nat) (k : ThreadNo) (s : State) : State :=
  modCtlPage n (fun c => { c with dbgPend := setBit c.dbgPend k.val true }) (releaseThread n k s)

/-- The threads of a mask. -/
def maskThreads (m : Nat) : List ThreadNo := allThreads.filter fun k => m.testBit k.val

/-- A write of DBG_CTL by PB0 (Table 15.12): releases, then steps, then stops. -/
def dbgCtl (n : Nat) (v : Word) (s : State) : State :=
  let s1 := foldState (releaseThread n) (maskThreads (fieldOf v 7 4)) s
  let s2 := foldState (stepThread n) (maskThreads (fieldOf v 11 8)) s1
  foldState (stopThread n) (maskThreads (fieldOf v 3 0)) s2

/-! ## Core reset (R360) -/

/-- A thread after a core reset: its registers at their reset values; buffered stores still drain and records still leave. -/
def resetThread (t : Thread) : Thread :=
  { sb := t.sb, entryWrite := t.entryWrite, unacked := t.unacked, storeSeq := t.storeSeq, records := t.records }

/-- A channel after a core reset keeps DMA_BYTES. -/
def resetChan (c : DmaChan) : DmaChan := { bytes := c.bytes }

/-- The control page after a core reset: the event counters of R75 and ECC_STAT stay. -/
def resetCtl (c : CoreCtl) : CoreCtl :=
  { issueCnt := c.issueCnt, squashCyc := c.squashCyc, sbStall := c.sbStall, rtStall := c.rtStall, winRefused := c.winRefused
    chNack := c.chNack, chFull := c.chFull, eccLast := c.eccLast, eccUncorr := c.eccUncorr, eccCorr := c.eccCorr }

/-- A core after its reset (R38, R250, R360): scratchpad, instruction memory and memory contents stay, the read cache holds nothing. -/
def resetCore (c : Core) : Core :=
  { threads := (List.range 4).foldl (fun m k => mapSet {} m k (resetThread (c.thread k))) []
    mem := { c.mem with cache := [], plru := [], btb := [], tilePoison := [], accPoison := [] }
    mat := { replayCnt := c.mat.replayCnt, busyCyc := c.mat.busyCyc }
    dma := { chans := (List.range 8).foldl (fun m i => mapSet {} m i (resetChan (c.chan i))) [] }
    ctl := resetCtl c.ctl
    syn := { queue := c.syn.queue.filter (·.own) }
    reqs := c.reqs, tagQueue := c.tagQueue.filter fun e => decide (e.1.waiter = none), relSeq := c.relSeq, lost := c.lost }

/-- Clears the event counters of R75 (region creation). -/
def clearCounters (c : Core) : Core :=
  { c with ctl := { c.ctl with issueCnt := 0, squashCyc := 0, sbStall := 0, rtStall := 0, winRefused := 0, chNack := 0, chFull := 0 }
           mat := { c.mat with replayCnt := 0, busyCyc := 0 }
           dma := { c.dma with chans := (List.range 8).foldl (fun m i => mapSet {} m i { c.chan i with bytes := 0 }) [] } }

/-- A course after its reset: AWAKE, COURSE_WAIT and WAIT_STAT at their reset values (R360). -/
def resetCourse (c : Course) : Course :=
  { c with waitLock := false, lend := false, dwell := 20, lends := 0, div := 4, wstate := .awake, credited := 0 }

/-! ## Reads -/

/-- The LOOP steps around the step in progress, outermost first (Table 6.14). -/
def activeLoops (m : Matrix) : List Nat :=
  match m.seq with
  | some r => (((loopsOf r.steps).filter fun l => decide (l.1 ≤ r.step ∧ r.step ≤ l.2)).map fun l => mapGet 0 r.loops l.2).reverse
  | none => []

def WState.code : WState → Nat
  | .awake => 0
  | .dwell => 1
  | .lent => 2
  | .reclaim => 3

/-- Messages queued on a channel (Table 9.8). -/
def chanCount (c : Core) (i : Nat) : Nat := min (c.syn.msgs.filter fun m => decide (m.chan.toNat = i)).length 255

/-- The registers of the matrix unit (Tables 6.9 to 6.14). -/
def matRegRead (m : Matrix) (off : Nat) : Word :=
  if off = 0x100 then packWord [(bn m.accSat, 31), (bn m.narSeen, 30), (bn (! m.pending.isEmpty || ! m.seqOps.isEmpty), 29)]
  else if off = 0x104 then packWord [((131072 - m.otherSizes 16) / 16, 16), (m.inUse.toNat, 0)]
  else if off = 0x108 then
    packWord [(bn m.seq.isSome, 31), (bn m.seqFaulted, 30), (bn m.seqAborted, 29), (m.seqThread.val, 27),
      (match m.seq with | some r => if r.finished then m.seqStep.toNat else r.step % 64 | none => m.seqStep.toNat, 16)]
  else if 0x110 ≤ off ∧ off < 0x120 then BitVec.ofNat 32 ((activeLoops m).getD ((off - 0x110) / 4) 0)
  else if off = 0x120 then m.replayCnt
  else if off = 0x124 then m.busyCyc
  else 0

def winOf (c : Core) (k : Nat) : Window := mapGet {} c.ctl.windows k

/-- The window registers (Tables 7.4 to 7.9). -/
def winRegRead (c : Core) (off : Nat) : Word :=
  let k := (off - 0x200) / 16
  if off < 0x280 then
    match off % 16 with
    | 0 => (winOf c k).off
    | 4 => (winOf c k).len
    | 8 => (winOf c k).src
    | _ => 0
  else if off = 0x280 then c.ctl.winRefused
  else if 0x290 ≤ off ∧ off < 0x2A0 then
    let e := (c.thread ((off - 0x290) / 4)).remoteErr
    packWord [(bn e.err, 31), (e.kind.toNat, 28), (e.count.toNat, 20), (e.pc.toNat, 2)]
  else 0

/-- The registers of spec/09 (Tables 9.4 to 9.9). -/
def waitRegRead (c : Core) (co : Course) (off : Nat) : Word :=
  if off = 0x300 then packWord [(bn c.ctl.bindLock, 31), (c.ctl.bind.toNat, 0)]
  else if off = 0x304 then packWord [(bn co.waitLock, 31), (bn co.lend, 16), (co.dwell.toNat, 0)]
  else if off = 0x308 then packWord [(co.lends.toNat, 16), (co.div, 8), (co.wstate.code, 0)]
  else if 0x310 ≤ off ∧ off < 0x320 then
    let i := off - 0x310
    packWord [(chanCount c (i + 3), 24), (chanCount c (i + 2), 16), (chanCount c (i + 1), 8), (chanCount c i, 0)]
  else if off = 0x320 then c.ctl.chNack
  else if off = 0x324 then c.ctl.chFull
  else 0

/-- The registers of spec/02 and spec/04 (Tables 2.17 to 2.21, 4.15 to 4.18). -/
def coreRegRead (c : Core) (off : Nat) : Word :=
  let st (k : Nat) : Nat := (c.thread k).st.code.toNat
  if off = 0x0 then packWord [(bn c.ctl.lock, 31), (bn c.ctl.pool, 2), (c.ctl.supv.val, 0)]
  else if off = 0x4 then
    packWord [(bn c.ctl.lockViol, 31), (bn c.ctl.wrBusy, 30), (bn c.idle, 29), (bn (! c.deferred.isEmpty), 28),
      (st 3, 9), (st 2, 6), (st 1, 3), (st 0, 0)]
  else if off = 0x8 then packWord [(bn c.ctl.halted, 31)]
  else if 0x10 ≤ off ∧ off < 0x20 then (c.thread ((off - 0x10) / 4)).tsw ((off - 0x10) / 4)
  else if off = 0x20 then c.ctl.issueCnt
  else if off = 0x24 then c.ctl.squashCyc
  else if off = 0x28 then c.ctl.sbStall
  else if off = 0x2C then c.ctl.rtStall
  else if off = 0x40 then packWord [(bn c.ctl.escVector.isSome, 31), ((c.ctl.escVector.getD 0).toNat, 2)]
  else if off = 0x44 then packWord [(bn c.ctl.escPage.isSome, 31), ((c.ctl.escPage.getD 0).toNat, 12)]
  else if 0x50 ≤ off ∧ off < 0x60 then (c.thread ((off - 0x50) / 4)).gdepth.zeroExtend 32
  else if off = 0x400 then packWord [(bn c.ctl.gwLock, 31), (bn c.ctl.gwValid, 30), (c.ctl.gwNode.toNat, 0)]
  else if off = 0x500 then packWord [(c.ctl.dbgPend.toNat, 12), (c.ctl.dbgPend.toNat, 0)]
  else if off = 0x600 then packWord [(c.ctl.eccLast.toNat, 28), (c.ctl.eccUncorr.toNat, 20), (c.ctl.eccCorr.toNat, 0)]
  else 0

/-- The word at an offset of a core's node block, control page and Plectrum page; zero at an offset that holds no register. -/
def corePageRead (s : State) (n off : Nat) : Word :=
  let c := s.core n
  if off % 4 ≠ 0 then 0
  else if 0x21000 ≤ off ∧ off < 0x22000 then dmaRead c c.dma.pageCh c.dma.pageDenied ((off - 0x21000) / 4)
  else if 0x20000 ≤ off ∧ off < 0x21000 then
    let o := off - 0x20000
    if 0x100 ≤ o ∧ o < 0x200 then matRegRead c.mat o
    else if 0x200 ≤ o ∧ o < 0x300 then winRegRead c o
    else if 0x300 ≤ o ∧ o < 0x400 then waitRegRead c (s.course (courseOf n)) o
    else coreRegRead c o
  else 0

/-! ## Writes -/

/-- A refused write of a locked field sets CORE_STAT.LOCK_VIOL and is logged (R8). -/
def coreViol (n : Nat) (reg : RegAddr) (who : Accessor) (viol : Bool) (s : State) : State :=
  if viol then logLock reg who (modCtlPage n (fun c => { c with lockViol := true }) s) else s

/-- CORE_CTL (Table 2.18). -/
def writeCoreCtl (n : Nat) (reg : RegAddr) (who : Accessor) (v : Word) (s : State) : State :=
  let c := s.core n
  let a := fieldWrite c.ctl.lock (! c.idle) c.ctl.pool (bitOf v 2)
  let b := fieldWrite c.ctl.lock (! c.idle) c.ctl.supv (v.truncate 2).toFin
  coreViol n reg who (a.2.1 || b.2.1) <|
    modCtlPage n (fun x => { x with pool := a.1, supv := b.1, lock := x.lock || bitOf v 31, wrBusy := x.wrBusy || a.2.2 || b.2.2 }) s

/-- A write-once field (WO1). -/
def onceWrite {α : Type} [DecidableEq α] (old : Option α) (new : α) : Option α × Bool :=
  match old with
  | none => (some new, false)
  | some o => (some o, decide (new ≠ o))

/-- ESC_VECTOR, ESC_STACK, LINK_GW and CH_BIND (Tables 4.16, 4.17, 11.15, 9.5). -/
def writeOnceRegs (n : Nat) (reg : RegAddr) (who : Accessor) (o : Nat) (v : Word) (s : State) : State :=
  let c := (s.core n).ctl
  if o = 0x40 then
    let r := onceWrite c.escVector (fld 15 v 16 2)
    coreViol n reg who r.2 (modCtlPage n (fun x => { x with escVector := r.1 }) s)
  else if o = 0x44 then
    let r := onceWrite c.escPage (fld 9 v 20 12)
    coreViol n reg who r.2 (modCtlPage n (fun x => { x with escPage := r.1 }) s)
  else if o = 0x400 then
    let a := fieldWrite c.gwLock false c.gwValid (bitOf v 30)
    let b := fieldWrite c.gwLock false c.gwNode (v.truncate 10)
    coreViol n reg who (a.2.1 || b.2.1) (modCtlPage n (fun x => { x with gwValid := a.1, gwNode := b.1, gwLock := x.gwLock || bitOf v 31 }) s)
  else
    let a := fieldWrite c.bindLock false c.bind (v.truncate 30)
    coreViol n reg who a.2.1 (modCtlPage n (fun x => { x with bind := a.1, bindLock := x.bindLock || bitOf v 31 }) s)

/-- COURSE_WAIT through a core's page (R279, Table 9.6). -/
def writeCourseWait (n : Nat) (reg : RegAddr) (who : Accessor) (v : Word) (s : State) : State :=
  let cn := courseOf n
  let co := s.course cn
  let a := fieldWrite co.waitLock false co.lend (bitOf v 16)
  let b := fieldWrite co.waitLock false co.dwell (v.truncate 10)
  coreViol n reg who (a.2.1 || b.2.1) <|
    courseSync cn (s.setCourse cn { co with lend := a.1, dwell := b.1, waitLock := co.waitLock || bitOf v 31 })

/-- A window register with its reserved bits zero (Tables 7.5 to 7.7). -/
def writeWindow (n o : Nat) (v : Word) (s : State) : State :=
  let k := (o - 0x200) / 16
  modCtlPage n (fun c =>
    let w : Window := mapGet {} c.windows k
    let w' : Window := match o % 16 with
      | 0 => { w with off := v &&& 0x001FFFF0 }
      | 4 => { w with len := v &&& 0x003FFFF0 }
      | 8 => { w with src := v &&& 0x8F9F0000 }
      | _ => w
    { c with windows := mapSet {} c.windows k w' }) s

/-- The event counters of R75 (R194, R206, R279). -/
def writeCounter (n o : Nat) (v : Word) (s : State) : State :=
  if o = 0x120 then modMat n (fun m => { m with replayCnt := v }) s
  else if o = 0x124 then modMat n (fun m => { m with busyCyc := v }) s
  else modCtlPage n (fun c =>
    if o = 0x20 then { c with issueCnt := v }
    else if o = 0x24 then { c with squashCyc := v }
    else if o = 0x28 then { c with sbStall := v }
    else if o = 0x2C then { c with rtStall := v }
    else if o = 0x280 then { c with winRefused := v }
    else if o = 0x320 then { c with chNack := v }
    else if o = 0x324 then { c with chFull := v }
    else c) s

/-- A write of CORE_HALT: only Pegbox's halts; any other is ignored and sets LOCK_VIOL (R76). -/
def writeHalt (n : Nat) (reg : RegAddr) (who : Accessor) (v : Word) (s : State) : State :=
  if isPb who then (if bitOf v 0 then haltCore n s else s) else coreViol n reg who true s

/-- A write of a word of a core's control page or Plectrum page. -/
def corePageWrite (who : Accessor) (n off : Nat) (v : Word) (s : State) : State :=
  let reg : RegAddr := .block (Fin.ofNat 960 n) (BitVec.ofNat 20 off)
  if off % 4 ≠ 0 then s
  else if 0x21000 ≤ off ∧ off < 0x22000 then dmaWrite n .page ((off - 0x21000) / 4) v s
  else if 0x20000 ≤ off ∧ off < 0x21000 then
    let o := off - 0x20000
    if o = 0x0 then writeCoreCtl n reg who v s
    else if o = 0x4 then
      modCtlPage n (fun c => { c with lockViol := c.lockViol && ! bitOf v 31, wrBusy := c.wrBusy && ! bitOf v 30 }) s
    else if o = 0x8 then writeHalt n reg who v s
    else if o = 0x40 ∨ o = 0x44 ∨ o = 0x300 ∨ o = 0x400 then writeOnceRegs n reg who o v s
    else if o = 0x100 then modMat n (fun m => { m with accSat := m.accSat && ! bitOf v 31, narSeen := m.narSeen && ! bitOf v 30 }) s
    else if o = 0x10C then (if bitOf v 0 then abortTable n s else s)
    else if 0x200 ≤ o ∧ o < 0x280 then writeWindow n o v s
    else if 0x290 ≤ o ∧ o < 0x2A0 then
      if bitOf v 31 then
        s.modThread n ((o - 0x290) / 4) fun t => { t with remoteErr := { t.remoteErr with err := false, count := 0 } }
      else s
    else if o = 0x304 then writeCourseWait n reg who v s
    else if o = 0x500 then (if who = .pb 0 then dbgCtl n v s else coreViol n reg who true s)
    else if o = 0x600 then modCtlPage n (fun c => { c with eccUncorr := fld 8 v 27 20, eccCorr := v.truncate 16 }) s
    else writeCounter n o v s
  else s

/-- CORE_HALT (R76). -/
def execCoreHalt (who : Accessor) (node : NodeNo) (value : Word) (s : State) : Host.Outcome State Fault Refusal :=
  atCore node <| settle node.val (corePageWrite who node.val 0x20008 value s)

end Sys2Proof.Machine
end

