-- ==== Sys2Proof/Machine/CoreEvents.lean ====
section
/-! DEFINITION. Events of a core: data and answers that return (R50, R205, R217, R273), stores that drain (R62, R212), timeouts (R272),
fret increments (R253, R256), messages (R264, R265), thread control (R130, R131) and fault records (R128, R129). -/

namespace Sys2Proof.Machine

open Sys2Proof

/-! ## Packets at a node -/

/-- Takes the first packet of a list that satisfies p. -/
def takeFirst (p : Packet → Bool) (l : List Packet) : Option (Packet × List Packet) :=
  match findWith p l with
  | some (i, x) => some (x, l.eraseIdx i)
  | none => none

/-- Whether two CTRL packets are taken in the order in which they came: those of one source on one virtual channel (R259, R286); what is
bound for a link keeps an order of its own. -/
def keepsOrder (a b : Packet) : Bool :=
  let ack (p : Packet) : Bool := decide (p.h.kind = kAck ∨ p.h.kind = kNack)
  decide (a.h.snode = b.h.snode) && ack a == ack b && decide (a.h.module = 0xFFFF) == decide (b.h.module = 0xFFFF)

/-- The first packet that satisfies p and passes none that it keeps its order with; `seen` is what was passed over, newest first. -/
def takeInOrder (p : Packet → Bool) : List Packet → List Packet → Option (Packet × List Packet)
  | _, [] => none
  | seen, x :: xs => if p x && ! seen.any (keepsOrder x) then some (x, seen.reverse ++ xs) else takeInOrder p (x :: seen) xs

/-- Takes the first released CTRL packet of node n that satisfies p, in the order of R259. -/
def takeCtrl (n : Nat) (p : Packet → Bool) (s : State) : Option (Packet × State) :=
  (takeInOrder p [] (s.node n).ctrl).map fun r => (r.1, s.modNode n fun x => { x with ctrl := r.2 })

/-- Takes the first delivered packet of the other classes of node n that satisfies p. -/
def takeRx (n : Nat) (p : Packet → Bool) (s : State) : Option (Packet × State) :=
  (takeFirst p (s.node n).rx).map fun r => (r.1, s.modNode n fun x => { x with rx := r.2 })

/-- The request of core n that a TAG stands for, and the state without it. -/
def takeReq (n : Nat) (tag : BitVec 10) (s : State) : Option (ReqKind × State) :=
  (assocGet tag (s.core n).reqs).map fun k => (k, s.modCore n fun c => { c with reqs := assocDel tag c.reqs })

/-- The refusal kind that a packet carries in byte 0, and the structure code of a poisoned answer in byte 1 (log 8). -/
def kindOf (p : Packet) : BitVec 3 := (p.data.getD 0 0).truncate 3
def structOf (p : Packet) : BitVec 4 := (p.data.getD 1 0).truncate 4

/-! ## RSP_ARRIVE and LOAD_DATA_RETURN (R50, R273) -/

/-- What an answer holds. -/
def respOf (p : Packet) : Resp :=
  if p.h.kind = kData then .data p.data
  else if kindOf p = 7 then .poisoned (structOf p)
  else .refused (kindOf p)

/-- The answer to a withdrawn load or atomic; discarded where the thread no longer holds it (R76). -/
def answerLoad (n : Nat) (k : ThreadNo) (tag : BitVec 10) (r : Resp) (s : State) : State :=
  s.modThread n k.val fun t =>
    match t.load with
    | some w => if w.tag = some tag ∧ w.resp = none then { t with load := some { w with resp := some r } } else t
    | none => t

/-- The answer to an rdb: the value with pd true, or with pd false a refusal (R273) or, of kind 0, a single test that failed (R98, log 17);
a thread that no longer waits for it, or whose timeout has expired, discards it. -/
def answerRdb (n : Nat) (k : ThreadNo) (pc : Word) (tag : BitVec 10) (r : Resp) (s : State) : State :=
  match (s.thread n k.val).wait with
  | some w => match w.kind with
    | .rdb gd tag' m rg a =>
      if tag' ≠ some tag then s
      else if w.over s then s.modThread n k.val fun t => { t with wait := some { w with kind := .rdb gd none m rg a } }
      else match r with
        | .data bs => endWait n k.val w true (s.modThread n k.val (·.setG gd (wordAt bs 0)))
        | .refused x => endWait n k.val w false (if x = 0 then s else noteRefusal n k.val x pc s)
        | .poisoned _ => endWait n k.val w false s
    | _ => s
  | none => s

/-- The answer to a piece of a burst's read (R237, R241, R242). -/
def answerBurst (n ch burst at_ len : Nat) (r : Resp) (s : State) : State :=
  match r with
  | .data bs => dmaData n ch burst at_ (padTo len bs) s
  | .refused k => burstFails n ch burst (k.zeroExtend 8) 0 s
  | .poisoned st => burstFails n ch burst 7 (0xF0 ||| st.zeroExtend 8) s

def isAnswer (p : Packet) : Bool := decide (p.h.kind = kData ∨ p.h.kind = kRspErr)

def rspArrive (n : Nat) (s : State) : State :=
  match takeRx n isAnswer s with
  | none => s
  | some (p, s1) => match takeReq n p.h.tag s1 with
    | none => s1
    | some (k, s2) => match k with
      | .load t => answerLoad n t p.h.tag (respOf p) s2
      | .rdb t pc => answerRdb n t pc p.h.tag (respOf p) s2
      | .dmaRead ch b at_ len => answerBurst n ch.toNat b at_ len (respOf p) s2
      | _ => s2

def execRspArrive (node : NodeNo) (s : State) : Host.Outcome State Fault Refusal :=
  atCore node <| settle node.val (rspArrive node.val s)

/-- Stores of the core put into the bytes of a line that was read before they landed (R212, R222). -/
def mergeStores (line : Addr) (stores : List (Addr × List Byte)) (bs : List Byte) : List Byte :=
  stores.foldl (fun bs e =>
    let o := e.1.toNat - line.toNat
    bs.take o ++ e.2 ++ bs.drop (o + e.2.length)) bs

/-- LOAD_DATA_RETURN: the line is installed, with the core's own stores of the meantime, unless an acq or an atomic met its fill (R210,
R212, R214, R222), and the bundle may issue again (R50). An atomic that returns invalidates its line once more, since a fill may have
read it before (R212). -/
def loadReturn (n : Nat) (k : ThreadNo) (s : State) : State :=
  match (s.thread n k.val).load with
  | none => s
  | some w => match w.resp with
    | none => s
    | some r =>
      if w.ready then s
      else
        let put (r : Resp) (s : State) : State := s.modThread n k.val fun t => { t with load := some { w with ready := true, resp := some r } }
        match r with
        | .data bs =>
          if w.fill then
            let bs' := mergeStores w.addr w.merge bs
            let s1 := put (.data bs') s
            if w.dropFill then s1 else s1.modCore n fun c => c.modMem (·.install w.addr bs')
          else if w.amo && decide (w.module = 0xFFFF) then acquire (fun l => decide (l = lineAddr w.addr)) n (put r s)
          else put r s
        | _ => put r s

def execLoadDataReturn (node : NodeNo) (thread : ThreadNo) (s : State) : Host.Outcome State Fault Refusal :=
  atCore node <| settle node.val (loadReturn node.val thread s)

/-! ## STORE_DRAIN (R62, R212) -/

/-- A thread held under R61: its buffer still has a store that overlaps the access of the held bundle. -/
def heldBySb (t : Thread) : Bool :=
  match t.held with
  | some h => h.sb && ! (sbOverlap t h.module h.addr h.size).isEmpty
  | none => false

/-- The thread whose oldest store drains: round robin among the threads held under R61, else among all that have entries. -/
def drainThread (c : Core) : Option ThreadNo :=
  let order := (List.range 4).map fun i => (Fin.ofNat 4 (c.drainRr.val + i) : ThreadNo)
  match order.find? fun k => heldBySb (c.thread k.val) with
  | some k => some k
  | none => order.find? fun k => ! (c.thread k.val).sb.isEmpty

/-- A fill in flight whose line a draining store meets takes the store into the line (R212, R222). -/
def Thread.mergeFill (t : Thread) (a : Addr) (bs : List Byte) : Thread :=
  match t.load with
  | some w => if w.fill && overlaps a bs.length w.addr 128 then { t with load := some { w with merge := w.merge ++ [(a, bs)] } } else t
  | none => t

/-- A drained store lands in the own scratchpad at once, or leaves as a write. -/
def drainEntry (n : Nat) (k : ThreadNo) (e : SbEntry) (s : State) : State :=
  let pop (s : State) : State :=
    (s.modThread n k.val fun t => { t with sb := t.sb.tail ++ t.entryWrite.toList, entryWrite := none }).modCore n fun c =>
      { c with drainRr := k + 1 }
  let own := if e.module = 0xFFFF then ownScratch n e.addr e.data.length else none
  match own with
  | some off =>
    (pop s).modCore n fun c => c.modMem fun m => match e.capTag with
      | some tag => m.writeCap off { bits := leBits 128 e.data, tag := tag }
      | none => m.writeScratch off e.data
  | none =>
    match s.destOf n e.module e.region e.addr, (s.core n).freeTag with
    | .error r, _ => noteRefusal n k.val r e.pc (pop s)
    | .ok _, none => s
    | .ok dst, some tag =>
      let s1 := (pop s).modCore n fun c =>
        let c1 := { c with reqs := c.reqs ++ [(tag, .store k e.pc)] }
        if cacheable e.module e.addr then
          (List.range 4).foldl (fun c j => c.modThread j (·.mergeFill e.addr e.data)) (c1.modMem (·.updateLine e.addr e.data))
        else c1
      let s2 := s1.modThread n k.val fun t =>
        { t with unacked := t.unacked ++ [{ addr := e.addr, data := e.data, module := e.module, tag := tag, seq := e.seq }] }
      s2.send (reqPacket n dst e.region e.addr kWrite clsReq tag e.data)

def storeDrain (n : Nat) (s : State) : State :=
  match drainThread (s.core n) with
  | none => s
  | some k => match (s.thread n k.val).sb with
    | [] => s
    | e :: _ => drainEntry n k e s

def execStoreDrain (node : NodeNo) (s : State) : Host.Outcome State Fault Refusal :=
  atCore node <| settle node.val (storeDrain node.val s)

/-! ## ACK_ARRIVE and NACK_ARRIVE (R205, R217, R265) -/

/-- A store of thread k is acknowledged or refused. -/
def storeDone (n : Nat) (k : ThreadNo) (tag : BitVec 10) (s : State) : State :=
  s.modThread n k.val fun t => { t with unacked := removeFirst (fun u => decide (u.tag = tag)) t.unacked }

def sentAs (tag : BitVec 10) (e : SynEntry) : Bool := decide (e.stage = .sent tag)

/-- The SYN entry sent under a TAG leaves the queue. -/
def synDone (n : Nat) (tag : BitVec 10) (s : State) : State :=
  s.modCore n fun c => { c with syn := { c.syn with queue := removeFirst (sentAs tag) c.syn.queue } }

/-- A message refused FULL waits before it is sent again (R265). -/
def synFull (n : Nat) (tag : BitVec 10) (s : State) : State :=
  s.modCore n fun c =>
    let upd (e : SynEntry) : SynEntry :=
      if sentAs tag e then { e with stage := .backoff, delay := nextDelay e.delay, due := s.mc + nextDelay e.delay } else e
    { c with syn := { c.syn with queue := c.syn.queue.map upd }, ctl := { c.ctl with chNack := c.ctl.chNack + 1 } }

def ackArrive (n : Nat) (s : State) : State :=
  match takeCtrl n (fun p => decide (p.h.kind = kAck)) s with
  | none => s
  | some (p, s1) => match takeReq n p.h.tag s1 with
    | none => s1
    | some (k, s2) => match k with
      | .store t _ => storeDone n t p.h.tag s2
      | .syn _ _ _ => synDone n p.h.tag s2
      | .dmaWrite ch b len => dmaAcked n ch.toNat b len s2
      | _ => s2

def execAckArrive (node : NodeNo) (s : State) : Host.Outcome State Fault Refusal :=
  atCore node <| settle node.val (ackArrive node.val s)

def nackArrive (n : Nat) (s : State) : State :=
  match takeCtrl n (fun p => decide (p.h.kind = kNack)) s with
  | none => s
  | some (p, s1) => match takeReq n p.h.tag s1 with
    | none => s1
    | some (k, s2) => match k with
      | .load t => answerLoad n t p.h.tag (.refused (kindOf p)) s2
      | .rdb t pc => answerRdb n t pc p.h.tag (.refused (kindOf p)) s2
      | .dmaRead ch b at_ len => answerBurst n ch.toNat b at_ len (.refused (kindOf p)) s2
      | .store t pc => noteRefusal n t.val (kindOf p) pc (storeDone n t p.h.tag s2)
      | .syn t pc own =>
        if kindOf p = refFull then synFull n p.h.tag s2
        else if own then synDone n p.h.tag s2
        else noteRefusal n t.val (kindOf p) pc (synDone n p.h.tag s2)
      | .dmaWrite ch b _ => burstFails n ch.toNat b ((kindOf p).zeroExtend 8) 0 s2
      | .dmaFret t pc => noteRefusal n t.val (kindOf p) pc s2
      | .dmaRec ch => modChan n ch.toNat (fun c => { c with recFail := true }) s2

def execNackArrive (node : NodeNo) (s : State) : Host.Outcome State Fault Refusal :=
  atCore node <| settle node.val (nackArrive node.val s)

/-! ## WAIT_TIMEOUT (R272) -/

/-- A timeout expires at the end of the first tick in which TIME − start reaches HI24, once that tick is over, so that an event at any point
of it wins (R98, R272); pd is false, and an rdb sends its cancel (R273). -/
def waitTimeout (n : Nat) (k : ThreadNo) (s : State) : State :=
  let t := s.thread n k.val
  match t.st, t.wait with
  | .waiting, some w => match w.limit with
    | some _ => if w.over s then endWait n k.val w false (cancelRdb n k w s) else s
    | none => s
  | _, _ => s

def execWaitTimeout (node : NodeNo) (thread : ThreadNo) (s : State) : Host.Outcome State Fault Refusal :=
  atCore node <| settle node.val (waitTimeout node.val thread s)

/-! ## Frets (R253, R256) -/

/-- Applies one increment. -/
def applyInc (i : FretInc) (y : Syn) : Syn := { y with frets := mapSet 0 y.frets i.f.toNat (mapGet 0 y.frets i.f.toNat + i.v) }

/-- FRET_INCREMENT_APPLY: the oldest increment of the core itself and the oldest of the network port (R253). -/
def fretApply (n : Nat) (s : State) : State :=
  let own (y : Syn) : Syn := match y.incOwn with
    | i :: r => applyInc i { y with incOwn := r }
    | [] => y
  let net (y : Syn) : Syn := match y.incNet with
    | i :: r => applyInc i { y with incNet := r }
    | [] => y
  wakeAllFret n (s.modCore n fun c => { c with syn := net (own c.syn) })

def execFretIncrementApply (node : NodeNo) (s : State) : Host.Outcome State Fault Refusal :=
  atCore node <| settle node.val (fretApply node.val s)

/-- A refusal at a core's network port is counted (R205). -/
def refuse (n : Nat) (p : Packet) (k : BitVec 3) (s : State) : State :=
  (s.modCore n fun c => { c with ctl := { c.ctl with winRefused := c.ctl.winRefused + 1 } }).send (refusalOf n p k)

/-- R204: a fret or channel page admits its own region alone. -/
def ownRegion (s : State) (n : Nat) (p : Packet) : Bool :=
  (s.course (courseOf n)).valid && decide (p.h.region = (s.regionOf n).zeroExtend 6)

/-- The refusal that every access to a core meets: a lost core (R426), a spare (R197). -/
def coreRefusal (s : State) (n : Nat) : Option (BitVec 3) :=
  if (s.core n).lost.isSome then some refDestLost else if ! s.exposed n then some refUnmapped else none

/-- The refusal that a packet meets at a core whatever it asks: that of the core, or of a region's packet to a course that no region
owns (R300). -/
def portRefusal (s : State) (n : Nat) (p : Packet) : Option (BitVec 3) :=
  match coreRefusal s n with
  | some k => some k
  | none => if ! (s.course (courseOf n)).valid ∧ p.h.region ≠ 0x3F then some refUnmapped else none

/-- FINC_ARRIVE: admitted under R204 and acknowledged, or refused (R256). -/
def fincArrive (n : Nat) (s : State) : State :=
  match takeCtrl n (fun p => decide (p.h.kind = kFinc)) s with
  | none => s
  | some (p, s1) =>
    match portRefusal s n p with
    | some k => refuse n p k s1
    | none =>
      if ! ownRegion s n p then refuse n p refWindow s1
      else match fretOf p.h.addr with
        | some (m, f) =>
          if m ≠ n then refuse n p refUnmapped s1
          else
            let i : FretInc := { f := BitVec.ofNat 6 f, v := wordAt p.data 0 }
            (s1.modCore n fun c => { c with syn := { c.syn with incNet := c.syn.incNet ++ [i] } }).send (ackOf n p)
        | none => refuse n p refUnmapped s1

def execFincArrive (node : NodeNo) (s : State) : Host.Outcome State Fault Refusal := atCore node (fincArrive node.val s)

/-! ## Messages (R263 to R268) -/

/-- Tag and words of a message (log 8). -/
def msgTag (p : Packet) : BitVec 4 := (p.data.getD 0 0).truncate 4
def msgCount (p : Packet) : Nat := fieldOf (p.data.getD 0 0) 7 4
def msgWords (p : Packet) : List Word := (List.range (msgCount p)).map fun i => wordAt p.data (4 + i)

/-- Whether a message is a THREAD_CTL (R130). -/
def isThreadCtl (p : Packet) : Bool :=
  (match channelOf p.h.addr with | some (_, i) => decide (i = 15) | none => false) && decide (msgTag p = tagThreadCtl)

/-- What a message meets before its queue: the refusal of a lost or absent core, of R204, of an address that is no channel. -/
def msgRefusal (s : State) (n : Nat) (p : Packet) : Option (BitVec 3) :=
  match portRefusal s n p with
  | some k => some k
  | none =>
    if ! ownRegion s n p then some refWindow
    else match channelOf p.h.addr with
      | some (m, _) => if m = n then none else some refUnmapped
      | none => some refUnmapped

/-- A message reaches its channel: queued and acknowledged, discarded while HALTED (R76), or refused FULL (R264). -/
def queueMsg (n : Nat) (p : Packet) (s : State) : State :=
  let i := match channelOf p.h.addr with | some (_, i) => i | none => 0
  let c := s.core n
  if c.ctl.halted then s.send (ackOf n p)
  else if c.msgRoom i then
    (acceptMsg n { chan := BitVec.ofNat 4 i, words := msgWords p, tag := msgTag p } s).send (ackOf n p)
  else (modCtlPage n (fun x => { x with chFull := x.chFull + 1 }) s).send (nackOf n p refFull)

/-- A THREAD_CTL that its core admits; MSG_ARRIVE takes every other message, THREAD_CTL this one. -/
def admittedCtl (s : State) (n : Nat) (p : Packet) : Bool := isThreadCtl p && (msgRefusal s n p).isNone

def isMsg (p : Packet) : Bool := decide (p.h.kind = kMsg)

/-- MSG_ARRIVE. -/
def msgArrive (n : Nat) (s : State) : State :=
  match takeCtrl n (fun p => isMsg p && ! admittedCtl s n p) s with
  | none => s
  | some (p, s1) =>
    match msgRefusal s n p with
    | some k => refuse n p k s1
    | none => queueMsg n p s1

def execMsgArrive (node : NodeNo) (s : State) : Host.Outcome State Fault Refusal :=
  atCore node <| settle node.val (msgArrive node.val s)

/-- MSG_RETRY: the oldest refused message whose delay has passed may be sent again (R265). -/
def msgRetry (n : Nat) (s : State) : State :=
  s.modCore n fun c =>
    match findWith (fun e => decide (e.stage = SynStage.backoff ∧ e.due ≤ s.mc)) c.syn.queue with
    | some (i, _) => { c with syn := { c.syn with queue := modifyAt (fun e => { e with stage := .queued }) i c.syn.queue } }
    | none => c

def execMsgRetry (node : NodeNo) (s : State) : Host.Outcome State Fault Refusal :=
  atCore node <| settle node.val (msgRetry node.val s)

/-! ## THREAD_CTL (R130, R131) -/

/-- START: SEED resets with the thread's start (R153), and the halt ends (R76). DEDUCED (log 43): the reset of SEED restarts the vcvt count
of R92 as a write does, since R153 reproduces a run from its seed. The thread's coprocessor ops that R55 left held start again. -/
def startThread (n : Nat) (k : ThreadNo) (pc : Word) (s : State) : State :=
  modCtlPage n (fun c => { c with halted := false })
    ((s.modThread n k.val fun t =>
        { t with pc := pc, th := true, gdepth := 0, seed := 0, vcvts := 0, st := .running, ran := true, fbuf := [] }).modCore n fun c =>
      { c with afterDrop := c.afterDrop.filter fun e => decide (e.2 ≠ k) })

/-- The op of a THREAD_CTL: its status and its effect (Table 4.14). DESIGN CHOICE (log 43): of several statuses that apply, BAD_OP goes before
BAD_PC and BAD_PC before WRONG_STATE, and a KILL whose word 1 is not 0 is BAD_OP. -/
def threadOp (n : Nat) (ws : List Word) (s : State) : Nat × State :=
  let w0 := ws.getD 0 0
  let w1 := ws.getD 1 0
  let k : ThreadNo := Fin.ofNat 4 (fieldOf w0 5 4)
  let st := (s.thread n k.val).st
  if ws.length ≠ 2 ∨ w0 >>> 6 ≠ 0 then (2, s)
  else match fieldOf w0 3 0 with
    | 1 =>
      if badPc w1 then (3, s) else if st ≠ .idle then (1, s) else (0, startThread n k w1 s)
    | 2 =>
      if w1 ≠ 0xFFFFFFFF ∧ badPc w1 then (3, s)
      else if st ≠ .parkedFault then (1, s)
      else (0, s.modThread n k.val fun t => { t with pc := if w1 = 0xFFFFFFFF then t.parkedPc else w1, st := .running, fbuf := [] })
    | 3 =>
      if w1 ≠ 0 then (2, s)
      else if st ≠ .parkedFault then (1, s)
      else (0, (exitThread s n k).modThread n k.val fun t => { t with gdepth := 0 })
    | _ => (2, s)

/-- The channel-15 entry of a core. -/
def chan15 (n : Nat) : Addr := blockAddr n + 0x230F0

/-- The answer goes to channel 15 of the sending core (R131). -/
def answerCtl (n : Nat) (p : Packet) (w0 : Word) (status : Nat) (s : State) : State :=
  if isCore p.h.snode.toNat then
    pushSyn n (s.core n).ctl.supv true 0 0 (.send 0xFFFF p.h.region (chan15 p.h.snode.toNat) [w0, BitVec.ofNat 32 status] tagCtlAck) s
  else s

def threadCtl (n : Nat) (s : State) : State :=
  match takeCtrl n (fun p => isMsg p && admittedCtl s n p) s with
  | none => s
  | some (p, s1) =>
    let r := threadOp n (msgWords p) s1
    answerCtl n p ((msgWords p).getD 0 0) r.1 (r.2.send (ackOf n p))

def execThreadCtl (node : NodeNo) (s : State) : Host.Outcome State Fault Refusal :=
  atCore node <| settle node.val (threadCtl node.val s)

/-! ## Fault records (R128, R129) -/

/-- A thread that cannot take a record (R128). -/
def noRecords (t : Thread) : Bool := decide (t.st = .idle ∨ t.st = .parkedFault ∨ t.st = .dead)

/-- HEALTH_EVENT FAULT_RECORD (Table 16.3). -/
def healthRecord (s : State) (n : Nat) (r : FaultRecord) : HEvent :=
  { code := 1
    record := [r.w0, r.w1, r.w2, r.w3].flatMap (fun w => leBytes 4 w.toNat) ++ [r.tag.zeroExtend 8]
    region := if (s.course (courseOf n)).valid then some (s.regionOf n) else none }

def recordMsg (r : FaultRecord) : Msg := { chan := 15, words := [r.w0, r.w1, r.w2, r.w3], tag := r.tag }

/-- A free reserved channel-15 entry (R36, R129). -/
def recordRoom (c : Core) : Bool := decide ((c.syn.msgs.filter fun m => decide (m.chan = 15)).length < 8)

/-- A record is queued on the core's own channel 15; while HALTED it is discarded (R76). -/
def recordLocal (n : Nat) (r : FaultRecord) (s : State) : State :=
  if (s.core n).ctl.halted then s else acceptMsg n (recordMsg r) s

/-- Where a record goes: none where it must wait. DESIGN CHOICE (log 43): a record of the region supervisor's own CORE_SUPV thread goes to
Pegbox alone, whatever its state, since the thread at fault is also the one that R128 would send it to. -/
def sendRecord (n : Nat) (k : ThreadNo) (r : FaultRecord) (s : State) : Option State :=
  let c := s.core n
  let supv := c.ctl.supv
  if supv ≠ k ∧ ! noRecords (c.thread supv.val) then
    if recordRoom c || c.ctl.halted then some (recordLocal n r s) else none
  else
    let copy := s.health (healthRecord s n r)
    match (if (s.course (courseOf n)).valid then s.regionCore (s.regionOf n).toNat 0 else none) with
    | none => some copy
    | some m =>
      if m = n ∨ noRecords (s.core m).supvThread then some copy
      else some (pushSyn n k true 0 0 (.send 0xFFFF ((s.regionOf n).zeroExtend 6) (chan15 m) [r.w0, r.w1, r.w2, r.w3] r.tag) copy)

/-- FAULT_RECORD_SEND: the oldest record of the lowest thread that has one. -/
def recordSend (n : Nat) (s : State) : State :=
  match allThreads.find? fun k => ! (s.thread n k.val).records.isEmpty with
  | none => s
  | some k => match (s.thread n k.val).records with
    | [] => s
    | r :: rest => match sendRecord n k r s with
      | some s' => s'.modThread n k.val fun t => { t with records := rest }
      | none => s

def execFaultRecordSend (node : NodeNo) (s : State) : Host.Outcome State Fault Refusal :=
  atCore node <| settle node.val (recordSend node.val s)

end Sys2Proof.Machine
end

