-- ==== Sys2Proof/Machine/Mesh.lean ====
section
/-! DEFINITION. The mesh: flits (R283, R284), injection (R293, R294), routing and scheduling (R285 to R291), delivery and release of
CTRL packets (R293), and the link CRC with retry (R295). -/

namespace Sys2Proof.Machine

open Sys2Proof

/-! ## Headers and flits (R283, R284) -/

/-- The 128 bits of a header (Table 10.1). -/
def Header.bits (h : Header) : Nat :=
  h.module.toNat * 2 ^ 112 + h.addr.toNat * 2 ^ 64 + h.dnode.toNat * 2 ^ 54 + h.snode.toNat * 2 ^ 44 + h.region.toNat * 2 ^ 38
    + h.cls.toNat * 2 ^ 36 + bn h.esc * 2 ^ 35 + h.kind.toNat * 2 ^ 30 + h.len.toNat * 2 ^ 22 + h.tag.toNat * 2 ^ 12
    + h.stamp.toNat * 2 ^ 4 + bn h.tail * 2 ^ 3 + bn h.rflex * 2 ^ 2

/-- Bits of a number as a field. -/
def natField (w x lo : Nat) : BitVec w := BitVec.ofNat w (x / 2 ^ lo)

/-- The header that 128 bits spell. -/
def headerOf (x : Nat) : Header :=
  { module := natField 16 x 112, addr := natField 48 x 64, dnode := natField 10 x 54, snode := natField 10 x 44
    region := natField 6 x 38, cls := natField 2 x 36, esc := x.testBit 35, kind := natField 5 x 30, len := natField 8 x 22
    tag := natField 10 x 12, stamp := natField 8 x 4, tail := x.testBit 3, rflex := x.testBit 2 }

/-- Payload in pieces of 128 bytes, after the head's 112. -/
def bodyFlits : Nat → List Byte → List Flit
  | 0, _ => []
  | fuel + 1, bs => if bs.isEmpty then [] else
    { head := none, data := bs.take 128, last := decide (bs.length ≤ 128) } :: bodyFlits fuel (bs.drop 128)

/-- The flits of a packet (R284). -/
def flitsOf (p : Packet) : List Flit :=
  { head := some p.h, data := p.data.take 112, last := decide (p.data.length ≤ 112) } :: bodyFlits 17 (p.data.drop 112)

/-- The packet that flits gather to. -/
def packetOf (fs : List Flit) : Option Packet :=
  match fs with
  | f :: _ => f.head.map fun h => { h := h, data := fs.flatMap (·.data) }
  | [] => none

/-! ## Ports and channels (R280, R286) -/

def portIx : Port → Nat
  | .north => 0
  | .east => 1
  | .south => 2
  | .west => 3
  | .localPort => 4

/-- The port of the neighbour that a port faces. -/
def oppositePort : Nat → Nat
  | 0 => 2
  | 1 => 3
  | 2 => 0
  | 3 => 1
  | p => p

/-- The neighbour through a port; none at a mesh edge. -/
def neighbour (n port : Nat) : Option Nat :=
  match port with
  | 0 => if nodeY n = 0 then none else some (n - 40)
  | 1 => if nodeX n = 39 then none else some (n + 1)
  | 2 => if nodeY n = 23 then none else some (n + 40)
  | 3 => if nodeX n = 0 then none else some (n - 1)
  | _ => none

/-- The virtual channel that a packet enters at its source (Table 10.3). -/
def entryVc (h : Header) : Nat :=
  if h.cls = clsCtrl then (if h.kind = kAck ∨ h.kind = kNack then 1 else 0) else 2 * h.cls.toNat + bn h.esc

/-- CLASS agrees with KIND (Table 10.2). -/
def classMatches (h : Header) : Bool :=
  let k := h.kind.toNat
  if k = 0 then decide (h.cls = clsReq ∨ h.cls = clsBulk)
  else if k ≤ 2 then decide (h.cls = clsBulk)
  else if k ≤ 7 then decide (h.cls = clsReq)
  else if k ≤ 9 then decide (h.cls = clsRsp)
  else decide (h.cls = clsCtrl)

/-- R285. -/
def malformed (h : Header) : Bool :=
  decide (h.kind.toNat ≥ 15) || ! classMatches h || decide (h.len.toNat > 128) || decide (32 ≤ h.region.toNat ∧ h.region.toNat < 63)
    || decide (h.dnode.toNat > 959)

/-! ## Input queues -/

def Router.queue (r : Router) (key : Nat) : List Flit := mapGet [] r.inq key

/-- A flit enters an input queue; the flits of a malformed packet are discarded, and counted once (R285). -/
def pushIn (n key : Nat) (f : Flit) (s : State) : State :=
  let r := (s.node n).router
  let setR (r' : Router) (s : State) : State := s.modNode n fun x => { x with router := r' }
  match f.head with
  | some h =>
    if malformed h then
      let s0 := { s with pb := { s.pb with malformedLog := s.pb.malformedLog ++ [h] } }
      let s1 := s0.modCourse (courseOf n) fun c => { c with malformed := c.malformed + 1 }
      setR { r with drop := mapSet false r.drop key (! f.last) } s1
    else setR { r with inq := mapSet [] r.inq key (r.queue key ++ [f]) } s
  | none =>
    if mapGet false r.drop key then setR { r with drop := mapSet false r.drop key (! f.last) } s
    else setR { r with inq := mapSet [] r.inq key (r.queue key ++ [f]) } s

/-! ## Injection (R281, R294) -/

def localIx : Nat := 4

/-- Whether a node's own input of its router has room on a virtual channel. -/
def injectRoom (s : State) (n vc : Nat) : Bool := decide (((s.node n).router.queue (localIx * 8 + vc)).length < 8)

/-- The flit that a node injects next on a virtual channel of REQ, RSP or BULK goes to its router's local input, if it has room. -/
def injectVc (n vc : Nat) (s : State) : State :=
  match mapGet [] (s.node n).inj vc with
  | [] => s
  | f :: rest =>
    if injectRoom s n vc then pushIn n (localIx * 8 + vc) f (s.modNode n fun x => { x with inj := mapSet [] x.inj vc rest }) else s

/-- A virtual channel with nothing in injection takes the source's next packet for it. -/
def loadVc (n vc : Nat) (s : State) : State :=
  let x := s.node n
  if ! (mapGet [] x.inj vc).isEmpty then s
  else match findWith (fun p => decide (entryVc p.h = vc)) x.out with
    | some (i, p) => s.modNode n fun x => { x with out := x.out.eraseIdx i, inj := mapSet [] x.inj vc (flitsOf p) }
    | none => s

/-- The oldest CTRL packet whose virtual channel has room enters, each of one flit, at least 4 mc after the last (R294), and is stamped as
it enters (R293): an acknowledgement does not wait behind a message (R286). -/
def injectCtrl (n : Nat) (s : State) : State :=
  let x := s.node n
  if (match x.lastCtrl with | some t => decide (s.mc < t + 4) | none => false) then s
  else match findWith (fun p => isCtrl p.h && injectRoom s n (entryVc p.h)) x.out with
    | some (i, p) =>
      let p' : Packet := { p with h := { p.h with stamp := BitVec.ofNat 8 s.mc } }
      foldState (pushIn n (localIx * 8 + entryVc p.h)) (flitsOf p')
        (s.modNode n fun x => { x with out := x.out.eraseIdx i, lastCtrl := some s.mc })
    | none => s

/-- What a node may inject now, on every virtual channel. -/
def pumpInject (n : Nat) (s : State) : State :=
  foldState (fun vc s => injectVc n vc (loadVc n vc s)) [2, 3, 4, 5, 6, 7] (injectCtrl n s)

/-! ## Credits and routes (R281, R288 to R290) -/

/-- Free buffers of virtual channel vc at the next router through a port: none where the channel is held by another packet or the
link has failed; the retry buffer holds 16 flits. -/
def freeCredit (s : State) (n port vc key : Nat) : Nat :=
  let r := (s.node n).router
  let own := mapGet 0 r.owner (port * 8 + vc)
  if own ≠ 0 ∧ own ≠ key + 1 then 0
  else match neighbour n port with
    | none => 0
    | some m =>
      let far := (s.node m).router
      let tx := mapGet ({} : LinkTx) r.tx port
      if (mapGet ({} : LinkRx) far.rx (oppositePort port)).failed || decide (tx.buf.length ≥ 16) then 0
      else 8 - (far.queue (oppositePort port * 8 + vc)).length - (tx.buf.filter fun t => decide (t.vc.toNat = vc)).length

/-- The port in x, and in y, that brings a packet nearer. -/
def xPort (n d : Nat) : Option Nat := if nodeX d > nodeX n then some 1 else if nodeX d < nodeX n then some 3 else none
def yPort (n d : Nat) : Option Nat := if nodeY d > nodeY n then some 2 else if nodeY d < nodeY n then some 0 else none
/-- The XY port (R289). -/
def xyPort (n d : Nat) : Nat := ((xPort n d).orElse fun _ => yPort n d).getD localIx

/-- Whether a destination's local side can take a packet: only requests wait (R282): at a memory controller with a full queue, and at
a node that holds 32 rdb requests; a node holds up to 32 CTRL flits (R293). -/
def localRoom (s : State) (n : Nat) (h : Header) : Bool :=
  let x := s.node n
  if h.cls = clsCtrl then decide (x.held.length < 32)
  else if h.cls = clsReq then
    decide (h.kind ≠ kRdb ∨ x.rdbs.length < 32) &&
      (decide (nodeKind n ≠ .hbm ∧ nodeKind n ≠ .far) ||
        decide (x.rx.length + ((ctlsOf n).map fun i => (s.ctl i).queue.length).foldl (· + ·) 0 < 64 * (ctlsOf n).length))
  else true

/-- Whether no other packet holds the local output on the virtual channel of an input key (R281). -/
def localFree (s : State) (n key : Nat) : Bool :=
  let own := mapGet 0 (s.node n).router.owner (localIx * 8 + key % 8)
  decide (own = 0 ∨ own = key + 1)

/-- Where the head at an input key goes: output port, virtual channel, and whether it enters an escape channel; none while it
waits. -/
def routeHead (s : State) (n key : Nat) (h : Header) : Option (Nat × Nat × Bool) :=
  let d := h.dnode.toNat
  let vc := key % 8
  if d = n then (if localRoom s n h && localFree s n key then some (localIx, vc, false) else none)
  else
    let xy := xyPort n d
    if h.cls = clsCtrl then (if freeCredit s n xy vc key > 0 then some (xy, vc, false) else none)
    else
      let a := 2 * h.cls.toNat
      let escape : Option (Nat × Nat × Bool) := if freeCredit s n xy (a + 1) key > 0 then some (xy, a + 1, ! h.esc) else none
      if h.esc then escape
      else
        let cx := match xPort n d with | some p => freeCredit s n p a key | none => 0
        let cy := match yPort n d with | some p => freeCredit s n p a key | none => 0
        if cx = 0 ∧ cy = 0 then escape
        else if cx ≥ cy then (xPort n d).map fun p => (p, a, false)
        else (yPort n d).map fun p => (p, a, false)

/-- Where the flit at the front of an input key goes: a body flit follows its head. -/
def routeFront (s : State) (n key : Nat) : Option (Nat × Nat × Bool) :=
  let r := (s.node n).router
  match r.queue key with
  | [] => none
  | f :: _ =>
    let set := mapGet 0 r.route key
    if set ≠ 0 then
      let o := (set - 1) / 8
      let vc := (set - 1) % 8
      if o = localIx ∨ freeCredit s n o vc key > 0 then some (o, vc, false) else none
    else match f.head with
      | some h => routeHead s n key h
      | none => none

/-! ## Scheduling (R287) -/

/-- CTRL tokens and BULK credit as of now. -/
def OutPort.refill (o : OutPort) (mc : Nat) : OutPort :=
  { o with tok := min 16 (o.tok + (mc / 4 - o.tokAt / 4)), tokAt := mc, bulk := min 4 (o.bulk + (mc / 5 - o.bulkAt / 5)), bulkAt := mc }

/-- A flit that may go through an output: its input key, virtual channel and escape mark. -/
structure Choice where
  key : Nat
  vc : Nat
  esc : Bool

/-- The flits that may go through an output, by input key. -/
def choices (s : State) (n port : Nat) : List Choice :=
  (List.range 40).filterMap fun key => match routeFront s n key with
    | some (o, vc, e) => if o = port then some { key := key, vc := vc, esc := e } else none
    | none => none

/-- Among a class's two channels the output alternates; within one, the lowest input key goes (log 24). -/
def pickVc (o : OutPort) (cs : List Choice) (cls : Nat) : Option Choice :=
  let mine := cs.filter fun c => decide (c.vc / 2 = cls)
  let last := mapGet false o.alt cls
  match mine.find? fun c => decide (c.vc % 2 = bn (! last)) with
  | some c => some c
  | none => mine.head?

/-- The round robin of REQ, RSP and BULK, weights 2, 2 and 1: the class of each slot of a round. -/
def wrrSlots : List Nat := [1, 1, 2, 2, 3]

/-- What the round robin holds after a flit: its next slot, and whether BULK has had its turn of the round under step 2. -/
structure Turn where
  wrr : Nat
  bulkDone : Bool

/-- The slots in the order in which the round robin looks at them: the rest of this round, then the next. DEDUCED (log 24): a BULK flit that
step 2 sent is BULK's turn of its round, which gives the shares that R287 states. -/
def OutPort.turns (o : OutPort) : List (Nat × Turn) :=
  ((List.range 5).filter fun i => decide (o.wrr ≤ i) && ! (o.bulkDone && decide (i = 4))).map (fun i => (i, { wrr := i + 1, bulkDone := o.bulkDone }))
    ++ (List.range 5).map fun i => (i, { wrr := i + 1, bulkDone := false })

/-- The flit of an output, with the round robin after it (R287). -/
def chooseFlit (o : OutPort) (cs : List Choice) : Option (Choice × Turn) :=
  let same : Turn := { wrr := o.wrr, bulkDone := o.bulkDone }
  match (if o.tok > 0 then pickVc o cs 0 else none), (if o.bulk ≥ 1 then pickVc o cs 3 else none) with
  | some c, _ => some (c, same)
  | none, some c => some (c, { wrr := o.wrr % 5, bulkDone := true })
  | none, none => o.turns.findSome? fun t => (pickVc o cs (wrrSlots.getD t.1 1)).map fun c => (c, t.2)

/-- The output after a flit of virtual channel vc has left. -/
def OutPort.sent (o : OutPort) (vc : Nat) (t : Turn) : OutPort :=
  let cls := vc / 2
  { o with tok := if cls = 0 then o.tok - 1 else o.tok, bulk := if cls = 3 then o.bulk - 1 else o.bulk, wrr := t.wrr, bulkDone := t.bulkDone
           alt := mapSet false o.alt cls (decide (vc % 2 = 1)) }

/-! ## Delivery (R293) -/

def bridges (a b : Nat) : Nat := bn (decide (dieOf a ≠ dieOf b))

/-- (int8)(now − due) of a CTRL packet that arrives now (R293). -/
def lateness (s : State) (n : Nat) (h : Header) : Int :=
  (BitVec.ofNat 8 s.mc - (h.stamp + BitVec.ofNat 8 (3 * hops h.snode.toNat n + 4 * bridges h.snode.toNat n + 12))).toInt

/-- A packet reaches its destination: a CTRL packet is held until its due mesh cycle; one that arrives outside its hold is released at
once, in its place by due mc, and counted late (R293, R294). -/
def deliverFlits (n : Nat) (p : Packet) (s : State) : State :=
  if isCtrl p.h then
    let d := lateness s n p.h
    let due := if -12 ≤ d ∧ d < 0 then s.mc + (-d).toNat else if d < 0 then s.mc - (d + 256).toNat else s.mc - d.toNat
    let s1 := s.modNode n fun x => { x with held := x.held ++ [{ due := due, arrived := s.mc, pkt := p }] }
    if d > 0 ∨ d < -12 then s1.modCourse (courseOf n) fun c => { c with ctrlLate := c.ctrlLate + 1 } else s1
  else s.modNode n (·.deliver p)

/-- A flit leaves through an output. -/
def forward (n port : Nat) (c : Choice) (wrr : Turn) (o : OutPort) (s : State) : State :=
  let r := (s.node n).router
  match r.queue c.key with
  | [] => s
  | f :: rest =>
    let f' := if c.esc then { f with head := f.head.map fun h => { h with esc := true } } else f
    let ok := port * 8 + c.vc
    let r1 : Router :=
      { r with inq := mapSet [] r.inq c.key rest, outs := mapSet {} r.outs port (o.sent c.vc wrr)
               route := mapSet 0 r.route c.key (if f.last then 0 else ok + 1)
               owner := mapSet 0 r.owner ok (if f.last then 0 else c.key + 1)
               hdr := if f.last then mapSet {} r.hdr c.key {} else match f'.head with | some h => mapSet {} r.hdr c.key h | none => r.hdr }
    let s1 := if c.esc then s.modCourse (courseOf n) fun x => { x with escTaken := x.escTaken + 1 } else s
    if port = localIx then
      let got := mapGet [] (s.node n).asm c.vc ++ [f']
      let s2 := s1.modNode n fun x => { x with router := r1, asm := mapSet [] x.asm c.vc (if f.last then [] else got) }
      if f.last then (match packetOf got with | some p => deliverFlits n p s2 | none => s2) else s2
    else
      let tx := mapGet ({} : LinkTx) r1.tx port
      let t : TxFlit := { seq := tx.seq, vc := BitVec.ofNat 3 c.vc, flit := f' }
      let tx' : LinkTx := { buf := tx.buf ++ [t], seq := tx.seq + 1, wire := tx.wire ++ [t] }
      s1.modNode n fun x => { x with router := { r1 with tx := mapSet {} r1.tx port tx' } }

/-- FLIT_FORWARD (R287): one flit of an output, after the node has injected what it may; nothing moves in a die mesh that is not powered
(R26). -/
def flitForward (n port : Nat) (s : State) : State :=
  if ! s.meshUp n then s
  else
    let s1 := pumpInject n s
    let o := (mapGet ({} : OutPort) (s1.node n).router.outs port).refill s1.mc
    match chooseFlit o (choices s1 n port) with
    | some (c, w) => forward n port c w o s1
    | none => s1

def execFlitForward (node : NodeNo) (out : Port) (s : State) : Host.Outcome State Fault Refusal :=
  .next (flitForward node.val (portIx out) s)

/-- CTRL_RELEASE (R293): the held CTRL packet that is due first, then the first to arrive, then of the lowest source. -/
def ctrlRelease (n : Nat) (s : State) : State :=
  let x := s.node n
  let due := x.held.filter fun h => decide (h.due ≤ s.mc)
  let before (a b : Held) : Bool :=
    decide (a.due < b.due ∨ (a.due = b.due ∧ (a.arrived < b.arrived ∨ (a.arrived = b.arrived ∧ a.pkt.h.snode < b.pkt.h.snode))))
  match due with
  | [] => s
  | h :: hs =>
    let f := hs.foldl (fun a b => if before b a then b else a) h
    s.modNode n fun x => { x with held := removeFirst (fun y => decide (y = f)) x.held, ctrl := x.ctrl ++ [f.pkt] }

def execCtrlRelease (node : NodeNo) (s : State) : Host.Outcome State Fault Refusal := .next (ctrlRelease node.val s)

/-! ## Link CRC and retry (R295) -/

/-- One bit into the CRC-8 register, polynomial x^8 + x^2 + x + 1. -/
def crc8Bit (c : Byte) (b : Bool) : Byte := if c.msb != b then (c <<< 1) ^^^ 0x07 else c <<< 1

/-- The CRC of the low n bits of a number, in ascending order, from initial value 0. -/
def crc8 (n x : Nat) : Byte := (List.range n).foldl (fun c i => crc8Bit c (x.testBit i)) 0

/-- Errors on a flit that its CRC does not detect: the CRC is linear, so the error bits of the flit and its sequence number must
have the error bits of the CRC as their own CRC. -/
def undetected (err : BitVec 1037) : Bool := decide (crc8 1029 (err.toNat % 2 ^ 1029) = BitVec.ofNat 8 (err.toNat / 2 ^ 1029))

/-- A flit with error bits applied. -/
def corruptFlit (f : Flit) (e : Nat) : Flit :=
  match f.head with
  | some h => { f with head := some (headerOf (h.bits ^^^ (e % 2 ^ 128)))
                       data := leBytes f.data.length (leNat f.data ^^^ (e / 2 ^ 128)) }
  | none => { f with data := leBytes f.data.length (leNat f.data ^^^ e) }

/-- The receiver returns RETRY: the sender resends every flit not yet accepted (R295). -/
def retry (n port m : Nat) (s : State) : State :=
  let s1 := s.modCourse (courseOf n) fun c => { c with crcRetry := c.crcRetry + 1 }
  let s2 := s1.modNode n fun x =>
    let rx := mapGet ({} : LinkRx) x.router.rx port
    { x with router := { x.router with rx := mapSet {} x.router.rx port { rx with retries := rx.retries + 1 } } }
  s2.modNode m fun x =>
    let tx := mapGet ({} : LinkTx) x.router.tx (oppositePort port)
    { x with router := { x.router with tx := mapSet {} x.router.tx (oppositePort port) { tx with wire := tx.buf } } }

/-- FLIT_RECEIVE (R295): the next flit on the wire into a port, with error bits. After 8 retries of one flit the link waits for its
resynchronisation (R296). -/
def flitReceive (n port : Nat) (err : BitVec 1037) (s : State) : State :=
  match neighbour n port with
  | none => s
  | some m =>
    let rx := mapGet ({} : LinkRx) (s.node n).router.rx port
    let op := oppositePort port
    let tx := mapGet ({} : LinkTx) (s.node m).router.tx op
    match tx.wire with
    | [] => s
    | t :: rest =>
      if rx.failed ∨ rx.retries ≥ 8 ∨ ! s.meshUp n then s
      else
        let e := err.toNat % 2 ^ 1024
        let seq := t.seq ^^^ natField 5 err.toNat 1024
        if ! undetected err || decide (seq ≠ rx.expected) then retry n port m s
        else
          let s1 := s.modNode n fun x =>
            { x with router := { x.router with rx := mapSet {} x.router.rx port { rx with expected := rx.expected + 1, retries := 0 } } }
          let s2 := s1.modNode m fun x =>
            { x with router := { x.router with tx := mapSet {} x.router.tx op { tx with wire := rest, buf := tx.buf.tail } } }
          pushIn n (port * 8 + t.vc.toNat) (if e = 0 then t.flit else corruptFlit t.flit e) s2

def execFlitReceive (node : NodeNo) (port : Port) (err : BitVec 1037) (s : State) : Host.Outcome State Fault Refusal :=
  .next (flitReceive node.val (portIx port) err s)

end Sys2Proof.Machine
end

