-- ==== Sys2Proof/Machine/LinkFrames.lean ====
section
/-! DEFINITION. Frames of the Mbotor link layer as bytes: header, transaction header, CRC-32C and the first receive checks (R306 to
R309). -/

namespace Sys2Proof.Machine

open Sys2Proof

/-- A frame without its CRC (Tables 11.2, 11.3). -/
structure Frame where
  dmodule : BitVec 16
  smodule : BitVec 16
  dnode : BitVec 10
  snode : BitVec 10
  region : BitVec 5
  cls : BitVec 2
  seq : BitVec 12
  ack : BitVec 12
  ftype : BitVec 3
  nak : Bool
  rflex : Bool
  cclass : BitVec 2
  credit : BitVec 12
  tail : Bool
  resent : Bool
  payload : List Byte
  deriving DecidableEq, Repr

/-- One byte into the reflected CRC-32C register (R307). -/
def crc32cByte (c : Word) (b : Byte) : Word :=
  (List.range 8).foldl (fun (c : Word) _ => if bitOf c 0 then (c >>> 1) ^^^ 0x82F63B78 else c >>> 1) (c ^^^ b.zeroExtend 32)

/-- CRC-32C (R307). -/
def crc32c (bs : List Byte) : Word := (bs.foldl crc32cByte 0xFFFFFFFF) ^^^ 0xFFFFFFFF

/-- The 16 header bytes (Table 11.2). -/
def Frame.header (f : Frame) : List Byte :=
  leBytes 16 (f.dmodule.toNat * 2 ^ 112 + f.smodule.toNat * 2 ^ 96 + f.dnode.toNat * 2 ^ 86 + f.snode.toNat * 2 ^ 76
    + f.region.toNat * 2 ^ 71 + f.cls.toNat * 2 ^ 69 + f.seq.toNat * 2 ^ 57 + f.ack.toNat * 2 ^ 45
    + (f.payload.length / 16) * 2 ^ 37 + f.ftype.toNat * 2 ^ 34 + bn f.nak * 2 ^ 33 + bn f.rflex * 2 ^ 32
    + f.cclass.toNat * 2 ^ 30 + f.credit.toNat * 2 ^ 18 + bn f.tail * 2 ^ 17 + bn f.resent * 2 ^ 16)

/-- Header, payload and trailer (R306, R307). -/
def Frame.bytes (f : Frame) : List Byte :=
  let hp := f.header ++ f.payload
  hp ++ leBytes 4 (crc32c hp).toNat ++ [0, 0, 0, 0]

/-- The frame that bytes spell, from its header bits and payload. -/
def frameOf (x : Nat) (payload : List Byte) : Frame :=
  { dmodule := natField 16 x 112, smodule := natField 16 x 96, dnode := natField 10 x 86, snode := natField 10 x 76
    region := natField 5 x 71, cls := natField 2 x 69, seq := natField 12 x 57, ack := natField 12 x 45, ftype := natField 3 x 34
    nak := x.testBit 33, rflex := x.testBit 32, cclass := natField 2 x 30, credit := natField 12 x 18, tail := x.testBit 17
    resent := x.testBit 16, payload := payload }

/-- The outcome of checks 1 to 3 of Table 11.5: a length error, a CRC or format error, or a frame. -/
inductive Checked where
  | badLength
  | badCrc
  | good (f : Frame)
  deriving DecidableEq, Repr

/-- Bits that R306 and Table 11.4 state to be zero: header bits 15:0; all but ACK, NAK, CCLASS, CREDIT, FTYPE and LEN of an ACKONLY or
TRAIN frame; bits 127:68 of a transaction header. -/
def reservedZero (x : Nat) (f : Frame) : Bool :=
  decide (x % 2 ^ 16 = 0) &&
    (if f.ftype = 0 then decide (leNat (f.payload.take 16) / 2 ^ 68 = 0)
     else decide (x / 2 ^ 57 = 0) && ! f.rflex && ! f.tail && ! f.resent)

/-- The payload length of each frame type (Table 11.3). -/
def payloadFits (f : Frame) : Bool :=
  if f.ftype = 0 then decide (f.payload.length ≥ 16) else if f.ftype = 1 then f.payload.isEmpty else decide (f.payload.length = 16)

/-- Checks 1 to 3 of Table 11.5 on received bytes. -/
def checkFrame (up : Bool) (bs : List Byte) : Checked :=
  let n := bs.length
  let x := leNat (bs.take 16)
  let f := frameOf x ((bs.drop 16).take (n - 24))
  if n < 24 ∨ n > 2072 ∨ (n - 24) % 16 ≠ 0 ∨ (natField 8 x 37).toNat ≠ (n - 24) / 16 then .badLength
  else if crc32c (bs.take (n - 8)) ≠ leBits 32 ((bs.drop (n - 8)).take 4) then .badCrc
  else if f.ftype.toNat ≥ 3 ∨ ! reservedZero x f ∨ ! payloadFits f ∨ (f.ftype = 2 ∧ up) then .badCrc
  else .good f

/-! ## The packet in a DATA frame (R308) -/

/-- Data in whole 16-byte units; data that is short of one is filled, and its last byte counts the fill (log 8). -/
def unitData (bs : List Byte) : List Byte :=
  let r := bs.length % 16
  if r = 0 then bs else bs ++ List.replicate (15 - r) 0 ++ [BitVec.ofNat 8 (16 - r)]

/-- KIND as a frame carries it: 16 more where the data was filled (log 8). -/
def frameKind (q : LinkPkt) : Nat := q.kind.toNat + (if q.data.length % 16 = 0 then 0 else 16)

/-- The payload of a packet's frame (Table 11.4). -/
def LinkPkt.payload (q : LinkPkt) : List Byte :=
  leBytes 16 (q.tag.toNat * 2 ^ 58 + frameKind q * 2 ^ 53 + q.sregion.toNat * 2 ^ 48 + q.addr.toNat) ++ unitData q.data

/-- LEN of a packet's frame, and the frame's bytes. -/
def LinkPkt.units (q : LinkPkt) : Nat := 1 + ceilDiv q.data.length 16
def LinkPkt.frameBytes (q : LinkPkt) : Nat := 24 + 16 * q.units

/-- Credit units of a frame (R314). -/
def LinkPkt.cost (q : LinkPkt) : Nat := ceilDiv (q.units + 2) 4

/-- The packet that a DATA frame carries. -/
def Frame.packet (f : Frame) : LinkPkt :=
  let x := leNat (f.payload.take 16)
  let kind := (x / 2 ^ 53) % 32
  let data := f.payload.drop 16
  let fill := if kind ≥ 16 then ((data.getLast?).getD 0).toNat % 16 else 0
  { dmodule := f.dmodule, dnode := f.dnode, snode := f.snode, tag := natField 10 x 58, kind := BitVec.ofNat 5 (kind % 16), cls := f.cls
    addr := natField 48 x 0, region := f.region, sregion := natField 5 x 48, tail := f.tail, rflex := f.rflex, gen := none
    data := data.take (data.length - fill) }

end Sys2Proof.Machine
end

