-- ==== Sys2Proof/Machine/NetPort.lean ====
section
/-! DEFINITION. A core's network port: windows (R203), the reserved area (R114), page rules (R204, R258), reads, writes, reduce writes
and atomics that arrive (R202, R217 to R221), and registers reached by packets (R2). -/

namespace Sys2Proof.Machine

open Sys2Proof

/-! ## Requests -/

/-- The byte count of a READ (Table 10.2). -/
def readCount (p : Packet) : Nat := leNat (p.data.take 2)

/-- A strided or transposed read (R202; layout log 8): element size, wrap, first byte of the element or block, stride, count of bytes, and
the offset of the first byte within its wrap. -/
structure Gather where
  esize : Nat
  wrap : Nat
  first : Nat
  stride : Nat
  count : Nat
  start : Nat

def gatherOf (p : Packet) : Gather :=
  let f (i n : Nat) : Nat := leNat ((p.data.drop i).take n)
  { esize := f 0 1, wrap := f 1 1, first := f 2 2, stride := f 4 4, count := f 8 2, start := f 12 4 }

/-- The source offset of byte b of a row, from its start (R234). -/
def Gather.delta (g : Gather) (transposed : Bool) (b : Nat) : Nat :=
  let e := b / g.esize
  if transposed then e % 8 * g.stride + e / 8 * g.esize + b % g.esize else e * g.stride + b % g.esize

/-- The offsets of a gather's bytes, its address lying at offset `base`: each at its own wrapped place (R234, R235). -/
def Gather.offsets (g : Gather) (transposed : Bool) (base : Nat) : List Nat :=
  (List.range g.count).map fun i =>
    let d : Int := (g.delta transposed (g.first + i) : Int) - g.delta transposed g.first
    if g.wrap = 0 then (base + d).toNat else (base - g.start + (g.start + d) % (2 ^ g.wrap : Nat)).toNat

/-- The offsets, in order of delivery, of the bytes that a read names, its address lying at offset `base`. -/
def readOffsets (p : Packet) (base : Nat) : List Nat :=
  if p.h.kind = kReadStrided ∨ p.h.kind = kReadTransposed then (gatherOf p).offsets (decide (p.h.kind = kReadTransposed)) base
  else (List.range (readCount p)).map (base + ·)

/-- The bytes of an atomic's operand: its function (Table 10.2; layout log 8). -/
def amoOf (p : Packet) : Option AmoFn := amoOfCode (leNat (p.data.take 1))

/-- The bytes that an access touches, its address lying at offset `base`: the lowest and how many up to the highest. -/
def spanOf (p : Packet) (base : Nat) : Nat × Nat :=
  if p.h.kind = kReadStrided ∨ p.h.kind = kReadTransposed then
    let os := readOffsets p base
    let lo := os.foldl min (os.headD base)
    (lo, os.foldl (fun a o => max a (o + 1)) lo - lo)
  else if p.h.kind = kRead then (base, readCount p)
  else if p.h.kind = kAtomic then (base, match amoOf p with | some f => f.size | none => 8)
  else (base, p.data.length)

def isReadKind (p : Packet) : Bool := decide (p.h.kind = kRead ∨ p.h.kind = kReadStrided ∨ p.h.kind = kReadTransposed)
def isRedKind (p : Packet) : Bool := decide (p.h.kind = kRedF32 ∨ p.h.kind = kRedBf16)

/-! ## Windows (R203) -/

/-- Whether a window admits traffic: enabled, within the scratchpad, its region and its side. -/
def winAdmits (w : Window) (link : Bool) (region : BitVec 6) : Bool :=
  bitOf w.src 31 && decide (w.len.toNat ≠ 0 ∧ w.off.toNat + w.len.toNat ≤ scratchSize)
    && (if link then bitOf w.src 24 else bitOf w.src 23) && decide (fieldOf w.src 20 16 = region.toNat)

/-- Whether a window grants the kind of an access. -/
def winGrants (w : Window) (p : Packet) : Bool :=
  if isReadKind p then bitOf w.src 25
  else if isRedKind p then bitOf w.src 27
  else if p.h.kind = kAtomic then bitOf w.src 25 && bitOf w.src 26
  else bitOf w.src 26

def winCovers (w : Window) (off len : Nat) : Bool := decide (w.off.toNat ≤ off ∧ off + len ≤ w.off.toNat + w.len.toNat)

/-- Whether a packet is link traffic: its source is an L node (R323). -/
def fromLink (p : Packet) : Bool := decide (nodeKind p.h.snode.toNat = .link)
def fromPegbox (p : Packet) : Bool := decide (p.h.snode.toNat = pegboxNode)

/-- R203: the refusal of an access to scratchpad bytes, if any. The core's own Plectrum and Pegbox are exempt from the windows; only
Pegbox reaches the reserved area. -/
def windowRefusal (c : Core) (n : Nat) (p : Packet) (off len : Nat) : Option (BitVec 3) :=
  if fromPegbox p then none
  else if off + len > 0x1FE000 then some refWindow
  else if p.h.snode.toNat = n then none
  else if (List.range 8).any fun k =>
      winAdmits (winOf c k) (fromLink p) p.h.region && winGrants (winOf c k) p && winCovers (winOf c k) off len then none
  else some refWindow

/-! ## Accesses to the scratchpad -/

/-- A reduce write adds its elements in ascending order (R220, R221). -/
def reduceInto (bf : Bool) (m : CoreMem) : Nat → Nat → List Byte → CoreMem
  | 0, _, _ => m
  | fuel + 1, off, bs =>
    let u := if bf then 2 else 4
    if bs.isEmpty then m
    else
      let old := leNat (m.readScratch off u)
      let new := faddBits (if bf then 1 else 0) old (leNat (bs.take u))
      reduceInto bf (m.writeScratch off (leBytes u new)) fuel (off + u) (bs.drop u)

/-- An admitted access to the scratchpad (R217 to R221, R423). -/
def scratchAccess (n : Nat) (p : Packet) (off : Nat) (s : State) : State :=
  let c := s.core n
  let len := (spanOf p off).2
  if isReadKind p then
    match (readOffsets p off).find? fun o => poisonedAt 8 c.mem.poison o 1 with
    | some o => (s.coreEcc n 1 o).send (poisonedOf n p 1)
    | none => s.send (dataOf n p ((readOffsets p off).map fun o => mapGet 0 c.mem.scratch o))
  else if p.h.kind = kAtomic then
    match amoOf p with
    | none => refuse n p refUnmapped s
    | some f =>
      if poisonedAt 8 c.mem.poison off len then (s.coreEcc n 1 off).send (poisonedOf n p 1)
      else
        let old := leNat (c.mem.readScratch off f.size)
        let new := amoResult f old (leNat ((p.data.drop 1).take f.size)) (leNat ((p.data.drop 9).take f.size))
        (s.modCore n fun c => c.modMem (·.writeScratch off (leBytes f.size new))).send (dataOf n p (padTo 16 (leBytes f.size old)))
  else if isRedKind p then
    let s1 := if poisonedAt 8 c.mem.poison off len then s.coreEcc n 1 off else s
    (s1.modCore n fun c => c.modMem fun m => reduceInto (decide (p.h.kind = kRedBf16)) m p.data.length off p.data).send (ackOf n p)
  else (s.modCore n fun c => c.modMem (·.writeScratch off p.data)).send (ackOf n p)

/-! ## Accesses to the node block -/

/-- Words of registers: a byte or half-word access reads zero and has no effect (R2). -/
def pageWords (off len : Nat) : List Nat := if off % 4 = 0 then (List.range (len / 4)).map fun i => off + 4 * i else []

/-- Who an arriving register access comes from. -/
def packetWho (p : Packet) : Accessor :=
  if fromPegbox p then .pb 2 else if p.h.snode.toNat = securityNode then .security else .core (Fin.ofNat 960 p.h.snode.toNat)

/-- An access to the control page or the Plectrum page. -/
def pageAccess (n : Nat) (p : Packet) (off : Nat) (s : State) : State :=
  if p.h.kind = kRdb then s.send (dataOf n p (padTo 16 (leBytes 4 (corePageRead s n off).toNat)))
  else if p.h.kind = kRead then
    let bs := (pageWords off (readCount p)).flatMap fun o => leBytes 4 (corePageRead s n o).toNat
    s.send (dataOf n p (padTo (readCount p) bs))
  else if p.h.kind = kWrite then
    let f (i : Nat) (s : State) : State := corePageWrite (packetWho p) n (off + 4 * i) (wordAt p.data i) s
    (foldState f (List.range (pageWords off p.data.length).length) s).send (ackOf n p)
  else refuse n p refUnmapped s

/-- An access to instruction memory: reads and plain writes (R72, R73), which no thread need see before its ifence; a reduce write or an atomic has no target there. -/
def imemAccess (n : Nat) (p : Packet) (off : Nat) (s : State) : State :=
  let c := s.core n
  if p.h.kind = kRead then
    if poisonedAt 8 c.mem.imemPoison off (readCount p) then (s.coreEcc n 0 off).send (poisonedOf n p 0)
    else s.send (dataOf n p (readBytes c.mem.imem off (readCount p)))
  else if p.h.kind = kWrite ∧ off + p.data.length ≤ 0x20000 then
    (s.modCore n fun c => c.dmaImem off p.data).send (ackOf n p)
  else refuse n p refUnmapped s

/-- An access to a core's node block. Fret and channel pages admit the core's own region alone (R204, R258), instruction memory and
registers that and Pegbox (log 25). -/
def blockAccess (n : Nat) (p : Packet) (off : Nat) (s : State) : State :=
  let own := ownRegion s n p
  let frets := decide (0x22000 ≤ off ∧ off < 0x220C0)
  let chans := decide (0x23000 ≤ off ∧ off < 0x23100)
  if off < 0x22000 ∨ frets ∨ chans then
    if ! own && (frets || chans || ! fromPegbox p) then refuse n p refWindow s
    else if frets || chans then refuse n p refUnmapped s
    else if off < 0x20000 then imemAccess n p off s
    else pageAccess n p off s
  else refuse n p refUnmapped s

/-- A packet at a core's network port (R203 to R205). -/
def corePort (n : Nat) (p : Packet) (s : State) : State :=
  match portRefusal s n p with
  | some k => refuse n p k s
  | none => match placeOfAddr p.h.addr with
    | .scratch m off =>
      let (lo, len) := spanOf p off
      if m ≠ n ∨ p.h.kind = kRdb ∨ lo + len > scratchSize then refuse n p refUnmapped s
      else match windowRefusal (s.core n) n p lo len with
        | some k => refuse n p k s
        | none => scratchAccess n p off s
    | .block m off => if m = n then blockAccess n p off s else refuse n p refUnmapped s
    | _ => refuse n p refUnmapped s

/-- Whether a packet comes from the core itself. -/
def fromSelf (n : Nat) (p : Packet) : Bool := decide (p.h.snode.toNat = n)

/-- The request that the port serves next: the oldest of the core itself or of the others, in turn where both wait (R200). -/
def nextRequest (n : Nat) (s : State) : Option (Packet × State) :=
  let own := takeRx n (fun p => ! isAnswer p && fromSelf n p) s
  let other := takeRx n (fun p => ! isAnswer p && ! fromSelf n p) s
  if (s.core n).portOwn then other.orElse fun _ => own else own.orElse fun _ => other

/-- NETWORK_PORT_ACCESS at a core. -/
def corePortAccess (n : Nat) (s : State) : State :=
  match nextRequest n s with
  | none => s
  | some (p, s1) => settle n (corePort n p (s1.modCore n fun c => { c with portOwn := fromSelf n p }))

end Sys2Proof.Machine
end

