-- ==== Sys2Proof/Machine/MemCtl.lean ====
section
/-! DEFINITION. READY bits (R342), memory controllers (R208, R211, R298, R420, R449), and the loss of cores, quarter-stacks and far
channels (R426 to R428). -/

namespace Sys2Proof.Machine

open Sys2Proof

/-! ## READY bits (R342) -/

/-- READY_COURSE, READY_LINK_LO, READY_LINK_HI, READY_MEM, READY_SYS (Table 12.4). -/
def readyWords (s : State) : List Word :=
  [s.host.readyCourse, s.host.readyLink.truncate 32, BitVec.ofNat 32 (s.host.readyLink.toNat / 2 ^ 32),
    packWord [(s.host.readyFar.toNat, 8), (s.host.readyHbm.toNat, 0)],
    packWord [(bn s.host.readyBridge, 8), (s.host.readyMesh.toNat, 6), (bn s.host.readyRp, 5), (bn s.host.readyEp, 4),
      (if bitOf s.host.svcFailed 2 ∨ s.phys.thermtrip then 0 else s.pb.run.toNat, 0)]]

/-- The region that a change of READY bits concerns: of the lowest course or link that changed and is owned (R354). -/
def readyRegion (s t : State) : Option (BitVec 5) :=
  let cs := (List.range 32).filter fun c => bitOf s.host.readyCourse c != bitOf t.host.readyCourse c
  let ls := ((List.range 40).filter fun l => bitOf s.host.readyLink l != bitOf t.host.readyLink l).map fun l => courseOf (linkNode l)
  ((cs ++ ls).find? fun c => (t.course c).valid).map fun c => (t.course c).region

/-- Every change of a READY bit raises READY_CHANGE with the words after it (Table 16.3). -/
def readyEvent (s t : State) : State :=
  if readyWords s = readyWords t then t
  else t.health { code := 4, record := (readyWords t).flatMap (fun w => leBytes 4 w.toNat), region := readyRegion s t }

def modHost (f : HostIf → HostIf) (s : State) : State := { s with host := f s.host }

/-- The stack of a course (Table 1.2). -/
def stackOf (c : Nat) : Nat := courseX c / 2 + 4 * (courseY c / 2)

/-- The courses that a stack serves. -/
def stackCourses (st : Nat) : List Nat := (List.range 32).filter fun c => decide (stackOf c = st)

/-! ## Instances (Table 12.5) -/

def instKey (kind index : Nat) : Nat := kind * 64 + index

def modInst (kind index : Nat) (f : Inst → Inst) (s : State) : State :=
  let k := instKey kind index
  { s with emu := { s.emu with insts := mapSet {} s.emu.insts k (f (mapGet {} s.emu.insts k)) } }

/-- The instance of a controller: an HBM stack or a far channel. -/
def ctlInst (i : Nat) : Nat × Nat := if i < 32 then (2, stackOf i) else (3, i - 32)

/-- The course whose port node has a controller. -/
def ctlCourse (i : Nat) : Nat := if i < 32 then i else farCourses.getD ((i - 32) / 2) 0

/-! ## Failing controllers (R428, R429) -/

/-- A quarter-stack or far channel fails: its waiting requests are refused DEST_LOST, its READY bit clears. -/
def failCtl (n i : Nat) (s : State) : State :=
  let waiting := (s.ctl i).queue.filter fun r => decide (r.pkt.h.kind ≠ kWrite)
  let s1 := s.modCtl i fun c => { c with failed := true, queue := [] }
  let s2 := foldState (fun (r : MemReq) s => s.send (refusalOf n r.pkt refDestLost)) waiting s1
  let s3 := modInst (ctlInst i).1 (ctlInst i).2 (fun x => { x with pstate := 7 }) s2
  let s4 := if i < 32 then
      modHost (fun h => { h with readyHbm := setBit h.readyHbm (stackOf i) false })
        { s3 with pb := { s3.pb with repair := mapSet {} s3.pb.repair i { (mapGet {} s3.pb.repair i) with qstack := true } } }
    else modHost (fun h => { h with readyFar := setBit h.readyFar (i - 32) false }) s3
  readyEvent s s4

/-- An uncorrectable error at a controller: counted, reported (R424, R425), and the 16th within 1 s fails a quarter-stack (R428). -/
def ctlUncorr (n i : Nat) (addr : Nat) (s : State) : State :=
  let (k, x) := ctlInst i
  let s1 := modInst k x (fun y => { y with uncorr := satAdd y.uncorr 1 }) s
  let region := if (s.course (ctlCourse i)).valid then some (s.course (ctlCourse i)).region else none
  let s2 := s1.health { code := 6, record := eccRecord s (if i < 32 then 4 else 5) k x true addr, region := region }
  let s3 := s2.modCtl i fun c => { c with uncorrAt := (c.uncorrAt.filter fun t => decide (s.mc < t + 1600000000)) ++ [s.mc] }
  if i < 32 ∧ (s3.ctl i).uncorrAt.length ≥ 16 ∧ ! (s3.ctl i).failed then failCtl n i s3 else s3

/-! ## Admission (R298, R449) -/

/-- The controller and offset of a request at a port node: the owner of the node's course alone, tier addresses alone. -/
def ctlPlace (s : State) (n : Nat) (p : Packet) : Option (Nat × Nat) :=
  let c := courseOf n
  let co := s.course c
  if ! co.valid || decide (p.h.region ≠ co.region.zeroExtend 6) then none
  else if ! (isReadKind p || decide (p.h.kind = kWrite ∨ p.h.kind = kAtomic)) then none
  else match placeOfAddr p.h.addr with
    | .tier1 a => match s.tier1Map co.region.toNat a with
      | some (c', off) => if nodeKind n = .hbm ∧ c' = c then some (c, off) else none
      | none => none
    | .tier2 slot a => match s.tier2Map co.region.toNat slot a with
      | some (c', ch, off) => if nodeKind n = .far ∧ c' = c then some (32 + ch, off) else none
      | none => none
    | _ => none

/-- A request that has arrived enters its controller's queue; a write is acknowledged as it enters. -/
def admitOne (n : Nat) (p : Packet) (s : State) : State :=
  match ctlPlace s n p with
  | none => s.send (refusalOf n p refUnmapped)
  | some (i, off) =>
    if (s.ctl i).failed then s.send (refusalOf n p refDestLost)
    else
      let s1 := s.modCtl i fun c => { c with queue := c.queue ++ [{ pkt := p, off := off, arrived := s.mc }] }
      if p.h.kind = kWrite then s1.send (ackOf n p) else s1

/-- Whether a packet addresses a node block: a register access, not a memory request. -/
def toBlock (p : Packet) : Bool :=
  match placeOfAddr p.h.addr with
  | .block _ _ => true
  | _ => false

/-- The requests that have arrived enter in order while their queue has room (64 each). -/
def admitAll (n : Nat) : Nat → State → State
  | 0, s => s
  | fuel + 1, s =>
    match takeRx n (fun p => decide (p.h.module = 0xFFFF) && ! isAnswer p && ! toBlock p) s with
    | none => s
    | some (p, s1) =>
      let full : Bool := match ctlPlace s n p with
        | some (i, _) => decide ((s.ctl i).queue.length ≥ 64)
        | none => false
      if full then s else admitAll n fuel (admitOne n p s1)

def admitMem (n : Nat) (s : State) : State := admitAll n (s.node n).rx.length s

/-! ## Service (R208, R219, R449) -/

/-- A word of ECC: 32 bytes in tier-1, 64 bytes in tier-2 (R422). -/
def eccUnit (i : Nat) : Nat := if i < 32 then 32 else 64

/-- The bytes of the controller's memory that a request touches. -/
def MemReq.span (r : MemReq) : Nat × Nat := spanOf r.pkt r.off

/-- Whether two requests touch a byte in common. -/
def MemReq.meets (a b : MemReq) : Bool := rangesMeet a.span.1 a.span.2 b.span.1 b.span.2

/-- Whether the request at a place of a queue may be served: no older one to the same address, and no older one that has waited 1 µs
(R449). -/
def mayServe (s : State) (q : List MemReq) (j : Nat) (r : MemReq) : Bool :=
  (q.take j).all fun o => ! o.meets r && decide (s.mc < o.arrived + 1600)

/-- What a request leaves of a controller's bytes: a write's data, an atomic's result. -/
def MemReq.apply (r : MemReq) (m : Map Byte) : Map Byte :=
  if r.pkt.h.kind = kWrite then writeBytes m r.off r.pkt.data
  else if r.pkt.h.kind = kAtomic then
    match amoOf r.pkt with
    | some f =>
      let new := amoResult f (leNat (readBytes m r.off f.size)) (leNat ((r.pkt.data.drop 1).take f.size)) (leNat ((r.pkt.data.drop 9).take f.size))
      writeBytes m r.off (leBytes f.size new)
    | none => m
  else m

/-- The bytes that an access sees which arrives now: everything queued lands before it (R208, R219, R449). -/
def MemCtl.seen (c : MemCtl) : Map Byte := c.queue.foldl (fun m r => r.apply m) c.mem

/-- The poisoned words that such an access sees. -/
def MemCtl.seenPoison (c : MemCtl) (i : Nat) : Map Bool :=
  c.queue.foldl (fun p r => if r.pkt.h.kind = kWrite then clearPoison (eccUnit i) p r.off r.pkt.data.length else p) c.poison

/-- The bytes of a line after each of the younger requests, oldest first. -/
def versions (m : Map Byte) : List MemReq → List (Map Byte)
  | [] => [m]
  | r :: rs => m :: versions (r.apply m) rs

/-- The bytes that a read of a line may find where younger writes or atomics overlap its fill: each aligned 8-byte word is read between
some two of them (R211, log 3). -/
def mixLine (s : State) (younger : List MemReq) (off : Nat) (m : Map Byte) (len : Nat) : List Byte :=
  let vs := versions m younger
  (List.range (len / 8)).flatMap fun i =>
    readBytes (vs.getD ((Config.freeCount (s.free + i)).toNat % vs.length) m) (off + 8 * i) 8

/-- A read at a controller: its data, or a poisoned answer. -/
def serveRead (n i : Nat) (r : MemReq) (younger : List MemReq) (s : State) : State :=
  let c := s.ctl i
  let met := younger.filter fun y => decide (y.pkt.h.kind = kWrite ∨ y.pkt.h.kind = kAtomic) && y.meets r
  if r.pkt.h.kind = kRead ∧ readCount r.pkt = 128 ∧ ! met.isEmpty then
    { s with free := s.free + 16 }.send (dataOf n r.pkt (mixLine s met r.off c.mem 128))
  else s.send (dataOf n r.pkt ((readOffsets r.pkt r.off).map fun o => mapGet 0 c.mem o))

/-- A write lands (R217); a write of a whole ECC word clears its poison (R422). -/
def serveWrite (i : Nat) (r : MemReq) (s : State) : State :=
  s.modCtl i fun c => { c with mem := r.apply c.mem, poison := clearPoison (eccUnit i) c.poison r.off r.pkt.data.length }

/-- An atomic reads, operates and writes at the controller (R219). -/
def serveAtomic (n i : Nat) (r : MemReq) (s : State) : State :=
  match amoOf r.pkt with
  | none => s.send (refusalOf n r.pkt refUnmapped)
  | some f =>
    let old := leNat (readBytes (s.ctl i).mem r.off f.size)
    (s.modCtl i fun c => { c with mem := r.apply c.mem }).send (dataOf n r.pkt (padTo 16 (leBytes f.size old)))

/-- A request that reads memory: what error correction finds first (R420, R422, R423). -/
def serveRequest (n i : Nat) (r : MemReq) (younger : List MemReq) (ecc : EccOutcome) (s : State) : State :=
  if r.pkt.h.kind = kWrite then serveWrite i r s
  else
    let words := if isReadKind r.pkt then (readOffsets r.pkt r.off).map (· / eccUnit i) else wordsOf (eccUnit i) r.span.1 r.span.2
    let bad := decide (ecc = .uncorrectable) || words.any fun w => mapGet false (s.ctl i).poison w
    if bad then
      let s1 := if ecc = .uncorrectable then s.modCtl i fun c => { c with poison := mapSet false c.poison (r.off / eccUnit i) true } else s
      ctlUncorr n i r.pkt.h.addr.toNat (s1.send (poisonedOf n r.pkt (if i < 32 then 4 else 5)))
    else
      let (k, x) := ctlInst i
      let s1 := if ecc = .corrected then modInst k x (fun y => { y with corr := satAdd y.corr 1 }) s else s
      if r.pkt.h.kind = kAtomic then serveAtomic n i r s1 else serveRead n i r younger s1

/-- The port node of a controller. -/
def ctlNode (i : Nat) : Nat := if i < 32 then hbmNode i else auxNode (ctlCourse i)

/-- Serves the first k requests of a controller, in order. -/
def serveFirst (i : Nat) : Nat → State → State
  | 0, s => s
  | k + 1, s => match (s.ctl i).queue with
    | [] => s
    | r :: q => serveFirst i k (serveRequest (ctlNode i) i r q .clean (s.modCtl i fun c => { c with queue := q }))

/-- A write of Pegbox or the host at a controller, after every queued request to the same bytes (R217, R219). -/
def ctlWrite (i off : Nat) (bs : List Byte) (s : State) : State :=
  let meets (r : MemReq) : Bool := rangesMeet r.span.1 r.span.2 off bs.length
  let older := ((s.ctl i).queue.reverse.dropWhile fun r => ! meets r).length
  (serveFirst i older s).modCtl i fun c => { c with mem := writeBytes c.mem off bs, poison := clearPoison (eccUnit i) c.poison off bs.length }

/-- The controller and place of the request with an index among all that wait at a node. -/
def pickReq (s : State) : List Nat → Nat → Option (Nat × Nat)
  | [], _ => none
  | i :: is, j => if j < (s.ctl i).queue.length then some (i, j) else pickReq s is (j - (s.ctl i).queue.length)

/-- MEM_REQUEST_SERVE. -/
def memServe (n index : Nat) (ecc : EccOutcome) (s : State) : State :=
  let s1 := admitMem n s
  match pickReq s1 (ctlsOf n) index with
  | none => s1
  | some (i, j) =>
    let q := (s1.ctl i).queue
    match q[j]? with
    | none => s1
    | some r =>
      if ! mayServe s1 q j r then s1
      else serveRequest n i r (q.drop (j + 1)) ecc (s1.modCtl i fun c => { c with queue := q.eraseIdx j })

def execMemRequestServe (node : NodeNo) (index : Nat) (ecc : EccOutcome) (s : State) : Host.Outcome State Fault Refusal :=
  atMemory node (memServe node.val index ecc s)

/-- REFRESH (R420): the controllers of the node refresh. -/
def execRefresh (node : NodeNo) (s : State) : Host.Outcome State Fault Refusal :=
  atMemory node (foldState (fun i s => s.modCtl i fun c => { c with refreshAt := s.mc }) (ctlsOf node.val) s)

/-! ## Losing a core (R426, R427) -/

/-- The CORE_LOST record's words. -/
def lostWords (s : State) (n : Nat) (cause : Byte) : List Word := [recordWord0 s n 0 cause, 0, 0, s.timeLo]

/-- The record goes to the region supervisor's CORE_SUPV thread, unless that is lost with the core or cannot take it; it is held at
the supervisor's core until accepted (log 26). -/
def lostRecord (n : Nat) (ws : List Word) (s : State) : State :=
  if ! (s.course (courseOf n)).valid then s
  else match s.regionCore (s.regionOf n).toNat 0 with
    | none => s
    | some m =>
      if m = n ∨ noRecords (s.core m).supvThread ∨ (s.core m).lost.isSome then s
      else pushSyn m (s.core m).ctl.supv true 0 0 (.send 0xFFFF ((s.regionOf n).zeroExtend 6) (chan15 m) ws tagCoreLost) s

/-- A core is lost: everything it holds, its traffic refused DEST_LOST from now on; the course's repair record names the position
(R430). -/
def loseCore (cause : Byte) (n : Nat) (s : State) : State :=
  if (s.core n).lost.isSome ∨ ! s.exposed n then s
  else
    let c := courseOf n
    let ws := lostWords s n cause
    let s1 := s.setCore n { lost := some cause }
    let s2 := lostRecord n ws s1
    courseSync c <| s2.health { code := 2, record := ws.flatMap (fun w => leBytes 4 w.toNat)
                                region := if (s.course c).valid then some (s.course c).region else none }

/-- CORE_LOST (R426). -/
def execCoreLost (node : NodeNo) (cause : BitVec 8) (s : State) : Host.Outcome State Fault Refusal :=
  atCore node (loseCore cause node.val s)

/-- COPROC_HANG (R426, Table 16.4): a coprocessor's queue is not empty. -/
def coprocBusy (c : Core) : Bool :=
  ! (c.mat.pending.isEmpty && c.mat.seqOps.isEmpty && decide (c.mat.seq = none) && c.dma.queue.isEmpty && c.syn.queue.isEmpty)

def execCoprocHang (node : NodeNo) (s : State) : Host.Outcome State Fault Refusal :=
  atCore node <| if coprocBusy (s.core node.val) then loseCore 2 node.val s else s

end Sys2Proof.Machine
end

