-- ==== Sys2Proof/Machine/Links.lean ====
section
/-! DEFINITION. Mbotor links: states and events, flush, the rail table and lookup with hand-off, transactions, and what a steering
node does with packets and answers (R317 to R332). -/

namespace Sys2Proof.Machine

open Sys2Proof

/-! ## Entries of transaction tables -/

/-- The entry at a key. -/
def entryAt {α : Type} (m : Map α) (k : Nat) : Option α := (findWith (fun e => decide (e.1 = k)) m).map fun r => r.2.2

/-- The lowest TAG below 1,024 that is free. -/
def freeEntry (busy : Nat → Bool) : Option Nat := (List.range 1024).find? fun t => ! busy t

/-! ## States and events (Table 11.8, LINK_EVT) -/

def LinkState.code : LinkState → Nat
  | .off => 0
  | .train => 1
  | .up => 2
  | .hold => 3

/-- LINK_PEER and LINK_EPOCH (Table 11.12). -/
def Link.peerWord (k : Link) : Word := packWord [(bn k.peerValid, 31), (k.peerLink.toNat, 16), (k.peerModule.toNat, 0)]
def Link.epochWord (k : Link) : Word := packWord [(k.peerEpoch.toNat, 16), (k.ownEpoch.toNat, 0)]

/-- The course of a link's L node. -/
def linkCourse (l : Nat) : Nat := courseOf (linkNode l)

/-- The region that owns a link, if its course is VALID. -/
def State.linkRegion (s : State) (l : Nat) : Option (BitVec 5) :=
  if (s.course (linkCourse l)).valid then some (s.course (linkCourse l)).region else none

def modLnode (n : Nat) (f : LNode → LNode) (s : State) : State := s.setLnode n (f (s.lnode n))

/-- A change of state sets LINK_EVT, moves READY_LINK (R342) and raises HEALTH_EVENT LINK_STATE (R331). -/
def linkChanged (l : Nat) (s : State) : State :=
  let k := s.link l
  let s1 := modLnode (linkNode l) (fun x => { x with evt := setBit x.evt (l % 2) true }) s
  let rec_ := [BitVec.ofNat 8 l, BitVec.ofNat 8 k.state.code, k.cause.zeroExtend 8, 0] ++ leBytes 4 k.peerWord.toNat
    ++ leBytes 4 k.epochWord.toNat
  let s2 := s1.health { code := 3, record := rec_, region := s.linkRegion l }
  readyEvent s2 (modHost (fun h => { h with readyLink := setBit h.readyLink l (decide (k.state = .up)) }) s2)

def setLinkState (l : Nat) (st : LinkState) (s : State) : State :=
  if (s.link l).state = st then s else linkChanged l (s.modLink l fun k => { k with state := st })

/-! ## Flush (R331) -/

/-- The answer that ends a request which a flush lost: kind LINK_DOWN (Table 11.7). -/
def lostAnswer (n : Nat) (e : Txn) : Packet :=
  refusalOf n { h := { dnode := BitVec.ofNat 10 n, snode := e.snode, region := e.region.zeroExtend 6, kind := e.kind, tag := e.tag
                       addr := e.addr }, data := [] } refLinkDown

/-- What a flush leaves of a link: no frame, no transaction, sequence numbers and credits at their start, one epoch more. -/
def Link.flushed (k : Link) : Link :=
  { k with egress := [], replay := [], resend := [], charged := [], credSeen := [], freed := [], credDue := [], ackDue := false
           nakDue := false, nakSent := false, stale := 0, txAcked := 0xFFF, rxLast := 0xFFF, txNext := 0, etxn := [], ingress := []
           ownEpoch := k.ownEpoch + 1, admits := false }

/-- A flush, after which the link is in a state; every transaction of its egress table ends, later local answers are dropped, and
CTRL lookups are held. -/
def flushLink (l : Nat) (st : LinkState) (s : State) : State :=
  let n := linkNode l
  let lost := (s.link l).etxn.map fun e => lostAnswer n e.2
  let s1 := s.modLink l Link.flushed
  let s2 := modLnode n (fun x =>
    { x with itxn := x.itxn.map fun e => if e.2.link = l then (e.1, { e.2 with dead := true }) else e }) s1
  let s3 := { s2 with rail := { s2.rail with hold := true } }
  setLinkState l st (foldState (fun p s => s.send p) lost s3)

/-! ## Generations and lookup (R319 to R322) -/

/-- A generation older than RAIL_GEN.GEN (R322). -/
def State.older (s : State) (g : Byte) : Bool := decide ((g - s.rail.gen).toInt < 0)

/-- The links of an L node. -/
def linksOf (n : Nat) : List Nat :=
  match firstLink n with
  | some l => [l, l + 1]
  | none => []

/-- The generation of a hand-off's lookup in its 16-byte prefix: original SNODE in bytes 0-1, TAG in bytes 2-3, generation in byte 4,
link in byte 5 (R319; log 10). -/
def handoffGen (p : Packet) : Byte := p.data.getD 4 0

/-- Whether a packet at an L node is a hand-off: link-bound, from an L node. -/
def isHandoff (p : Packet) : Bool := decide (p.h.module ≠ 0xFFFF) && decide (nodeKind p.h.snode.toNat = .link)

/-- RAIL_GEN_DRAIN.DRAINED of an L node (R322). -/
def State.drained (s : State) (n : Nat) : Bool :=
  let oldPkt (q : LinkPkt) : Bool := match q.gen with | some g => s.older g | none => false
  let x := s.node n
  ((linksOf n).all fun l => (s.link l).egress.all (fun q => ! oldPkt q) && (s.link l).replay.all fun r => ! oldPkt r.2)
    && ((s.lnode n).handoffs.all fun h => ! s.older h.2.1)
    && ((x.rx ++ x.ctrl).all fun p => ! (isHandoff p && s.older (handoffGen p)))

/-- RAIL_GEN_DRAIN.ALL. -/
def State.allDrained (s : State) : Bool := (linkCourses.map auxNode).all s.drained

/-- The result of a lookup. -/
inductive Steer where
  | refuse (k : BitVec 3)
  | go (link : Nat) (flex : Bool) (gen : Byte)
  deriving DecidableEq, Repr

/-- The node of an address, or 0x3FF for a tier address (R320). -/
def addrNode (a : Addr) : Nat :=
  match placeOfAddr a with
  | .scratch n _ => n
  | .block n _ => n
  | _ => 0x3FF

/-- lookup of R320 at a steering node of region r. -/
def lookupLink (s : State) (r : BitVec 5) (p : Packet) : Steer :=
  let e := mapGet ({} : RailEntry) s.rail.table p.h.module.toNat
  let c := (List.range 40).filter fun l => bitOf e.rails l && decide (s.linkRegion l = some r) && (s.link l).admits
  if ! e.valid ∨ c = [] then .refuse refUnmapped
  else
    let flex := e.flex && decide (p.h.cls = clsBulk)
    let u := c.filter fun l => decide ((s.link l).state = .up)
    let c' := if flex ∧ u ≠ [] then u else c
    let l := c'.getD ((p.h.snode.toNat + addrNode p.h.addr) % c'.length) 0
    let st := (s.link l).state
    if ! flex ∧ (st = .off ∨ st = .train) then .refuse refLinkDown else .go l flex e.gen

/-! ## Queueing (R320, R324, R330) -/

/-- The egress queue of a link holds 256 KiB of frames. -/
def Link.egressRoom (k : Link) (q : LinkPkt) : Bool :=
  decide ((k.egress.map LinkPkt.frameBytes).foldl (· + ·) 0 + q.frameBytes ≤ 0x40000)

def isAnswerKind (k : BitVec 5) : Bool := decide (k = kData ∨ k = kRspErr ∨ k = kAck ∨ k = kNack)

/-- A packet with its original SNODE and TAG takes its place on a link of node n: a request takes an egress entry; a CANCEL carries the
entry of the rdb it cancels, and has none to carry once that has ended. None while the link has no room. -/
def queueOnLink (n l : Nat) (flex : Bool) (gen : Byte) (p : Packet) (s : State) : Option State :=
  let k := s.link l
  let sr := s.regionOf n
  let q (t : Nat) : LinkPkt :=
    { dmodule := p.h.module, dnode := BitVec.ofNat 10 (addrNode p.h.addr), snode := p.h.snode, tag := BitVec.ofNat 10 t, kind := p.h.kind
      cls := p.h.cls, addr := p.h.addr, region := p.h.region.truncate 5, sregion := sr, tail := p.h.tail, rflex := flex, gen := some gen
      data := p.data }
  if ! k.egressRoom (q 0) then none
  else if p.h.kind = kCancel then
    match findWith (fun e : Nat × Txn => decide (e.2.kind = kRdb ∧ e.2.snode = p.h.snode ∧ e.2.tag = p.h.tag)) k.etxn with
    | some (_, e) => some (s.modLink l fun k => { k with egress := k.egress ++ [q e.1] })
    | none => some s
  else
    match freeEntry fun t => (entryAt k.etxn t).isSome with
    | none => none
    | some t =>
      let e : Txn := { kind := p.h.kind, addr := p.h.addr, module := 0xFFFF, snode := p.h.snode, tag := p.h.tag, region := p.h.region.truncate 5, link := l
                       node := p.h.dnode, dead := false }
      some (s.modLink l fun k => { k with egress := k.egress ++ [q t], etxn := mapPut k.etxn t e })

/-- A packet goes over the mesh to the L node of its link (R319; log 10). -/
def handOff (n l : Nat) (flex : Bool) (gen : Byte) (p : Packet) (s : State) : Option State :=
  let hs := (s.lnode n).handoffs
  match freeEntry fun t => hs.any fun h => decide (h.1.toNat = t) with
  | none => none
  | some t =>
    let data := leBytes 2 p.h.snode.toNat ++ leBytes 2 p.h.tag.toNat ++ [gen, BitVec.ofNat 8 l] ++ List.replicate 10 0 ++ p.data
    let p' : Packet :=
      { h := { p.h with dnode := BitVec.ofNat 10 (linkNode l), snode := BitVec.ofNat 10 n, tag := BitVec.ofNat 10 t, rflex := flex, len := lenOf data.length }
        data := data }
    some ((modLnode n (fun x => { x with handoffs := x.handoffs ++ [(BitVec.ofNat 10 t, gen, p.h)] }) s).send p')

/-- A looked-up packet is queued on its link, or handed off. -/
def placePacket (n l : Nat) (flex : Bool) (gen : Byte) (p : Packet) (s : State) : Option State :=
  if linkNode l = n then queueOnLink n l flex gen p s else handOff n l flex gen p s

/-! ## The steering node (R319, R323) -/

/-- A refusal at the steering node; a CANCEL has no answer. -/
def refuseLookup (n : Nat) (p : Packet) (k : BitVec 3) (s : State) : State := if p.h.kind = kCancel then s else s.send (refusalOf n p k)

/-- The packet inside a hand-off. -/
def handedPacket (p : Packet) : Packet :=
  { h := { p.h with snode := leBits 10 (p.data.take 2), tag := leBits 10 ((p.data.drop 2).take 2), len := lenOf (p.data.length - 16) }
    data := p.data.drop 16 }

/-- Whether a source lies in the region of node n (R323). -/
def ownSource (s : State) (n : Nat) (p : Packet) : Bool :=
  let m := p.h.snode.toNat
  decide (m < 960) && (s.course (courseOf n)).valid && (s.course (courseOf m)).valid && decide (s.regionOf m = s.regionOf n)

/-- A link-bound packet at an L node: a hand-off is queued and acknowledged, any other is looked up. CTRL lookups wait while RAIL_GEN
holds them. None while it waits. -/
def steerPacket (n : Nat) (p : Packet) (s : State) : Option State :=
  if isHandoff p then
    let l := (p.data.getD 5 0).toNat
    if (linksOf n).contains l ∧ ownSource s n p then (queueOnLink n l p.h.rflex (handoffGen p) (handedPacket p) s).map (·.send (ackOf n p))
    else some ((refuseLookup n (handedPacket p) refUnmapped s).send (ackOf n p))
  else if ! ownSource s n p ∨ p.data.length > 2032 then some (refuseLookup n p refUnmapped s)
  else if p.h.cls = clsCtrl ∧ (s.rail.hold ∨ ! s.allDrained) then none
  else match lookupLink s (s.regionOf n) p with
    | .refuse k => some (refuseLookup n p k s)
    | .go l flex gen => placePacket n l flex gen p s

/-! ## Answers of this module (R324) -/

/-- The ingress entry that an answer at an L node ends: by TAG, address and answering node; a refusal DEST_LOST comes from the node of the
mesh at which the request was lost (R429). -/
def answeredEntry (s : State) (n : Nat) (p : Packet) : Option (Nat × Txn) :=
  let lost := decide (p.h.kind = kNack ∨ p.h.kind = kRspErr) && decide (p.data.head? = some (refDestLost.zeroExtend 8))
  (findWith (fun e : Nat × Txn => decide (e.1 % 1024 = p.h.tag.toNat ∧ e.2.addr = p.h.addr) && (lost || decide (e.2.node = p.h.snode)))
    (s.lnode n).itxn).map (·.2)

/-- The TAG under which a request of link l enters the mesh of node n towards node m: an entry of the link's table that no request of
the node's other link shares with the same answering node. -/
def ingressTag (x : LNode) (l : Nat) (m : BitVec 10) : Option Nat :=
  let other := (l + 1) % 2
  freeEntry fun t => (entryAt x.itxn (l % 2 * 1024 + t)).isSome
    || (match entryAt x.itxn (other * 1024 + t) with | some e => decide (e.node = m) | none => false)

/-- A refusal that goes back on the ingress link (R323). -/
def refuseIngress (l : Nat) (sm : BitVec 16) (q : LinkPkt) (k : BitVec 3) (s : State) : State :=
  if isAnswerKind q.kind ∨ q.kind = kCancel then s
  else
    let a : LinkPkt :=
      { dmodule := sm, dnode := q.snode, snode := BitVec.ofNat 10 (linkNode l), tag := q.tag, kind := kNack, cls := clsCtrl, addr := q.addr
        region := q.sregion, sregion := q.region, tail := false, rflex := false, gen := none, data := kindPayload k }
    s.modLink l fun x => { x with egress := x.egress ++ [a] }

/-- Units freed as a packet leaves the ingress buffer (R314). -/
def Link.free (k : Link) (q : LinkPkt) : Link :=
  let c := q.cls.toNat
  { k with freed := mapSet 0 k.freed c (mapGet 0 k.freed c + BitVec.ofNat 12 q.cost), credDue := mapSet false k.credDue c true }

/-- The packet that node n rebuilds from a frame (R308, R323): KIND, CLASS, REGION, ADDR, TAIL and data are the frame's. -/
def LinkPkt.toMesh (q : LinkPkt) (n m t : Nat) : Packet :=
  { h := { module := 0xFFFF, addr := q.addr, dnode := BitVec.ofNat 10 m, snode := BitVec.ofNat 10 n, region := q.region.zeroExtend 6
           cls := q.cls, kind := q.kind, len := lenOf q.data.length, tag := BitVec.ofNat 10 t, tail := q.tail, rflex := q.rflex }
    data := q.data }

/-- An answer from the peer ends its egress entry and goes to the requester. -/
def answerDown (n l : Nat) (q : LinkPkt) (s : State) : State :=
  match entryAt (s.link l).etxn q.tag.toNat with
  | none => s
  | some e => (s.modLink l fun k => { k with etxn := mapDel k.etxn q.tag.toNat }).send (q.toMesh n e.snode.toNat e.tag.toNat)

/-- A packet from a link enters the mesh: none while it waits for an ingress entry. -/
def deliverIngress (l : Nat) (sm : BitVec 16) (q : LinkPkt) (s : State) : Option State :=
  let n := linkNode l
  let out := q.toMesh n
  if isAnswerKind q.kind then some (answerDown n l q s)
  else if q.kind = kCancel then
    match findWith (fun e : Nat × Txn => decide (e.2.link = l ∧ e.2.module = sm ∧ e.2.snode = q.snode ∧ e.2.tag = q.tag ∧ e.2.kind = kRdb)) (s.lnode n).itxn with
    | some (_, e) => some (s.send (out e.2.node.toNat (e.1 % 1024)))
    | none => some s
  else
    let dst := if q.dnode = 0x3FF then s.serverOf q.region.toNat q.addr else some q.dnode.toNat
    match dst with
    | none => some (refuseIngress l sm q refUnmapped s)
    | some m =>
      match ingressTag (s.lnode n) l (BitVec.ofNat 10 m) with
      | none => none
      | some t =>
        let e : Txn := { kind := q.kind, addr := q.addr, module := sm, snode := q.snode, tag := q.tag, region := q.sregion, link := l, node := BitVec.ofNat 10 m, dead := false }
        some ((modLnode n (fun x => { x with itxn := mapPut x.itxn (l % 2 * 1024 + t) e }) s).send (out m t))

/-- The packets that a link has accepted enter the mesh in order; those that find no entry stay. -/
def drainIngress (l : Nat) (s : State) : State :=
  let waiting := (s.link l).ingress
  let s0 := s.modLink l fun k => { k with ingress := [] }
  foldState (fun (w : BitVec 16 × LinkPkt) s =>
    match deliverIngress l w.1 w.2 s with
    | some s' => s'.modLink l (·.free w.2)
    | none => s.modLink l fun k => { k with ingress := k.ingress ++ [w] }) waiting s0

/-- The hand-off of node n that an answer ends: the acknowledgement of its L node, or its loss in the mesh (R429). -/
def handedOff (s : State) (n : Nat) (p : Packet) : Option Header :=
  match (s.lnode n).handoffs.find? fun h => decide (h.1 = p.h.tag) with
  | some h =>
    if (p.h.kind = kAck ∧ nodeKind p.h.snode.toNat = .link) ∨ (p.h.kind ≠ kAck ∧ p.h.addr = h.2.2.addr ∧ (answeredEntry s n p).isNone)
    then some h.2.2 else none
  | none => none

/-- An answer of this module at an L node: the end of a hand-off, whose loss refuses the packet handed off, or the answer to a request of
a link, which returns on that link. None while the link's egress queue is full. -/
def answerUp (n : Nat) (p : Packet) (s : State) : Option State :=
  match handedOff s n p with
  | some h =>
    let s1 := modLnode n (fun x => { x with handoffs := x.handoffs.filter fun h => decide (h.1 ≠ p.h.tag) }) s
    some (if p.h.kind = kAck then s1 else refuseLookup n { h := h, data := [] } refDestLost s1)
  | none => match answeredEntry s n p with
    | none => some s
    | some (k, e) =>
      let q : LinkPkt :=
        { dmodule := e.module, dnode := e.snode, snode := p.h.snode, tag := e.tag, kind := p.h.kind, cls := p.h.cls, addr := p.h.addr
          region := e.region, sregion := s.regionOf n, tail := p.h.tail, rflex := false, gen := none, data := p.data }
      let s1 := modLnode n (fun x => { x with itxn := mapDel x.itxn k }) s
      if e.dead then some (drainIngress e.link s1)
      else if (s.link e.link).egressRoom q then some (drainIngress e.link (s1.modLink e.link fun k => { k with egress := k.egress ++ [q] }))
      else none

/-- Takes a packet and handles it, where both succeed. -/
def takeThen (t : Option (Packet × State)) (f : Packet → State → Option State) : Option State := t.bind fun r => f r.1 r.2

/-- LINK_LOOKUP: the first answer that waits at the node, else the first link-bound CTRL packet, else the first of the other classes; a
lookup that waits, as R322 makes CTRL lookups wait, holds back no hand-off. -/
def linkLookup (n : Nat) (s : State) : State :=
  let answer (p : Packet) : Bool := decide (p.h.module = 0xFFFF) && isAnswerKind p.h.kind
  let bound (p : Packet) : Bool := decide (p.h.module ≠ 0xFFFF)
  let a := (takeThen (takeCtrl n answer s) (answerUp n)).orElse fun _ => takeThen (takeRx n answer s) (answerUp n)
  let handed (p : Packet) : Bool := bound p && isHandoff p
  let first := [takeCtrl n bound s, takeCtrl n handed s, takeRx n bound s, takeRx n handed s]
  (a.orElse fun _ => first.findSome? fun t => takeThen t (steerPacket n)).getD s

def execLinkLookup (node : NodeNo) (s : State) : Host.Outcome State Fault Refusal := atLink node (linkLookup node.val s)

end Sys2Proof.Machine
end

