-- ==== Sys2Proof/Machine/LinkEvents.lean ====
section
/-! DEFINITION. The events of a link: sending by precedence (R312 to R315), receiving (R309 to R311), replay, hold, training (R327 to
R332), and writes of LINK_CTL, the rail table and RAIL_GEN (R322, R333). -/

namespace Sys2Proof.Machine

open Sys2Proof

/-! ## Sending (R310 to R315) -/

/-- The ingress buffer of a class, in units of 64 bytes (R314). -/
def classBuffer (c : Nat) : Nat := if c = 0 then 128 else if c = 3 then 2048 else 512

/-- The round robin's scale of a class: weights 2, 2 and 1 (R315). -/
def classScale (c : Nat) : Nat := if c = 3 then 2 else 1

/-- Units charged to a class that the peer has not freed. -/
def Link.outstanding (k : Link) (c : Nat) : Nat := (mapGet 0 k.charged c + 4096 - (mapGet 0 k.credSeen c).toNat) % 4096

/-- Whether credit and the replay buffer have room for a new frame (R312, R314). -/
def Link.sendRoom (k : Link) (q : LinkPkt) : Bool :=
  decide (k.outstanding q.cls.toNat + q.cost ≤ classBuffer q.cls.toNat) && decide (k.replay.length < 1024)
    && decide ((k.replay.map fun r => r.2.frameBytes).foldl (· + ·) 0 + q.frameBytes ≤ 131072)

/-- The first packet of a class in the egress queue that may be sent, with its place. -/
def Link.ready (k : Link) (c : Nat) : Option (Nat × LinkPkt) :=
  (findWith (fun q => decide (q.cls.toNat = c)) k.egress).filter fun r => k.sendRoom r.2

/-- CTRL frames take at most a quarter of the link's 100,000 bytes of any microsecond (R315). -/
def Link.ctrlRoom (k : Link) (mc : Nat) (q : LinkPkt) : Bool :=
  decide (((k.ctrlSent.filter fun e => decide (mc < e.1 + 1600)).map (·.2)).foldl (· + ·) 0 + q.frameBytes ≤ 25000)

/-- The class with a frame ready that has been served least, by bytes over weight; the lowest of equals. -/
def Link.fairClass (k : Link) : Option Nat :=
  ((List.range 4).filter fun c => decide (c ≠ 0) && (k.ready c).isSome).foldl
    (fun a c => match a with
      | none => some c
      | some b => if mapGet 0 k.served c < mapGet 0 k.served b then some c else some b) none

/-- The next new frame (R315). -/
def Link.nextNew (k : Link) (mc : Nat) : Option (Nat × LinkPkt) :=
  match (k.ready 0).filter fun r => k.ctrlRoom mc r.2 with
  | some r => some r
  | none => k.fairClass.bind k.ready

/-- A frame leaves with the acknowledgement and one class's credit count (R310, R314), and puts LINK_HOLD in force (R10, R335). -/
def sendFrame (l : Nat) (f : Frame) (s : State) : State :=
  let k := s.link l
  let c := k.ccNext.toNat
  let f' := { f with smodule := if f.ftype = 0 then s.module else 0, ack := k.rxLast, cclass := k.ccNext, credit := mapGet 0 k.freed c }
  let s1 := s.modLink l fun k => { k with ccNext := k.ccNext + 1, credDue := mapSet false k.credDue c false, ackDue := false, holdUsIn := k.holdUs }
  { s1 with outbox := s1.outbox ++ [.frame (Fin.ofNat 40 l) f'.bytes] }

def emptyFrame (ftype : BitVec 3) (nak : Bool) (payload : List Byte) : Frame :=
  { dmodule := 0, smodule := 0, dnode := 0, snode := 0, region := 0, cls := 0, seq := 0, ack := 0, ftype := ftype, nak := nak
    rflex := false, cclass := 0, credit := 0, tail := false, resent := false, payload := payload }

/-- The DATA frame of a packet (R308). -/
def dataFrame (seq : BitVec 12) (resent : Bool) (q : LinkPkt) : Frame :=
  { emptyFrame 0 false q.payload with
    dmodule := q.dmodule, dnode := q.dnode, snode := q.snode, region := q.region, cls := q.cls, seq := seq, rflex := q.rflex
    tail := q.tail, resent := resent }

/-- The round robin's account of a sent frame: classes that had nothing ready catch up. -/
def Link.account (k : Link) (mc : Nat) (q : LinkPkt) : Link :=
  let c := q.cls.toNat
  if c = 0 then { k with ctrlSent := (k.ctrlSent.filter fun e => decide (mc < e.1 + 1600)) ++ [(mc, q.frameBytes)] }
  else
    let base := mapGet 0 k.served c
    let caught := [1, 2, 3].foldl (fun m i => if mapGet 0 m i < base then mapSet 0 m i base else m) k.served
    { k with served := mapSet 0 caught c (base + q.frameBytes * classScale c) }

/-- FRAME_SEND (R315): a resent frame first, then a new one. A due replay request goes before any other frame. -/
def frameSend (l : Nat) (s : State) : State :=
  let k := s.link l
  if k.state ≠ .up ∨ k.nakDue then s
  else match k.resend with
    | (seq, q) :: rest => sendFrame l (dataFrame seq true q) (s.modLink l fun k => { k with resend := rest, replays := k.replays + 1 })
    | [] => match k.nextNew s.mc with
      | none => s
      | some (i, q) =>
        let c := q.cls.toNat
        let s1 := s.modLink l fun k =>
          { (k.account s.mc q) with egress := k.egress.eraseIdx i, replay := k.replay ++ [(k.txNext, q)], txNext := k.txNext + 1
                                    charged := mapSet 0 k.charged c ((mapGet 0 k.charged c + q.cost) % 4096) }
        sendFrame l (dataFrame k.txNext false q) s1

def execFrameSend (link : LinkNo) (s : State) : Host.Outcome State Fault Refusal := .next (frameSend link.val s)

/-- ACKONLY_SEND (R310, R311, R314): an acknowledgement, a replay request or a changed credit count is due. -/
def ackonlySend (l : Nat) (s : State) : State :=
  let k := s.link l
  if k.state = .up ∧ (k.ackDue ∨ k.nakDue ∨ k.credDue ≠ []) then
    sendFrame l (emptyFrame 1 k.nakDue []) (s.modLink l fun k => { k with nakDue := false })
  else s

def execAckonlySend (link : LinkNo) (s : State) : Host.Outcome State Fault Refusal := .next (ackonlySend link.val s)

/-- REPLAY_REQUEST_REPEAT (R311). -/
def execReplayRequestRepeat (link : LinkNo) (s : State) : Host.Outcome State Fault Refusal :=
  .next (if (s.link link.val).state = .up ∧ (s.link link.val).nakSent then s.modLink link.val fun k => { k with nakDue := true } else s)

/-! ## Going down (R328, R330) -/

/-- A flexible frame that was never sent is looked up again and moves to another UP link; none where it stays. -/
def resteer (l : Nat) (q : LinkPkt) (s : State) : Option State :=
  let n := linkNode l
  match entryAt (s.link l).etxn q.tag.toNat with
  | none => none
  | some e =>
    let p : Packet :=
      { h := { module := q.dmodule, addr := q.addr, dnode := e.node, snode := e.snode, region := q.region.zeroExtend 6, cls := q.cls, kind := q.kind
               len := lenOf q.data.length, tag := e.tag, tail := q.tail }
        data := q.data }
    match lookupLink s (s.regionOf n) p with
    | .refuse _ => none
    | .go l' flex gen =>
      if l' = l ∨ (s.link l').state ≠ .up then none
      else placePacket n l' flex gen p (s.modLink l fun k => { k with etxn := mapDel k.etxn q.tag.toNat })

/-- A link enters HOLD: flexible unsent frames move, the rest stay (R330). -/
def goHold (l : Nat) (cause : BitVec 3) (s : State) : State :=
  let queued := (s.link l).egress
  let s1 := setLinkState l .hold (s.modLink l fun k =>
    { k with cause := cause, downs := k.downs + 1, holdIn := min k.holdUsIn.toNat 64000, holdAt := s.mc, egress := [] })
  foldState (fun (q : LinkPkt) s =>
    let stay (s : State) : State := s.modLink l fun k => { k with egress := k.egress ++ [q] }
    if q.rflex then (resteer l q s).getD (stay s) else stay s) queued s1

/-- REPLAY_TIMEOUT (R313): the sender resends from its oldest frame; after eight such resends in a row without an advance the link goes
down. -/
def replayTimeout (l : Nat) (s : State) : State :=
  let k := s.link l
  if k.state ≠ .up ∨ k.replay = [] then s
  else if k.stale ≥ 8 then goHold l 2 s
  else s.modLink l fun k => { k with resend := k.replay, stale := k.stale + 1 }

def execReplayTimeout (link : LinkNo) (s : State) : Host.Outcome State Fault Refusal := .next (replayTimeout link.val s)

/-- LANE_LOSS (R305, R328). -/
def laneLoss (l : Nat) (lane : BitVec 2) (s : State) : State :=
  let k := s.link l
  if k.state = .off then s
  else
    let s1 := s.modLink l fun k => { k with lanes := setBit k.lanes lane.toNat false }
    if k.state = .up then goHold l 1 s1 else s1

def execLaneLoss (link : LinkNo) (lane : BitVec 2) (s : State) : Host.Outcome State Fault Refusal := .next (laneLoss link.val lane s)

/-- TRAIN_FRAME_SEND (R329): module and link, OWN_EPOCH, the last SEQ received in order. -/
def trainFrameSend (l : Nat) (s : State) : State :=
  let k := s.link l
  if (k.state = .train ∨ k.state = .hold) ∧ k.lanes = 0xF then
    let p := leBytes 4 (s.module.toNat + l * 65536) ++ leBytes 4 k.ownEpoch.toNat ++ leBytes 4 k.rxLast.toNat ++ leBytes 4 0
    sendFrame l (emptyFrame 2 false p) s
  else s

def execTrainFrameSend (link : LinkNo) (s : State) : Host.Outcome State Fault Refusal := .next (trainFrameSend link.val s)

/-- LINK_HOLD_EXPIRE (R331), once the hold time has passed. -/
def execLinkHoldExpire (link : LinkNo) (s : State) : Host.Outcome State Fault Refusal :=
  let k := s.link link.val
  .next (if k.state = .hold ∧ s.mc ≥ k.holdAt + k.holdIn * usMc then flushLink link.val .train s else s)

/-! ## Receiving (R309, R310, R331) -/

/-- An acknowledgement frees the frames up to it; what lies outside the frames outstanding frees nothing. -/
def Link.acked (k : Link) (a : BitVec 12) : Link :=
  let n := (a - k.txAcked).toNat
  if 0 < n ∧ n ≤ k.replay.length then
    { k with replay := k.replay.drop n, txAcked := a, stale := 0
             resend := k.resend.filter fun r => decide ((r.1 - a - 1).toNat < 2048) }
  else k

/-- ACK, NAK and credit of a frame that passed checks 1 to 3 (R309, R311). -/
def applyFields (f : Frame) (k : Link) : Link :=
  let k1 := k.acked f.ack
  { k1 with credSeen := mapSet 0 k1.credSeen f.cclass.toNat f.credit, resend := if f.nak then k1.replay else k1.resend }

/-- A discarded frame counts as an uncorrectable error of the link's instance (R424); a replay is requested unless a request already
stands (R311). -/
def discardFrame (l : Nat) (request : Bool) (s : State) : State :=
  (modInst 1 l (fun i => { i with uncorr := satAdd i.uncorr 1 }) s).modLink l fun k =>
    if request ∧ k.state = .up ∧ ! k.nakSent then { k with nakDue := true, nakSent := true } else k

/-- Steps 7 to 9 of Table 11.5 for an accepted frame. -/
def acceptFrame (l : Nat) (f : Frame) (s : State) : State :=
  let q := f.packet
  let freed (s : State) : State := s.modLink l (·.free q)
  if f.dmodule ≠ s.module then
    freed (refuseIngress l f.smodule q refUnmapped (s.modLink l fun k => { k with errMisroute := satAdd k.errMisroute 1 }))
  else if s.linkRegion l ≠ some f.region then
    freed (refuseIngress l f.smodule q refWindow (s.modLink l fun k => { k with errTenant := satAdd k.errTenant 1 }))
  else drainIngress l (s.modLink l fun k => { k with ingress := k.ingress ++ [(f.smodule, q)] })

/-- Steps 4 to 6 of Table 11.5. -/
def dataArrives (l : Nat) (f : Frame) (s : State) : State :=
  let back := ((s.link l).rxLast - f.seq).toNat
  if f.seq = (s.link l).rxLast + 1 then
    acceptFrame l f (s.modLink l fun k => { k with rxLast := f.seq, ackDue := true, nakSent := false })
  else if back < 1024 then discardFrame l false (s.modLink l fun k => { k with ackDue := true })
  else discardFrame l true s

/-- A TRAIN frame in TRAIN brings the link UP with SEQ 0 (R329). -/
def trainUp (l : Nat) (pm : BitVec 16) (pl : BitVec 6) (pe : BitVec 16) (s : State) : State :=
  setLinkState l .up <| s.modLink l fun k =>
    { k with peerValid := true, peerLink := pl, peerModule := pm, peerEpoch := pe, epochAtUp := k.ownEpoch, txNext := 0
             txAcked := 0xFFF, rxLast := 0xFFF, stale := 0, replay := [], resend := [], charged := [], credSeen := [], freed := [], credDue := []
             ackDue := false, nakDue := false, nakSent := false }

/-- A TRAIN frame in HOLD: within the hold, the link resumes without loss or flushes at once on a mismatch; a hold that has run out has
flushed the link at its end, and the frame brings it up from TRAIN (R331). -/
def trainResume (l : Nat) (pm : BitVec 16) (pl : BitVec 6) (pe : BitVec 16) (last : BitVec 12) (s : State) : State :=
  let k := s.link l
  let cause (c : BitVec 3) (s : State) : State := s.modLink l fun k => { k with cause := c }
  if s.mc ≥ k.holdAt + k.holdIn * usMc then trainUp l pm pl pe (flushLink l .train s)
  else if pm ≠ k.peerModule ∨ pl ≠ k.peerLink then flushLink l .train (cause 3 s)
  else if pe ≠ k.peerEpoch then flushLink l .train (cause 4 s)
  else if k.ownEpoch ≠ k.epochAtUp ∨ (last - k.txAcked).toNat > k.replay.length then flushLink l .train s
  else setLinkState l .up <| s.modLink l fun k =>
    let k1 := k.acked last
    { k1 with resend := k1.replay, stale := 0, nakDue := false, nakSent := false, ackDue := true }

/-- A TRAIN frame (R329, R331). -/
def trainArrives (l : Nat) (f : Frame) (s : State) : State :=
  let w0 := wordAt f.payload 0
  let pm : BitVec 16 := w0.truncate 16
  let pl : BitVec 6 := BitVec.ofNat 6 (fieldOf w0 21 16)
  let pe : BitVec 16 := (wordAt f.payload 1).truncate 16
  match (s.link l).state with
  | .train => trainUp l pm pl pe s
  | .hold => trainResume l pm pl pe ((wordAt f.payload 2).truncate 12) s
  | _ => s

/-- FRAME_RECEIVE (R309): the bytes of one frame, on a link whose lanes are aligned. -/
def frameReceive (l : Nat) (bs : List Byte) (s : State) : State :=
  let k := s.link l
  if k.state = .off ∨ k.lanes ≠ 0xF then s
  else match checkFrame (decide (k.state = .up)) bs with
    | .badLength => discardFrame l true (s.modLink l fun k => { k with errLength := satAdd k.errLength 1 })
    | .badCrc => discardFrame l true (s.modLink l fun k => { k with errCrc := satAdd k.errCrc 1 })
    | .good f =>
      let s1 := s.modLink l (applyFields f)
      if f.ftype = 2 then trainArrives l f s1 else if f.ftype = 0 ∧ k.state = .up then dataArrives l f s1 else s1

def execFrameReceive (link : LinkNo) (bytes : List Byte) (s : State) : Host.Outcome State Fault Refusal :=
  .next (frameReceive link.val bytes s)

/-! ## Register writes -/

/-- LINK_CTL.EN (R327, R329): 1 enables and trains, with a new epoch; 0 flushes at once, to OFF. No link is enabled before a master has
written MODULE_ID, nor while its PHY group is not powered (R368, R384). -/
def linkEnable (l : Nat) (en : Bool) (s : State) : State :=
  let k := s.link l
  if en = k.en then s
  else if en then
    if ! s.emu.moduleIdWritten ∨ (s.dom (46 + l / 4)).state.toNat > 1 then s
    else setLinkState l .train (s.modLink l fun k => { k with en := true, ownEpoch := k.ownEpoch + 1 })
  else flushLink l .off (s.modLink l fun k => { k with en := false, cause := 5, lanes := 0 })

def execLinkEnWrite (link : LinkNo) (en : Bool) (s : State) : Host.Outcome State Fault Refusal := .next (linkEnable link.val en s)

/-- LINK_CTL.RETRAIN (R332): an enabled link flushes and retrains. -/
def linkRetrain (l : Nat) (s : State) : State :=
  if (s.link l).en then flushLink l .train (s.modLink l fun k => { k with cause := 6, lanes := 0 }) else s

def execLinkRetrain (link : LinkNo) (s : State) : Host.Outcome State Fault Refusal := .next (linkRetrain link.val s)

/-- LINK_CTL written whole: ADMIT, which is PB3's to change, then EN, then RETRAIN. -/
def linkCtlWrite (l : Nat) (v : Word) (s : State) : State :=
  let putAdmit (s : State) : State :=
    if bitOf v 1 = (s.link l).admits then s else pbDoes 3 (.linkAdmit l (bitOf v 1)) (·.modLink l fun k => { k with admits := bitOf v 1 }) s
  let s1 := linkEnable l (bitOf v 0) (putAdmit s)
  if bitOf v 2 then linkRetrain l s1 else s1

/-- LINK_CTL, LINK_STAT and LINK_SEQ as read (Tables 11.11, 11.12). -/
def Link.ctlWord (k : Link) : Word := packWord [(bn k.admits, 1), (bn k.en, 0)]
def Link.statWord (k : Link) : Word := packWord [(k.downs.toNat, 24), (k.cause.toNat, 16), (k.lanes.toNat, 8), (k.state.code, 0)]
def Link.seqWord (k : Link) : Word := packWord [(k.txAcked.toNat, 16), (k.rxLast.toNat, 0)]
def Link.errWord (k : Link) : Word :=
  packWord [(k.errLength.toNat, 24), (k.errCrc.toNat, 16), (k.errTenant.toNat, 8), (k.errMisroute.toNat, 0)]

/-- The two words of the selected rail-table entry (Table 11.14). -/
def railLoWord (s : State) : Word := (mapGet ({} : RailEntry) s.rail.table s.rail.entry.toNat).rails.truncate 32
def railHiWord (s : State) : Word :=
  let e := mapGet ({} : RailEntry) s.rail.table s.rail.entry.toNat
  packWord [(bn e.valid, 31), (bn e.flex, 30), (e.gen.toNat, 8), (e.rails.toNat / 2 ^ 32, 0)]

/-- ENTRY moves on after each RAIL_HI access while AINC is set. -/
def railAdvance (s : State) : State := if s.rail.ainc then { s with rail := { s.rail with entry := s.rail.entry + 1 } } else s

/-- An entry of every copy of the rail table takes two words (R322). -/
def railPut (entry : BitVec 16) (lo hi : Word) (s : State) : State :=
  let e : RailEntry :=
    { valid := bitOf hi 31, flex := bitOf hi 30, gen := BitVec.ofNat 8 (fieldOf hi 15 8)
      rails := BitVec.ofNat 40 (fieldOf hi 7 0 * 2 ^ 32 + lo.toNat) }
  { s with rail := { s.rail with table := mapSet {} s.rail.table entry.toNat e } }

/-- RAIL_HI written with a RAIL_LO word: PB3 writes the selected entry (R322, R374). -/
def railEntryWrite (lo hi : Word) (s : State) : State :=
  railAdvance (pbDoes 3 (.railEntry s.rail.entry lo hi) (railPut s.rail.entry lo hi) s)

/-- The L node through which PB3 writes the rail table: its first (R322: every L node's block reaches every copy). -/
def firstLnode : Nat := auxNode 0

/-- RAIL_GEN written (R322). With HOLD, PB3 reads RAIL_GEN_DRAIN by an rdb that waits for ALL (step 3 of R322). -/
def railGenWrite (v : Word) (s : State) : State :=
  { s with rail := { s.rail with hold := bitOf v 31, gen := v.truncate 8 } }

/-- The address of RAIL_GEN_DRAIN at an L node. -/
def drainAddr (n : Nat) : Addr := blockAddr n + 0x50

/-- PB3's rdb on RAIL_GEN_DRAIN. -/
def drainRdb : Packet :=
  { h := { addr := drainAddr firstLnode, dnode := BitVec.ofNat 10 firstLnode, snode := BitVec.ofNat 10 pegboxNode, region := 0x3F, cls := clsReq
           kind := kRdb, len := 0, tag := 3 }
    data := [] }

/-- The same rdb within an admission, under a TAG of its own. -/
def admitRdb : Packet := { drainRdb with h := { drainRdb.h with tag := 4 } }

/-- Steps 1 and 3, or 4, of R322: PB3's write of RAIL_GEN, and with HOLD its rdb. -/
def railStep (value : Word) (s : State) : State :=
  if bitOf value 31 then (railGenWrite value s).send drainRdb else railGenWrite value s

/-- RAIL_GEN_WRITE (R322). -/
def execRailGenWrite (value : Word) (s : State) : Host.Outcome State Fault Refusal :=
  .next (pbDoes 3 (.railGen value true) (railStep value) s)

/-- The generation after the present one, as a RAIL_GEN word with HOLD or without. -/
def railGenWord (hold : Bool) (g : Byte) : Word := packWord [(bn hold, 31), (g.toNat, 0)]

/-- The entries whose rails an admission changes are of the present generation (step 2 of R322). -/
def freshEntries (ls : List Nat) (s : State) : State :=
  let f (e : RailEntry) : RailEntry := if e.valid && ls.any (bitOf e.rails ·) then { e with gen := s.rail.gen } else e
  { s with rail := { s.rail with table := s.rail.table.map fun e => (e.1, f e.2) } }

/-- PB3 admits links under the procedure of R322 (R368): a new generation with HOLD, ADMIT with the entries concerned, and the rdb whose
answer brings step 4. While the procedure runs, links join its step 2. -/
def admitLinks (ls : List Nat) (s : State) : State :=
  let putAdmit (s : State) : State := freshEntries ls (foldState (fun l s => s.modLink l fun k => { k with admits := true }) ls s)
  if ls = [] then s
  else if s.pb.admitting then putAdmit s
  else (modPb (fun b => { b with admitting := true }) (putAdmit (railGenWrite (railGenWord true (s.rail.gen + 1)) s))).send admitRdb

/-- Step 4 of R322: the lookups resume. -/
def admitEnds (s : State) : State :=
  if s.pb.admitting then
    modPb (fun b => { b with admitting := false }) (pbDoes 3 (.railGen (railGenWord false s.rail.gen) false) (railGenWrite (railGenWord false s.rail.gen)) s)
  else s

end Sys2Proof.Machine
end

