-- ==== Sys2Proof/Machine/MeshFail.lean ====
section
/-! DEFINITION. Resynchronisation of a mesh link and its failure (R296, R429). -/

namespace Sys2Proof.Machine

open Sys2Proof

def modRouter (n : Nat) (f : Router → Router) (s : State) : State := s.modNode n fun x => { x with router := f x.router }

/-- Whether the packet at the front of an input key needs output `port`: it is passing through it, or no other minimal port leads on
(R286, R289). -/
def needsPort (n port key : Nat) (r : Router) : Bool :=
  let set := mapGet 0 r.route key
  if set ≠ 0 then decide ((set - 1) / 8 = port)
  else match r.queue key with
    | [] => false
    | f :: _ => match f.head with
      | none => false
      | some h =>
        let d := h.dnode.toNat
        let ports := [xPort n d, yPort n d].filterMap id
        if d = n then false
        else if h.cls = clsCtrl ∨ h.esc then decide (xyPort n d = port)
        else decide (ports = [port])

/-- The header of the packet at the front of an input key. -/
def frontHeader (r : Router) (key : Nat) : Option Header :=
  match r.queue key with
  | [] => if mapGet 0 r.route key ≠ 0 then some (mapGet {} r.hdr key) else none
  | f :: _ => match f.head with
    | some h => some h
    | none => some (mapGet {} r.hdr key)

/-- Flits after the first that ends its packet. -/
def afterPacket : List Flit → List Flit
  | [] => []
  | f :: fs => if f.last then fs else afterPacket fs

/-- Whether a request's source hears of its loss; answers and cancels have no one to tell. -/
def tellsSource (h : Header) : Bool := ! (decide (h.kind = kCancel) || isAnswerKind h.kind)

/-- The packet at the front of an input key is discarded and its source receives DEST_LOST (R429). -/
def discardFront (n key : Nat) (s : State) : State :=
  let r := (s.node n).router
  let open_ := ! (r.queue key).any (·.last)
  let s1 := modRouter n (fun r =>
    let o := mapGet 0 r.route key
    { r with inq := mapSet [] r.inq key (afterPacket (r.queue key)), route := mapSet 0 r.route key 0, hdr := mapSet {} r.hdr key {}
             owner := if o = 0 then r.owner else mapSet 0 r.owner (o - 1) 0, drop := mapSet false r.drop key open_ }) s
  match frontHeader r key with
  | some h => if tellsSource h then s1.send (refusalOf n { h := h, data := [] } refDestLost) else s1
  | none => s1

/-- The packets that wait at node n for an output are discarded. -/
def discardWaiting (n port : Nat) (s : State) : State :=
  foldState (fun key s => if needsPort n port key (s.node n).router then discardFront n key s else s) (List.range 40) s

/-- Clears the READY bit of a service (R429): endpoint, root port, Pegbox; the security node has none. -/
def failService (n : Nat) (s : State) : State :=
  match placeOf (courseOf n) serviceCourses with
  | none => s
  | some i =>
    let f (h : HostIf) : HostIf :=
      { h with svcFailed := setBit h.svcFailed i true, readyEp := h.readyEp && decide (i ≠ 0), readyRp := h.readyRp && decide (i ≠ 1) }
    readyEvent s (modHost f s)

/-- An end of a failed mesh link, by its kind (R429). -/
def failEnd (n : Nat) (s : State) : State :=
  match nodeKind n with
  | .core => loseCore 3 n s
  | .hbm => failCtl n (courseOf n) s
  | .far => foldState (fun i s => failCtl n i s) (ctlsOf n) s
  | .service => failService n s
  | .link => foldState (fun l s =>
      if (s.link l).state = .off then s.modLink l fun k => { k with admits := false } else flushLink l .train s) (linksOf n) s

/-- A course is marked for withdrawal, in the repair record at once (R429, R430). -/
def markCourse (c : Nat) (s : State) : State :=
  let s1 := s.modCourse c fun x => { x with marked := true }
  { s1 with pb := { s1.pb with repair := mapSet {} s1.pb.repair c { (mapGet {} s1.pb.repair c) with withheld := true } } }

/-- The input link of node n from a direction has failed (R296, R429). -/
def failMeshLink (n port m : Nat) (s : State) : State :=
  let c := courseOf n
  let s1 := modRouter n (fun r => { r with rx := mapSet {} r.rx port { (mapGet ({} : LinkRx) r.rx port) with failed := true } }) s
  let s2 := s1.modCourse c fun x =>
    { x with failSeen := true, linkFail := mapSet 0 x.linkFail port (setBit (mapGet 0 x.linkFail port) (posOf n) true) }
  let s3 := failEnd m (failEnd n (discardWaiting m (oppositePort port) s2))
  markCourse (courseOf m) (markCourse c s3)

/-- MESH_LINK_RESYNC (R296): both ends resynchronise after 8 consecutive retries of a flit, or the link is marked failed. -/
def meshResync (n port : Nat) (ok : Bool) (s : State) : State :=
  match neighbour n port with
  | none => s
  | some m =>
    let rx := mapGet ({} : LinkRx) (s.node n).router.rx port
    if rx.failed ∨ rx.retries < 8 ∨ ! s.meshUp n then s
    else
      let s1 := s.modCourse (courseOf n) fun x => { x with resync := x.resync + 1 }
      if ok then
        let s2 := modRouter n (fun r => { r with rx := mapSet {} r.rx port { rx with retries := 0 } }) s1
        modRouter m (fun r =>
          let tx := mapGet ({} : LinkTx) r.tx (oppositePort port)
          { r with tx := mapSet {} r.tx (oppositePort port) { tx with wire := tx.buf } }) s2
      else failMeshLink n port m s1

def execMeshLinkResync (node : NodeNo) (port : Port) (ok : Bool) (s : State) : Host.Outcome State Fault Refusal :=
  .next (meshResync node.val (portIx port) ok s)

end Sys2Proof.Machine
end

