-- ==== Sys2Proof/Machine/Power.lean ====
section
/-! DEFINITION. Alerts (R343), analogue shells (R381, R382), power domains (R383 to R385), budget, caps, boost and lending (R386 to
R390), thermal limits (R391) and precedence (R392, R393). -/

namespace Sys2Proof.Machine

open Sys2Proof

/-! ## Alerts (R343) -/

/-- A cause sets, and sends PF vector 0 as it sets if enabled. -/
def setAlert (i : Nat) (s : State) : State :=
  if bitOf s.host.alertCause i then s
  else
    let s1 := modHost (fun h => { h with alertCause := setBit h.alertCause i true }) s
    if bitOf s.host.alertMsix i then { s1 with outbox := s1.outbox ++ [.msix 0 0] } else s1

/-- The level of ALERT_N: asserted while an enabled cause stands. -/
def State.alertN (s : State) : Bool := decide (s.host.alertCause &&& s.host.alertPin ≠ 0)

/-- ALERT_CAUSE_CLEAR: 1s clear causes (R343). -/
def execAlertCauseClear (value : Word) (s : State) : Host.Outcome State Fault Refusal :=
  .next (modHost (fun h => { h with alertCause := h.alertCause &&& ~~~(value.truncate 4) }) s)

/-! ## Shells (R381, R382, Tables 14.1, 14.2) -/

def shellKey (kind index : Nat) : Nat := kind * 256 + index

/-- The number of instances of a kind (Table 14.1). -/
def shellCount : Nat → Nat
  | 0 => 32
  | 1 => 1
  | 2 => 160
  | 3 => 8
  | 4 => 16
  | 5 => 40
  | _ => 0

/-- A shell at reset (Table 14.2). -/
def shellReset (k : Nat) : Shell :=
  let kind := k / 256
  let set : BitVec 16 := if kind = 5 then (if k % 256 < 32 then 95 else 85) else 0
  { en := decide (kind = 1 ∨ kind = 5), setpoint := set, prior := set }

def State.shell (s : State) (k : Nat) : Shell := mapGet (shellReset k) s.pwr.shells k
def modShell (k : Nat) (f : Shell → Shell) (s : State) : State :=
  modPwr (fun p => { p with shells := mapSet (shellReset k) p.shells k (f (mapGet (shellReset k) p.shells k)) }) s

/-- The selection of a user (R381), and its shell if it lies in Table 14.1. -/
def userIx : ShellUser → Nat
  | .pb n => n.val
  | .security => 4
def State.shellSel (s : State) (u : ShellUser) : Word := mapGet 0 s.pwr.sels (userIx u)
def State.selected (s : State) (u : ShellUser) : Option Nat :=
  let w := s.shellSel u
  let kind := fieldOf w 10 8
  let ix := fieldOf w 7 0
  if ix < shellCount kind then some (shellKey kind ix) else none

/-- SETPOINT as a kind takes it (Table 14.1). -/
def clampSet (kind : Nat) (v : BitVec 16) : BitVec 16 :=
  match kind with
  | 0 => BitVec.ofNat 16 (min 1000 (max 500 (v.toNat % 1024)))
  | 1 => v &&& 1
  | 2 => v &&& 0x3F
  | 5 => v &&& 0xFF
  | _ => 0

/-- SETPOINT in force (R10, R382). -/
def Shell.inForce (x : Shell) (mc : Nat) : BitVec 16 := if x.setAt ≤ mc then x.setpoint else x.prior

/-- A value d steps nearer its goal. -/
def slew (v goal d : Nat) : Nat := if v ≤ goal then min goal (v + d) else max goal (v - d)

/-- A regulator's output in 1/160 mV, which it slews by one in a mesh cycle, 10 mV in a µs: towards the prior SETPOINT, and from `setAt` on
towards the present one (R382). -/
def Shell.output (x : Shell) (mc : Nat) : Nat :=
  if ! x.en then x.value
  else if mc ≤ x.setAt then slew x.value (160 * x.prior.toNat) (mc - x.valueAt)
  else slew (slew x.value (160 * x.prior.toNat) (x.setAt - x.valueAt)) (160 * x.setpoint.toNat) (mc - max x.setAt x.valueAt)

/-- STAT.READY: enabled and settled. A block has settled once a control step has passed since EN or SETPOINT changed, nothing has unsettled it,
and a regulator's output is at its SETPOINT. -/
def Shell.ready (x : Shell) (kind mc : Nat) : Bool :=
  x.en && ! x.busy && ! x.lost && decide (x.setAt ≤ mc) && (decide (kind ≠ 0) || decide (x.output mc = 160 * x.setpoint.toNat))

/-- VALUE now: a regulator's output in mV, LOCKED of the PLL, what was last measured of the others (Table 14.1). -/
def Shell.now (x : Shell) (kind mc : Nat) : BitVec 16 :=
  match kind with
  | 0 => BitVec.ofNat 16 (x.output mc / 160)
  | 1 => BitVec.ofNat 16 (bn (x.ready 1 mc))
  | _ => BitVec.ofNat 16 x.value

/-- The shell as of a mesh cycle: the next step of its control loop, 40 ns or 64 mc, is the boundary of what is written now (R382). -/
def Shell.asOf (x : Shell) (kind mc : Nat) : Shell :=
  { x with value := if kind = 0 then x.output mc else x.value, valueAt := mc, prior := x.inForce mc, setAt := (mc / 64 + 1) * 64 }

/-- A SETPOINT write: read back at once, in force at the boundary. -/
def Shell.setTo (x : Shell) (kind mc : Nat) (v : BitVec 16) : Shell := { x.asOf kind mc with setpoint := v }

/-- SHELL_CTL.SETPOINT: the PLL's is locked by LOCK (R394). -/
def writeSetpoint (k : Nat) (v : BitVec 16) (reg : RegAddr) (who : Accessor) (s : State) : State :=
  let kind := k / 256
  let x := s.shell k
  let r := fieldWrite (x.lock && decide (kind = 1)) false x.setpoint (clampSet kind v)
  let s1 := modShell k (fun x => if r.1 = x.setpoint then { x with lockViol := x.lockViol || r.2.1 } else x.setTo kind s.mc r.1) s
  if r.2.1 then logLock reg who s1 else s1

def userAccessor : ShellUser → Accessor
  | .pb n => .pb n
  | .security => .security

/-- A register of the power manager page (Table 14.8). -/
def pwrReg (off : Nat) : RegAddr := .block (Fin.ofNat 960 pegboxNode) (BitVec.ofNat 20 (0x10000 + off))

def execShellSetpointWrite (who : ShellUser) (setpoint : BitVec 16) (s : State) : Host.Outcome State Fault Refusal :=
  .next (match s.selected who with
    | some k => writeSetpoint k setpoint (pwrReg 4) (userAccessor who) s
    | none => s)

/-- SHELL_CALIBRATE: SHELL_CAL.START of the selected shell (R382). -/
def execShellCalibrate (who : ShellUser) (s : State) : Host.Outcome State Fault Refusal :=
  .next (match s.selected who with
    | some k => modShell k (fun x => { x with busy := true }) s
    | none => s)

def shellOf (i : ShellId) : Option Nat :=
  if i.index.toNat < shellCount i.kind.toNat then some (shellKey i.kind.toNat i.index.toNat) else none

def execShellCalibrationDone (shell : ShellId) (result : Byte) (s : State) : Host.Outcome State Fault Refusal :=
  .next (match shellOf shell with
    | some k => if (s.shell k).busy then modShell k (fun x => { x with busy := false, result := result, lost := decide (result ≠ 0) }) s else s
    | none => s)

/-- VALUE of a lane or a PHY is its eye code of the last training, which only the hardware knows (Table 14.1; log 3). -/
def trained (k : Nat) (s : State) : State :=
  let d := s.drawBits 8
  modShell k (fun x => { x with value := d.1.toNat, lost := false }) d.2

/-- LANES_ALIGNED (R305, R329): the PHY trains in TRAIN and HOLD. -/
def lanesAligned (l : Nat) (s : State) : State :=
  let k := s.link l
  if k.state = .train ∨ k.state = .hold then
    foldState (fun n s => trained (shellKey 2 (4 * l + n)) s) (List.range 4) (s.modLink l fun k => { k with lanes := 0xF })
  else s

def execLanesAligned (link : LinkNo) (s : State) : Host.Outcome State Fault Refusal := .next (lanesAligned link.val s)

/-- What a fault of a shell takes with it (Table 14.1, R328, R426, R428). -/
def shellLoss (kind index : Nat) (s : State) : State :=
  match kind with
  | 0 => foldState (fun n s => loseCore 4 n s) (s.courseCores index) s
  | 2 => laneLoss (index / 4) (BitVec.ofNat 2 index) s
  | 3 => foldState (fun c s => failCtl (hbmNode c) c s) (stackCourses index) s
  | 4 => failCtl (auxNode (ctlCourse (32 + index))) (32 + index) s
  | _ => s

def execShellFault (shell : ShellId) (s : State) : Host.Outcome State Fault Refusal :=
  .next (match shellOf shell with
    | some k => shellLoss shell.kind.toNat shell.index.toNat (modShell k (fun x => { x with fault := true, lost := true }) s)
    | none => s)

/-! ## Power domains (R383 to R385, Tables 14.3, 14.4) -/

/-- The controllers behind a memory PHY domain. -/
def domCtls (d : Nat) : List Nat :=
  if 34 ≤ d ∧ d < 42 then stackCourses (d - 34)
  else if 42 ≤ d ∧ d < 46 then (List.range 4).map fun i => 32 + 4 * (d - 42) + i
  else []

/-- The links of a link PHY domain. -/
def domLinks (d : Nat) : List Nat := if 46 ≤ d ∧ d < 56 then (List.range 4).map fun i => 4 * (d - 46) + i else []

/-- Whether PDIS disables every port of the root port under MODE as of the last boot (Table 12.13). -/
def State.rpAllOff (s : State) : Bool :=
  let pdis := fieldOf s.pb.rpBoot 5 2
  match fieldOf s.pb.rpBoot 1 0 with
  | 0 => pdis.testBit 0
  | 1 => pdis.testBit 0 && pdis.testBit 1
  | _ => decide (pdis = 15)

/-- R384: whether PB1 refuses a target for a domain; a thermal trip holds until module reset. A target above OFF names no state
(log 34). -/
def targetRefused (s : State) (d t : Nat) : Bool :=
  decide (t > 4) || s.phys.thermtrip ||
    (decide (t > 1) &&
      (if d < 32 then (s.course d).valid
       else if d = 32 ∨ d = 33 ∨ d = 56 then true
       else if d < 46 then (domCtls d).any fun i => (s.course (ctlCourse i)).valid
       else if d < 56 then (domLinks d).any fun l => (s.link l).en
       else decide (t = 4) && ! s.rpAllOff))

/-- READY bits that go while a function is powered off (R342); a course in RETAIN or STANDBY keeps its bit (R385). -/
def readyOff (d : Nat) (h : HostIf) : HostIf :=
  if d < 32 then { h with readyCourse := setBit h.readyCourse d false }
  else if 34 ≤ d ∧ d < 42 then { h with readyHbm := setBit h.readyHbm (d - 34) false }
  else if 42 ≤ d ∧ d < 46 then (domCtls d).foldl (fun h i => { h with readyFar := setBit h.readyFar (i - 32) false }) h
  else if d = 57 then { h with readyRp := false }
  else h

/-- What a domain loses at OFF (Table 14.4): a course's cores, a die's routers with all packets in them (R26), a PHY's memory contents. -/
def domLoses (d : Nat) (s : State) : State :=
  let s1 := if d < 32 then foldState (fun p s => s.setCore (nodeOfPos d p) {}) corePositions s
    else if d < 34 then { s with nodes := s.nodes.filter fun e => decide (dieOf e.1 ≠ d - 32) }
    else s
  foldState (fun i s => s.modCtl i fun c => { c with mem := [], poison := [] }) (domCtls d) s1

/-- A domain goes down to a state of Table 14.4 at once. -/
def domainDown (d t : Nat) (s : State) : State :=
  let s1 := modDom d (fun x => { x with target := BitVec.ofNat 3 t, state := BitVec.ofNat 3 t }) s
  if t = 4 then readyEvent s1 (modHost (readyOff d) (domLoses d s1)) else s1

/-- A domain is ordered to a state: down at once; up once DOMAIN_STATE_REACHED follows (log 34), and not after a thermal trip (R384). -/
def orderDomain (d t : Nat) (s : State) : State :=
  if (s.dom d).state.toNat ≤ t then domainDown d t s
  else if s.phys.thermtrip then s
  else modDom d (fun x => { x with target := BitVec.ofNat 3 t }) s

/-- An order of PB1 (R383, R385), which waits while PB1 does not run (R374). -/
def pb1Orders (d t : Nat) (s : State) : State := pbDoes 1 (.order d t) (orderDomain d t) s

/-- DOM_STAT.TARGET of a domain takes a value (R384): a quiesce field while STATE differs from TARGET (R394). DESIGN CHOICE (log 43): Table 14.9
has no WR_BUSY bit, so such a write leaves no trace. -/
def takeTarget (d : Nat) (t : BitVec 3) (s : State) : State :=
  let x := s.dom d
  if t = x.target ∨ x.state ≠ x.target then s
  else if targetRefused s d t.toNat then modDom d (fun x => { x with refused := true }) s
  else orderDomain d t.toNat s

/-- PB1 writes DOM_STAT.TARGET of the selected domain (R383). -/
def writeTarget (t : BitVec 3) (s : State) : State :=
  let d := s.pwr.domSel.toNat
  if d ≥ 58 then s else pbDoes 1 (.target d t) (takeTarget d t) s

def execDomTargetWrite (target : BitVec 3) (s : State) : Host.Outcome State Fault Refusal := .next (writeTarget target s)

/-- Bring-up at the end of a return from OFF (R367, R385): READY sets, unless the function failed or is withheld. -/
def readyOn (d : Nat) (s : State) (h : HostIf) : HostIf :=
  let good (i : Nat) : Bool := ! (s.ctl i).failed
  if d < 32 then { h with readyCourse := setBit h.readyCourse d (! (s.course d).withheld) }
  else if 34 ≤ d ∧ d < 42 then { h with readyHbm := setBit h.readyHbm (d - 34) ((domCtls d).all good) }
  else if 42 ≤ d ∧ d < 46 then (domCtls d).foldl (fun h i => { h with readyFar := setBit h.readyFar (i - 32) (good i) }) h
  else if d = 57 then { h with readyRp := ! bitOf h.svcFailed 1 && s.pbRuns 2 }
  else h

/-- A course's cores after a return from STANDBY: SRAM contents kept, registers reset. -/
def coursesReset (d : Nat) (s : State) : State :=
  if d < 32 then foldState (fun p s => s.modCore (nodeOfPos d p) resetCore) corePositions s else s

/-- PB3 enables links whose PHY group is powered, once MODULE_ID is written, and admits them (R368); none that INST_REQ holds offline, and
none during a quiesce. -/
def enableLinks (ls : List Nat) (s : State) : State :=
  if s.pbRuns 3 ∧ s.phys.quiesce = none then
    let mine := ls.filter fun l => ! (s.link l).en && ! (mapGet ({} : Inst) s.emu.insts (instKey 1 l)).offline
    let s1 := foldState (fun l s => linkEnable l true s) mine s
    admitLinks (mine.filter fun l => (s1.link l).en) s1
  else s

/-- Whether every domain is in its ordered state. -/
def State.domsSettled (s : State) : Bool := (List.range 58).all fun d => decide ((s.dom d).state = (s.dom d).target)

/-- The shells that the training of a memory PHY domain measures. -/
def domPhys (d : Nat) : List Nat :=
  if 34 ≤ d ∧ d < 42 then [shellKey 3 (d - 34)] else if 42 ≤ d ∧ d < 46 then (List.range 4).map fun i => shellKey 4 (4 * (d - 42) + i) else []

/-- A domain is in the ordered state. A course's BIST needs its HBM stack (R367). A return to service is over once every domain is in its
state (R443). -/
def domainArrives (d : Nat) (s : State) : State :=
  let x := s.dom d
  if x.state = x.target ∨ (d < 32 ∧ x.state = 4 ∧ ! bitOf s.host.readyHbm (stackOf d)) then s
  else
    let s1 := modDom d (fun y => { y with state := y.target }) s
    let s2 := if x.state = 3 then coursesReset d s1 else s1
    let s3 := if x.state = 4 then foldState trained (domPhys d) (readyEvent s2 (modHost (readyOn d s2) s2)) else s2
    let s4 := if s3.domsSettled then { s3 with phys := { s3.phys with returning := false } } else s3
    enableLinks (domLinks d) s4

/-- DOMAIN_STATE_REACHED (R383): PB1 trains the memory PHYs and runs BIST on the courses that return from OFF (R367), which waits while it
restarts (R374). -/
def domainReached (d : Nat) (s : State) : State :=
  if (s.dom d).state = 4 ∧ d < 46 ∧ (s.dom d).target ≠ 4 then pbDoes 1 (.reached d) (domainArrives d) s else domainArrives d s

def execDomainStateReached (domain : DomainNo) (s : State) : Host.Outcome State Fault Refusal := .next (domainReached domain.val s)

/-- Whether nothing waits at a node, in its router or on its links. -/
def NodeIO.quiet (x : NodeIO) : Bool :=
  x.out.isEmpty && x.inj.isEmpty && x.asm.isEmpty && x.router.inq.isEmpty && x.router.tx.all fun e => e.2.buf.isEmpty

/-- Whether a domain has no work (log 34). -/
def State.workless (s : State) (d : Nat) : Bool :=
  if d < 32 then (s.courseCores d).all fun n => (s.core n).gated
  else if d < 34 then s.nodes.all fun e => decide (dieOf e.1 ≠ d - 32) || e.2.quiet
  else if d < 46 then (domCtls d).all fun i => (s.ctl i).queue.isEmpty
  else if d < 56 then (domLinks d).all fun l => decide ((s.link l).state = .off)
  else if d = 56 then s.pb.journal.isEmpty && s.host.qps.all fun e => ! e.2.en || decide (e.2.sqHead = e.2.sqTail)
  else s.pb.journal.all fun e => decide (e.msg.getD 1 0 ≠ 9 ∧ e.msg.getD 1 0 ≠ 10) || e.result.isSome

/-- STATE as read: IDLE is entered and left by hardware whenever the domain has no work (R383), from the first mesh cycle after reset, at which
it still is as TARGET (Table 14.9). -/
def State.domState (s : State) (d : Nat) : Nat :=
  let x := (s.dom d).state.toNat
  if x ≤ 1 ∧ s.mc > 0 then (if s.workless d then 1 else 0) else x

/-! ## Caps (R386) -/

def variantLimit (s : State) : Nat := if s.pwr.variantB then 1600 else 2000

def masterIx : Master → Nat
  | .fn f => f.val
  | .bmc => 33

def State.master (s : State) (m : Nat) : EmuMaster := mapGet {} s.emu.masters m
def modMaster (m : Nat) (f : EmuMaster → EmuMaster) (s : State) : State :=
  modEmu (fun e => { e with masters := mapSet {} e.masters m (f (mapGet {} e.masters m)) }) s

/-- C and the source that set it: 0 variant, 1 PB0, 2 BMC, 3 PF. -/
def State.effCap (s : State) : Nat × Nat :=
  [(s.pwr.capPb0.toNat, 1), ((s.master 33).cap.toNat, 2), ((s.master 0).cap.toNat, 3)].foldl
    (fun a c => if c.1 ≠ 0 ∧ c.1 < a.1 then c else a) (variantLimit s, 0)

/-! ## Dividers, boost and lending (R378, R387 to R390, Table 14.5) -/

def divBudget (d : Nat) : Nat :=
  match d with
  | 3 => 58
  | 4 => 35
  | 5 => 24
  | 6 => 18
  | _ => 5

/-- Whether hardware holds a course at /8 for its temperature (Table 14.7). -/
def State.hardHot (s : State) (c : Nat) : Bool := mapGet false s.pwr.hot (64 + c)

/-- What heat makes the controllers of an HBM stack do: refresh at twice the rate, and take requests at half the rate (Table 14.7, R420). -/
def State.refreshDoubled (s : State) (stack : Nat) : Bool := mapGet false s.pwr.hot (32 + stack)
def State.rateHalved (s : State) (stack : Nat) : Bool := s.hardHot (32 + stack)

/-- The divider that a course follows: /8 while lent or over its hardware limit, /3 while boosted, else /4 and the steps it is throttled
by. -/
def State.divOf (s : State) (c : Nat) : Nat :=
  let x := s.course c
  if s.hardHot c ∨ x.wstate = .lent ∨ x.wstate = .reclaim then 8
  else if s.pwr.boosted.any fun b => decide (b.val = c) then 3
  else 4 + min x.throttled 2

def syncDiv (c : Nat) (s : State) : State := s.modCourse c fun x => { x with div := s.divOf c }

/-- A course loses its boost, whose 23 W return to the pool. -/
def revokeBoost (c : Nat) (s : State) : State :=
  if s.pwr.boosted.any fun b => decide (b.val = c) then
    syncDiv c (modPwr (fun p => { p with boosted := p.boosted.filter (fun b => decide (b.val ≠ c)), pool := p.pool + 23 }) s)
  else s

/-- The newest boosts are revoked until enough is freed or none is left: what remains to free. -/
def revokeNewest : Nat → Nat → State → Nat × State
  | 0, need, s => (need, s)
  | fuel + 1, need, s =>
    if need = 0 then (0, s)
    else match s.pwr.boosted.getLast? with
      | none => (need, s)
      | some c => revokeNewest fuel (need - 23) (revokeBoost c.val s)

/-- Steps a course down by one divider, no lower than /6. -/
def throttle (c : Nat) (s : State) : State := syncDiv c (s.modCourse c fun x => { x with throttled := min 2 (x.throttled + 1) })

/-- AWAKE courses step down one divider each, in descending number, until the excess is covered (R387; log 35). -/
def throttleDown : List Nat → Nat → State → State
  | [], _, s => s
  | c :: cs, need, s =>
    if need = 0 then s
    else
      let x := s.course c
      if x.wstate = .awake ∧ x.throttled < 2 then
        throttleDown cs (need - (divBudget (4 + x.throttled) - divBudget (5 + x.throttled))) (throttle c s)
      else throttleDown cs need s

/-- Throttled courses that are not over their alarm threshold (Table 14.7) step up one divider, in ascending number. -/
def restoreUp (s : State) : State :=
  foldState (fun c s => if (s.course c).throttled > 0 ∧ ! mapGet false s.pwr.hot c then syncDiv c (s.modCourse c fun x => { x with throttled := x.throttled - 1 }) else s)
    (List.range 32) s

/-- Whether a course may be boosted now (R388). -/
def boostable (s : State) (c : Nat) : Bool :=
  let x := s.course c
  decide (x.wstate = .awake ∧ s.divOf c = 4) && bitOf s.pwr.boostEn c && decide (s.pwr.pool ≥ 23) && ! mapGet false s.pwr.hot c

/-- Grants of one tick, from the course after the last one granted, while P and 23 W per grant stay within C (R388). -/
def grantBoosts (p cap : Nat) (s : State) : State :=
  let order := (List.range 32).map fun i => (s.pwr.lastGrant + 1 + i) % 32
  (order.foldl (fun (r : Nat × State) c =>
    if boostable r.2 c ∧ p + 23 * (r.1 + 1) ≤ cap then
      (r.1 + 1, syncDiv c (modPwr (fun w => { w with pool := w.pool - 23, boosted := w.boosted ++ [Fin.ofNat 32 c], lastGrant := c }) r.2))
    else r) (0, s)).2

/-- Courses over their alarm threshold lose their boost and step down one divider a tick (Table 14.7). -/
def coolCourses (s : State) : State :=
  foldState (fun c s => if mapGet false s.pwr.hot c then throttle c (revokeBoost c s) else s) (List.range 32) s

/-- The power part of POWER_TICK at input power P. -/
def powerBudget (p : Nat) (s : State) : State :=
  let cap := s.effCap.1
  let s1 := coolCourses s
  if p > cap then
    let r := revokeNewest 32 (p - cap) s1
    throttleDown (List.range 32).reverse r.1 r.2
  else
    let s2 := if 100 * p < 95 * cap then restoreUp s1 else s1
    if s.pwr.variantB then s2 else grantBoosts p cap s2

/-- DWELL_EXPIRE (R276, R388): after DWELL µs, 0 acting as 1, the course lends its budget. -/
def dwellExpire (c : Nat) (s : State) : State :=
  let x := s.course c
  if x.lend ∧ x.wstate = .dwell ∧ s.mc ≥ x.dwellAt + max 1 x.dwell.toNat * usMc then
    let credit := divBudget (s.divOf c) - 5
    let s1 := s.modCourse c fun x => { x with wstate := .lent, lends := x.lends + 1, credited := credit }
    syncDiv c (modPwr (fun p => { p with pool := p.pool + credit, boosted := p.boosted.filter fun b => decide (b.val ≠ c) }) s1)
  else s

def execDwellExpire (course : CourseNo) (s : State) : Host.Outcome State Fault Refusal := .next (dwellExpire course.val s)

/-- A course takes back what it credited; boosts are revoked, newest first, where the pool is short (R389). -/
def takeBack (c : Nat) (s : State) : State :=
  let need := (s.course c).credited
  let s1 := (revokeNewest 32 (need - s.pwr.pool) s).2
  (modPwr (fun p => { p with pool := p.pool - need }) s1).modCourse c fun x => { x with credited := 0 }

/-- RECLAIM_GRANT (R277, R389): PB1 grants, so not while it restarts (R374). A course whose cores have all gated again goes on to DWELL. -/
def reclaimGrant (c : Nat) (s : State) : State :=
  if (s.course c).wstate = .reclaim ∧ s.pbRuns 1 then
    courseSync c (syncDiv c ((takeBack c s).modCourse c fun x => { x with wstate := .awake }))
  else s

def execReclaimGrant (course : CourseNo) (s : State) : Host.Outcome State Fault Refusal := .next (reclaimGrant course.val s)

/-- FASTCAP (R390): hardware steps every course at /3 to /4 and every course at /4 or /5 one divider down. -/
def fastcap (s : State) : State :=
  let step (c : Nat) (s : State) : State :=
    match s.divOf c with
    | 3 => revokeBoost c s
    | 4 => throttle c s
    | 5 => throttle c s
    | _ => s
  modPwr (fun p => { p with fastcap := true }) (foldState step (List.range 32) s)

def execFastcap (s : State) : Host.Outcome State Fault Refusal := .next (fastcap s)

/-! ## Thermal limits (R391) -/

/-- The threshold in force of a sensor's limit, in °C (Table 14.7). -/
def thermLimit (s : State) (n : Nat) (l : ThermLevel) : Nat :=
  match l with
  | .setpoint => ((s.shell (shellKey 5 n)).inForce s.mc).toNat
  | .hard => if n < 32 then 105 else 95

/-- VALUE of a sensor, with what shows it: INST_TEMP and TEMP_MAX (Table 12.5). -/
def sensorReads (n : Nat) (v : BitVec 16) (s : State) : State :=
  let deg (w : BitVec 16) : Nat := (max 0 (w.toInt / 4)).toNat
  let s1 := modShell (shellKey 5 n) (fun x => { x with value := v.toNat }) s
  let s2 := if n < 32 then modInst 0 n (fun i => { i with temp := BitVec.ofNat 8 (deg v) }) s1
    else modInst 2 (n - 32) (fun i => { i with temp := BitVec.ofNat 8 (deg v) }) s1
  let top := (List.range 40).foldl (fun a i => max a (deg (BitVec.ofNat 16 (s2.shell (shellKey 5 i)).value))) 0
  modEmu (fun e => { e with tempMax := BitVec.ofNat 8 top }) s2

/-- HEALTH_EVENT THERMAL and its alert (Table 16.3). -/
def thermEvent (n : Nat) (v : BitVec 16) (code : Nat) (s : State) : State :=
  setAlert 0 <| s.health { code := 5, record := [5, BitVec.ofNat 8 n] ++ leBytes 2 v.toNat ++ [BitVec.ofNat 8 code]
                           region := if n < 32 ∧ (s.course n).valid then some (s.course n).region else none }

/-- THERMAL_CROSSING (Table 14.7): a threshold is reached, or released 5 °C below the value that set it (R391). -/
def thermalCrossing (n : Nat) (l : ThermLevel) (up : Bool) (v : BitVec 16) (s : State) : State :=
  let s1 := sensorReads n v s
  let lim := (thermLimit s n l : Int) * 4
  let key := if l = .hard then 64 + n else n
  let over_ := mapGet false s.pwr.hot key
  let set (b : Bool) (s : State) : State :=
    let s' := modPwr (fun p => { p with hot := mapSet false p.hot key b, hotAt := mapSet 0 p.hotAt key (if b then thermLimit s n l else 0) }) s
    if n < 32 then syncDiv n s' else s'
  if up ∧ ! over_ ∧ v.toInt ≥ lim then
    let s2 := set true s1
    let s3 := if l = .hard then modPwr (fun p => { p with hwtherm := true }) s2 else s2
    thermEvent n v (if n < 32 ∧ l = .setpoint then 0 else 1) s3
  else if ! up ∧ over_ ∧ v.toInt ≤ ((mapGet 0 s.pwr.hotAt key : Nat) : Int) * 4 - 20 then thermEvent n v 3 (set false s1)
  else s1

def execThermalCrossing (sensor : SensorNo) (level : ThermLevel) (up : Bool) (value : BitVec 16) (s : State) :
    Host.Outcome State Fault Refusal :=
  .next (thermalCrossing sensor.val level up value s)

/-- Every region is lost without scrub: its courses have no owner, its programs are gone. -/
def loseRegions (s : State) : State :=
  let s1 := foldState (fun c s => s.modCourse c fun x => { resetCourse x with valid := false }) (List.range 32) s
  { s1 with pb := { s1.pb with programs := [] } }

/-- A link loses its supply. -/
def dropLink (l : Nat) (s : State) : State :=
  if (s.link l).en then linkEnable l false s else s

/-- THERMAL_TRIP (R391, R438, R444): every switched domain is off, regions are lost, READY words clear; a quiesce ends. -/
def thermalTrip (n : Nat) (v : BitVec 16) (s : State) : State :=
  let s1 := sensorReads n v s
  if v.toInt < 460 then s1
  else
    let s2 := foldState dropLink (List.range 40) (loseRegions s1)
    let s3 := foldState (fun d s => domLoses d (modDom d (fun x => { x with target := 4, state := 4 }) s)) (List.range 58) s2
    let s4 := modHost (fun h => { h with readyCourse := 0, readyLink := 0, readyFar := 0, readyHbm := 0, readyBridge := false, readyMesh := 0
                                         readyRp := false, readyEp := false }) s3
    let s5 := modPwr (fun p => { p with trip := true, boosted := [], pool := 0 }) s4
    let q : Option Quiesce := s.phys.quiesce.map fun q => { q with graceOver := true, safe := true }
    thermEvent n v 2 (readyEvent s { s5 with phys := { s5.phys with thermtrip := true, quiesce := q, returning := false } })

def execThermalTrip (sensor : SensorNo) (value : BitVec 16) (s : State) : Host.Outcome State Fault Refusal :=
  .next (thermalTrip sensor.val value s)

end Sys2Proof.Machine
end

