-- ==== Sys2Proof/Machine/Mailbox.lean ====
section
/-! DEFINITION. Queue pairs, doorbells, messages and completions (R346 to R356), health events to the host (R354), Function Level Reset
of the mailbox (R338). -/

namespace Sys2Proof.Machine

open Sys2Proof

/-! ## Status codes (Table 12.11) -/

def stOk : Nat := 0x0000
def stDegraded : Nat := 0x0001
def stBadLength : Nat := 0x0010
def stBadVersion : Nat := 0x0011
def stBadOpcode : Nat := 0x0012
def stBadRegion : Nat := 0x0013
def stNotPermitted : Nat := 0x0014
def stBadArgument : Nat := 0x0015
def stFailResources : Nat := 0x0020
def stBusy : Nat := 0x0021
def stConflict : Nat := 0x0022
def stNotReady : Nat := 0x0023
def stDeviceError : Nat := 0x0030
def stDestLost : Nat := 0x0031

/-! ## Queue pairs (R346, R347, Table 12.7) -/

def qpKey (fn q : Nat) : Nat := fn * 64 + q
/-- The PF has 64 queue pairs and vectors, each VF 4 (R336, R339, R340). -/
def fnUnits (fn : Nat) : Nat := if fn = 0 then 64 else 4

def State.qp (s : State) (fn q : Nat) : Qp := mapGet {} s.host.qps (qpKey fn q)
def modQp (fn q : Nat) (f : Qp → Qp) (s : State) : State :=
  modHost (fun h => { h with qps := mapSet {} h.qps (qpKey fn q) (f (mapGet {} h.qps (qpKey fn q))) }) s

def State.hostErr (s : State) (fn : Nat) : HostErr := mapGet {} s.host.errs fn
def modHostErr (fn : Nat) (f : HostErr → HostErr) (s : State) : State :=
  modHost (fun h => { h with errs := mapSet {} h.errs fn (f (mapGet {} h.errs fn)) }) s

def Qp.sqSize (x : Qp) : Nat := 2 ^ x.sqLog.toNat
def Qp.cqSize (x : Qp) : Nat := 2 ^ x.cqLog.toNat

/-- Completion slots neither in use nor reserved. -/
def Qp.room (x : Qp) : Nat := x.cqSize - x.used - x.reserved

/-- SQ_TAIL (R347): a value at or above the ring size is ignored. -/
def sqDoorbell (fn q : Nat) (v : Word) (s : State) : State :=
  if q ≥ fnUnits fn then s
  else if (v.toNat % 4096) ≥ (s.qp fn q).sqSize then modHostErr fn (fun e => { e with dbBad := true }) s
  else modQp fn q (fun x => { x with sqTail := v.truncate 12 }) s

def execSqDoorbell (fn : FnNo) (q : BitVec 6) (value : Word) (s : State) : Host.Outcome State Fault Refusal :=
  .next (sqDoorbell fn.val q.toNat value s)

/-- CQ_HEAD (R347): frees the slots before it and re-arms the vector (R353). A head that stays where it was frees a full ring. -/
def Qp.headTo (x : Qp) (v : BitVec 12) : Qp :=
  let d := (v.toNat + x.cqSize - x.cqHead.toNat % x.cqSize) % x.cqSize
  let d' := if d = 0 ∧ x.used = x.cqSize then x.cqSize else d
  { x with cqHead := v, used := x.used - min d' x.used, armed := true }

def cqDoorbell (fn q : Nat) (v : Word) (s : State) : State :=
  if q ≥ fnUnits fn then s
  else if (v.toNat % 4096) ≥ (s.qp fn q).cqSize then modHostErr fn (fun e => { e with dbBad := true }) s
  else modQp fn q (·.headTo (v.truncate 12)) s

def execCqDoorbell (fn : FnNo) (q : BitVec 6) (value : Word) (s : State) : Host.Outcome State Fault Refusal :=
  .next (cqDoorbell fn.val q.toNat value s)

/-- A write of QP_CFG: SQ_LOG, CQ_LOG and VECTOR are quiesce fields while EN = 1. -/
def Qp.takeCfg (x : Qp) (v : Word) : Qp :=
  let a := fieldWrite false x.en x.sqLog (BitVec.ofNat 4 (fieldOf v 19 16))
  let b := fieldWrite false x.en x.cqLog (BitVec.ofNat 4 (fieldOf v 11 8))
  let c := fieldWrite false x.en x.vector (v.truncate 6)
  { x with sqLog := a.1, cqLog := b.1, vector := c.1, ie := bitOf v 6, wrBusy := x.wrBusy || a.2.2 || b.2.2 || c.2.2 }

/-- Whether a queue pair's configuration may be enabled (R346). -/
def Qp.cfgGood (x : Qp) (vectors : Nat) : Bool :=
  decide (7 ≤ x.sqLog.toNat ∧ x.sqLog.toNat ≤ 12 ∧ 7 ≤ x.cqLog.toNat ∧ x.cqLog.toNat ≤ 12 ∧ x.vector.toNat < vectors)

/-- An enabled pair's rings start at slot 0 with PHASE 1 (R353; log 28). -/
def Qp.enable (x : Qp) : Qp := { x with en := true, sqHead := 0, cqTail := 0, used := 0, reserved := 0, phase := true, armed := true }

/-- The completions of a queue pair's started messages are discarded (R338; log 28). -/
def discardMsgs (p : JEntry → Bool) (s : State) : State :=
  modPb (fun b => { b with journal := b.journal.map fun e => if p e then { e with discarded := true } else e }) s

/-- QP_CFG written (R346). -/
def qpConfig (fn q : Nat) (v : Word) (s : State) : State :=
  if q ≥ fnUnits fn then s
  else
    let x := s.qp fn q
    let x1 := x.takeCfg v
    if bitOf v 31 then
      if x.en then modQp fn q (fun _ => x1) s
      else if x1.cfgGood (fnUnits fn) then modQp fn q (fun _ => x1.enable) s
      else modQp fn q (fun _ => { x1 with cfgErr := true }) s
    else
      let s1 := modQp fn q (fun _ => { x1 with en := false }) s
      if x.en then discardMsgs (fun e => decide (e.fn.val = fn ∧ e.qp.toNat = q)) s1 else s1

def execQpEnable (fn : FnNo) (q : BitVec 6) (value : Word) (s : State) : Host.Outcome State Fault Refusal :=
  .next (qpConfig fn.val q.toNat value s)

/-! ## The aperture's base (R341) -/

/-- APERTURE_BASE of a function: a VF's region is its own. -/
def State.aperture (s : State) (fn : Nat) : Aperture := mapGet {} s.host.apertures fn
def apRegion (s : State) (fn : Nat) : Nat := if fn = 0 then (s.aperture 0).region.toNat else fn - 1

/-! ## Messages (R348 to R352) -/

def State.hostBytes (s : State) (a n : Nat) : List Byte := readBytes s.host.hostMem a n
def State.writeHost (s : State) (a : Nat) (bs : List Byte) : State := modHost (fun h => { h with hostMem := writeBytes h.hostMem a bs }) s

/-- Fields of a header (Table 12.8). -/
def msgVersion (m : List Byte) : Nat := (m.getD 0 0).toNat
def msgOpcode (m : List Byte) : Nat := (m.getD 1 0).toNat
def msgLength (m : List Byte) : Nat := leNat ((m.drop 2).take 2)
def msgRegion (m : List Byte) : Nat := leNat ((m.drop 8).take 2)
def msgFlags (m : List Byte) : Nat := leNat ((m.drop 10).take 2)
/-- A little-endian field of n bytes. -/
def msgField (m : List Byte) (off n : Nat) : Nat := leNat ((m.drop off).take n)

/-- Ring bases are 4 KiB-aligned (R346). -/
def ringBase (b : DWord) : Nat := b.toNat / 4096 * 4096

/-- The bytes of n slots of a submission ring from a slot. -/
def State.slotBytes (s : State) (x : Qp) (first n : Nat) : List Byte :=
  (List.range n).flatMap fun i => s.hostBytes (ringBase x.sqBase + 64 * ((first + i) % x.sqSize)) 64

/-- R350. -/
def lengthGood (n : Nat) : Bool := decide (64 ≤ n ∧ n ≤ 4096 ∧ n % 16 = 0)

/-- The opcodes of Table 12.9 that a host may send, and those for the PF alone. -/
def opKnown (o : Nat) : Bool := decide (1 ≤ o ∧ o ≤ 13 ∧ o ≠ 8)
def opPfOnly (o : Nat) : Bool := decide (o = 2 ∨ o = 3 ∨ 11 ≤ o)
/-- Opcodes that name a region; QUERY names one but for the READY words. -/
def opNamesRegion (m : List Byte) : Bool :=
  let o := msgOpcode m
  decide (o = 3 ∨ o = 4 ∨ o = 5 ∨ o = 6 ∨ o = 9 ∨ o = 10 ∨ (o = 7 ∧ m.getD 16 0 ≠ 0))

/-- The region that a message of a function acts on: a VF's own (R337, R351). -/
def msgTarget (fn : Nat) (m : List Byte) : Nat := if fn = 0 then msgRegion m else fn - 1

def State.regionExists (s : State) (r : Nat) : Bool := decide (r < 32) && ! (s.regionCourses r).isEmpty

/-- A destroy of the region has started and not ended (R357). -/
def State.destroying (s : State) (r : Nat) : Bool :=
  s.pb.journal.any fun e => decide (msgOpcode e.msg = 3 ∧ msgTarget e.fn.val e.msg = r) && e.result.isNone

/-- The checks of R351 in order, then the flags (R350): status and detail of the first that fails. -/
def msgCheck (s : State) (fn : Nat) (m : List Byte) : Option (Nat × Nat) :=
  let o := msgOpcode m
  let v := msgVersion m
  let r := msgTarget fn m
  let gone := ! s.regionExists r || s.destroying r
  if ! lengthGood (msgLength m) then some (stBadLength, 0)
  else if o ≠ 1 ∧ (v / 16 ≠ 1 ∨ v % 16 > 2) then some (stBadVersion, 0x0012)
  else if ! opKnown o then some (stBadOpcode, 0)
  else if (opPfOnly o && decide (fn ≠ 0)) || (decide (o = 2) && decide (s.sec.life = 0)) then some (stNotPermitted, 0)
  else if fn ≠ 0 ∧ (gone ∨ (msgRegion m ≠ r ∧ msgRegion m ≠ 0xFFFF)) then some (stBadRegion, 0)
  else if fn = 0 ∧ opNamesRegion m ∧ gone then some (stBadRegion, 0)
  else if msgFlags m / 2 ≠ 0 ∨ (msgFlags m % 2 = 1 ∧ o ≠ 5) then some (stBadArgument, 10)
  else none

/-- A completion (R348, R350, R353): the request's opcode, tag and region. PHASE is set as it is written. -/
def completionBytes (m : List Byte) (status detail : Nat) (payload : List Byte) : List Byte :=
  let n := max 64 (16 * ceilDiv (16 + payload.length) 16)
  let head := [0x12, m.getD 1 0] ++ leBytes 2 n ++ padTo 4 ((m.drop 4).take 4) ++ padTo 2 ((m.drop 8).take 2) ++ [0, 0]
    ++ leBytes 2 status ++ leBytes 2 detail
  padTo n (head ++ payload)

/-- The completion that the checks of R351 give a message at once. -/
def checkedResult (s : State) (fn : Nat) (m : List Byte) : Option (List Byte) := (msgCheck s fn m).map fun c => completionBytes m c.1 c.2 []

/-- Completion slots to reserve for a message: a QUERY's payload may take more than one (R355; log 10). -/
def slotsNeeded (m : List Byte) : Nat := if msgOpcode m = 7 then 2 else 1

/-- The next message of a queue pair that may be taken: its bytes and its slots (R350, R352). A message that does not lie wholly before
SQ_TAIL waits (log 28). -/
def nextMsg (s : State) (x : Qp) : Option (List Byte × Nat) :=
  let avail := (x.sqTail.toNat + x.sqSize - x.sqHead.toNat) % x.sqSize
  if ! x.en ∨ avail = 0 then none
  else
    let hdr := s.slotBytes x x.sqHead.toNat 1
    let n := max 1 (ceilDiv (msgLength hdr) 64)
    if x.room < slotsNeeded hdr then none
    else if ! lengthGood (msgLength hdr) then some (hdr, min n avail)
    else if n > avail then none
    else some ((s.slotBytes x x.sqHead.toNat n).take (msgLength hdr), n)

/-- Queue pairs in round robin, from the one after the last served. -/
def qpOrder (last : Nat) : List Nat :=
  let all := (List.range 64) ++ (List.range 32).flatMap fun v => (List.range 4).map fun q => qpKey (v + 1) q
  all.filter (fun k => decide (k > last)) ++ all.filter fun k => decide (k ≤ last)

/-- MESSAGE_TAKE (R351, R352): the message enters the journal; one that fails a check has its completion at once. -/
def messageTake (s : State) : State :=
  if ! s.pbRuns 2 ∨ ! s.host.readyEp then s
  else
    match (qpOrder s.host.qpRr).findSome? fun k => (nextMsg s (s.qp (k / 64) (k % 64))).map fun r => (k, r) with
    | none => s
    | some (k, m, n) =>
      let fn := k / 64
      let e : JEntry :=
        { id := s.pb.nextId, fn := Fin.ofNat 33 fn, qp := BitVec.ofNat 6 (k % 64), msg := m, handed := false, discarded := false
          result := checkedResult s fn m }
      let s1 := modQp fn (k % 64) (fun x =>
        { x with sqHead := BitVec.ofNat 12 ((x.sqHead.toNat + n) % x.sqSize), reserved := x.reserved + slotsNeeded m }) s
      modHost (fun h => { h with qpRr := k }) (modPb (fun b => { b with journal := b.journal ++ [e], nextId := b.nextId + 1 }) s1)

def execMessageTake (s : State) : Host.Outcome State Fault Refusal := .next (messageTake s)

/-! ## Completions (R353, R369) -/

def State.entry (s : State) (id : Nat) : Option JEntry := s.pb.journal.find? fun e => decide (e.id = id)

/-- The effect of a message is made: its completion waits to be written. -/
def completeMsg (id status detail : Nat) (payload : List Byte) (s : State) : State :=
  modPb (fun b => { b with journal := b.journal.map fun e =>
    if e.id = id then
      let r := some (completionBytes e.msg status detail payload)
      { e with result := r, made := r }
    else e }) s

/-- As PB2 starts, every message whose entry remains is to be run again from its beginning, but for one handed to PB0 (R369). -/
def rerunJournal (s : State) : State :=
  modPb (fun b => { b with journal := b.journal.map fun e =>
    if e.handed then e else { e with result := checkedResult s e.fn.val e.msg } }) s

/-- A message is written into a completion ring with its PHASE; the vector follows if enabled and armed. -/
def ringWrite (fn q : Nat) (bs : List Byte) (s : State) : State :=
  let x := s.qp fn q
  let n := ceilDiv bs.length 64
  let flagged := bs.take 11 ++ [if x.phase then 0x80 else 0] ++ bs.drop 12
  let slots := padTo (64 * n) flagged
  let at_ (i : Nat) : Nat := ringBase x.cqBase + 64 * ((x.cqTail.toNat + i) % x.cqSize)
  let s1 := foldState (fun i s => s.writeHost (at_ i) ((slots.drop (64 * i)).take 64)) (List.range n) s
  let wrap := decide (x.cqTail.toNat + n ≥ x.cqSize)
  let fire := x.ie && x.armed
  let s2 := modQp fn q (fun x =>
    { x with cqTail := BitVec.ofNat 12 ((x.cqTail.toNat + n) % x.cqSize), used := x.used + n, phase := if wrap then ! x.phase else x.phase
             armed := x.armed && ! fire }) s1
  if fire then { s2 with outbox := s2.outbox ++ [.msix (Fin.ofNat 33 fn) x.vector] } else s2

/-- COMPLETION_WRITE: a completion is written exactly once and leaves the journal; a discarded one leaves without a trace (R338, R369). -/
def completionWrite (id : Nat) (s : State) : State :=
  if ! s.pbRuns 2 then s
  else match s.entry id with
    | none => s
    | some e => match e.result with
      | none => s
      | some bs =>
        let s1 := modPb (fun b => { b with journal := b.journal.filter fun e => decide (e.id ≠ id) }) s
        if e.discarded then s1
        else ringWrite e.fn.val e.qp.toNat bs (modQp e.fn.val e.qp.toNat (fun x => { x with reserved := x.reserved - slotsNeeded e.msg }) s1)

def execCompletionWrite (id : Nat) (s : State) : Host.Outcome State Fault Refusal := .next (completionWrite id s)

/-! ## Running a started message (R352, R369) -/

/-- Whether an earlier message for the same region is still to run. -/
def blockedBefore (s : State) (e : JEntry) : Bool :=
  opNamesRegion e.msg && s.pb.journal.any fun f =>
    decide (f.id < e.id) && opNamesRegion f.msg && decide (msgTarget f.fn.val f.msg = msgTarget e.fn.val e.msg) && f.result.isNone

/-- The opcodes whose steps, made once, have nothing left to do: REGION_CREATE, REGION_DESTROY, LOAD_IMAGE and LAUNCH. -/
def onceOnly (opcode : Nat) : Bool := decide (2 ≤ opcode ∧ opcode ≤ 5)

/-- Runs a started message with an opcode, if PB2 runs and it is this message's turn. A message handed to PB0 is not run again,
and one whose region is gone completes BAD_REGION. DEDUCED (log 28): a message run again whose steps have all been made gives the result that
they gave, as R369 says of every opcode. -/
def runMsg (id opcode : Nat) (f : JEntry → State → State) (s : State) : State :=
  if ! s.pbRuns 2 then s
  else match s.entry id with
    | none => s
    | some e =>
      if e.result.isSome ∨ e.handed ∨ msgOpcode e.msg ≠ opcode ∨ blockedBefore s e then s
      else if onceOnly opcode ∧ e.made.isSome then
        modPb (fun b => { b with journal := b.journal.map fun x => if x.id = id then { x with result := x.made } else x }) s
      else if opNamesRegion e.msg ∧ ! s.regionExists (msgTarget e.fn.val e.msg) then completeMsg id stBadRegion 0 [] s
      else f e s

/-- HELLO (R349): the completion carries the device's version. -/
def execHello (id : Nat) (s : State) : Host.Outcome State Fault Refusal :=
  .next (runMsg id 1 (fun _ s => completeMsg id stOk 0 [] s) s)

/-! ## Health events (R354, R371) -/

/-- A HEALTH_EVENT message (Table 12.9): code, events dropped before it, and its record. -/
def healthBytes (e : HEvent) (dropped : Word) : List Byte :=
  padTo 64 (([0x12, 8] : List Byte) ++ leBytes 2 64 ++ leBytes 4 0 ++ leBytes 2 (match e.region with | some r => r.toNat | none => 0xFFFF)
    ++ [0, 0] ++ leBytes 4 0 ++ [e.code, 0, 0, 0] ++ leBytes 4 dropped.toNat ++ e.record)

def State.ring (s : State) (fn : Nat) : RingEvents := mapGet {} s.host.rings fn
def modRing (fn : Nat) (f : RingEvents → RingEvents) (s : State) : State :=
  modHost (fun h => { h with rings := mapSet {} h.rings fn (f (mapGet {} h.rings fn)) }) s

/-- A ring keeps up to 256 events; later ones are counted. -/
def keepEvent (fn : Nat) (e : HEvent) (lost : Word) (s : State) : State :=
  modRing fn (fun r =>
    if r.events.length < 256 then { r with events := r.events ++ [e], dropped := r.dropped + lost } else { r with dropped := r.dropped + lost + 1 }) s

/-- The events that ring 0 of a function has room for are delivered. -/
def flushRing (fn : Nat) : Nat → State → State
  | 0, s => s
  | fuel + 1, s =>
    let x := s.qp fn 0
    match (s.ring fn).events with
    | [] => s
    | e :: rest =>
      if x.en ∧ x.room ≥ 1 then
        flushRing fn fuel (ringWrite fn 0 (healthBytes e (s.ring fn).dropped) (modRing fn (fun r => { r with events := rest, dropped := 0 }) s))
      else s

/-- HEALTH_EVENT: PB2 takes the oldest event for ring 0 of the PF and of the region's VF, and delivers what the rings have room for. -/
def healthEvent (s : State) : State :=
  if ! s.pbRuns 2 then s
  else
    let s1 := match s.pb.events with
      | [] => s
      | e :: rest =>
        let s0 := keepEvent 0 e s.pb.dropped (modPb (fun b => { b with events := rest, dropped := 0 }) s)
        match e.region with
        | some r => if (s.qp (r.toNat + 1) 0).en then keepEvent (r.toNat + 1) e s.pb.dropped s0 else s0
        | none => s0
    foldState (fun fn s => flushRing fn 256 s) (List.range 33) s1

def execHealthEvent (s : State) : Host.Outcome State Fault Refusal := .next (healthEvent s)

end Sys2Proof.Machine
end

