-- ==== Sys2Proof/Machine/Emu.lean ====
section
/-! DEFINITION. Emulated registers: masters, selection, shadows and their application (R344, R345, Table 12.5), power requests and
their resolution in PB1's tick (R387, R392, R393), instances taken offline (R385), the BMC's debug buffer (R410). -/

namespace Sys2Proof.Machine

open Sys2Proof

/-! ## Selection (EMU_SEL) -/

/-- Instances of a kind: courses, links, HBM stacks, far channels. -/
def instCount : Nat → Nat
  | 0 => 32
  | 1 => 40
  | 2 => 8
  | 3 => 16
  | _ => 0

/-- The courses that an instance belongs to. -/
def instCourses (kind i : Nat) : List Nat :=
  match kind with
  | 0 => [i]
  | 1 => [linkCourse i]
  | 2 => stackCourses i
  | _ => [ctlCourse (32 + i)]

/-- Whether a master may select an instance: a VF its region's only (R345). -/
def instAllowed (s : State) (m kind i : Nat) : Bool :=
  decide (i < instCount kind) &&
    (decide (m = 0 ∨ m = 33) || (instCourses kind i).any fun c => (s.regionCourses (m - 1)).contains c)

/-- The instance a master has selected. -/
def State.selInst (s : State) (m : Nat) : Option (Nat × Nat) :=
  let x := s.master m
  if instAllowed s m x.kind.toNat x.index.toNat then some (x.kind.toNat, x.index.toNat) else none

def State.inst (s : State) (kind i : Nat) : Inst := mapGet {} s.emu.insts (instKey kind i)

/-- The power domain of an instance (Table 14.3). -/
def instDomain (kind i : Nat) : Nat :=
  match kind with
  | 0 => i
  | 1 => 46 + i / 4
  | 2 => 34 + i
  | _ => 42 + i / 4

/-- INST_STATE.PSTATE and WITHHELD. -/
def State.pstate (s : State) (kind i : Nat) : Nat := if (s.inst kind i).pstate = 7 then 7 else s.domState (instDomain kind i)
def State.instWithheld (s : State) (kind i : Nat) : Bool :=
  match kind with
  | 0 => (s.course i).withheld
  | 1 => ! (s.link i).admits
  | _ => false

/-! ## Reads -/

/-- EMU_STATUS of a master; a VF sees PENDING, BAD_SEL and DENIED. -/
def emuStatus (s : State) (m : Nat) : Word :=
  let x := s.master m
  let full := decide (m = 0 ∨ m = 33)
  packWord [(bn x.pending, 31), (bn (x.reject && full), 30), (bn (x.lockViol && full), 29), (bn (x.wrBusy && full), 28), (bn x.badSel, 27),
    (bn x.denied, 26)]

/-- The length or the word that waits to be written of DBG_DOOR or DBG_BUF. -/
def PbWork.doorLen : PbWork → Option Nat
  | .door len => some len
  | _ => none
def PbWork.bufWord : PbWork → Option (Nat × Word)
  | .dbgBuf off v => some (off - 0x400, v)
  | _ => none

/-- An instance register of the selected instance; 0 where the selection is not permitted. DEDUCED (log 30): PB2 keeps INST_STATE, which reads
its reset value until PB2 first runs. -/
def instRead (s : State) (m off : Nat) : Word :=
  match s.selInst m with
  | none => 0
  | some (k, i) =>
    let x := s.inst k i
    if off = 0x100 then (if bitOf s.pb.ran 2 then packWord [(bn (s.instWithheld k i), 3), (s.pstate k i, 0)] else 0)
    else if off = 0x104 then packWord [(bn (x.offlineShadow && decide (m = 0 ∨ m = 33)), 0)]
    else if off = 0x108 then x.temp.zeroExtend 32
    else if off = 0x10C then packWord [(x.uncorr.toNat, 16), (x.corr.toNat, 0)]
    else 0

/-- The registers that a VF reads. -/
def emuSharedRead (s : State) (m off : Nat) : Word :=
  if off = 0x000 then packWord [((s.master m).kind.toNat, 8), ((s.master m).index.toNat, 0)]
  else if off = 0x004 then emuStatus s m
  else if off = 0x018 then s.emu.powerNow.zeroExtend 32
  else if off = 0x01C then s.emu.tempMax.zeroExtend 32
  else if 0x100 ≤ off ∧ off < 0x110 then instRead s m off
  else 0

/-- The shadows of DBG_DOOR.LEN and DBG_BUF: the registers with the BMC's writes that wait for PB0 (R344, R410). -/
def doorShadow (s : State) : Nat := (s.pb.waiting.filterMap PbWork.doorLen).getLastD s.emu.dbgLen.toNat
def dbgBufShadow (s : State) : Map Byte := (s.pb.waiting.filterMap PbWork.bufWord).foldl (fun m w => writeBytes m w.1 (leBytes 4 w.2.toNat)) s.emu.dbgBuf

/-- A word of the emulated window as a master reads it: shadows (R344); the debug buffer for the BMC alone (R410). -/
def emuRead (s : State) (m off : Nat) : Word :=
  if ¬ (m = 0 ∨ m = 33) then emuSharedRead s m off
  else if off = 0x010 then s.emu.moduleIdShadow.zeroExtend 32
  else if off = 0x014 then (s.master m).capShadow.zeroExtend 32
  else if off = 0x020 then packWord [(bn s.emu.blinkShadow, 0)]
  else if off = 0x024 then s.emu.rpCfgShadow.zeroExtend 32
  else if off = 0x028 then s.emu.healthCnt
  else if off = 0x02C then (if m = 33 then packWord [(bn s.emu.dbgBusy, 31), (doorShadow s, 0)] else 0)
  else if 0x400 ≤ off ∧ off < 0x800 then (if m = 33 then wordAt (readBytes (dbgBufShadow s) (off - 0x400) 4) 0 else 0)
  else emuSharedRead s m off

/-! ## Writes (R344, R345) -/

/-- The shadow of a register or instance takes a value. -/
def setShadow (w : ShadowWrite) (s : State) : State :=
  if w.off = 0x010 then modEmu (fun e => { e with moduleIdShadow := w.value.truncate 16 }) s
  else if w.off = 0x014 then modMaster w.master (fun m => { m with capShadow := w.value.truncate 16 }) s
  else if w.off = 0x020 then modEmu (fun e => { e with blinkShadow := bitOf w.value 0 }) s
  else if w.off = 0x024 then modEmu (fun e => { e with rpCfgShadow := w.value.truncate 6 }) s
  else modEmu (fun e => { e with insts := mapSet {} e.insts w.inst { (mapGet ({} : Inst) e.insts w.inst) with offlineShadow := bitOf w.value 0 } }) s

/-- A write lands in its shadow and waits for PB2. -/
def shadowWrite (w : ShadowWrite) (s : State) : State :=
  modEmu (fun e => { e with writes := e.writes ++ [w] }) (modMaster w.master (fun m => { m with pending := true }) (setShadow w s))

/-- A refusal under R344 sets the master's bit, 0 REJECT, 1 LOCK_VIOL, 2 WR_BUSY, and is logged. -/
def refuseEmu (why : Nat) (w : ShadowWrite) (s : State) : State :=
  modEmu (fun e => { e with refusalLog := e.refusalLog ++ [w] }) <| modMaster w.master (fun m =>
    { m with reject := m.reject || decide (why = 0), lockViol := m.lockViol || decide (why = 1), wrBusy := m.wrBusy || decide (why = 2) }) s

/-- Whether a length may ring DBG_DOOR (Table 12.5). -/
def doorGood (len : Nat) : Bool := decide (16 ≤ len ∧ len ≤ 1024)

/-- PB0 takes a write of DBG_DOOR (R410): refused while BUSY or outside 16 to 1,024. -/
def takeDoor (len : Nat) (s : State) : State :=
  if s.emu.dbgBusy ∨ ! doorGood len then refuseEmu 0 { master := 33, off := 0x02C, inst := 0, value := BitVec.ofNat 32 len } s
  else modEmu (fun e => { e with dbgLen := BitVec.ofNat 11 len, dbgBusy := true }) s

/-- PB0 takes a write of DBG_BUF: refused while BUSY. -/
def takeDbgBuf (off : Nat) (v : Word) (s : State) : State :=
  if s.emu.dbgBusy then refuseEmu 0 { master := 33, off := BitVec.ofNat 12 off, inst := 0, value := v } s
  else modEmu (fun e => { e with dbgBuf := writeBytes e.dbgBuf (off - 0x400) (leBytes 4 v.toNat) }) s

/-- A write of DBG_DOOR or DBG_BUF: PB0 takes it; while PB0 restarts, it waits with PENDING set (R344, R410). -/
def bmcWrites (w : PbWork) (act : State → State) (s : State) : State :=
  pbDoes 0 w act (if s.pbRuns 0 then s else modMaster 33 (fun m => { m with pending := true }) s)
def doorWrite (len : Nat) (s : State) : State := bmcWrites (.door len) (takeDoor len) s
def dbgBufWrite (off : Nat) (v : Word) (s : State) : State := bmcWrites (.dbgBuf off v) (takeDbgBuf off v) s

/-- Whether the door of the debug buffer has been rung: BUSY, or a ring that waits for PB0. -/
def doorRung (s : State) : Bool := s.emu.dbgBusy || (s.pb.waiting.filterMap PbWork.doorLen).any doorGood

/-- A write of EMU_SEL, or of the W1C bits of EMU_STATUS, which each master has of its own. -/
def emuOwnWrite (m off : Nat) (v : Word) (s : State) : State :=
  if off = 0 then modMaster m (fun x => { x with kind := fld 4 v 11 8, index := v.truncate 6 }) s
  else modMaster m (fun x =>
    let full := decide (m = 0 ∨ m = 33)
    { x with reject := x.reject && ! (bitOf v 30 && full), lockViol := x.lockViol && ! (bitOf v 29 && full)
             wrBusy := x.wrBusy && ! (bitOf v 28 && full), badSel := x.badSel && ! bitOf v 27, denied := x.denied && ! bitOf v 26 }) s

/-- A write of an instance register: only OFFLINE is writable. -/
def instWrite (m off : Nat) (v : Word) (s : State) : State :=
  match s.selInst m with
  | none => modMaster m (fun x => { x with badSel := true }) s
  | some (k, i) => if off = 0x104 then shadowWrite { master := m, off := 0x104, inst := instKey k i, value := v &&& 1 } s else s

/-- A VF's write outside its subset is ignored and sets DENIED; one of an instance register that its selection does not permit also sets
BAD_SEL (R345, Table 12.5). -/
def vfDenied (m off : Nat) (s : State) : State :=
  modMaster m (fun x =>
    { x with denied := true, badSel := x.badSel || (decide (0x100 ≤ off ∧ off < 0x200) && (s.selInst m).isNone) }) s

/-- A write of a word of the emulated window by a master. -/
def emuWrite (m off : Nat) (v : Word) (s : State) : State :=
  if off % 4 ≠ 0 then s
  else if ¬ (m = 0 ∨ m = 33) then
    if off = 0 ∨ off = 4 then emuOwnWrite m off v s else vfDenied m off s
  else if off = 0 ∨ off = 4 then emuOwnWrite m off v s
  else if off = 0x010 ∨ off = 0x014 ∨ off = 0x020 ∨ off = 0x024 then shadowWrite { master := m, off := BitVec.ofNat 12 off, inst := 0, value := v } s
  else if off = 0x02C then (if m = 33 then doorWrite (v.toNat % 2048) s else s)
  else if 0x400 ≤ off ∧ off < 0x800 then (if m = 33 then dbgBufWrite off v s else s)
  else if 0x100 ≤ off ∧ off < 0x200 then instWrite m off v s
  else s

def execEmuRegisterWrite (master : Master) (off : BitVec 12) (value : Word) (s : State) : Host.Outcome State Fault Refusal :=
  .next (emuWrite (masterIx master) off.toNat value s)

/-- POWER_CAP_WRITE (R386): a master's POWER_CAP. -/
def execPowerCapWrite (master : Master) (value : Word) (s : State) : Host.Outcome State Fault Refusal :=
  .next (emuWrite (masterIx master) 0x014 value s)

/-- INST_OFFLINE_REQUEST (R385): INST_REQ.OFFLINE of the master's selected instance. -/
def execInstOfflineRequest (master : Master) (offline : Bool) (s : State) : Host.Outcome State Fault Refusal :=
  .next (emuWrite (masterIx master) 0x104 (if offline then 1 else 0) s)

/-- DBG_DOOR_WRITE (R410): the BMC rings. -/
def execDbgDoorWrite (len : BitVec 11) (s : State) : Host.Outcome State Fault Refusal := .next (doorWrite len.toNat s)

/-! ## Application by PB2 (R344) -/

/-- The value in force of a shadow. -/
def inForce (s : State) (w : ShadowWrite) : Word :=
  if w.off = 0x010 then s.emu.moduleId.zeroExtend 32
  else if w.off = 0x014 then (s.master w.master).cap.zeroExtend 32
  else if w.off = 0x020 then packWord [(bn s.emu.blink, 0)]
  else if w.off = 0x024 then s.emu.rpCfg.zeroExtend 32
  else packWord [(bn (mapGet ({} : Inst) s.emu.insts w.inst).offline, 0)]

/-- Why a write is refused: 0 range, 1 lock, 2 running; none where it stands. -/
def shadowRefusal (s : State) (w : ShadowWrite) : Option Nat :=
  let x := w.value.toNat % 65536
  if s.sec.emuLock ∧ w.master = 0 ∧ (w.off = 0x010 ∨ w.off = 0x014 ∨ w.off = 0x024) ∧
      w.value.toNat % (if w.off = 0x024 then 64 else 65536) ≠ (inForce s w).toNat then some 1
  else if w.off = 0x014 ∧ 1 ≤ x ∧ x ≤ 399 then some 0
  else if w.off = 0x024 ∧ w.value.toNat % 4 = 3 then some 0
  else if w.off = 0x010 ∧ x ≠ s.emu.moduleId.toNat ∧ (List.range 40).any (fun l => (s.link l).en) then some 2
  else none

/-- Whether two writes are of one shadow: POWER_CAP is each master's own. -/
def ShadowWrite.same (a b : ShadowWrite) : Bool :=
  decide (a.off = b.off ∧ a.inst = b.inst) && (decide (a.off ≠ 0x014) || decide (a.master = b.master))

/-- The shadow of a write takes a value that stands, unless a later write waits in it. -/
def restoreShadow (w : ShadowWrite) (v : Word) (s : State) : State :=
  if s.emu.writes.any w.same then s else setShadow { w with value := v } s

/-- A refused write: the shadow takes the value in force again, the master's bit sets, and the refusal is logged. -/
def refuseShadow (why : Nat) (w : ShadowWrite) (s : State) : State := refuseEmu why w (restoreShadow w (inForce s w) s)

/-- PB3 loads MODULE and enables links (R318, R368). -/
def loadModule (s : State) : State := enableLinks (List.range 40) { s with module := s.emu.moduleId }

/-- A write that stands takes effect; power requests go to PB1 (R393). -/
def applyShadow (w : ShadowWrite) (s : State) : State :=
  if w.off = 0x010 then pbDoes 3 .module loadModule (modEmu (fun e => { e with moduleId := w.value.truncate 16, moduleIdWritten := true }) s)
  else if w.off = 0x014 then modPwr (fun p => { p with reqs := p.reqs ++ [.cap w.master (w.value.truncate 16)] }) s
  else if w.off = 0x020 then modEmu (fun e => { e with blink := bitOf w.value 0 }) s
  else if w.off = 0x024 then modEmu (fun e => { e with rpCfg := w.value.truncate 6 }) s
  else modPwr (fun p => { p with reqs := p.reqs ++ [.offline w.master w.inst (bitOf w.value 0)] }) s

/-- The master of an emulated write among the power requests. -/
def PowerReq.master : PowerReq → Option Nat
  | .cap m _ => some m
  | .offline m _ _ => some m
  | _ => none

/-- PENDING: the master has writes that are not yet applied. -/
def syncPending (s : State) : State :=
  foldState (fun m s => modMaster m (fun x =>
    { x with pending := s.emu.writes.any (fun w => decide (w.master = m)) || s.pwr.reqs.any (fun r => decide (r.master = some m))
                          || s.emu.verdicts.any (fun v => decide (v.write.master = m))
                          || decide (m = 33) && s.pb.waiting.any fun w => w.doorLen.isSome || w.bufWord.isSome }) s)
    (List.range 34) s

/-- One write of the shadows of record, whose shadow shows the value that stands unless a later write waits in it. -/
def takeShadow (w : ShadowWrite) (s : State) : State :=
  match shadowRefusal s w with
  | some why => refuseShadow why w s
  | none => applyShadow w (restoreShadow w w.value s)

/-- The waiting writes, in order of arrival. -/
def takeShadows : List ShadowWrite → State → State
  | [], s => s
  | w :: ws, s => takeShadows ws (takeShadow w (modEmu (fun e => { e with writes := ws }) s))

/-- PB2 takes one ruling of PB1: the shadow shows the request that stands, and a request that lost is refused with REJECT (R393). -/
def takeVerdict (v : Verdict) (s : State) : State :=
  let s1 := restoreShadow v.write v.stands s
  if v.lost then refuseEmu 0 v.write s1 else s1

/-- PB2's part of PB1's rulings, which waits while PB2 does not run. -/
def takeVerdicts (s : State) : State :=
  if s.pbRuns 2 then foldState takeVerdict s.emu.verdicts (modEmu (fun e => { e with verdicts := [] }) s) else s

/-- EMU_SHADOW_APPLY: while PB2 restarts the writes wait, with PENDING set. -/
def emuShadowApply (s : State) : State :=
  if s.pbRuns 2 then syncPending (takeShadows s.emu.writes (takeVerdicts s)) else s

def execEmuShadowApply (s : State) : Host.Outcome State Fault Refusal := .next (emuShadowApply s)

/-! ## Instances out of service (R385) -/

def modRepair (c : Nat) (f : Repair → Repair) (s : State) : State :=
  modPb (fun b => { b with repair := mapSet {} b.repair c (f (mapGet {} b.repair c)) }) s

/-- A free instance goes out of service: a course to OFF and withheld, a link disabled, a free stack's PHY to OFF; READY clears. -/
def instOut (kind i : Nat) (s : State) : State :=
  let s1 := modInst kind i (fun x => { x with took := true, kept := decide (kind = 0) && (s.course i).withheld }) s
  match kind with
  | 0 => pb1Orders i 4 (modRepair i (fun r => { r with withheld := true }) (s1.modCourse i fun x => { x with withheld := true }))
  | 1 => linkEnable i false s1
  | 2 => pb1Orders (34 + i) 4 s1
  | _ => readyEvent s1 (modHost (fun h => { h with readyFar := setBit h.readyFar i false }) s1)

/-- An instance returns to service: PB1 raises it, and READY sets once it is up. A course that was withheld before stays so (R430). -/
def instIn (kind i : Nat) (s : State) : State :=
  let kept := (s.inst kind i).kept
  let s1 := modInst kind i (fun x => { x with took := false, kept := false }) s
  match kind with
  | 0 =>
    if kept then s1
    else pb1Orders i 0 (modRepair i (fun r => { r with withheld := false }) (s1.modCourse i fun x => { x with withheld := false }))
  | 1 => enableLinks [i] s1
  | 2 => pb1Orders (34 + i) 0 s1
  | _ => readyEvent s1 (modHost (fun h => { h with readyFar := setBit h.readyFar i (decide ((s.dom (42 + i / 4)).state.toNat ≤ 1) && ! (s.ctl (32 + i)).failed) }) s1)

/-- Whether no region holds an instance. -/
def State.instFree (s : State) (kind i : Nat) : Bool := (instCourses kind i).all fun c => ! (s.course c).valid

/-- OFFLINE acts on an instance that is free, or at the teardown that frees it. -/
def instSync (kind i : Nat) (s : State) : State :=
  let x := s.inst kind i
  if x.offline ∧ ! x.took ∧ s.instFree kind i then instOut kind i s
  else if ! x.offline ∧ x.took then instIn kind i s
  else s

/-! ## Resolution in PB1's tick (R393) -/

def Rank.ix : Rank → Nat
  | .host => 0
  | .bmc => 1
  | .pb0 => 2

def masterRank (m : Nat) : Nat := if m = 33 then 1 else 0

/-- Whether a cap of a master loses to a module state change of a higher rank. -/
def capLoses (reqs : List PowerReq) (m : Nat) : Bool :=
  reqs.any fun r => match r with
    | .moduleState k => decide (k.ix > masterRank m)
    | _ => false

/-- The last cap of a master in a list of requests. -/
def lastCap (m : Nat) (reqs : List PowerReq) : Option (BitVec 16) :=
  reqs.foldl (fun a r => match r with
    | .cap k w => if k = m then some w else a
    | .capMsg _ w => if m = 0 then some w else a
    | _ => a) none

/-- The request that stands for an instance: of the highest rank, the last one. -/
def lastOffline (inst : Nat) (reqs : List PowerReq) : Option (Nat × Bool) :=
  reqs.foldl (fun a r => match r with
    | .offline m i v => if i = inst then
        (match a with
          | some (k, u) => if masterRank m ≥ k then some (masterRank m, v) else some (k, u)
          | none => some (masterRank m, v))
      else a
    | _ => a) none

/-- PB1 tells PB2 what became of an emulated request (R393). -/
def rule (m : Nat) (off : BitVec 12) (i : Nat) (v stands : Word) (loses : Bool) (s : State) : State :=
  modEmu (fun e => { e with verdicts := e.verdicts ++
    [{ write := { master := m, off := off, inst := i, value := v }, stands := stands, lost := loses || decide (v ≠ stands) }] }) s

/-- The cap of a master that stands after the requests of a tick. -/
def State.capAfter (s : State) (reqs : List PowerReq) (m : Nat) : BitVec 16 :=
  if capLoses reqs m then (s.master m).cap else (lastCap m reqs).getD (s.master m).cap

/-- What becomes of one request, given all of the tick: what stands is in force, and an emulated request goes back to PB2 with the value that
stands. -/
def resolveReq (reqs : List PowerReq) (r : PowerReq) (s : State) : State :=
  match r with
  | .cap m w =>
    let c := s.capAfter reqs m
    rule m 0x014 0 (w.zeroExtend 32) (c.zeroExtend 32) (capLoses reqs m) (modMaster m (fun x => { x with cap := c }) s)
  | .capMsg id w =>
    if capLoses reqs 0 ∨ lastCap 0 reqs ≠ some w then completeMsg id stConflict 0 [] s
    else completeMsg id stOk 0 [] (restoreShadow { master := 0, off := 0x014, inst := 0, value := 0 } (w.zeroExtend 32) (modMaster 0 (fun x => { x with cap := w }) s))
  | .offline m i v =>
    match lastOffline i reqs with
    | some (_, u) =>
      let s1 := modEmu (fun e => { e with insts := mapSet {} e.insts i { (mapGet ({} : Inst) e.insts i) with offline := u } }) s
      rule m 0x104 i (BitVec.ofNat 32 (bn v)) (BitVec.ofNat 32 (bn u)) false (instSync (i / 64) (i % 64) s1)
    | none => s
  | .moduleState _ => s

/-- The requests received since the last tick are resolved. -/
def resolveReqs (s : State) : State :=
  let reqs := s.pwr.reqs
  syncPending (takeVerdicts (foldState (resolveReq reqs) reqs (modPwr (fun p => { p with reqs := [] }) s)))

/-- POWER_NOW: the mean of 1 ms, 20 ticks. -/
def sampleInput (p : Nat) (s : State) : State :=
  let xs := (s.pwr.samples ++ [p]).drop (s.pwr.samples.length - 19)
  modEmu (fun e => { e with powerNow := BitVec.ofNat 16 (xs.foldl (· + ·) 0 / xs.length) }) (modPwr (fun w => { w with samples := xs }) s)

/-- POWER_TICK (R387): PB1's tick at an input power; requests first, then the budget. Not while PB1 restarts (R374). -/
def powerTick (p : Nat) (s : State) : State :=
  if s.pbRuns 1 then powerBudget p (resolveReqs (sampleInput p s)) else s

def execPowerTick (watts : Nat) (s : State) : Host.Outcome State Fault Refusal := .next (powerTick watts s)

/-- POWER_CAP (R386, R393): a message's cap of the PF; 1 to 399 W are out of range (Table 12.5). -/
def powerCapMsg (id : Nat) (e : JEntry) (s : State) : State :=
  let w := msgField e.msg 16 2
  let there := s.pwr.reqs.any fun r => match r with
    | .capMsg i _ => decide (i = id)
    | _ => false
  if there then s
  else if 1 ≤ w ∧ w ≤ 399 then completeMsg id stBadArgument 16 [] s
  else modPwr (fun p => { p with reqs := p.reqs ++ [.capMsg id (BitVec.ofNat 16 w)] }) s

def execPowerCapMsg (id : Nat) (s : State) : Host.Outcome State Fault Refusal := .next (runMsg id 11 (powerCapMsg id) s)

end Sys2Proof.Machine
end

