-- ==== Sys2Proof/Machine/Sessions.lean ====
section
/-! DEFINITION. Debug sessions as registers show them and their end (R404, R406, R408), and a region's memory as Pegbox, the host's
aperture and a debugger reach it (R207, R209, R341, R364, R404). -/

namespace Sys2Proof.Machine

open Sys2Proof

/-! ## Sessions -/

/-- SEC_DBG.LEVEL and SEC_RDBG follow the open sessions (R406). -/
def syncSessions (s : State) : State :=
  modSec (fun x =>
    { x with level := BitVec.ofNat 2 (x.sessions.foldl (fun a e => max a e.level.toNat) 0)
             rdbg := x.sessions.foldl (fun a e => match e.region with | some r => setBit a r.val true | none => a) 0 }) s

/-- A thread that a session stopped runs on, and no stop of it stays pending (R408). -/
def freeThread (t : NodeNo × ThreadNo) (s : State) : State :=
  modCtlPage t.1.val (fun c => { c with dbgPend := setBit c.dbgPend t.2.val false }) (releaseThread t.1.val t.2 s)

/-- Ends the sessions that satisfy p. -/
def endSessions (p : Session → Bool) (s : State) : State :=
  let gone := s.sec.sessions.filter p
  let s1 := foldState freeThread (gone.flatMap (·.parked)) s
  syncSessions (modSec (fun x => { x with sessions := x.sessions.filter fun e => ! p e }) s1)

/-- The threads of cores that are reset: no session holds them any more. -/
def dropParked (ns : List Nat) (s : State) : State :=
  modSec (fun x => { x with sessions := x.sessions.map fun e => { e with parked := e.parked.filter fun t => ! ns.contains t.1.val } }) s

/-! ## Region memory -/

/-- Where a byte of a region's memory lies. -/
inductive Spot where
  | ctl (i off : Nat)
  | scratch (n off : Nat)
  deriving DecidableEq, Repr

/-- The place of a device address for region r: tier-1, tier-2, scratchpads of its cores below the reserved area (R114). -/
def spotOf (s : State) (r : Nat) (a : Nat) : Option Spot :=
  match placeOfAddr (BitVec.ofNat 48 a) with
  | .tier1 x => (s.tier1Map r x).map fun m => .ctl m.1 m.2
  | .tier2 slot off => (s.tier2Map r slot off).map fun m => .ctl (32 + m.2.1) m.2.2
  | .scratch n off =>
    if s.exposed n ∧ (s.regionCourses r).contains (courseOf n) ∧ (s.core n).lost = none ∧ off < 0x1FE000 then some (.scratch n off) else none
  | _ => none

/-- A range cut at multiples of 4 KiB: offset from its start, and length, of each piece. -/
def piecesFrom (a : Nat) : Nat → Nat → Nat → List (Nat × Nat)
  | 0, _, _ => []
  | fuel + 1, o, n =>
    if n = 0 then []
    else
      let k := min n (4096 - (a + o) % 4096)
      (o, k) :: piecesFrom a fuel (o + k) (n - k)

def pieces (a n : Nat) : List (Nat × Nat) := piecesFrom a (n / 4096 + 2) 0 n

/-- Whether a piece can be reached: its memory works. -/
def spotGood (s : State) : Spot → Bool
  | .ctl i _ => ! (s.ctl i).failed
  | .scratch _ _ => true

/-- Whether a whole range is the region's memory. -/
def rangeMapped (s : State) (r a n : Nat) : Bool :=
  decide (a + n ≤ 2 ^ 48) && (pieces a n).all fun p => match spotOf s r (a + p.1) with
    | some (.scratch _ off) => decide (off + p.2 ≤ 0x1FE000)
    | some (.ctl _ _) => true
    | none => false

/-- Whether a whole range can be reached. -/
def rangeGood (s : State) (r a n : Nat) : Bool :=
  (pieces a n).all fun p => match spotOf s r (a + p.1) with
    | some x => spotGood s x
    | none => false

def readSpot (s : State) (x : Spot) (n : Nat) : List Byte :=
  match x with
  | .ctl i off => readBytes (s.ctl i).seen off n
  | .scratch m off => (s.core m).mem.readScratch off n

/-- Whether a read meets a poisoned word (R422). -/
def spotPoisoned (s : State) (x : Spot) (n : Nat) : Bool :=
  match x with
  | .ctl i off => poisonedAt (eccUnit i) ((s.ctl i).seenPoison i) off n
  | .scratch m off => poisonedAt 8 (s.core m).mem.poison off n

/-- A write; in a scratchpad it clears tags (R106), and a whole ECC word's write clears its poison (R422). -/
def writeSpot (x : Spot) (bs : List Byte) (s : State) : State :=
  match x with
  | .ctl i off => ctlWrite i off bs s
  | .scratch m off => s.modCore m fun c => c.modMem (·.writeScratch off bs)

def regionRead (s : State) (r a n : Nat) : List Byte :=
  (pieces a n).flatMap fun p => match spotOf s r (a + p.1) with
    | some x => readSpot s x p.2
    | none => List.replicate p.2 0

def regionPoisoned (s : State) (r a n : Nat) : Bool :=
  (pieces a n).any fun p => match spotOf s r (a + p.1) with
    | some x => spotPoisoned s x p.2
    | none => false

def regionWrite (r a : Nat) (bs : List Byte) (s : State) : State :=
  foldState (fun (p : Nat × Nat) s => match spotOf s r (a + p.1) with
    | some x => writeSpot x ((bs.drop p.1).take p.2) s
    | none => s) (pieces a bs.length) s

end Sys2Proof.Machine
end

