-- ==== Sys2Proof/Machine/Regions.lean ====
section
/-! DEFINITION. Regions: REGION_CREATE and REGION_DESTROY (R297, R300, R357), spare substitution (R430), images, the launch check and
placement (R358, R359), LAUNCH and PROGRAM_END (R360), SIGNAL and QUERY (R355). -/

namespace Sys2Proof.Machine

open Sys2Proof

/-! ## REGION_CREATE -/

/-- Whether a quiesce or standby holds the module (R442, R445). -/
def State.held (s : State) : Bool := s.phys.quiesce.isSome || s.phys.stby

/-- The first field of a rectangle that is out of range or inverted, as its byte offset (log 36). -/
def rectBad (cx0 cy0 cx1 cy1 : Nat) : Option Nat :=
  if cx0 > 7 then some 16 else if cy0 > 3 then some 17 else if cx1 > 7 ∨ cx1 < cx0 then some 18
  else if cy1 > 3 ∨ cy1 < cy0 then some 19 else none

/-- The PHY domains of a course's ports: its HBM stack's and, of an F course, its far group's (Table 14.3). -/
def portDoms (c : Nat) : List Nat := (34 + stackOf c) :: ((farIndex c).map fun f => 42 + f / 2).toList

/-- The memory controllers of a course. -/
def courseCtls (c : Nat) : List Nat := ctlsOf (hbmNode c) ++ ctlsOf (auxNode c)

/-- A course that a region may take: READY and not withheld (R297), and its ports with it (R367; DEDUCED, log 34: a port is READY when its
PHY is up and none of its controllers has failed or is offline). -/
def State.courseReady (s : State) (c : Nat) : Bool :=
  bitOf s.host.readyCourse c && ! (s.course c).withheld && (portDoms c).all (fun d => decide ((s.dom d).state.toNat < 4))
    && (courseCtls c).all fun i => ! (s.ctl i).failed && (decide (i < 32) || bitOf s.host.readyFar (i - 32))

/-- The L node that a core of region r steers through: the nearest, the lower-numbered on a tie (R319). -/
def steeringNode (s : State) (r n : Nat) : Option Nat :=
  (((s.regionCourses r).filter linkCourses.contains).map auxNode).foldl
    (fun a m => match a with
      | none => some m
      | some b => if hops n m < hops n b then some m else some b) none

/-- What Pegbox writes after every core reset: ESC_STACK (R114, R132), and LINK_GW with its lock (R334). -/
def afterReset (r n : Nat) (s : State) : State :=
  let gw := steeringNode s r n
  modCtlPage n (fun c =>
    { c with escPage := some 0x1FF, gwValid := gw.isSome, gwNode := BitVec.ofNat 10 (gw.getD 0), gwLock := true }) s

/-- The domains of a course and its ports that must first return to ACTIVE (R384, R385). -/
def asleep (s : State) (c : Nat) : List Nat := (c :: portDoms c).filter fun d => decide ((s.dom d).state.toNat ≥ 2)

/-- A course taken by a region: its rectangle, its cores and its waiting state reset (R75, R297, R360), it and its PHYs back at ACTIVE. -/
def takeCourse (r cx0 cy0 cx1 cy1 c : Nat) (s : State) : State :=
  let s0 := foldState (fun d s => modDom d (fun x => { x with target := 0, state := 0 }) s) (asleep s c) s
  let s1 := (takeBack c s0).modCourse c fun x =>
    { resetCourse x with valid := true, region := BitVec.ofNat 5 r, cx0 := BitVec.ofNat 3 cx0, cy0 := BitVec.ofNat 2 cy0
                         cx1 := BitVec.ofNat 3 cx1, cy1 := BitVec.ofNat 2 cy1 }
  let s2 := foldState (fun n s => s.modCore n fun k => clearCounters (resetCore k)) (s1.courseCores c) s1
  syncDiv c s2

/-- REGION_CREATE (R297, R357). It waits for PB1 where a course must first go to RETAIN or return to ACTIVE (R374, R385). -/
def regionCreate (id : Nat) (e : JEntry) (s : State) : State :=
  let f (i : Nat) : Nat := msgField e.msg i 1
  let cs := rectCourses (f 16) (f 17) (f 18) (f 19)
  if s.held then completeMsg id stBusy 0 [] s
  else match rectBad (f 16) (f 17) (f 18) (f 19) with
    | some o => completeMsg id stBadArgument o [] s
    | none => match cs.find? fun c => ! s.courseReady c with
      | some c => completeMsg id stNotReady c [] s
      | none => match (if cs.any (fun c => (s.course c).valid) then none else (List.range 32).find? fun r => (s.regionCourses r).isEmpty) with
        | none => completeMsg id stBusy 0 [] s
        | some r =>
          if cs.any (fun c => ! (asleep s c).isEmpty || s.pb.waiting.contains (.order c 2)) ∧ ! s.pbRuns 1 then s else
          let s1 := foldState (takeCourse r (f 16) (f 17) (f 18) (f 19)) cs s
          let s2 := foldState (afterReset r) (s1.regionCores r) s1
          completeMsg id stOk 0 [BitVec.ofNat 8 r] s2

def execRegionCreate (id : Nat) (s : State) : Host.Outcome State Fault Refusal := .next (runMsg id 2 (regionCreate id) s)

/-! ## REGION_DESTROY (R300, R357, R385, R430) -/

/-- Whether a port node holds an outstanding request: one that waits at the node or in a controller's queue, one that crosses a link of
the node, or one that a link brought and its module has not answered (R300, R324). -/
def portBusy (s : State) (n : Nat) : Bool :=
  ((s.node n).rx ++ (s.node n).ctrl).any (fun p => ! isAnswerKind p.h.kind)
    || (ctlsOf n).any (fun i => ! (s.ctl i).queue.isEmpty)
    || (linksOf n).any (fun l => ! (s.link l).etxn.isEmpty || ! (s.link l).ingress.isEmpty)
    || (! (linksOf n).isEmpty && ! (s.lnode n).itxn.isEmpty)

/-- COURSE_RECT's block is running: a core is not idle, or a port node holds an outstanding request (R300). -/
def courseRunning (s : State) (c : Nat) : Bool :=
  ((s.courseCores c).any fun n => decide ((s.core n).lost = none) && ! (s.core n).idle)
    || portBusy s (hbmNode c) || portBusy s (auxNode c)

/-- The scrub of a core (R357): every byte zero, every tag clear, windows disabled. -/
def scrubCoreAll (n : Nat) (s : State) : State :=
  s.modCore n fun c =>
    { c with
      mem := { c.mem with imem := [], imemPoison := [], scratch := [], tags := [], poison := [], tilePoison := [], accPoison := [] }
      mat := { c.mat with tileData := [], acc := [] }, ctl := { c.ctl with windows := [] } }

def scrubCtlAll (i : Nat) (s : State) : State := s.modCtl i fun c => { c with mem := [], poison := [] }

/-- A link of the region: flushed, and no longer admitted (R357). -/
def freeLink (l : Nat) (s : State) : State :=
  let s1 := if (s.link l).state = .off then s else flushLink l .train s
  s1.modLink l fun k => { k with admits := false }

/-- A course is withheld (R430): recorded, not READY, its instance FAILED. -/
def withhold (c : Nat) (s : State) : State :=
  let s1 := modRepair c (fun r => { r with withheld := true }) (s.modCourse c fun x => { x with withheld := true })
  readyEvent s (modHost (fun h => { h with readyCourse := setBit h.readyCourse c false }) (modInst 0 c (fun x => { x with pstate := 7 }) s1))

/-- The course-local positions of a course's lost cores. -/
def lostPositions (s : State) (c : Nat) : List Nat := corePositions.filter fun p => (s.core (nodeOfPos c p)).lost.isSome

/-- Spare substitution at a teardown (R430): the first failed core takes the spare's place; a second one, a failed quarter-stack or a
mark withholds the course. -/
def applySpare (c : Nat) (s : State) : State :=
  let x := s.course c
  let rep := mapGet ({} : Repair) s.pb.repair c
  let lost := (lostPositions s c).filter fun p => decide (p ≠ x.spare.toNat)
  if lost = [] ∧ ! x.marked then s
  else
    let s1 := modRepair c (fun r => { r with failed := r.failed ++ lost.map (BitVec.ofNat 5) }) s
    if x.marked ∨ rep.qstack ∨ rep.spare.isSome ∨ lost.length ≥ 2 then withhold c s1
    else
      let p := BitVec.ofNat 5 (lost.getD 0 0)
      (modRepair c (fun r => { r with spare := some p }) s1).modCourse c fun x => { x with spare := p }

/-- A course is freed: VALID clears, spares apply, and PB1 sets it to RETAIN (R385); what INST_REQ holds offline leaves service. -/
def freeCourse (c : Nat) (s : State) : State :=
  let s1 := applySpare c (s.modCourse c fun x => { x with valid := false })
  let s2 := pb1Orders c 2 s1
  let s3 := instSync 2 (stackOf c) (instSync 0 c s2)
  let s4 := foldState (fun l s => instSync 1 l s) (linksOf (auxNode c)) s3
  foldState (fun i s => instSync 3 (i - 32) s) (ctlsOf (auxNode c)) s4

/-- What Pegbox holds of a region goes: program, images, sessions and the SEC_RDONE bit (R404). -/
def forgetRegion (r : Nat) (s : State) : State :=
  let s1 := dropParked (s.regionCores r) (endSessions (onRegion r) s)
  let s2 := modSec (fun x => { x with rdone := setBit x.rdone r false }) s1
  modPb (fun b => { b with programs := mapDel b.programs r, images := b.images.filter fun i => decide (i.2.region.toNat ≠ r) }) s2

/-- Steps 3 and 4 of R300. -/
def tearDown (r : Nat) (s : State) : State :=
  let cs := s.regionCourses r
  let s1 := foldState scrubCoreAll (s.regionCores r) s
  let s2 := foldState scrubCtlAll (cs.flatMap courseCtls) s1
  let s3 := foldState freeLink (cs.flatMap fun c => linksOf (auxNode c)) s2
  foldState freeCourse cs (forgetRegion r s3)

/-- Step 1 of R300. -/
def haltRegion (r : Nat) (s : State) : State :=
  foldState (fun n s => if (s.core n).ctl.halted ∨ (s.core n).lost.isSome then s else settle n (haltCore n s)) (s.regionCores r) s

/-- Halts a region's cores, and once its courses have stopped scrubs and frees it: whether it is gone (R300; log 37). -/
def destroyRegion (r : Nat) (s : State) : Bool × State :=
  let s1 := haltRegion r s
  if (s1.regionCourses r).any (courseRunning s1) then (false, s1) else (true, tearDown r s1)

/-- REGION_DESTROY: a destroy that must wait for its courses keeps its entry and is run again. -/
def regionDestroy (id : Nat) (e : JEntry) (s : State) : State :=
  let d := destroyRegion (msgTarget e.fn.val e.msg) s
  if d.1 then completeMsg id stOk 0 [] d.2 else d.2

def execRegionDestroy (id : Nat) (s : State) : Host.Outcome State Fault Refusal := .next (runMsg id 3 (regionDestroy id) s)

/-! ## LOAD_IMAGE -/

/-- LOAD_IMAGE: the image that the descriptor names, under a new handle (Table 12.9; log 10). -/
def loadImage (id : Nat) (e : JEntry) (image : Image) (s : State) : State :=
  let h := s.pb.nextHandle
  if h > 0xFFFF then completeMsg id stFailResources 0 [] s
  else
    completeMsg id stOk 0 (leBytes 2 h) <| modPb (fun b =>
      { b with nextHandle := h + 1, images := mapPut b.images h { region := BitVec.ofNat 16 (msgTarget e.fn.val e.msg), image := image } }) s

def execLoadImage (id : Nat) (image : Image) (s : State) : Host.Outcome State Fault Refusal :=
  .next (runMsg id 4 (fun e s => loadImage id e image s) s)

/-! ## The launch check (R358) -/

def t1Share (s : State) (r : Nat) : Nat := (s.regionCourses r).length * 0x300000000
/-- The far slots of a region, ascending (R209). -/
def farSlots (s : State) (r : Nat) : List Nat := (s.regionCourses r).filterMap farIndex
def slotSize : Nat := 0x2000000000
def t2Share (s : State) (r : Nat) : Nat := (farSlots s r).length * slotSize
def regionLinks (s : State) (r : Nat) : Nat := 2 * ((s.regionCourses r).filter linkCourses.contains).length

/-- Spillable segments, last declared first, until they cover what is short: the bytes and the segments chosen, in that order. -/
def chooseSpill (short : Nat) : List (Nat × T1Seg) → Nat × List Nat → Nat × List Nat
  | [], r => r
  | (i, g) :: gs, r =>
    if r.1 ≥ short then r
    else chooseSpill short gs (if g.spillable then (r.1 + g.size, r.2 ++ [i]) else r)

/-- The result of launch_check: status, bytes spilled with the segments chosen, and the four deficits. -/
structure LaunchCheck where
  status : Nat
  spilled : Nat
  chosen : List Nat
  dSp : Nat
  dT1 : Nat
  dT2 : Nat
  dLk : Nat
  deriving DecidableEq, Repr

def launchCheck (segs : List T1Seg) (allow : Bool) (sp t1 t2 lk : Nat) (s1 s2 links : Nat) : LaunchCheck :=
  let dSp := sp - (0x200000 - 0x2000)
  let short := t1 - s1
  let want := if short > 0 ∧ allow then chooseSpill short (((List.range segs.length).zip segs).reverse) (0, []) else (0, [])
  let spill := if want.1 < short then (0, []) else want
  let dT1 := short - spill.1
  let dT2 := t2 + spill.1 - s2
  let dLk := lk - links
  if dSp = 0 ∧ dT1 = 0 ∧ dT2 = 0 ∧ dLk = 0 then
    { status := if spill.1 > 0 then stDegraded else stOk, spilled := spill.1, chosen := spill.2, dSp := 0, dT1 := 0, dT2 := 0, dLk := 0 }
  else { status := stFailResources, spilled := 0, chosen := [], dSp := dSp, dT1 := dT1, dT2 := dT2, dLk := dLk }

/-- The payload of a LAUNCH's completion (Table 12.9). -/
def LaunchCheck.payload (c : LaunchCheck) : List Byte :=
  leBytes 8 c.spilled ++ leBytes 4 c.dSp ++ leBytes 8 c.dT1 ++ leBytes 8 c.dT2 ++ leBytes 2 c.dLk

/-! ## Placement (R359) -/

def roundUp4k (x : Nat) : Nat := (x + 4095) / 4096 * 4096
def slotBase (f : Nat) : Nat := tier2Base + f * slotSize

/-- Places segments in the slots of a region: each at a 4 KiB boundary, at the start of the next slot where the rest of one is too
small. None where they do not fit. -/
def placeSegs : List Nat → List Nat → Nat → Option (List Nat)
  | _, [], _ => some []
  | [], _ :: _, _ => none
  | [f], g :: gs, o =>
    if roundUp4k o + g ≤ slotSize then (placeSegs [f] gs (roundUp4k o + g)).map ((slotBase f + roundUp4k o) :: ·) else none
  | f :: f' :: fs, g :: gs, o =>
    if roundUp4k o + g ≤ slotSize then (placeSegs (f :: f' :: fs) gs (roundUp4k o + g)).map ((slotBase f + roundUp4k o) :: ·)
    else if g ≤ slotSize then (placeSegs (f' :: fs) gs g).map (slotBase f' :: ·)
    else none

/-- Where the segments of an image lie: tier-1 segments by number at their own or their tier-2 address, and tier-2 segments. -/
structure Placement where
  t1 : List Nat
  t2 : List Nat
  deriving DecidableEq, Repr

def placeImage (s : State) (r : Nat) (im : Image) (chosen : List Nat) : Option Placement :=
  let sizes := im.t2Segs ++ chosen.map fun i => (im.t1Segs[i]?.map (·.size)).getD 0
  (placeSegs (farSlots s r) sizes 0).map fun ps =>
    { t2 := ps.take im.t2Segs.length
      t1 := (List.range im.t1Segs.length).map fun i => match placeOf i chosen with
        | some k => (ps.drop im.t2Segs.length).getD k 0
        | none => (im.t1Segs[i]?.map (·.addr)).getD 0 }

/-! ## Root capabilities (R111, R198, Table 4.5) -/

def permTier1 : BitVec 12 := permOf [pR, pW, pLdcap, pStcap, pAtomic, pDma]
def permTier2 : BitVec 12 := permOf [pR, pW, pAtomic, pDma]
def permView : BitVec 12 := permOf [pR, pVolatile]
def permRemote : BitVec 12 := permOf [pR, pW, pDma, pRemote]
def permRemoteFrets : BitVec 12 := permOf [pW, pRemote]
def seg4g : Nat := 0x100000000

/-- A root capability of region r. -/
def root (r : Nat) (base limit : Nat) (perm : BitVec 12) : Cap :=
  mkCap true (BitVec.ofNat 48 base) (BitVec.ofNat 32 limit) 0xFFFF perm 0 (BitVec.ofNat 6 r)

/-- Piece k of an image's segment: at most 4 GiB, each 4 GiB above the one before (R198). -/
def segRoot (r a size k : Nat) (perm : BitVec 12) : Option Cap :=
  if size ≤ k * seg4g then none else some (root r (a + k * seg4g) (min (size - k * seg4g) seg4g - 1) perm)

/-- A region of another module (log 48). -/
def peer (s : State) (m : BitVec 16) (rg : BitVec 6) : Bool := decide (m ≠ 0xFFFF ∧ m ≠ s.module ∧ rg.toNat < 32)

/-- A range that a window can publish: bytes of one core's scratchpad outside the reserved area (R114, R203). -/
def windowRange (b : Addr) (l : Word) : Bool :=
  match placeOfAddr b with
  | .scratch n o => isCore n && decide (o + l.toNat < 0x1FE000)
  | _ => false

/-- The root that a declaration names, where the region has it (Table 4.5, R257). A spilled tier-1 segment keeps the permissions of
tier-1, so that its capabilities carry what the image declares (R359). -/
def rootCap (s : State) (r : Nat) (im : Image) (pl : Placement) (supervisor : Bool) : Root → Option Cap
  | .tier1 g => if g < 3 * (s.regionCourses r).length then some (root r (g * seg4g) (seg4g - 1) permTier1) else none
  | .tier2 g => ((farSlots s r)[g / 32]?).map fun f => root r (slotBase f + g % 32 * seg4g) (seg4g - 1) permTier2
  | .t1Seg i k => match pl.t1[i]?, im.t1Segs[i]? with
    | some a, some g => segRoot r a g.size k permTier1
    | _, _ => none
  | .t2Seg i k => match pl.t2[i]?, im.t2Segs[i]? with
    | some a, some z => segRoot r a z k permTier2
    | _, _ => none
  | .scratchpad k => (s.regionCore r k).map fun n => root r (scratchAddr n).toNat 0x1FDFFF permTier1
  | .imem k => (s.regionCore r k).map fun n => root r (blockAddr n).toNat 0x1FFFF (permOf [pR, pW, pX, pDma])
  | .frets k => (s.regionCore r k).map fun n => root r ((blockAddr n).toNat + 0x22000) 0x10EF (permOf [pW])
  | .supervisorFrets k => if supervisor then (s.regionCore r k).map fun n => root r ((blockAddr n).toNat + 0x22000) 0x10FF (permOf [pW]) else none
  | .control k => (s.regionCore r k).map fun n => root r ((blockAddr n).toNat + 0x20000) 0xFFF (permOf [pR, pW])
  | .viewTier1 g => if g < 3 * (s.regionCourses r).length then some (root r (g * seg4g) (seg4g - 1) permView) else none
  | .viewScratchpad k => (s.regionCore r k).map fun n => root r (scratchAddr n).toNat 0x1FDFFF permView
  | .remote m rg b l => if peer s m rg && windowRange b l then some (mkCap true b l m permRemote 0 rg) else none
  | .remoteFrets m rg n =>
    if peer s m rg && decide (nodeKind n.val = .core) then some (mkCap true (blockAddr n.val + 0x22000) 0x10EF m permRemoteFrets 0 rg) else none
  | .typeKey => some (mkCap true 0xFF00 0 0xFFFF (permOf [pSeal, pUnseal]) 0 (BitVec.ofNat 6 r))

/-- A declared capability: derived from its root as csub, or ckey for a type key, then cperm derive (R110, R111). -/
def deriveCap (s : State) (r : Nat) (im : Image) (pl : Placement) (supervisor : Bool) (d : CapDecl) : Option Cap :=
  match rootCap s r im pl supervisor d.root with
  | none => none
  | some c =>
    match (if d.root = .typeKey then capKey c 0 d.off else capSub c 0 d.off d.limit) with
    | .error _ => none
    | .ok c1 => match capPerm c1 0 (d.perm.zeroExtend 32) with
      | .error _ => none
      | .ok c2 => some c2

/-! ## LAUNCH (R360) -/

/-- Whether a thread's declaration can be loaded; a supervisor root belongs to its own core. -/
def threadGood (s : State) (r core : Nat) (im : Image) (pl : Placement) (t : ThreadDecl) : Bool :=
  ! badPc t.pc && t.caps.all fun d => (deriveCap s r im pl t.supervisor d).isSome &&
    (match d.root with | .supervisorFrets k => decide (k = core) | _ => true)

/-- Whether the region can hold an image: cores, offsets, program counters and capabilities. -/
def imageGood (s : State) (r : Nat) (im : Image) (pl : Placement) : Bool :=
  (im.cores.all fun d => (s.regionCore r d.core).isSome && (d.code.all fun b => decide (b.1 < 0x20000))
    && (d.scratch.all fun b => decide (b.1 < 0x1FE000)) && d.threads.all (threadGood s r d.core im pl))
    && (im.tier1.all fun b => decide (b.1 < t1Share s r) || im.t1Segs.any fun g => decide (g.addr ≤ b.1 ∧ b.1 < g.addr + g.size))
    && (im.t1Segs.zip pl.t1).all fun x => decide (tier1End ≤ x.2 ∨ x.1.addr + x.1.size ≤ t1Share s r)

/-- The device address of a declared tier-1 byte: a spilled segment's lie in tier-2. -/
def tier1Place (im : Image) (pl : Placement) (a : Nat) : Nat :=
  match findWith (fun g => decide (g.addr ≤ a ∧ a < g.addr + g.size)) im.t1Segs with
  | some (i, g) => pl.t1.getD i 0 + (a - g.addr)
  | none => a

/-- Step 3 for one core: what the image declares, and the locks. A core that it does not declare takes zeros. -/
def loadCore (r n : Nat) (d : Option CoreDecl) (s : State) : State :=
  let s1 := modCtlPage n (fun c =>
    { c with pool := (d.map (·.shareMode)).getD false, supv := (d.map (·.coreSupv)).getD 0, bind := (d.map (·.chBind)).getD 0
             escVector := (d.map (·.escVector)).getD none, lock := true, bindLock := true }) (afterReset r n s)
  let s2 := foldState (fun k s => s.modThread n k fun t => { t with gstack := gstackCap n k (BitVec.ofNat 5 r) }) (List.range 4) s1
  s2.modCore n fun c => c.modMem fun m =>
    let m1 := ((d.map (·.code)).getD []).foldl (fun m b => m.writeImem b.1 [b.2]) m
    ((d.map (·.scratch)).getD []).foldl (fun m b => m.writeScratch b.1 [b.2]) m1

/-- Step 4 for one thread: s0 to s15, then the start. -/
def loadThread (r n : Nat) (im : Image) (pl : Placement) (t : ThreadDecl) (s : State) : State :=
  let caps := t.caps.filterMap fun d => (deriveCap s r im pl t.supervisor d).map fun c => (d.reg, c)
  startThread n t.thread t.pc (s.modThread n t.thread.val fun x => caps.foldl (fun x c => x.setS c.1 c.2) { x with s := [] })

def declOf (im : Image) (i : Nat) : Option CoreDecl := im.cores.find? fun d => decide (d.core = i)

/-- BOOST_EN of the region's courses from the image; the PX896-B has none (R388). -/
def launchBoost (r : Nat) (im : Image) (s : State) : State :=
  modPwr (fun p => { p with boostEn :=
    if p.variantB then 0
    else (s.regionCourses r).foldl (fun a c => setBit a c (im.boost.any fun b => decide (b.val = c))) p.boostEn }) s

/-- Steps 1 to 4 of R360, with every channel idle. -/
def startProgram (r handle : Nat) (im : Image) (pl : Placement) (s : State) : State :=
  let ns := (s.regionCores r).filter fun n => decide ((s.core n).lost = none)
  let s1 := foldState (fun n s => s.modCore n resetCore) ns (dropParked ns (endSessions (onRegion r) s))
  let s2 := foldState (fun c s => syncDiv c ((takeBack c s).modCourse c fun x =>
    { resetCourse x with lend := im.lendMode, dwell := im.dwell, waitLock := true })) (s1.regionCourses r) s1
  let idx (n : Nat) : Nat := 27 * s.rankOf (courseOf n) + s.logical n
  let s3 := foldState (fun n s => loadCore r n (declOf im (idx n)) s) ns (launchBoost r im s2)
  let s4 := foldState (fun (b : Nat × Byte) s => regionWrite r (tier1Place im pl b.1) [b.2] s) im.tier1 s3
  let s5 := foldState (fun n s => foldState (loadThread r n im pl) (((declOf im (idx n)).map (·.threads)).getD []) s) ns s4
  let p : Program := { handle := handle, running := true, digest := im.digest, tenantKey := im.tenantKey }
  let s6 := modPb (fun b => { b with programs := mapPut b.programs r p }) s5
  foldState (fun n s => settle n s) ns s6

def State.program (s : State) (r : Nat) : Option Program := entryAt s.pb.programs r
def State.runs (s : State) (r : Nat) : Bool := match s.program r with
  | some p => p.running
  | none => false

/-- Whether a channel of a core runs. -/
def chansIdle (s : State) (n : Nat) : Bool := (List.range 8).all fun i => decide (((s.core n).chan i).run = none)

/-- LAUNCH (R358 to R360): while a channel still runs, it is aborted and the launch is run again. -/
def launch (id : Nat) (e : JEntry) (s : State) : State :=
  let r := msgTarget e.fn.val e.msg
  let f (o n : Nat) : Nat := msgField e.msg o n
  if s.held ∨ s.runs r then completeMsg id stBusy 0 [] s
  else match entryAt s.pb.images (f 38 2) with
    | none => completeMsg id stBadArgument 38 [] s
    | some li =>
      let ck := launchCheck li.image.t1Segs (decide (msgFlags e.msg % 2 = 1)) (f 16 4) (f 20 8) (f 28 8) (f 36 2) (t1Share s r) (t2Share s r)
        (regionLinks s r)
      if li.region.toNat ≠ r then completeMsg id stBadArgument 38 [] s
      else if ck.status = stFailResources then completeMsg id ck.status 0 ck.payload s
      else match placeImage s r li.image ck.chosen with
        | none => completeMsg id stBadArgument 38 [] s
        | some pl =>
          if ! imageGood s r li.image pl then completeMsg id stBadArgument 38 [] s
          else if (s.regionCores r).all (chansIdle s) then completeMsg id ck.status 0 ck.payload (startProgram r (f 38 2) li.image pl s)
          else foldState (fun n s => foldState (fun ch s => abortChan n ch s) (List.range 8) s) (s.regionCores r) s

def execLaunch (id : Nat) (s : State) : Host.Outcome State Fault Refusal := .next (runMsg id 5 (launch id) s)

/-! ## PROGRAM_END (R360) -/

/-- A core that no longer runs its program. -/
def coreEnded (c : Core) : Bool :=
  (List.range 4).all (fun k => decide ((c.thread k).st = .idle ∨ (c.thread k).st = .dead))
    && c.mat.pending.isEmpty && c.mat.seqOps.isEmpty && decide (c.mat.seq = none)
    && c.dma.queue.isEmpty && c.syn.queue.isEmpty && c.ranges.isEmpty && c.deferred.isEmpty

/-- Threads of a region that satisfy p. -/
def countThreads (s : State) (r : Nat) (p : Thread → Bool) : Nat :=
  ((s.regionCores r).flatMap fun n => (List.range 4).filter fun k => p (s.thread n k)).length

/-- The record of PROGRAM_END (Table 16.3). -/
def endRecord (s : State) (r : Nat) : List Byte :=
  leBytes 2 (countThreads s r fun t => decide (t.st = .dead)) ++ leBytes 2 (countThreads s r fun t => decide (t.st = .idle) && t.ran)
    ++ leBytes 4 s.timeLo.toNat

def programEnd (r : Nat) (s : State) : State :=
  match s.program r with
  | none => s
  | some p =>
    if p.running ∧ (s.regionCores r).all fun n => coreEnded (s.core n) then
      (modPb (fun b => { b with programs := mapPut b.programs r ({ p with running := false }) }) s).health
        { code := 7, record := endRecord s r, region := some (BitVec.ofNat 5 r) }
    else s

def execProgramEnd (region : RegionNo) (s : State) : Host.Outcome State Fault Refusal := .next (programEnd region.val s)

/-! ## SIGNAL and QUERY (R355) -/

/-- A SIGNAL's message is refused FULL: CH_FULL of the destination counts it, and it is sent again after the delay of R265 (R264, R267). -/
def signalFull (id n : Nat) (s : State) : State :=
  modPb (fun b => { b with journal := b.journal.map fun e =>
    if e.id = id then { e with due := s.mc + nextDelay e.delay, delay := nextDelay e.delay } else e })
    (modCtlPage n (fun x => { x with chFull := x.chFull + 1 }) s)

/-- SIGNAL: completes when the message is accepted (R267). -/
def signal (id : Nat) (e : JEntry) (s : State) : State :=
  let r := msgTarget e.fn.val e.msg
  let f (o n : Nat) : Nat := msgField e.msg o n
  match s.regionCore r (f 16 2) with
  | none => completeMsg id stBadArgument 16 [] s
  | some n =>
    if f 18 1 > 14 then completeMsg id stBadArgument 18 [] s
    else if f 19 1 = 0 ∨ f 19 1 > 4 then completeMsg id stBadArgument 19 [] s
    else if f 20 1 > 15 then completeMsg id stBadArgument 20 [] s
    else if (s.core n).lost.isSome then completeMsg id stDestLost 0 [] s
    else if (s.core n).ctl.halted then completeMsg id stOk 0 [] s
    else if s.mc < e.due then s
    else if ! (s.core n).msgRoom (f 18 1) then signalFull id n s
    else
      let m : Msg := { chan := BitVec.ofNat 4 (f 18 1), tag := BitVec.ofNat 4 (f 20 1)
                       words := (List.range (f 19 1)).map fun i => BitVec.ofNat 32 (f (24 + 4 * i) 4) }
      completeMsg id stOk 0 [] (settle n (acceptMsg n m s))

def execSignal (id : Nat) (s : State) : Host.Outcome State Fault Refusal := .next (runMsg id 6 (signal id) s)

/-- The READY words as a function sees them: a VF the bits of its region's courses, links, stacks and far channels, and READY_SYS
(R342). -/
def readyMirror (s : State) (fn : Nat) : List Word :=
  if fn = 0 then readyWords s
  else
    let cs := s.regionCourses (fn - 1)
    let mask (n : Nat) (own : Nat → Bool) (lo : Nat) : Word := (List.range n).foldl (fun a i => if own i then setBit a (i + lo) true else a) 0
    let link (i : Nat) : Bool := cs.contains (linkCourse i)
    let keep : List Word :=
      [mask 32 cs.contains 0, mask 32 link 0, mask 8 (fun i => link (i + 32)) 0,
        mask 8 (fun i => cs.any fun c => decide (stackOf c = i)) 0 ||| mask 16 (fun i => cs.contains (ctlCourse (32 + i))) 8, 0xFFFFFFFF]
    ((readyWords s).zip keep).map fun p => p.1 &&& p.2

/-- The spares in force, a VF seeing its region's courses only (R19). -/
def spareBytes (s : State) (fn : Nat) : List Byte :=
  (List.range 32).map fun c => if fn = 0 ∨ (s.regionCourses (fn - 1)).contains c then (s.course c).spare.zeroExtend 8 else 0

/-- QUERY: selectors 1 and 2 have a payload that the manual does not state (log 10). -/
def query (id : Nat) (e : JEntry) (s : State) : State :=
  let fn := e.fn.val
  match msgField e.msg 16 1 with
  | 0 => completeMsg id stOk 0 ((readyMirror s fn).flatMap (fun w => leBytes 4 w.toNat) ++ spareBytes s fn) s
  | 1 => completeMsg id stOk 0 ((Config.queryPayload 1 s.free).take 112) { s with free := s.free + 1 }
  | 2 => completeMsg id stOk 0 ((Config.queryPayload 2 s.free).take 112) { s with free := s.free + 1 }
  | _ => completeMsg id stBadArgument 16 [] s

def execQuery (id : Nat) (s : State) : Host.Outcome State Fault Refusal := .next (runMsg id 7 (query id) s)

end Sys2Proof.Machine
end

