-- ==== Sys2Proof/Machine/Security.lean ====
section
/-! DEFINITION. The security node's fuses and keys (R395, R396, R400), its trace registers and collector (R415, R417) and the TAP (R411). -/

namespace Sys2Proof.Machine

open Sys2Proof

/-! ## Lifecycle codes (Table 15.1) -/

def lifeBlank : BitVec 3 := 0
def lifeDevelop : BitVec 3 := 1
def lifeField : BitVec 3 := 3
def lifeReturn : BitVec 3 := 7

/-- SEC_LIFE's two-bit code of a lifecycle state: the number of its fuses. -/
def lifeCode (l : BitVec 3) : Nat := bn (bitOf l 0) + bn (bitOf l 1) + bn (bitOf l 2)

/-- The security version: the number of SVN bits set (Table 15.1). -/
def Security.svnCount (x : Security) : Nat := ((List.range 64).filter fun i => bitOf x.svn i).length

/-- SVN is blown up to a value, its lowest clear bits first (R395, R402; log 11). -/
def blowSvn (v : Nat) (x : Security) : Security :=
  (List.range 64).foldl (fun x i => if x.svnCount < v then { x with svn := setBit x.svn i true } else x) x

/-- SEC_LIFE and SEC_DBG (Table 15.11). -/
def secLifeWord (s : State) : Word := packWord [(s.sec.svnCount, 16), (lifeCode s.sec.lifeFuse, 4), (lifeCode s.sec.life, 0)]
def secDbgWord (s : State) : Word := packWord [(bn (! s.sec.sessions.isEmpty), 31), (s.sec.level.toNat, 0)]

/-! ## Keys (R396, R398, R400; log 11) -/

/-- The UDS as the fuses hold it: every bit blown to 1 in a returned module (R397). -/
def Security.uds (x : Security) : BitVec 384 := Config.uds ||| x.udsBlow

/-- HMAC-SHA-384 of a message under a 48-byte key, over its 128-byte block. -/
def hmac384 (key : List Byte) (m : List Byte) : BitVec 384 :=
  let pad (x : Byte) : List Byte := (padTo 128 key).map (· ^^^ x)
  Config.sha384 (pad 0x5C ++ leBytes 48 (Config.sha384 (pad 0x36 ++ m)).toNat)

/-- The CDI: HMAC-SHA-384(UDS, SHA-384 of the PB0 image). -/
def cdi (u : BitVec 384) (image : List Byte) : BitVec 384 := hmac384 (leBytes 48 u.toNat) (leBytes 48 (Config.sha384 image).toNat)

/-- What the boot ROM derives for the key store; nothing once UDS is all ones (R398). -/
def deriveKeys (x : Security) (image : List Byte) : Option KeyStore :=
  if x.uds = BitVec.allOnes 384 then none
  else some { deviceId := Config.dicePrivate x.uds, alias_ := Config.dicePrivate (cdi x.uds image) }

/-- The device identity public key. -/
def KeyStore.identity (k : KeyStore) : List Byte := Config.ecdsaPublic k.deviceId

/-- The chain DeviceID, then Alias, whose certificate the DeviceID key signs. -/
def KeyStore.chain (k : KeyStore) : List Byte :=
  let body := Config.certBody k.identity (Config.ecdsaPublic k.alias_)
  Config.certBody k.identity k.identity ++ body ++ Config.ecdsaSign k.deviceId (Config.sha384 body)

/-! ## Trace (R415, R417) -/

/-- TRACE_CTL, TRACE_PTR as read. -/
def traceCtlWord (s : State) : Word := packWord [(bn s.sec.traceEn, 31), (s.sec.traceRegion.toNat, 8), (bn s.sec.traceDest, 0)]
def tracePtrWord (s : State) : Word := packWord [(s.sec.traceLost.toNat, 24), (s.sec.traceNext.toNat, 0)]

/-- A write of TRACE_CTL: REGION and DEST hold while EN = 1; a rising EN clears LOST, and a trace that asks for lanes it does not own
sets FALLBACK (R362). DESIGN CHOICE (log 43): Table 15.11 has no WR_BUSY bit, so a write that a quiesce field of TRACE_CTL, TRACE_BASE or
TRACE_LEN refuses (R11) sets no flag. -/
def writeTraceCtl (v : Word) (s : State) : State :=
  let x := s.sec
  let a := fieldWrite false x.traceEn x.traceRegion (fld 5 v 12 8)
  let b := fieldWrite false x.traceEn x.traceDest (bitOf v 0)
  let en := bitOf v 31
  let s1 := modSec (fun x => { x with traceEn := en, traceDue := if en then x.traceDue else [], traceRegion := a.1, traceDest := b.1, traceLost := if en ∧ ! x.traceEn then 0 else x.traceLost }) s
  modHost (fun h => { h with traceFallback := en && ! b.1 && ! h.traceLanes }) s1

/-- TRACE_BASE is 4 KiB-aligned, TRACE_LEN a multiple of 4 KiB; both hold while EN = 1. -/
def writeTraceBase (v : DWord) (s : State) : State :=
  if s.sec.traceEn then s else modSec (fun x => { x with traceBase := BitVec.ofNat 64 (v.toNat / 4096 * 4096) }) s
def writeTraceLen (v : Word) (s : State) : State :=
  if s.sec.traceEn then s else modSec (fun x => { x with traceLen := BitVec.ofNat 32 (v.toNat / 4096 * 4096) }) s

/-- A trace record as bytes: node, thread, its kind, bundle address and TIME_LO in a unit of 256 bytes (log 10). -/
def TraceRec.bytes (r : TraceRec) : List Byte :=
  padTo 256 (leBytes 2 r.node ++ [BitVec.ofNat 8 r.thread.val, BitVec.ofNat 8 (bn r.fault)] ++ leBytes 4 r.addr.toNat ++ leBytes 4 r.time.toNat)

/-- The collector writes a record: to the lanes if they are owned and asked for, else to the buffer, which wraps at its end. -/
def traceWrite (r : TraceRec) (s : State) : State :=
  if s.host.traceLanes ∧ ! s.sec.traceDest then { s with outbox := s.outbox ++ [.trace r.bytes] }
  else if s.sec.traceLen = 0 then s
  else
    let at_ := s.sec.traceNext.toNat % (s.sec.traceLen.toNat / 256)
    modSec (fun x => { x with traceNext := BitVec.ofNat 24 ((at_ + 1) % (x.traceLen.toNat / 256)) })
      (regionWrite s.sec.traceRegion.toNat (s.sec.traceBase.toNat + 256 * at_) r.bytes s)

/-- TRACE_RECORD: the oldest record due of a thread is written, or, where that cannot be done within 1 µs, counted and dropped. -/
def traceRecord (n : Nat) (k : ThreadNo) (written : Bool) (s : State) : State :=
  match findWith (fun r => decide (r.node = n ∧ r.thread = k)) s.sec.traceDue with
  | none => s
  | some (i, r) =>
    let s1 := modSec (fun x => { x with traceDue := x.traceDue.eraseIdx i }) s
    if ! traced s n then s1
    else if ! written then modSec (fun x => { x with traceLost := satAdd x.traceLost 1 }) s1
    else traceWrite r s1

/-! ## TAP (R411, Table 15.7) -/

/-- The data registers of the TAP. -/
inductive TapReg where
  | boundary | idcode | dbgacc | bypass
  deriving DecidableEq, Repr

/-- The data register that the instruction register selects: in FIELD, boundary scan selects bypass unless DBG-FULL is open. -/
def tapReg (s : State) : TapReg :=
  if s.sec.ir = 0x00 ∨ s.sec.ir = 0x02 then (if s.sec.life = lifeField ∧ s.sec.level ≠ 3 then .bypass else .boundary)
  else if s.sec.ir = 0x01 then .idcode
  else if s.sec.ir = 0x10 then .dbgacc
  else .bypass

def tapInstr (code : Byte) (s : State) : State := modSec (fun x => { x with ir := code }) s

/-- IDCODE: stepping, 0x0896, the manufacturer's code, 1. -/
def idcodeWord (s : State) : Word := packWord [(s.host.stepping.toNat % 16, 28), (0x0896, 12), (Config.jedecCode.toNat, 1), (1, 0)]

def execExtest (s : State) : Host.Outcome State Fault Refusal := .next (tapInstr 0x00 s)
def execIdcode (s : State) : Host.Outcome State Fault Refusal := .next { tapInstr 0x01 s with rdata := (idcodeWord s).zeroExtend 64 }
def execSamplePreload (s : State) : Host.Outcome State Fault Refusal := .next (tapInstr 0x02 s)
/-- DBGACC: 16 bytes of a request object per update. -/
def execDbgacc (data : BitVec 128) (s : State) : Host.Outcome State Fault Refusal :=
  .next (modSec (fun x => { x with dbgacc := x.dbgacc ++ leBytes 16 data.toNat }) (tapInstr 0x10 s))
def execBypass (s : State) : Host.Outcome State Fault Refusal := .next (tapInstr 0xFF s)

end Sys2Proof.Machine
end

