-- ==== Sys2Proof/Machine/PbCtl.lean ====
section
/-! DEFINITION. Pegbox's images and their verification (R399, R401), and the restarts of its cores (R372, R373). -/

namespace Sys2Proof.Machine

open Sys2Proof

/-! ## Verification (R399, R401) -/

def State.flash (s : State) (b : Bool) : Map Byte := if b then s.pb.flashB else s.pb.flashA
def State.pbImage (s : State) (b : Bool) (n : Nat) : Config.PbImage := Config.pbImage (s.flash b) n

/-- Whether PB0 accepts the image of core n in a bank. -/
def imageVerifies (s : State) (b : Bool) (n : Nat) : Bool :=
  let i := s.pbImage b n
  ! bitOf s.sec.keyRev i.slot.toNat && decide (i.keyHash = mapGet 0 s.sec.keyHash i.slot.toNat) && i.signatureGood
    && decide (s.sec.svnCount ≤ i.svn) && ! (decide (s.sec.life = lifeField ∨ s.sec.life = lifeReturn) && decide (i.slot = 3))
    && (decide (s.sec.life ≠ lifeBlank) || (decide (i.slot = 0) && i.manufacture))

/-! ## Restarts (R372 to R374) -/

/-- PBn restarts from the image in its bank; its registers and its local memory are lost (R372). -/
def restartPb (n : Nat) (s : State) : State :=
  readyEvent s <| modPb (fun b =>
    { b with run := setBit b.run n false, restarting := setBit b.restarting n true, kickAt := mapSet 0 b.kickAt n s.mc
             t0 := mapDel b.t0 n, localMem := mapSet [] b.localMem n [] }) s

/-- PB_CTL takes a value: BANK, then the restarts. -/
def pbCtlTake (v : Word) (s : State) : State :=
  foldState (fun n s => if bitOf v n then restartPb n s else s) (List.range 4) (modPb (fun b => { b with bank := fld 4 v 7 4 }) s)

/-- A write of PB_CTL. Only PB0 writes it (R372), which waits while PB0 does not run (R374). -/
def pbCtlWrite (who : Accessor) (v : Word) (s : State) : State := if who = .pb 0 then pbDoes 0 (.restart v) (pbCtlTake v) s else s

def execPbReset (who : Accessor) (value : Word) (s : State) : Host.Outcome State Fault Refusal := .next (pbCtlWrite who value s)

/-- The mesh cycles of the watchdog period (R373; MS = 0 acts as 1). -/
def wdogMc (s : State) : Nat := max 1 s.pb.wdogMs.toNat * (1000 * usMc)

/-- PB_KICKn restarts the period (R373); a core that has missed its deadline is restarted, whatever it writes after. -/
def pbKick (n : Nat) (s : State) : State :=
  if s.pbRuns n ∧ s.mc ≥ mapGet 0 s.pb.kickAt n + wdogMc s then s else modPb (fun b => { b with kickAt := mapSet 0 b.kickAt n s.mc }) s
def execPbKick (n : PbNo) (s : State) : Host.Outcome State Fault Refusal := .next (pbKick n.val s)

end Sys2Proof.Machine
end

