-- ==== Sys2Proof/Machine/Registers.lean ====
section
/-! DEFINITION. Registers reached by offset: who reaches which block (R303, R333, R377, R394, R417, R339, R340), the course mesh page,
the L node block, the Pegbox, power manager and security pages, BAR0 (Table 12.4, Table 12.7), 64-bit values under R3, and the commands
that write and read them. -/

namespace Sys2Proof.Machine

open Sys2Proof

/-! ## Who reaches a register -/

/-- A core block admits Pegbox and its own region's cores and threads (R204, R247; log 25). -/
def blockAdmits (s : State) (n : Nat) (who : Accessor) : Bool :=
  let own (m : Nat) : Bool := isCore m && (s.course (courseOf n)).valid && (s.course (courseOf m)).valid && decide (s.regionOf m = s.regionOf n)
  (coreRefusal s n).isNone && match who with
    | .pb _ => true
    | .thread m _ => own m.val
    | .core m => own m.val
    | _ => false

/-- A node block that is no core's: the Pegbox pages admit Pegbox and the security node, the others Pegbox alone. -/
def reachesNode (n : Nat) (who : Accessor) : Bool := isPb who || (decide (n = pegboxNode) && decide (who = .security))

/-- BAR0 admits its own function, and the emulated window also the BMC (R344). -/
def reachesBar (f : FnNo) (off : Nat) (who : Accessor) : Bool :=
  decide (who = .fn f) || (decide (who = .bmc) && decide (f.val = 0 ∧ off < 0x1000))

def mayReach (s : State) (who : Accessor) : RegAddr → Bool
  | .block n _ => if isCore n.val then blockAdmits s n.val who else reachesNode n.val who
  | .bar0 f off => reachesBar f off.toNat who

/-! ## Course mesh page (Tables 10.4 to 10.9) -/

/-- COURSE_RECT and COURSE_SPARE as read. -/
def Course.rectWord (c : Course) : Word :=
  packWord [(bn c.valid, 31), (c.region.toNat, 24), (c.cx1.toNat, 11), (c.cy1.toNat, 9), (c.cx0.toNat, 6), (c.cy0.toNat, 4)]
def Course.spareWord (c : Course) : Word := packWord [(bn c.withheld, 31), (c.spare.toNat, 0)]

def meshPageRead (s : State) (c off : Nat) : Word :=
  let x := s.course c
  if off = 0x000 then x.rectWord
  else if off = 0x004 then x.spareWord
  else if off = 0x008 then packWord [(bn x.wrBusy, 31), (bn x.failSeen, 30)]
  else if 0x010 ≤ off ∧ off < 0x020 then (mapGet 0 x.linkFail ((off - 0x010) / 4)).zeroExtend 32
  else if off = 0x020 then x.crcRetry
  else if off = 0x024 then x.resync
  else if off = 0x028 then x.ctrlLate
  else if off = 0x02C then x.escTaken
  else if off = 0x030 then x.malformed
  else 0

/-- COURSE_RECT: each field holds its value while the course runs (R300). -/
def Course.writeRect (x : Course) (running : Bool) (v : Word) : Course :=
  let va := fieldWrite false running x.valid (bitOf v 31)
  let re := fieldWrite false running x.region (fld 5 v 28 24)
  let a := fieldWrite false running x.cx1 (fld 3 v 13 11)
  let b := fieldWrite false running x.cy1 (fld 2 v 10 9)
  let c := fieldWrite false running x.cx0 (fld 3 v 8 6)
  let d := fieldWrite false running x.cy0 (fld 2 v 5 4)
  { x with valid := va.1, region := re.1, cx1 := a.1, cy1 := b.1, cx0 := c.1, cy0 := d.1
           wrBusy := x.wrBusy || va.2.2 || re.2.2 || a.2.2 || b.2.2 || c.2.2 || d.2.2 }

/-- COURSE_SPARE: SPARE holds while VALID = 1 (R301); positions 7, 22, 30 and 31 are ignored. -/
def Course.writeSpare (x : Course) (v : Word) : Course :=
  let p := v.toNat % 32
  let good := decide (p < 30 ∧ p ≠ hbmPos ∧ p ≠ auxPos)
  let a := fieldWrite false x.valid x.spare (if good then v.truncate 5 else x.spare)
  { x with withheld := bitOf v 31, spare := a.1, wrBusy := x.wrBusy || a.2.2 }

/-- COURSE_SPARE written: a withheld course is not READY (R342), and one that no longer is withheld is where its domain is up. -/
def spareWrite (c : Nat) (v : Word) (s : State) : State :=
  let s1 := s.modCourse c (·.writeSpare v)
  if bitOf v 31 = (s.course c).withheld then s1
  else readyEvent s (modHost (fun h => { h with readyCourse := setBit h.readyCourse c (! bitOf v 31 && decide ((s.dom c).state.toNat < 4)) }) s1)

def meshPageWrite (c off : Nat) (v : Word) (s : State) : State :=
  if off = 0x000 then courseSync c (s.modCourse c (·.writeRect (courseRunning s c) v))
  else if off = 0x004 then spareWrite c v s
  else if off = 0x008 then s.modCourse c fun x => { x with wrBusy := x.wrBusy && ! bitOf v 31, failSeen := x.failSeen && ! bitOf v 30 }
  else if off = 0x020 then s.modCourse c fun x => { x with crcRetry := v }
  else if off = 0x024 then s.modCourse c fun x => { x with resync := v }
  else if off = 0x028 then s.modCourse c fun x => { x with ctrlLate := v }
  else if off = 0x02C then s.modCourse c fun x => { x with escTaken := v }
  else if off = 0x030 then s.modCourse c fun x => { x with malformed := v }
  else s

/-! ## L node block (Tables 11.10 to 11.14) -/

/-- The link that LINK_SEL selects at an L node. -/
def State.selLink (s : State) (n : Nat) : Nat := (firstLink n).getD 0 + bn (s.lnode n).sel

/-- RAIL_GEN_DRAIN of an L node. -/
def State.drainWord (s : State) (n : Nat) : Word := packWord [(bn s.allDrained, 1), (bn (s.drained n), 0)]

def linkPageRead (s : State) (n off : Nat) : Word :=
  let k := s.link (s.selLink n)
  if off = 0x000 then packWord [(bn (s.lnode n).sel, 0)]
  else if off = 0x004 then k.ctlWord
  else if off = 0x008 then k.statWord
  else if off = 0x00C then k.holdUs.zeroExtend 32
  else if off = 0x010 then k.peerWord
  else if off = 0x014 then k.epochWord
  else if off = 0x018 then k.seqWord
  else if off = 0x01C then k.errWord
  else if off = 0x020 then k.replays
  else if off = 0x024 then (s.lnode n).evt.zeroExtend 32
  else if off = 0x040 then packWord [(bn s.rail.ainc, 31), (s.rail.entry.toNat, 0)]
  else if off = 0x04C then packWord [(bn s.rail.hold, 31), (s.rail.gen.toNat, 0)]
  else if off = 0x050 then s.drainWord n
  else 0

def linkPageWrite (n off : Nat) (v : Word) (s : State) : State :=
  let l := s.selLink n
  if off = 0x000 then modLnode n (fun x => { x with sel := bitOf v 0 }) s
  else if off = 0x004 then linkCtlWrite l v s
  else if off = 0x00C then s.modLink l fun k => { k with holdUs := v.truncate 16 }
  else if off = 0x01C then s.modLink l fun k =>
    { k with errLength := fld 8 v 31 24, errCrc := fld 8 v 23 16, errTenant := fld 8 v 15 8, errMisroute := v.truncate 8 }
  else if off = 0x020 then s.modLink l fun k => { k with replays := v }
  else if off = 0x024 then modLnode n (fun x => { x with evt := x.evt &&& ~~~(v.truncate 2) }) s
  else if off = 0x040 then { s with rail := { s.rail with ainc := bitOf v 31, entry := v.truncate 16 } }
  else if off = 0x04C then pbDoes 3 (.railGen v false) (railGenWrite v) s
  else s

/-! ## Pegbox registers (Table 13.7) -/

def pbPageRead (s : State) (off : Nat) : Word :=
  if off = 0x000 then packWord [(s.pb.bank.toNat, 4)]
  else if off = 0x004 then packWord [(s.pb.bootfail.toNat, 12), (s.pb.wdog.toNat, 8), (s.pb.restarting.toNat, 4), (s.pb.run.toNat, 0)]
  else if off = 0x008 then s.pb.wdogMs.zeroExtend 32
  else 0

def pbPageWrite (who : Accessor) (off : Nat) (v : Word) (s : State) : State :=
  if off = 0x000 then pbCtlWrite who v s
  else if off = 0x004 then modPb (fun b => { b with bootfail := b.bootfail &&& ~~~(fld 4 v 15 12), wdog := b.wdog &&& ~~~(fld 4 v 11 8) }) s
  else if off = 0x008 then modPb (fun b => { b with wdogMs := v.truncate 16 }) s
  else if 0x010 ≤ off ∧ off < 0x020 then pbKick ((off - 0x010) / 4) s
  else s

/-! ## Power manager page (Tables 14.2, 14.8, 14.9) -/

/-- Who a SHELL_SEL belongs to. -/
def shellUser : Accessor → ShellUser
  | .pb n => .pb n
  | _ => .security

/-- SHELL_CTL to SHELL_STAT of a selected shell. -/
def shellRead (s : State) (k off : Nat) : Word :=
  let x := s.shell k
  if off = 0x004 then packWord [(bn x.lock, 31), (bn x.en, 30), (x.setpoint.toNat, 0)]
  else if off = 0x008 then x.result.zeroExtend 32
  else if off = 0x00C then x.trim.zeroExtend 32
  else packWord [(bn x.lockViol, 31), (bn x.wrBusy, 30), (bn x.fault, 29), (bn x.busy, 28), (bn (x.ready (k / 256) s.mc), 27), ((x.now (k / 256) s.mc).toNat, 0)]

/-- SHELL_CTL.EN, a quiesce field while the shell calibrates; a shell that it enables settles anew. -/
def Shell.writeEn (x : Shell) (kind mc : Nat) (b : Bool) : Shell :=
  let a := fieldWrite false x.busy x.en b
  if a.1 = x.en then { x with wrBusy := x.wrBusy || a.2.2 } else { x.asOf kind mc with en := a.1, lost := false }

/-- SHELL_CTL written whole: SETPOINT, then EN, then LOCK. -/
def writeShellCtl (k : Nat) (reg : RegAddr) (who : Accessor) (v : Word) (s : State) : State :=
  let s1 := writeSetpoint k (v.truncate 16) reg who s
  modShell k (fun x => let y := x.writeEn (k / 256) s.mc (bitOf v 30); { y with lock := y.lock || bitOf v 31 }) s1

/-- SHELL_TRIM: locked by LOCK, held while the shell calibrates. -/
def writeTrim (k : Nat) (reg : RegAddr) (who : Accessor) (v : Word) (s : State) : State :=
  let x := s.shell k
  let a := fieldWrite x.lock x.busy x.trim (v.truncate 8)
  let s1 := modShell k (fun x => { x with trim := a.1, lockViol := x.lockViol || a.2.1, wrBusy := x.wrBusy || a.2.2 }) s
  if a.2.1 then logLock reg who s1 else s1

def shellWrite (k off : Nat) (reg : RegAddr) (who : Accessor) (v : Word) (s : State) : State :=
  if off = 0x004 then writeShellCtl k reg who v s
  else if off = 0x008 then (if bitOf v 31 then modShell k (fun x => { x with busy := true }) s else s)
  else if off = 0x00C then writeTrim k reg who v s
  else modShell k (fun x => { x with lockViol := x.lockViol && ! bitOf v 31, wrBusy := x.wrBusy && ! bitOf v 30, fault := x.fault && ! bitOf v 29 }) s

/-- DOM_STAT of the selected domain; 58 to 63 select none. -/
def domWord (s : State) : Word :=
  let d := s.pwr.domSel.toNat
  if d ≥ 58 then 0 else packWord [(bn (s.dom d).refused, 31), ((s.dom d).target.toNat, 8), (s.domState d, 0)]

/-- The courses in LENT. -/
def State.lentCount (s : State) : Nat := ((List.range 32).filter fun c => decide ((s.course c).wstate = .lent)).length

def pwrPageRead (s : State) (who : Accessor) (off : Nat) : Word :=
  let u := shellUser who
  if off = 0x000 then s.shellSel u
  else if off ≤ 0x010 then (match s.selected u with
    | some k => shellRead s k off
    | none => 0)
  else if off = 0x040 then s.pwr.domSel.zeroExtend 32
  else if off = 0x044 then domWord s
  else if off = 0x050 then packWord [(s.effCap.2, 30), (s.effCap.1, 0)]
  else if off = 0x054 then
    packWord [(bn s.pwr.fastcap, 31), (bn s.pwr.hwtherm, 30), (bn s.pwr.trip, 29), (min s.pwr.pool 1023, 16), (s.pwr.boosted.length, 8),
      (s.lentCount, 0)]
  else if off = 0x058 then (if s.pwr.variantB then 0 else s.pwr.boostEn)
  else 0

/-- A write of the power manager page; only PB1 orders a domain (R383). -/
def pwrPageWrite (who : Accessor) (off : Nat) (v : Word) (s : State) : State :=
  let u := shellUser who
  if off = 0x000 then modPwr (fun p => { p with sels := mapSet 0 p.sels (userIx u) (v &&& 0x7FF) }) s
  else if off ≤ 0x010 then (match s.selected u with
    | some k => shellWrite k off (pwrReg off) who v s
    | none => s)
  else if off = 0x040 then modPwr (fun p => { p with domSel := v.truncate 6 }) s
  else if off = 0x044 then
    let s1 := if bitOf v 31 ∧ s.pwr.domSel.toNat < 58 then modDom s.pwr.domSel.toNat (fun x => { x with refused := false }) s else s
    if who = .pb 1 then writeTarget (fld 3 v 10 8) s1 else s1
  else if off = 0x054 then
    modPwr (fun p => { p with fastcap := p.fastcap && ! bitOf v 31, hwtherm := p.hwtherm && ! bitOf v 30, trip := p.trip && ! bitOf v 29 }) s
  else if off = 0x058 then (if s.pwr.variantB then s else modPwr (fun p => { p with boostEn := v }) s)
  else s

/-! ## Security page (Table 15.11) -/

def secPageRead (s : State) (off : Nat) : Word :=
  if off = 0x000 then secLifeWord s
  else if off = 0x004 then secDbgWord s
  else if off = 0x008 then s.sec.rdbg
  else if off = 0x00C then s.sec.rdone
  else if off = 0x010 then packWord [(bn s.sec.ctlLock, 31), (bn s.sec.emuLock, 0)]
  else if off = 0x020 then traceCtlWord s
  else if off = 0x02C then s.sec.traceLen
  else if off = 0x030 then tracePtrWord s
  else 0

/-- SEC_CTL: EMU_LOCK under LOCK. DESIGN CHOICE (log 43): Table 15.11 has no LOCK_VIOL bit, so a refused write (R8) is logged and sets no
flag. -/
def writeSecCtl (reg : RegAddr) (who : Accessor) (v : Word) (s : State) : State :=
  let a := fieldWrite s.sec.ctlLock false s.sec.emuLock (bitOf v 0)
  let s1 := modSec (fun x => { x with emuLock := a.1, ctlLock := x.ctlLock || bitOf v 31 }) s
  if a.2.1 then logLock reg who s1 else s1

def secPageWrite (reg : RegAddr) (who : Accessor) (off : Nat) (v : Word) (s : State) : State :=
  if off = 0x010 then writeSecCtl reg who v s
  else if off = 0x020 then writeTraceCtl v s
  else if off = 0x02C then writeTraceLen v s
  else s

/-! ## BAR0 (Tables 12.2 to 12.7) -/

/-- The master that an accessor of the emulated window is. -/
def barMaster (f : FnNo) (who : Accessor) : Nat := if who = .bmc then 33 else f.val

def versionWord (s : State) : Word := packWord [(s.host.stepping.toNat, 24), (s.host.fw.toNat, 8), (0x12, 0)]
def hostErrWord (s : State) (f : Nat) : Word := packWord [(bn (s.hostErr f).apRef, 31), (bn (s.hostErr f).dbBad, 30), ((s.hostErr f).apCount.toNat, 0)]

/-- The status registers; a VF's mirror shows the READY words, VERSION and its own HOST_ERR (R340, R342). -/
def statusRead (s : State) (f off : Nat) : Word :=
  if 0x1000 ≤ off ∧ off < 0x1014 then (readyMirror s f).getD ((off - 0x1000) / 4) 0
  else if off = 0x1014 then versionWord s
  else if off = 0x1020 then hostErrWord s f
  else if f ≠ 0 then 0
  else if off = 0x1018 then s.host.alertCause.zeroExtend 32
  else if off = 0x101C then packWord [(s.host.alertMsix.toNat, 8), (s.host.alertPin.toNat, 0)]
  else if off = 0x1024 then packWord [(bn s.host.traceLanes, 1), (bn s.host.traceFallback, 0)]
  else 0

/-- Writing 1 to AP_REF clears it with AP_COUNT. -/
def HostErr.clear (e : HostErr) (v : Word) : HostErr :=
  { apRef := e.apRef && ! bitOf v 31, dbBad := e.dbBad && ! bitOf v 30, apCount := if bitOf v 31 then 0 else e.apCount }

def statusWrite (f off : Nat) (v : Word) (s : State) : State :=
  if off = 0x1020 then modHostErr f (·.clear v) s
  else if f ≠ 0 then s
  else if off = 0x1018 then modHost (fun h => { h with alertCause := h.alertCause &&& ~~~(v.truncate 4) }) s
  else if off = 0x101C then modHost (fun h => { h with alertMsix := fld 4 v 11 8, alertPin := v.truncate 4 }) s
  else s

/-- The one-word registers of a queue pair. -/
def qpRead (s : State) (f q r : Nat) : Word :=
  let x := s.qp f q
  if r = 0x10 then packWord [(bn x.en, 31), (x.sqLog.toNat, 16), (x.cqLog.toNat, 8), (bn x.ie, 6), (x.vector.toNat, 0)]
  else if r = 0x14 then x.sqTail.zeroExtend 32
  else if r = 0x18 then x.cqHead.zeroExtend 32
  else if r = 0x1C then packWord [(bn x.wrBusy, 31), (bn x.cfgErr, 30), (x.sqHead.toNat, 16), (x.cqTail.toNat, 0)]
  else 0

def qpWrite (f q r : Nat) (v : Word) (s : State) : State :=
  if r = 0x10 then qpConfig f q v s
  else if r = 0x14 then sqDoorbell f q v s
  else if r = 0x18 then cqDoorbell f q v s
  else if r = 0x1C then modQp f q (fun x => { x with wrBusy := x.wrBusy && ! bitOf v 31, cfgErr := x.cfgErr && ! bitOf v 30 }) s
  else s

/-- Whether an offset of BAR0 lies in the emulated window of a function (R339, R340). -/
def inWindow (f off : Nat) : Bool := decide (off < if f = 0 then 0x1000 else 0x400)

/-- The queue pair and register of an offset of BAR0, if it names one. -/
def qpPlace (f off : Nat) : Option (Nat × Nat) :=
  if 0x2000 ≤ off ∧ off < 0x2000 + 32 * fnUnits f then some ((off - 0x2000) / 32, (off - 0x2000) % 32) else none

def barRead (s : State) (f : FnNo) (who : Accessor) (off : Nat) : Word :=
  if inWindow f.val off then emuRead s (barMaster f who) off
  else match qpPlace f.val off with
    | some (q, r) => qpRead s f.val q r
    | none => statusRead s f.val off

def barWrite (f : FnNo) (who : Accessor) (off : Nat) (v : Word) (s : State) : State :=
  if inWindow f.val off then emuWrite (barMaster f who) off v s
  else match qpPlace f.val off with
    | some (q, r) => qpWrite f.val q r v s
    | none => statusWrite f.val off v s

/-! ## 64-bit values (R3) -/

/-- The 64-bit values: the rail table's selected entry, TRACE_BASE, a function's APERTURE_BASE and ring bases. -/
inductive WideReg where
  | rail
  | traceBase
  | aperture (f : FnNo)
  | sqBase (f : FnNo) (q : Nat)
  | cqBase (f : FnNo) (q : Nat)
  deriving DecidableEq, Repr

/-- The value that a register is a word of, and whether it is the upper word. -/
def wideOf : RegAddr → Option (WideReg × Bool)
  | .block n off =>
    if nodeKind n.val = .link then
      if off.toNat = 0x044 then some (.rail, false) else if off.toNat = 0x048 then some (.rail, true) else none
    else if n.val = securityNode then
      if off.toNat = 0x024 then some (.traceBase, false) else if off.toNat = 0x028 then some (.traceBase, true) else none
    else none
  | .bar0 f off =>
    if off.toNat = 0x1040 then some (.aperture f, false)
    else if off.toNat = 0x1044 then some (.aperture f, true)
    else match qpPlace f.val off.toNat with
      | some (q, r) =>
        if r = 0x00 then some (.sqBase f q, false) else if r = 0x04 then some (.sqBase f q, true)
        else if r = 0x08 then some (.cqBase f q, false) else if r = 0x0C then some (.cqBase f q, true)
        else none
      | none => none

/-- The lower word's address, which the holding register and the shadow of an accessor go by. Every L node's block reaches the one rail
table. -/
def WideReg.key : WideReg → RegAddr
  | .rail => .block (Fin.ofNat 960 firstLnode) 0x044
  | .traceBase => .block (Fin.ofNat 960 securityNode) 0x024
  | .aperture f => .bar0 f 0x1040
  | .sqBase f q => .bar0 f (BitVec.ofNat 16 (0x2000 + 32 * q))
  | .cqBase f q => .bar0 f (BitVec.ofNat 16 (0x2008 + 32 * q))

/-- APERTURE_BASE as read: a VF's REGION is its own. -/
def apertureWord (s : State) (f : FnNo) : DWord :=
  let a := s.aperture f.val
  BitVec.ofNat 64 (apRegion s f.val * 2 ^ 48 + a.base.toNat * 2 ^ 20)

/-- The value in force. -/
def wideValue (s : State) : WideReg → DWord
  | .rail => railHiWord s ++ railLoWord s
  | .traceBase => s.sec.traceBase
  | .aperture f => apertureWord s f
  | .sqBase f q => (s.qp f.val q).sqBase
  | .cqBase f q => (s.qp f.val q).cqBase

/-- APERTURE_BASE written. -/
def writeAperture (f : FnNo) (v : DWord) (s : State) : State :=
  let a : Aperture := { base := BitVec.ofNat 28 (v.toNat / 2 ^ 20), region := if f.val = 0 then BitVec.ofNat 5 (v.toNat / 2 ^ 48) else (s.aperture f.val).region }
  modHost (fun h => { h with apertures := mapSet {} h.apertures f.val a }) s

/-- A ring base, a quiesce field while the pair is enabled (R346). -/
def Qp.writeBase (x : Qp) (cq : Bool) (v : DWord) : Qp :=
  if cq then let a := fieldWrite false x.en x.cqBase v; { x with cqBase := a.1, wrBusy := x.wrBusy || a.2.2 }
  else let a := fieldWrite false x.en x.sqBase v; { x with sqBase := a.1, wrBusy := x.wrBusy || a.2.2 }

/-- Both words taken together. -/
def wideTake (r : WideReg) (lo hi : Word) (s : State) : State :=
  match r with
  | .rail => railEntryWrite lo hi s
  | .traceBase => writeTraceBase (hi ++ lo) s
  | .aperture f => writeAperture f (hi ++ lo) s
  | .sqBase f q => modQp f.val q (·.writeBase false (hi ++ lo)) s
  | .cqBase f q => modQp f.val q (·.writeBase true (hi ++ lo)) s

def modWide (f : WideRegs → WideRegs) (s : State) : State := { s with wide := f s.wide }

/-- A write of the lower word goes to the holding register. -/
def wideLowWrite (who : Accessor) (r : WideReg) (v : Word) (s : State) : State :=
  modWide (fun w => { w with hold := assocSet (who, r.key) v w.hold }) s

/-- The lower word that a write of the upper word takes. -/
def heldLow (who : Accessor) (r : WideReg) (s : State) : Word := (assocGet (who, r.key) s.wide.hold).getD ((wideValue s r).truncate 32)

/-- A write of the upper word takes both. DESIGN CHOICE (log 43): a value's words held for other accessors stay held (R3). -/
def wideHighWrite (who : Accessor) (r : WideReg) (v : Word) (s : State) : State :=
  wideTake r (heldLow who r s) v (modWide (fun w => { w with hold := assocDel (who, r.key) w.hold }) s)

/-- A read of the lower word captures the upper one. -/
def wideLowRead (who : Accessor) (r : WideReg) (s : State) : Word × State :=
  ((wideValue s r).truncate 32, modWide (fun w => { w with shadow := assocSet (who, r.key) ((wideValue s r).extractLsb' 32 32) w.shadow }) s)

/-- A read of the upper word: the valid shadow, which it marks invalid, or the current word. An access of RAIL_HI moves ENTRY on. -/
def wideHighRead (who : Accessor) (r : WideReg) (s : State) : Word × State :=
  let v := (assocGet (who, r.key) s.wide.shadow).getD ((wideValue s r).extractLsb' 32 32)
  let s1 := modWide (fun w => { w with shadow := assocDel (who, r.key) w.shadow }) s
  (v, if r = .rail then railAdvance s1 else s1)

/-! ## A register by its address -/

/-- A word of a node block. -/
def blockRead (s : State) (n off : Nat) (who : Accessor) : Word :=
  match nodeKind n with
  | .core => corePageRead s n off
  | .hbm => if off < 0x80000 then 0 else meshPageRead s (courseOf n) (off - 0x80000)
  | .link => linkPageRead s n off
  | .far => 0
  | .service =>
    if n = pegboxNode then (if off < 0x10000 then pbPageRead s off else pwrPageRead s who (off - 0x10000))
    else if n = securityNode then secPageRead s off
    else 0

def blockWrite (n off : Nat) (who : Accessor) (v : Word) (s : State) : State :=
  match nodeKind n with
  | .core => settle n (corePageWrite who n off v s)
  | .hbm => if off < 0x80000 then s else meshPageWrite (courseOf n) (off - 0x80000) v s
  | .link => linkPageWrite n off v s
  | .far => s
  | .service =>
    if n = pegboxNode then (if off < 0x10000 then pbPageWrite who off v s else pwrPageWrite who (off - 0x10000) v s)
    else if n = securityNode then secPageWrite (.block (Fin.ofNat 960 n) (BitVec.ofNat 20 off)) who off v s
    else s

/-- A read of a register word, with what the read changes; an offset inside a word names no register. -/
def regRead (who : Accessor) (a : RegAddr) (s : State) : Word × State :=
  match wideOf a with
  | some (r, false) => wideLowRead who r s
  | some (r, true) => wideHighRead who r s
  | none => match a with
    | .block n off => (if off.toNat % 4 = 0 then blockRead s n.val off.toNat who else 0, s)
    | .bar0 f off => (if off.toNat % 4 = 0 then barRead s f who off.toNat else 0, s)

/-- A write of a register word. -/
def regWrite (who : Accessor) (a : RegAddr) (v : Word) (s : State) : State :=
  match wideOf a with
  | some (r, false) => wideLowWrite who r v s
  | some (r, true) => wideHighWrite who r v s
  | none => match a with
    | .block n off => if off.toNat % 4 = 0 then blockWrite n.val off.toNat who v s else s
    | .bar0 f off => if off.toNat % 4 = 0 then barWrite f who off.toNat v s else s

/-! ## The commands -/

/-- REGISTER_WRITE: a byte or half-word access has no effect (R2), nor has one from an accessor that does not reach the register. -/
def registerWrite (who : Accessor) (reg : RegAddr) (size : AccessSize) (v : Word) (s : State) : State :=
  if size = .word ∧ mayReach s who reg then regWrite who reg v s else s

def execRegisterWrite (who : Accessor) (reg : RegAddr) (size : AccessSize) (value : Word) (s : State) : Host.Outcome State Fault Refusal :=
  .next (registerWrite who reg size value s)

/-- The 64-bit value that a command names, where its accessor reaches it and the register is its lower (upper) word. -/
def wideNamed (s : State) (who : Accessor) (reg : RegAddr) (upper : Bool) : Option WideReg :=
  match wideOf reg with
  | some (r, u) => if u = upper ∧ mayReach s who reg then some r else none
  | none => none

def execWideLowWrite (who : Accessor) (reg : RegAddr) (value : Word) (s : State) : Host.Outcome State Fault Refusal :=
  .next (match wideNamed s who reg false with
    | some r => wideLowWrite who r value s
    | none => s)

def execWideHighWrite (who : Accessor) (reg : RegAddr) (value : Word) (s : State) : Host.Outcome State Fault Refusal :=
  .next (match wideNamed s who reg true with
    | some r => wideHighWrite who r value s
    | none => s)

/-- What a read returned (log 9). -/
def returned (r : Word × State) : State := { r.2 with rdata := r.1.zeroExtend 64 }

def execWideLowRead (who : Accessor) (reg : RegAddr) (s : State) : Host.Outcome State Fault Refusal :=
  .next (match wideNamed s who reg false with
    | some r => returned (wideLowRead who r s)
    | none => s)

def execWideHighRead (who : Accessor) (reg : RegAddr) (s : State) : Host.Outcome State Fault Refusal :=
  .next (match wideNamed s who reg true with
    | some r => returned (wideHighRead who r s)
    | none => s)

/-- RAIL_ENTRY_WRITE (R322): RAIL_HI written by Pegbox, with the RAIL_LO its holding register holds. -/
def execRailEntryWrite (who : Accessor) (value : Word) (s : State) : Host.Outcome State Fault Refusal :=
  .next (if isPb who then wideHighWrite who .rail value s else s)

end Sys2Proof.Machine
end

