-- ==== Sys2Proof/Machine/Debug.lean ====
section
/-! DEFINITION. Debug requests, sessions and nonces (R404 to R416), lifecycle transitions (R395 to R399) and SPDM answers (R403). -/

namespace Sys2Proof.Machine

open Sys2Proof

/-! ## Requests and responses (R409, Table 15.6) -/

def dsDone : Nat := 0
def dsLevel : Nat := 1
def dsToken : Nat := 2
def dsDown : Nat := 3
def dsState : Nat := 4
def dsArg : Nat := 5

/-- The requester of a path: a DBGACC request is a PF request (R409). -/
def requester : DbgPath → Nat
  | .doe f => f.val
  | .tap => 0
  | .bmc => 33

/-- A request completes with a status. Over I3C the response goes to DBG_BUF and BUSY clears (R410). -/
def respond (p : DbgPath) (status : Nat) (data : List Byte) (s : State) : State :=
  let s1 := modSec (fun x => { x with resps := x.resps ++ [{ path := p, status := status, data := data }] }) s
  match p with
  | .bmc =>
    let o := (Config.debugObject status data).take 1024
    modEmu (fun e => { e with dbgBuf := writeBytes e.dbgBuf 0 o, dbgLen := BitVec.ofNat 11 o.length, dbgBusy := false }) s1
  | _ => s1

/-- The open sessions of a requester. -/
def sessionsOf (s : State) (p : DbgPath) : List Session := s.sec.sessions.filter fun e => s.live e && decide (requester e.path = requester p)

/-- Whether a requester's sessions reach region r: TENANT on it, or FULL (Table 15.4). -/
def reaches (s : State) (p : DbgPath) (r : Nat) : Bool :=
  (sessionsOf s p).any fun e => decide (e.level = 3) || (decide (e.level = 2) && onRegion r e)

/-! ## NONCE, OPEN, END -/

/-- NONCE: 8 bytes from the TRNG; the requester's earlier nonce lapses (R408). -/
def serveNonce (p : DbgPath) (s : State) : State :=
  let d := s.drawBits 64
  respond p dsDone (leBytes 8 d.1.toNat) <| modSec (fun x =>
    { x with nonces := (x.nonces.filter fun n => decide (requester n.path ≠ requester p)) ++ [{ path := p, nonce := d.1, issued := s.mc }] }) d.2

/-- The nonce last issued to a requester, good for 60 s and used up by the verification it serves (R408). -/
def nonceOf (s : State) (p : DbgPath) : Option DWord :=
  (s.sec.nonces.find? fun n => decide (requester n.path = requester p ∧ s.mc < n.issued + 60000000 * usMc)).map (·.nonce)
def useNonce (p : DbgPath) (s : State) : State :=
  modSec (fun x => { x with nonces := x.nonces.filter fun n => decide (requester n.path ≠ requester p) }) s

/-- A session opens; on a region it sets that region's SEC_RDONE bit (R404). -/
def addSession (p : DbgPath) (level : BitVec 2) (r : Option RegionNo) (ends : Option Nat) (s : State) : State :=
  syncSessions <| modSec (fun x =>
    { x with sessions := x.sessions ++ [{ id := x.nextSession, path := p, level := level, region := r, ends := ends, parked := [] }]
             nextSession := x.nextSession + 1
             rdone := match r with | some r => setBit x.rdone r.val true | none => x.rdone }) s

/-- Whether a consent token opens its region (R407, Table 15.5). -/
def tokenGood (s : State) (p : DbgPath) (t : List Byte) : Bool :=
  let life := leNat ((t.drop 12).take 4)
  decide (t.length = 112 ∧ leNat (t.take 2) = s.module.toNat ∧ t.getD 3 0 = 2 ∧ 1 ≤ life ∧ life ≤ 86400)
    && decide (nonceOf s p = some (leBits 64 ((t.drop 4).take 8)))
    && (match s.program (t.getD 2 0).toNat with
      | some g => g.running && (match g.tenantKey with
        | some k => Config.ecdsaVerifies k (Config.sha384 (t.take 16)) (t.drop 16)
        | none => false)
      | none => false)

/-- OPEN for DBG-TENANT: in DEVELOP and FIELD, for the PF or the region's VF. -/
def openTenant (p : DbgPath) (t : List Byte) (s : State) : State :=
  let r := (t.getD 2 0).toNat
  let q := requester p
  if ! (decide (s.sec.life = lifeDevelop ∨ s.sec.life = lifeField)) ∨ q = 33 then respond p dsLevel [] s
  else if ! tokenGood s p t then respond p dsToken [] (useNonce p s)
  else if q ≠ 0 ∧ q ≠ r + 1 then respond p dsLevel [] (useNonce p s)
  else
    respond p dsDone [] (addSession p 2 (some (Fin.ofNat 32 r)) (some (s.mc + leNat ((t.drop 12).take 4) * secMc)) (useNonce p s))

/-- OPEN (R406, R410, Table 15.9). -/
def serveOpen (p : DbgPath) (level : BitVec 2) (t : List Byte) (s : State) : State :=
  let q := requester p
  match level.toNat with
  | 0 => respond p dsArg [] s
  | 1 => if q = 0 ∨ q = 33 then respond p dsDone [] (addSession p 1 none none s) else respond p dsLevel [] s
  | 2 => openTenant p t s
  | _ => if s.sec.life = lifeDevelop ∧ q ≠ 33 then respond p dsDone [] (addSession p 3 none none s) else respond p dsLevel [] s

/-- END: the requester's sessions end (R408). -/
def serveEnd (p : DbgPath) (s : State) : State :=
  if (sessionsOf s p).isEmpty then respond p dsLevel [] s
  else respond p dsDone [] (endSessions (fun e => decide (requester e.path = requester p)) s)

/-! ## STOP, RELEASE, STEP (R412 to R414) -/

/-- Whether a requester may act on a core: TENANT on its region, or FULL. -/
def reachesCore (s : State) (p : DbgPath) (n : Nat) : Bool :=
  match nodeRegion s n with
  | some r => reaches s p r
  | none => (sessionsOf s p).any fun e => decide (e.level = 3)

/-- A region that a session acts on has been debugged (R404). -/
def markDone (r : Option Nat) (s : State) : State :=
  match r with
  | some r => modSec (fun x => { x with rdone := setBit x.rdone r true }) s
  | none => s

/-- The session through which a requester acts on a region: its TENANT session on it, else its FULL one (log 31). -/
def actingSession (s : State) (p : DbgPath) (r : Option Nat) : Option Nat :=
  let mine := sessionsOf s p
  let tenant := mine.find? fun e => decide (e.level = 2) && (match r with | some r => onRegion r e | none => false)
  ((tenant <|> mine.find? fun e => decide (e.level = 3))).map (·.id)

/-- The threads that a session holds stopped: a stop or step files them under the session that made it alone, a release under none (R408). -/
def holdThreads (p : DbgPath) (r : Option Nat) (add : Bool) (ts : List (NodeNo × ThreadNo)) (s : State) : State :=
  let f (e : Session) : Session :=
    { e with parked := (e.parked.filter fun t => ! ts.contains t) ++ (if add && decide (actingSession s p r = some e.id) then ts else []) }
  modSec (fun x => { x with sessions := x.sessions.map f }) s

/-- A stop ungates a gated core (R416): a course in DWELL or LENT leaves it (Table 9.3). -/
def stopUngates (n : Nat) (s : State) : State :=
  if (s.core n).gated then
    s.modCourse (courseOf n) fun c =>
      if ! c.lend then c else match c.wstate with
        | .dwell => { c with wstate := .awake }
        | .lent => { c with wstate := .reclaim }
        | _ => c
  else s

/-- A write of DBG_CTL of one core (Table 15.6): `lo` is the lowest bit of the field. -/
def serveCtl (p : DbgPath) (n : NodeNo) (mask : BitVec 4) (lo : Nat) (s : State) : State :=
  if ! reachesCore s p n.val then respond p dsLevel [] s
  else if ! s.exposed n.val then respond p dsArg [] s
  else if s.domState (courseOf n.val) ≥ 2 then respond p dsDown [] s
  else if (s.core n.val).lost.isSome then respond p dsState [] s
  else
    let ts := (maskThreads mask.toNat).map fun k => (n, k)
    let s0 := if lo = 4 ∨ mask = 0 then s else stopUngates n.val s
    let s1 := corePageWrite (.pb 0) n.val 0x20500 (BitVec.ofNat 32 (mask.toNat * 2 ^ lo)) s0
    respond p dsDone [] (settle n.val (holdThreads p (nodeRegion s n.val) (decide (lo ≠ 4)) ts (markDone (nodeRegion s n.val) s1)))

/-! ## READ and WRITE -/

/-- Instruction memory of a core of region r that a range lies in. -/
def imemRange (s : State) (r a n : Nat) : Option (Nat × Nat) :=
  match placeOfAddr (BitVec.ofNat 48 a) with
  | .block m off =>
    if s.exposed m ∧ nodeRegion s m = some r ∧ (s.core m).lost = none ∧ off + n ≤ 0x20000 then some (m, off) else none
  | _ => none

/-- Whether the power domains behind a range are up (R416). -/
def rangeUp (s : State) (r a n : Nat) : Bool :=
  (pieces a n).all fun p => match spotOf s r (a + p.1) with
    | some (.ctl i _) => decide (s.domState (if i < 32 then 34 + stackOf i else 42 + (i - 32) / 4) < 2)
    | some (.scratch m _) => decide (s.domState (courseOf m) < 2)
    | none => true

/-- READ of region memory; a poisoned word is not delivered. -/
def readMemory (p : DbgPath) (r : Nat) (a : Nat) (n : Nat) (s : State) : State :=
  match imemRange s r a n with
  | some (m, off) =>
    if s.domState (courseOf m) ≥ 2 then respond p dsDown [] s
    else respond p dsDone (readBytes (s.core m).mem.imem off n) (markDone (some r) s)
  | none =>
    if ! rangeMapped s r a n then respond p dsArg [] s
    else if ! rangeUp s r a n then respond p dsDown [] s
    else if ! rangeGood s r a n ∨ regionPoisoned s r a n then respond p dsState [] s
    else respond p dsDone (regionRead s r a n) (markDone (some r) s)

def writeMemory (p : DbgPath) (r : Nat) (a : Nat) (bs : List Byte) (s : State) : State :=
  match imemRange s r a bs.length with
  | some (m, off) =>
    if s.domState (courseOf m) ≥ 2 then respond p dsDown [] s
    else respond p dsDone [] (markDone (some r) (s.modCore m fun c => c.modMem (·.writeImem off bs)))
  | none =>
    if ! rangeMapped s r a bs.length then respond p dsArg [] s
    else if ! rangeUp s r a bs.length then respond p dsDown [] s
    else if ! rangeGood s r a bs.length then respond p dsState [] s
    else respond p dsDone [] (markDone (some r) (regionWrite r a bs s))

/-- A thread's general and predicate registers and program counter as bytes (log 10). -/
def readPlainReg (t : Thread) (reg : Nat) : Option (List Byte) :=
  if reg < 32 then some (leBytes 4 (t.getG (BitVec.ofNat 5 reg)).toNat)
  else if reg < 40 then some (leBytes 4 (bn (t.getP (BitVec.ofNat 3 (reg - 32)))))
  else if reg = 40 then some (leBytes 4 t.pc.toNat)
  else none

def writePlainReg (t : Thread) (reg : Nat) (w : Word) : Option Thread :=
  if reg < 32 then some (t.setG (BitVec.ofNat 5 reg) w)
  else if reg < 40 then some (t.setP (BitVec.ofNat 3 (reg - 32)) (bitOf w 0))
  else if reg = 40 ∧ ! badPc w then some { t with pc := w }
  else none

/-- What rsr sees of a thread. -/
def dbgCtx (s : State) (n : Nat) (k : ThreadNo) : Ctx :=
  { n := n, k := k, t := s.thread n k.val, c := s.core n, module := s.module, region := s.regionOf n, logical := s.logical n
    timeLo := s.timeLo, timeHi := (s.time >>> 32).truncate 32, pc := (s.thread n k.val).pc, link := 0, cls := 0, ext := none }

/-- A thread register as bytes (log 10). -/
def readThreadReg (s : State) (n : Nat) (k : ThreadNo) (reg : Nat) : Option (List Byte) :=
  let t := s.thread n k.val
  if reg < 41 then readPlainReg t reg
  else if 48 ≤ reg ∧ reg < 64 then some (leBytes 16 (t.getS (BitVec.ofNat 4 (reg - 48))).bits.toNat)
  else if 64 ≤ reg ∧ reg < 80 then some (leBytes 64 (t.getV (BitVec.ofNat 4 (reg - 64))).toNat)
  else if 256 ≤ reg ∧ reg < 512 ∧ srReadable (BitVec.ofNat 8 reg) then some (leBytes 4 (srRead (dbgCtx s n k) (BitVec.ofNat 8 reg)).toNat)
  else none

/-- A thread register written; a capability register takes its bits with the tag clear, since only ops derive capabilities (R111). The TSW is
not a debugger's to write (R39). -/
def writeThreadReg (t : Thread) (reg : Nat) (bs : List Byte) : Option Thread :=
  let w : Word := leBits 32 bs
  if reg < 41 then writePlainReg t reg w
  else if 48 ≤ reg ∧ reg < 64 then some (t.setS (BitVec.ofNat 4 (reg - 48)) { bits := leBits 128 bs, tag := false })
  else if 64 ≤ reg ∧ reg < 80 then some (t.setV (BitVec.ofNat 4 (reg - 64)) (leBits 512 bs))
  else if 256 < reg ∧ reg < 512 ∧ srWritable (BitVec.ofNat 8 reg) then some (srWrite t (BitVec.ofNat 8 reg) w)
  else none

/-- READ and WRITE of a thread register: the thread must be PARKED_DEBUG. -/
def threadTarget (p : DbgPath) (n : NodeNo) (k : ThreadNo) (f : State → State) (s : State) : State :=
  if ! reachesCore s p n.val then respond p dsLevel [] s
  else if ! s.exposed n.val then respond p dsArg [] s
  else if s.domState (courseOf n.val) ≥ 2 then respond p dsDown [] s
  else if (s.thread n.val k.val).st ≠ .parkedDebug then respond p dsState [] s
  else f (markDone (nodeRegion s n.val) s)

/-! ### Registers and Pegbox memory (R405, R406; log 31) -/

/-- Whether a requester has an open session, and whether it has DBG-FULL. -/
def observes (s : State) (p : DbgPath) : Bool := ! (sessionsOf s p).isEmpty
def hasFull (s : State) (p : DbgPath) : Bool := (sessionsOf s p).any fun e => decide (e.level = 3)

/-- The registers that DBG-OBSERVE reaches (Table 15.4): READY words, event counters (R75), shell registers, MESH_STAT with the counters of
mesh links and routers, and the counters of links. -/
def observed : RegAddr → Bool
  | .bar0 f off => decide (f.val = 0 ∧ 0x1000 ≤ off.toNat ∧ off.toNat < 0x1014)
  | .block n off =>
    let o := off.toNat
    match nodeKind n.val with
    | .core => [0x20020, 0x20024, 0x20028, 0x2002C, 0x20120, 0x20124, 0x20280, 0x20320, 0x20324, 0x21028].contains o
    | .hbm => decide (0x80008 ≤ o ∧ o < 0x80034)
    | .link => decide (o = 0x01C ∨ o = 0x020)
    | .service => decide (n.val = pegboxNode ∧ 0x10000 ≤ o ∧ o < 0x10014)
    | .far => false

/-- PB0 sets SHELL_SEL or LINK_SEL for a register that lies behind one. -/
def selecting (a : RegAddr) (sel : Word) (s : State) : State :=
  match a with
  | .block n _ =>
    if n.val = pegboxNode then modPwr (fun p => { p with sels := mapSet 0 p.sels 0 (sel &&& 0x7FF) }) s
    else if nodeKind n.val = .link then modLnode n.val (fun x => { x with sel := bitOf sel 0 }) s
    else s
  | .bar0 _ _ => s

/-- A request for a register word: at OBSERVE a read of what it reaches, anything else at FULL; not to a core or a node whose domain is down
(R416). -/
def regTarget (p : DbgPath) (a : RegAddr) (plain : Bool) (f : State → State) (s : State) : State :=
  let down : Bool := match a with
    | .block n _ => (isCore n.val && decide (s.domState (courseOf n.val) ≥ 2)) || (decide (nodeKind n.val ≠ .service) && ! s.meshUp n.val)
    | .bar0 _ _ => false
  if ! (hasFull s p || (plain && observes s p)) then respond p dsLevel [] s
  else if down then respond p dsDown [] s
  else match a with
    | .block n _ => if mayReach s (.pb 0) a then f s else if (s.core n.val).lost.isSome then respond p dsState [] s else respond p dsArg [] s
    | .bar0 _ _ => f s

/-- The bytes of a memory of Pegbox: the local memory of a core, or the shared 2 MiB. -/
def pbMemory (s : State) : Option PbNo → Map Byte
  | some n => mapGet [] s.pb.localMem n.val
  | none => s.pb.shared
def pbMemSize : Option PbNo → Nat
  | some _ => 0x40000
  | none => 0x200000

/-- A byte that no debugger has written is Pegbox's own data, a free value. -/
def readPbMem (c : Option PbNo) (off len : Nat) (s : State) : List Byte × State :=
  let d := s.drawBits (8 * len)
  let own := leBytes len d.1.toNat
  ((List.range len).map fun i => (entryAt (pbMemory s c) (off + i)).getD (own.getD i 0), d.2)

def writePbMem (c : Option PbNo) (off : Nat) (bs : List Byte) (s : State) : State :=
  let m := (List.range bs.length).foldl (fun m i => mapPut m (off + i) (bs.getD i 0)) (pbMemory s c)
  modPb (fun b => match c with
    | some n => { b with localMem := mapSet [] b.localMem n.val m }
    | none => { b with shared := m }) s

/-- A request that DBG-FULL alone may make. -/
def fullTarget (p : DbgPath) (good : Bool) (f : State → State) (s : State) : State :=
  if ! hasFull s p then respond p dsLevel [] s else if ! good then respond p dsArg [] s else f s

/-- Pegbox's logs: locked writes, malformed packets, refusals of the emulated registers. -/
def pbLogs (s : State) : List LockLog × List Header × List ShadowWrite := (s.pb.lockLog, s.pb.malformedLog, s.emu.refusalLog)

def serveDbgRead (p : DbgPath) (t : DbgTarget) (len : Nat) (s : State) : State :=
  match t with
  | .register a sel =>
    regTarget p a (observed a) (fun s =>
      let r := regRead (.pb 0) a (selecting a sel s)
      respond p dsDone ((leBytes 4 r.1.toNat).take len) r.2) s
  | .pbLog => if observes s p then respond p dsDone ((Config.logBytes (pbLogs s)).take (min len 1024)) s else respond p dsLevel [] s
  | .pbMemory c off =>
    fullTarget p (decide (len ≤ 1024 ∧ off + len ≤ pbMemSize c)) (fun s => let r := readPbMem c off len s; respond p dsDone r.1 r.2) s
  | .pbReg n reg =>
    let x := readPlainReg (mapGet {} s.pb.t0 n.val) reg
    fullTarget p x.isSome (respond p dsDone ((x.getD []).take len)) s
  | .memory r a =>
    if ! reaches s p r.val then respond p dsLevel [] s
    else if len > 1024 then respond p dsArg [] s
    else readMemory p r.val a.toNat len s
  | .threadReg n k reg =>
    threadTarget p n k (fun s => match readThreadReg s n.val k reg with
      | some bs => respond p dsDone (bs.take len) s
      | none => respond p dsArg [] s) s

def serveDbgWrite (p : DbgPath) (t : DbgTarget) (data : List Byte) (s : State) : State :=
  match t with
  | .register a sel => regTarget p a false (fun s => respond p dsDone [] (regWrite (.pb 0) a (leBits 32 data) (selecting a sel s))) s
  | .pbLog => fullTarget p false id s
  | .pbMemory c off =>
    fullTarget p (decide (data.length ≤ 1024 ∧ off + data.length ≤ pbMemSize c)) (fun s => respond p dsDone [] (writePbMem c off data s)) s
  | .pbReg n reg =>
    let x := writePlainReg (mapGet {} s.pb.t0 n.val) reg (leBits 32 data)
    fullTarget p x.isSome (fun s => respond p dsDone [] (modPb (fun b => { b with t0 := mapSet {} b.t0 n.val (x.getD {}) }) s)) s
  | .memory r a =>
    if ! reaches s p r.val then respond p dsLevel [] s
    else if data.length > 1024 then respond p dsArg [] s
    else writeMemory p r.val a.toNat data s
  | .threadReg n k reg =>
    threadTarget p n k (fun s => match writeThreadReg (s.thread n.val k.val) reg data with
      | some x => respond p dsDone [] (s.setThread n.val k.val x)
      | none => respond p dsArg [] s) s

/-! ## TRACE -/

/-- TRACE: the three registers, within the traced region's tier-1. -/
def serveTrace (p : DbgPath) (ctl : Word) (base : DWord) (len : Word) (s : State) : State :=
  let r := fieldOf ctl 12 8
  if ! reaches s p r then respond p dsLevel [] s
  else if base.toNat % 4096 ≠ 0 ∨ len.toNat % 4096 ≠ 0 ∨ base.toNat + len.toNat > t1Share s r then respond p dsArg [] s
  else if s.sec.traceEn ∧ (fld 5 ctl 12 8 ≠ s.sec.traceRegion ∨ bitOf ctl 0 ≠ s.sec.traceDest ∨ base ≠ s.sec.traceBase ∨ len ≠ s.sec.traceLen) then
    respond p dsState [] s
  else respond p dsDone [] (markDone (some r) (writeTraceCtl ctl (writeTraceLen len (writeTraceBase base s))))

/-! ## Lifecycle (R397, Table 15.2) -/

/-- Whether a return token verifies: under image slot 0, over the identity key, the target and a fresh nonce. -/
def returnTokenGood (s : State) (p : DbgPath) (t : List Byte) : Bool :=
  match nonceOf s p, s.sec.keys with
  | some n, some k => Config.ecdsaVerifies Config.slot0Key (Config.sha384 (k.identity ++ [7] ++ leBytes 8 n.toNat)) t
  | _, _ => false

/-- A transition: LIFE fuses blow at once and take effect at the next module reset. -/
def serveLifecycle (p : DbgPath) (target : BitVec 3) (t : List Byte) (s : State) : State :=
  let from_ := s.sec.lifeFuse
  let blow (s : State) : State := modSec (fun x => { x with lifeFuse := target }) s
  if requester p ≠ 0 then respond p dsLevel [] s
  else if target ≠ lifeDevelop ∧ target ≠ lifeField ∧ target ≠ lifeReturn then respond p dsArg [] s
  else if from_ = lifeBlank ∧ target ≠ lifeReturn then respond p dsDone [] (blow s)
  else if from_ = lifeDevelop ∧ target = lifeField then
    respond p dsDone [] (blow (modSec (fun x => { x with keyRev := setBit x.keyRev 3 true }) s))
  else if (from_ = lifeDevelop ∨ from_ = lifeField) ∧ target = lifeReturn then
    if returnTokenGood s p t then
      respond p dsDone [] (blow (modSec (fun x => { x with udsBlow := BitVec.allOnes 384, keys := none }) (useNonce p s)))
    else respond p dsToken [] (useNonce p s)
  else respond p dsState [] s

/-! ## SPDM over DOE (R403, Table 15.3) -/

/-- The region's debug level in force. -/
def regionLevel (s : State) (r : Nat) : Nat :=
  s.sec.sessions.foldl (fun a e => if e.level = 2 ∧ ! onRegion r e then a else max a e.level.toNat) 0

/-- A measurement, for a function that may have it: a VF indices 16 to 18 for its own region (log 38 for the PF's). -/
def measure (s : State) (fn i : Nat) : Option (List Byte) :=
  let r := fn - 1
  if i = 1 then some Config.romVersion
  else if 2 ≤ i ∧ i ≤ 5 then some (leBytes 48 (if s.pbRuns (i - 2) then (mapGet 0 s.pb.digests (i - 2)).toNat else 0))
  else if i = 6 then some (leBytes 4 (secLifeWord s).toNat)
  else if i = 7 then some (leBytes 4 (secDbgWord s).toNat)
  else if fn = 0 then none
  else if i = 16 then some (leBytes 48 (match s.program r with | some g => g.digest.toNat | none => 0))
  else if i = 17 then some [BitVec.ofNat 8 (regionLevel s r)]
  else if i = 18 then some [BitVec.ofNat 8 (bn (bitOf s.sec.rdone r))]
  else none

def spdmDigests : Byte := 0x81
def spdmCertificate : Byte := 0x82
def spdmChallenge : Byte := 0x83
def spdmMeasure : Byte := 0xE0

/-- The certificate chain, empty once the keys are gone. -/
def State.chain (s : State) : List Byte := match s.sec.keys with
  | some k => k.chain
  | none => []

/-- What an SPDM answer carries, where the function may have it. -/
def spdmBody (s : State) (fn : FnNo) (code index : Byte) (nonce : BitVec 256) : Option (List Byte) :=
  let chainHash := leBytes 48 (Config.sha384 s.chain).toNat
  if code = spdmMeasure then measure s fn.val index.toNat
  else if code = spdmChallenge then some (chainHash ++ leBytes 32 nonce.toNat)
  else if code = spdmDigests then some chainHash
  else if code = spdmCertificate then some s.chain
  else some (Config.spdmContents fn.val code.toNat [])

/-- An SPDM answer. CHALLENGE and the measurements carry a nonce from the TRNG (R396) and are signed by the Alias key while the key store
holds it (R398). -/
def serveSpdm (fn : FnNo) (code index : Byte) (nonce : BitVec 256) (s : State) : State :=
  let body := spdmBody s fn code index nonce
  let reply (n : Option (BitVec 256)) (sig : Option (List Byte)) (s : State) : State :=
    modSec (fun x => { x with spdm := x.spdm ++
      [{ fn := fn, code := code, index := index, contents := body.getD [], nonce := n, signature := sig }] }) s
  if (code = spdmMeasure ∨ code = spdmChallenge) ∧ body.isSome then
    let d := s.drawBits 256
    reply (some d.1) (s.sec.keys.map fun k => Config.ecdsaSign k.alias_ (Config.sha384 (body.getD [] ++ leBytes 32 d.1.toNat))) d.2
  else reply none none s

/-! ## Service by PB0 (R374, R409) -/

/-- One request. -/
def serveReq (r : Pb0Req) (s : State) : State :=
  match r with
  | .nonce p => serveNonce p s
  | .open_ p l t => serveOpen p l t s
  | .end_ p => serveEnd p s
  | .stop p n m => serveCtl p n m 0 s
  | .release p n m => serveCtl p n m 4 s
  | .step p n m => serveCtl p n m 8 s
  | .read p t n => serveDbgRead p t n s
  | .write p t d => serveDbgWrite p t d s
  | .trace p c b l => serveTrace p c b l s
  | .lifecycle p x t => serveLifecycle p x t s
  | .spdm f c i n => serveSpdm f c i n s

/-- The path of a debug request. -/
def Pb0Req.path : Pb0Req → Option DbgPath
  | .nonce p => some p
  | .open_ p _ _ => some p
  | .end_ p => some p
  | .stop p _ _ => some p
  | .release p _ _ => some p
  | .step p _ _ => some p
  | .read p _ _ => some p
  | .write p _ _ => some p
  | .trace p _ _ _ => some p
  | .lifecycle p _ _ => some p
  | .spdm _ _ _ _ => none

/-- Whether a request's object has come: over I3C the door is rung (R410), one request at a time; DBGACC has carried it (Table 15.7). -/
def carried (r : Pb0Req) (s : State) : Bool :=
  match r.path with
  | some .bmc => doorRung s && ! s.sec.waiting.any fun w => decide (w.path = some .bmc)
  | some .tap => ! s.sec.dbgacc.isEmpty
  | _ => true

/-- A request arrives, and uses up what DBGACC carried: served at once, or kept while PB0 restarts. -/
def takeReq0 (r : Pb0Req) (s : State) : State :=
  if ! carried r s then s
  else
    let s1 := if r.path = some .tap then modSec (fun x => { x with dbgacc := [] }) s else s
    if s.pbRuns 0 then serveReq r s1 else modSec (fun x => { x with waiting := x.waiting ++ [r] }) s1

/-- PB0 takes the requests that waited, in order. -/
def serveWaiting (s : State) : State := foldState serveReq s.sec.waiting (modSec (fun x => { x with waiting := [] }) s)

def execNonce (path : DbgPath) (s : State) : Host.Outcome State Fault Refusal := .next (takeReq0 (.nonce path) s)
def execDbgOpen (path : DbgPath) (level : BitVec 2) (token : List Byte) (s : State) : Host.Outcome State Fault Refusal :=
  .next (takeReq0 (.open_ path level token) s)
def execDbgEnd (path : DbgPath) (s : State) : Host.Outcome State Fault Refusal := .next (takeReq0 (.end_ path) s)
def execDbgStop (path : DbgPath) (node : NodeNo) (mask : BitVec 4) (s : State) : Host.Outcome State Fault Refusal :=
  .next (takeReq0 (.stop path node mask) s)
def execDbgRelease (path : DbgPath) (node : NodeNo) (mask : BitVec 4) (s : State) : Host.Outcome State Fault Refusal :=
  .next (takeReq0 (.release path node mask) s)
def execDbgStep (path : DbgPath) (node : NodeNo) (mask : BitVec 4) (s : State) : Host.Outcome State Fault Refusal :=
  .next (takeReq0 (.step path node mask) s)
def execDbgRead (path : DbgPath) (target : DbgTarget) (len : Nat) (s : State) : Host.Outcome State Fault Refusal :=
  .next (takeReq0 (.read path target len) s)
def execDbgWrite (path : DbgPath) (target : DbgTarget) (data : List Byte) (s : State) : Host.Outcome State Fault Refusal :=
  .next (takeReq0 (.write path target data) s)
def execTrace (path : DbgPath) (ctl : Word) (base : BitVec 64) (len : Word) (s : State) : Host.Outcome State Fault Refusal :=
  .next (takeReq0 (.trace path ctl base len) s)
def execLifecycleTransition (path : DbgPath) (target : BitVec 3) (token : List Byte) (s : State) : Host.Outcome State Fault Refusal :=
  .next (takeReq0 (.lifecycle path target token) s)
def execTraceRecord (node : NodeNo) (thread : ThreadNo) (written : Bool) (s : State) : Host.Outcome State Fault Refusal :=
  atCore node (traceRecord node.val thread written s)

/-- SESSION_EXPIRE: a session's lifetime has passed (R408). -/
def execSessionExpire (id : Nat) (s : State) : Host.Outcome State Fault Refusal :=
  .next (endSessions (fun e => decide (e.id = id) && (match e.ends with | some t => decide (t ≤ s.mc) | none => false)) s)

/-- NONCE_LAPSE: an unused nonce goes 60 s after its issue (R408). -/
def nonceLapse (p : DbgPath) (s : State) : State :=
  let kept (n : NonceRec) : Bool := decide (requester n.path ≠ requester p ∨ s.mc < n.issued + 60000000 * usMc)
  modSec (fun x => { x with nonces := x.nonces.filter kept }) s

def execNonceLapse (path : DbgPath) (s : State) : Host.Outcome State Fault Refusal := .next (nonceLapse path s)

/-- SPDM requests; the codes are those of SPDM 1.2 (log 38). -/
def execGetVersion (fn : FnNo) (s : State) : Host.Outcome State Fault Refusal := .next (takeReq0 (.spdm fn 0x84 0 0) s)
def execGetCapabilities (fn : FnNo) (s : State) : Host.Outcome State Fault Refusal := .next (takeReq0 (.spdm fn 0xE1 0 0) s)
def execNegotiateAlgorithms (fn : FnNo) (s : State) : Host.Outcome State Fault Refusal := .next (takeReq0 (.spdm fn 0xE3 0 0) s)
def execGetDigests (fn : FnNo) (s : State) : Host.Outcome State Fault Refusal := .next (takeReq0 (.spdm fn spdmDigests 0 0) s)
def execGetCertificate (fn : FnNo) (s : State) : Host.Outcome State Fault Refusal := .next (takeReq0 (.spdm fn spdmCertificate 0 0) s)
def execChallenge (fn : FnNo) (nonce : BitVec 256) (s : State) : Host.Outcome State Fault Refusal :=
  .next (takeReq0 (.spdm fn spdmChallenge 0 nonce) s)
def execGetMeasurements (fn : FnNo) (index : Byte) (s : State) : Host.Outcome State Fault Refusal :=
  .next (takeReq0 (.spdm fn spdmMeasure index 0) s)

end Sys2Proof.Machine
end

