-- ==== Sys2Proof/Machine/MatOps.lean ====
section
/-! DEFINITION. Commands of the matrix unit (Table 3.11), each the bundle of that op (log 4). -/

namespace Sys2Proof.Machine

open Sys2Proof

/-- TCFG (R161). -/
def execTcfg (c : OpAt) (t : TReg) (ga : GReg) (s : State) : Host.Outcome State Fault Refusal :=
  issueOne c (.mat (.tcfg t ga)) s

/-- TLD (R164). -/
def execTld (c : OpAt) (t : TReg) (cap : SReg) (ga : GReg) (gb : GReg) (s : State) : Host.Outcome State Fault Refusal :=
  issueOne c (.mat (.tld t cap ga gb false)) s

/-- TLD_T (R165). -/
def execTldT (c : OpAt) (t : TReg) (cap : SReg) (ga : GReg) (gb : GReg) (s : State) : Host.Outcome State Fault Refusal :=
  issueOne c (.mat (.tld t cap ga gb true)) s

/-- TST (R164). -/
def execTst (c : OpAt) (t : TReg) (cap : SReg) (ga : GReg) (gb : GReg) (s : State) : Host.Outcome State Fault Refusal :=
  issueOne c (.mat (.tst t cap ga gb)) s

/-- TREL (R162). -/
def execTrel (c : OpAt) (t : TReg) (s : State) : Host.Outcome State Fault Refusal :=
  issueOne c (.mat (.trel t)) s

/-- TSAVE (R168). -/
def execTsave (c : OpAt) (cap : SReg) (ga : GReg) (s : State) : Host.Outcome State Fault Refusal :=
  issueOne c (.mat (.tsave cap ga)) s

/-- TRESTORE (R168). -/
def execTrestore (c : OpAt) (cap : SReg) (ga : GReg) (s : State) : Host.Outcome State Fault Refusal :=
  issueOne c (.mat (.trestore cap ga)) s

/-- ACC_CFG (R177). -/
def execAccCfg (c : OpAt) (acc : AccNo) (ga : GReg) (s : State) : Host.Outcome State Fault Refusal :=
  issueOne c (.mat (.accCfg acc ga)) s

/-- MMA (R172). -/
def execMma (c : OpAt) (acc : AccNo) (ta : TReg) (tb : TReg) (g : BitVec 2) (z : BitVec 2) (rn : Bool) (s : State) : Host.Outcome State Fault Refusal :=
  issueOne c (.mat (.mma acc ta tb g z rn)) s

/-- ACC_NORM (R182). -/
def execAccNorm (c : OpAt) (acc : AccNo) (s : State) : Host.Outcome State Fault Refusal :=
  issueOne c (.mat (.accNorm acc)) s

/-- ACC_CVT (R183). -/
def execAccCvt (c : OpAt) (acc : AccNo) (t : TReg) (rm : BitVec 3) (s : State) : Host.Outcome State Fault Refusal :=
  issueOne c (.mat (.accCvt acc t rm)) s

/-- ACC_CVT_S (R185). -/
def execAccCvtS (c : OpAt) (acc : AccNo) (cap : SReg) (ga : GReg) (gb : GReg) (s : State) : Host.Outcome State Fault Refusal :=
  issueOne c (.mat (.accCvtS acc cap ga gb)) s

/-- MSEQ_RUN (R186). -/
def execMseqRun (c : OpAt) (cap : SReg) (ga : GReg) (s : State) : Host.Outcome State Fault Refusal :=
  issueOne c (.mat (.mseqRun false cap ga)) s

/-- MSEQ_RUN_NT (R186). -/
def execMseqRunNt (c : OpAt) (cap : SReg) (ga : GReg) (s : State) : Host.Outcome State Fault Refusal :=
  issueOne c (.mat (.mseqRun true cap ga)) s

end Sys2Proof.Machine
end

