-- ==== Sys2Proof/Machine/MemOps.lean ====
section
/-! DEFINITION. Commands of the load/store unit (Table 3.8), each the bundle of that op (log 4). -/

namespace Sys2Proof.Machine

open Sys2Proof

/-- LD_B (R87). -/
def execLdB (c : OpAt) (rt : GReg) (cap : SReg) (off : LsOff) (s : State) : Host.Outcome State Fault Refusal :=
  issueOne c (.load .b rt cap off) s

/-- LD_BU (R87). -/
def execLdBu (c : OpAt) (rt : GReg) (cap : SReg) (off : LsOff) (s : State) : Host.Outcome State Fault Refusal :=
  issueOne c (.load .bu rt cap off) s

/-- LD_H (R87). -/
def execLdH (c : OpAt) (rt : GReg) (cap : SReg) (off : LsOff) (s : State) : Host.Outcome State Fault Refusal :=
  issueOne c (.load .h rt cap off) s

/-- LD_HU (R87). -/
def execLdHu (c : OpAt) (rt : GReg) (cap : SReg) (off : LsOff) (s : State) : Host.Outcome State Fault Refusal :=
  issueOne c (.load .hu rt cap off) s

/-- LD_W (R87). -/
def execLdW (c : OpAt) (rt : GReg) (cap : SReg) (off : LsOff) (s : State) : Host.Outcome State Fault Refusal :=
  issueOne c (.load .w rt cap off) s

/-- LD_D (R87). -/
def execLdD (c : OpAt) (rt : GReg) (cap : SReg) (off : LsOff) (s : State) : Host.Outcome State Fault Refusal :=
  issueOne c (.load .d rt cap off) s

/-- LDV (R87). -/
def execLdv (c : OpAt) (rt : GReg) (cap : SReg) (off : LsOff) (s : State) : Host.Outcome State Fault Refusal :=
  issueOne c (.load .v rt cap off) s

/-- LDC (R106). -/
def execLdc (c : OpAt) (rt : GReg) (cap : SReg) (off : LsOff) (s : State) : Host.Outcome State Fault Refusal :=
  issueOne c (.load .c rt cap off) s

/-- ST_B (R87). -/
def execStB (c : OpAt) (rt : GReg) (cap : SReg) (off : LsOff) (s : State) : Host.Outcome State Fault Refusal :=
  issueOne c (.store .b rt cap off) s

/-- ST_H (R87). -/
def execStH (c : OpAt) (rt : GReg) (cap : SReg) (off : LsOff) (s : State) : Host.Outcome State Fault Refusal :=
  issueOne c (.store .h rt cap off) s

/-- ST_W (R87). -/
def execStW (c : OpAt) (rt : GReg) (cap : SReg) (off : LsOff) (s : State) : Host.Outcome State Fault Refusal :=
  issueOne c (.store .w rt cap off) s

/-- ST_D (R87). -/
def execStD (c : OpAt) (rt : GReg) (cap : SReg) (off : LsOff) (s : State) : Host.Outcome State Fault Refusal :=
  issueOne c (.store .d rt cap off) s

/-- STV (R87). -/
def execStv (c : OpAt) (rt : GReg) (cap : SReg) (off : LsOff) (s : State) : Host.Outcome State Fault Refusal :=
  issueOne c (.store .v rt cap off) s

/-- STC (R106). -/
def execStc (c : OpAt) (rt : GReg) (cap : SReg) (off : LsOff) (s : State) : Host.Outcome State Fault Refusal :=
  issueOne c (.store .c rt cap off) s

/-- VLD_W (R215). -/
def execVldW (c : OpAt) (rt : GReg) (cap : SReg) (off : LsOff) (s : State) : Host.Outcome State Fault Refusal :=
  issueOne c (.load .vw rt cap off) s

/-- VLD_D (R215). -/
def execVldD (c : OpAt) (rt : GReg) (cap : SReg) (off : LsOff) (s : State) : Host.Outcome State Fault Refusal :=
  issueOne c (.load .vd rt cap off) s

/-- ACQ (R214). -/
def execAcq (c : OpAt) (cap : SReg) (s : State) : Host.Outcome State Fault Refusal :=
  issueOne c (.acq cap) s

/-- ACQ_ALL (R214). -/
def execAcqAll (c : OpAt) (s : State) : Host.Outcome State Fault Refusal :=
  issueOne c .acqAll s

/-- AMO_ADD_W (R219). -/
def execAmoAddW (c : OpAt) (rt : GReg) (cap : SReg) (off : LsOff) (s : State) : Host.Outcome State Fault Refusal :=
  issueOne c (.amo .addW rt cap off) s

/-- AMO_ADD_D (R219). -/
def execAmoAddD (c : OpAt) (rt : GReg) (cap : SReg) (off : LsOff) (s : State) : Host.Outcome State Fault Refusal :=
  issueOne c (.amo .addD rt cap off) s

/-- AMO_MIN_W (R219). -/
def execAmoMinW (c : OpAt) (rt : GReg) (cap : SReg) (off : LsOff) (s : State) : Host.Outcome State Fault Refusal :=
  issueOne c (.amo .minW rt cap off) s

/-- AMO_MIN_D (R219). -/
def execAmoMinD (c : OpAt) (rt : GReg) (cap : SReg) (off : LsOff) (s : State) : Host.Outcome State Fault Refusal :=
  issueOne c (.amo .minD rt cap off) s

/-- AMO_MAX_W (R219). -/
def execAmoMaxW (c : OpAt) (rt : GReg) (cap : SReg) (off : LsOff) (s : State) : Host.Outcome State Fault Refusal :=
  issueOne c (.amo .maxW rt cap off) s

/-- AMO_MAX_D (R219). -/
def execAmoMaxD (c : OpAt) (rt : GReg) (cap : SReg) (off : LsOff) (s : State) : Host.Outcome State Fault Refusal :=
  issueOne c (.amo .maxD rt cap off) s

/-- AMO_SWAP_W (R219). -/
def execAmoSwapW (c : OpAt) (rt : GReg) (cap : SReg) (off : LsOff) (s : State) : Host.Outcome State Fault Refusal :=
  issueOne c (.amo .swapW rt cap off) s

/-- AMO_SWAP_D (R219). -/
def execAmoSwapD (c : OpAt) (rt : GReg) (cap : SReg) (off : LsOff) (s : State) : Host.Outcome State Fault Refusal :=
  issueOne c (.amo .swapD rt cap off) s

/-- AMO_CAS_W (R219). -/
def execAmoCasW (c : OpAt) (rt : GReg) (cap : SReg) (off : LsOff) (s : State) : Host.Outcome State Fault Refusal :=
  issueOne c (.amo .casW rt cap off) s

/-- AMO_CAS_D (R219). -/
def execAmoCasD (c : OpAt) (rt : GReg) (cap : SReg) (off : LsOff) (s : State) : Host.Outcome State Fault Refusal :=
  issueOne c (.amo .casD rt cap off) s

/-- AMO_FADD_F32 (R220). -/
def execAmoFaddF32 (c : OpAt) (rt : GReg) (cap : SReg) (off : LsOff) (s : State) : Host.Outcome State Fault Refusal :=
  issueOne c (.amo .faddF32 rt cap off) s

/-- AMO_FADD_BF16 (R220). -/
def execAmoFaddBf16 (c : OpAt) (rt : GReg) (cap : SReg) (off : LsOff) (s : State) : Host.Outcome State Fault Refusal :=
  issueOne c (.amo .faddBf16 rt cap off) s

end Sys2Proof.Machine
end

