-- ==== Sys2Proof/Machine/PbCores.lean ====
section
/-! DEFINITION. Pegbox's cores: module reset and boot (R366, R367), what each takes up as it runs and the watchdog (R372 to R374), firmware
staging and activation (R375, R376), the host link (R367). -/

namespace Sys2Proof.Machine

open Sys2Proof

/-! ## Module reset (R366, R367) -/

/-- The repair record of a course, and the fused position of its spare (R301, R430). -/
def State.repairOf (s : State) (c : Nat) : Repair := mapGet {} s.pb.repair c
def fusedSpare (s : State) (c : Nat) : BitVec 5 := mapGet 29 s.sec.spareFuse c

/-- Whether trace owns lanes 12 to 15: the port that holds them is disabled in PDIS (R362). -/
def traceOwnsLanes (cfg : BitVec 6) : Bool :=
  match fieldOf cfg 1 0 with
  | 0 => bitOf cfg 2
  | 1 => bitOf cfg 3
  | _ => bitOf cfg 5

/-- What a reset or a loss of power keeps: the model's own fields, fuses, boot flash with its records, board configuration, what is
beyond the host port, pins, the variant and the stepping. -/
def coldState (s : State) : State :=
  { pending := s.pending, free := s.free, rdata := s.rdata, rbytes := s.rbytes, outbox := s.outbox
    pb := { bankRec := s.pb.bankRec, flashA := s.pb.flashA, flashB := s.pb.flashB, repair := s.pb.repair, boardSsc := s.pb.boardSsc
            boardEmuLock := s.pb.boardEmuLock, rpBoot := s.emu.rpCfg, bank := if s.pb.bankRec then 0xF else 0 }
    sec := { life := s.sec.lifeFuse, lifeFuse := s.sec.lifeFuse, udsBlow := s.sec.udsBlow, keyHash := s.sec.keyHash, keyRev := s.sec.keyRev, svn := s.sec.svn, spareFuse := s.sec.spareFuse, trimFuse := s.sec.trimFuse }
    host := { hostMem := s.host.hostMem, storage := s.host.storage, stepping := s.host.stepping, traceLanes := traceOwnsLanes s.emu.rpCfg }
    pwr := { variantB := s.pwr.variantB
             shells := s.sec.trimFuse.foldl (fun m e => mapSet (shellReset e.1) m e.1 { shellReset e.1 with trim := e.2 }) []
             capPb0 := if s.sec.lifeFuse = lifeBlank ∨ s.sec.lifeFuse = lifeReturn then 400 else 0 }
    phys := { s.phys with quiesce := none, returning := false, thermtrip := false } }

/-- The courses at reset: spares from the fuses (R301). -/
def bootCourses (s : State) : State := foldState (fun c s => s.modCourse c fun x => { x with spare := fusedSpare s c }) (List.range 32) s

/-- PB1 loads what the repair record says: spares and WITHHELD (R430). -/
def loadRepairs (s : State) : State :=
  foldState (fun c s => s.modCourse c fun x =>
    { x with spare := (s.repairOf c).spare.getD (fusedSpare s c), withheld := (s.repairOf c).withheld }) (List.range 32) s

/-- OWN_EPOCH of every link from the TRNG (R327, R396). -/
def bootEpochs (s : State) : State :=
  foldState (fun l s => let d := s.drawBits 16; d.2.modLink l fun k => { k with ownEpoch := d.1 }) (List.range 40) s

/-- PBn runs the image of a bank: its digest is what it attests (R403). -/
def pbStarts (bank : Bool) (n : Nat) (s : State) : State :=
  modPb (fun b => { b with run := setBit b.run n true, ran := setBit b.ran n true, kickAt := mapSet 0 b.kickAt n s.mc
                           digests := mapPut b.digests n (Config.sha384 (s.pbImage bank n).bytes) }) s

def markBootfail (n : Nat) (s : State) : State := modPb (fun b => { b with bootfail := setBit b.bootfail n true }) s

/-- The boot ROM derives the keys (R400); PB0 verifies the images of the active bank: those that pass run, those that fail are recorded
(R366). -/
def bootCores (s : State) : State :=
  foldState (fun n s => if imageVerifies s s.pb.bankRec n then pbStarts s.pb.bankRec n s else markBootfail n s) (List.range 4)
    (modSec (fun x => { x with keys := deriveKeys x (s.pbImage s.pb.bankRec 0).bytes }) s)

/-- PB1 sets SSC from the board configuration, and PB0 locks the PLL shell (R379). -/
def bootPll (s : State) : State :=
  let v := BitVec.ofNat 16 (bn s.pb.boardSsc)
  if s.pbRuns 1 then modShell (shellKey 1 0) (fun x => { x with setpoint := v, prior := v, lock := s.pbRuns 0 }) s else s

/-- What PB0 sets at boot: EMU_LOCK with SEC_CTL locked (R417), VERSION.FW. -/
def bootConfig (s : State) : State :=
  if s.pbRuns 0 then
    modHost (fun h => { h with fw := (s.pbImage s.pb.bankRec 0).build })
      (modSec (fun x => { x with emuLock := s.pb.boardEmuLock, ctlLock := true }) (bootPll s))
  else bootPll s

/-- The domains that PB1 raises: not those of withheld courses, nor the root port with every port disabled (R384). -/
def raiseDomains (s : State) : State :=
  foldState (fun d s =>
    if (d < 32 ∧ (s.course d).withheld) ∨ (d = 57 ∧ s.rpAllOff) then s else orderDomain d 0 s) (List.range 58) s

/-- PB1 brings the module up: the repair record, then the domains, which standby and a quiesce keep down (R442, R445). -/
def pb1Brings (s : State) : State := if s.phys.stby ∨ s.phys.quiesce.isSome then loadRepairs s else raiseDomains (loadRepairs s)

/-- PB3 reports meshes and bridge (R367). -/
def meshReady (s : State) : State :=
  if s.pbRuns 3 ∧ ! s.phys.thermtrip then modHost (fun h => { h with readyMesh := 3, readyBridge := true }) s else s

/-- PB2 reports the mailbox service once the host link is trained (R367). -/
def epReady (s : State) : State :=
  if s.pbRuns 2 ∧ ! s.phys.thermtrip ∧ s.host.pcieTrained ∧ ! bitOf s.host.svcFailed 0 then modHost (fun h => { h with readyEp := true }) s else s

/-- PB2 reports the root port once it is up (R367). -/
def rpReady (s : State) : State :=
  if s.pbRuns 2 ∧ ! s.phys.thermtrip ∧ ! s.rpAllOff ∧ (s.dom 57).state.toNat ≤ 1 ∧ ! bitOf s.host.svcFailed 1 then modHost (fun h => { h with readyRp := true }) s else s

/-- MODULE_RESET ends: PB0 boots the module; under standby every other switched domain stays off, as after step 6 (R445; log 40). -/
def moduleReset (s : State) : State :=
  if ! s.phys.pwrgd then s
  else
    let s0 := coldState s
    let s1 := meshReady (bootConfig (bootCores (bootEpochs (bootCourses s0))))
    let s2 := if s1.pbRuns 1 then pb1Brings s1 else s1
    let q : Option Quiesce := if s.phys.stby then some { button := false, graceOver := true, safe := true } else none
    readyEvent s0 { s2 with phys := { s2.phys with quiesce := q } }

def execModuleReset (s : State) : Host.Outcome State Fault Refusal := .next (moduleReset s)

/-- POWER_UP (R435): PWR_EN rises; with the input in range the module powers up and leaves reset. -/
def execPowerUp (s : State) : Host.Outcome State Fault Refusal :=
  .next (if s.phys.vin then moduleReset { s with phys := { s.phys with pwrEn := true, pwrgd := true } }
    else { s with phys := { s.phys with pwrEn := true } })

/-- Power is gone, as PWR_EN went low or the input left its range: nothing runs, every domain is off, regions are lost without scrub
(R434). The next boot takes the RP_CFG of the one before (R361, R367; log 40). -/
def inputDisconnect (enLow : Bool) (s : State) : State :=
  let s1 := modEmu (fun e => { e with rpCfg := s.emu.rpCfg }) <| coldState { s with phys := { s.phys with vin := enLow && s.phys.vin, pwrEn := ! enLow && s.phys.pwrEn, pwrgd := false } }
  foldState (fun d s => modDom d (fun x => { x with target := 4, state := 4 }) s) (List.range 58) s1

def execInputDisconnect (enLow : Bool) (s : State) : Host.Outcome State Fault Refusal := .next (inputDisconnect enLow s)

/-- INPUT_RETURN (R434). -/
def execInputReturn (s : State) : Host.Outcome State Fault Refusal :=
  .next (if s.phys.pwrEn then moduleReset { s with phys := { s.phys with vin := true, pwrgd := true } }
    else { s with phys := { s.phys with vin := true } })

/-- PCIE_LINK_TRAINED (R367). -/
def execPcieLinkTrained (s : State) : Host.Outcome State Fault Refusal :=
  .next (if s.phys.pwrgd then
      let s1 := modHost (fun h => { h with pcieTrained := true }) s
      readyEvent s1 (epReady s1)
    else s)

/-! ## Activation (R376, R402) -/

def setBank (n : Nat) (bank : Bool) (s : State) : State := modPb (fun b => { b with bank := setBit b.bank n bank }) s

/-- The next core of an activation restarts on the staged bank. -/
def moveCore (a : Activation) (n : PbNo) (s : State) : State :=
  restartPb n.val (setBank n.val a.bank (modPb (fun b => { b with act := some { a with current := some n } }) s))

/-- An activation fails: every core it moved returns to the old bank. -/
def activationFails (a : Activation) (s : State) : State :=
  let back := a.moved ++ (match a.current with | some n => [n] | none => [])
  let s1 := foldState (fun (n : PbNo) s => restartPb n.val (setBank n.val (! a.bank) s)) back s
  completeMsg a.id stDeviceError 2 [] (modPb (fun b => { b with act := none }) s1)

/-- Step 4: the new PB0 writes the bank record, blows SVN, writes VERSION.FW and reports OK. -/
def activationEnds (a : Activation) (s : State) : State :=
  let i := s.pbImage a.bank 0
  let s1 := modPb (fun b => { b with bankRec := a.bank, act := none }) s
  let s2 := modSec (blowSvn i.svn) s1
  completeMsg a.id stOk 0 [] (modHost (fun h => { h with fw := i.build }) s2)

/-- The core after one in the order of R376: PB3, PB2, PB1, PB0. -/
def nextMoved (n : PbNo) : Option PbNo := if n = 3 then some 2 else if n = 2 then some 1 else if n = 1 then some 0 else none

/-- An activation goes on once the core it waits for runs, and PB0 to carry it. -/
def advanceActivation (s : State) : State :=
  match s.pb.act with
  | none => s
  | some a => match a.current with
    | none => s
    | some c =>
      if ! s.pbRuns c.val ∨ ! s.pbRuns 0 then s
      else
        let a1 : Activation := { a with moved := a.moved ++ [c], current := none }
        match nextMoved c with
        | none => activationEnds a1 s
        | some n => if n = 0 ∧ ! imageVerifies s a.bank 0 then activationFails a1 s else moveCore a1 n s

/-- Return to service (R443, R445): after step 6, once nothing holds the quiesce; PB1 raises the domains, and links follow as their
groups are up (R368). It waits while PB1 restarts. -/
def returnToService (s : State) : State :=
  match s.phys.quiesce with
  | none => s
  | some q =>
    if q.safe ∧ ! q.button ∧ ! s.phys.latchOpen ∧ ! s.phys.stby ∧ ! s.phys.thermtrip ∧ s.pbRuns 1 then
      let s1 := raiseDomains (modPwr (fun p => { p with reqs := p.reqs ++ [.moduleState .bmc] }) { s with phys := { s.phys with quiesce := none } })
      { s1 with phys := { s1.phys with returning := ! s1.domsSettled } }
    else s

/-- The core whose work it is, and the work. A restarted core that waits for PB0 to verify its image is taken up apart. -/
def PbWork.core : PbWork → Nat
  | .order _ _ => 1
  | .target _ _ => 1
  | .reached _ => 1
  | .linkAdmit _ _ => 3
  | .railEntry _ _ _ => 3
  | .railGen _ _ => 3
  | .module => 3
  | .restart _ => 0
  | .runs _ => 0
  | .door _ => 0
  | .dbgBuf _ _ => 0
def PbWork.act : PbWork → State → State
  | .order d t => orderDomain d t
  | .target d t => takeTarget d t
  | .reached d => domainArrives d
  | .linkAdmit l on => (·.modLink l fun k => { k with admits := on })
  | .railEntry e lo hi => railPut e lo hi
  | .railGen v drain => if drain then railStep v else railGenWrite v
  | .module => loadModule
  | .restart v => pbCtlTake v
  | .runs _ => id
  | .door len => takeDoor len
  | .dbgBuf off v => takeDbgBuf off v

def PbWork.started : PbWork → Option PbNo
  | .runs n => some n
  | _ => none

/-- The work of PBn that waited, in order (R374). -/
def takeUp (n : Nat) (s : State) : State :=
  let mine (w : PbWork) : Bool := decide (w.core = n) && w.started.isNone
  foldState PbWork.act (s.pb.waiting.filter mine) (modPb (fun b => { b with waiting := b.waiting.filter fun w => ! mine w }) s)

/-- PB0 verifies the images again as it restarts (R372): those that fail are recorded. -/
def verifyAgain (s : State) : State :=
  foldState (fun n s => if imageVerifies s (bitOf s.pb.bank n) n then s else markBootfail n s) (List.range 4) s

/-- PB1's and PB3's bring-up, as each first runs after module reset (R367). -/
def pbBrings (n : Nat) (s : State) : State :=
  match n with
  | 1 => pb1Brings (bootPll s)
  | 3 => meshReady s
  | _ => s

/-- What a core takes up as it runs: PB0 requests, PB1 a waiting return to service, PB2 its journal, PB1's rulings, a waiting press and
its READY bits; and each the work that waited for it. -/
def pbResumes (n : Nat) (s : State) : State :=
  match n with
  | 0 => serveWaiting (verifyAgain (syncPending (takeUp 0 s)))
  | 1 => returnToService (takeUp 1 s)
  | 2 => rpReady <| epReady <| takeVerdicts <| rerunJournal <|
      if s.emu.toggleDue then modEmu (fun e => { e with blink := ! e.blink, blinkShadow := ! e.blink, toggleDue := false }) s else s
  | _ => takeUp n s

/-- A restarted core's image fails verification: PB2's services are down with it (R342). -/
def pbFails (n : Nat) (s : State) : State :=
  let s1 := markBootfail n s
  let s2 := if n = 2 then modHost (fun h => { h with readyEp := false, readyRp := false }) s1 else s1
  match s2.pb.act with
  | some a => if a.current.any fun c => decide (c.val = n) then activationFails a s2 else s2
  | none => s2

/-- A restarted core runs, if its image verifies. -/
def pbRunsAgain (n : Nat) (s : State) : State :=
  if ! bitOf s.pb.restarting n then s
  else
    let bank := bitOf s.pb.bank n
    let s1 := modPb (fun b => { b with restarting := setBit b.restarting n false }) s
    if imageVerifies s bank n then
      let s2 := pbStarts bank n s1
      advanceActivation (readyEvent s (pbResumes n (if bitOf s.pb.ran n then s2 else pbBrings n s2)))
    else readyEvent s (pbFails n s1)

/-- PB_CORE_RUNS. Another core's restart waits while PB0, which verifies its image, does not run (R374); PB0 then takes it up. -/
def pbCoreRuns (n : Nat) (s : State) : State :=
  if n = 0 then
    let s1 := pbRunsAgain 0 s
    if s1.pbRuns 0 then
      foldState (fun (k : PbNo) s => pbRunsAgain k.val s) (s1.pb.waiting.filterMap PbWork.started)
        (modPb (fun b => { b with waiting := b.waiting.filter fun w => w.started.isNone }) s1)
    else s1
  else pbDoes 0 (.runs (Fin.ofNat 4 n)) (pbRunsAgain n) s

def execPbCoreRuns (n : PbNo) (s : State) : Host.Outcome State Fault Refusal := .next (pbCoreRuns n.val s)

/-- WATCHDOG_EXPIRE: the activation's core has not run within 200 ms (R376), or a core has missed its deadline and restarts alone
(R373; MS = 0 acts as 1). -/
def watchdogExpire (n : Nat) (s : State) : State :=
  let since := mapGet 0 s.pb.kickAt n
  let ms := 1000 * usMc
  match s.pb.act with
  | some a =>
    if a.current.any (fun c => decide (c.val = n)) ∧ bitOf s.pb.restarting n then
      if s.mc ≥ since + 200 * ms then activationFails a s else s
    else if s.pbRuns n ∧ s.mc ≥ since + wdogMc s then
      restartPb n (modPb (fun b => { b with wdog := setBit b.wdog n true }) s)
    else s
  | none =>
    if s.pbRuns n ∧ s.mc ≥ since + wdogMc s then
      restartPb n (modPb (fun b => { b with wdog := setBit b.wdog n true }) s)
    else s

def execWatchdogExpire (n : PbNo) (s : State) : Host.Outcome State Fault Refusal := .next (watchdogExpire n.val s)

/-! ## FW_STAGE and FW_ACTIVATE (R375, R376) -/

/-- The first bad field of an FW_STAGE. -/
def stageBad (m : List Byte) : Option Nat :=
  let off := msgField m 16 4
  let total := msgField m 20 4
  if off % 16 ≠ 0 ∨ off ≥ total then some 16 else if total > 0x1000000 then some 20 else if msgField m 24 8 ≠ 0 then some 24 else none

/-- FW_STAGE: a chunk into the bank that is not active; the first erases the bank. -/
def fwStage (id : Nat) (e : JEntry) (s : State) : State :=
  if s.pb.act.isSome then completeMsg id stBusy 0 [] s
  else match stageBad e.msg with
    | some o => completeMsg id stBadArgument o [] s
    | none =>
      let off := msgField e.msg 16 4
      let data := (e.msg.drop 32).take (msgField e.msg 20 4 - off)
      let put (m : Map Byte) : Map Byte := writeBytes (if off = 0 then [] else m) off data
      completeMsg id stOk 0 [] <| modPb (fun b => if b.bankRec then { b with flashA := put b.flashA } else { b with flashB := put b.flashB }) s

def execFwStage (id : Nat) (s : State) : Host.Outcome State Fault Refusal := .next (runMsg id 12 (fwStage id) s)

/-- FW_ACTIVATE: handed to PB0, which verifies the staged images and restarts PB3 on them. -/
def fwActivate (id : Nat) (s : State) : State :=
  if s.pb.act.isSome then completeMsg id stBusy 0 [] s
  else if ! s.pbRuns 0 then s
  else
    let bank := ! s.pb.bankRec
    let s1 := modPb (fun b => { b with journal := b.journal.map fun e => if e.id = id then { e with handed := true } else e }) s
    if (List.range 4).all fun n => imageVerifies s bank n then moveCore { id := id, bank := bank, moved := [], current := none } 3 s1
    else completeMsg id stDeviceError 1 [] s1

def execFwActivate (id : Nat) (s : State) : Host.Outcome State Fault Refusal := .next (runMsg id 13 (fun _ s => fwActivate id s) s)

end Sys2Proof.Machine
end

