-- ==== Sys2Proof/Machine/Storage.lean ====
section
/-! DEFINITION. CHECKPOINT and RESTORE over the storage root port (R361, R370), the BAR2 aperture (R341), Function Level Reset (R338). -/

namespace Sys2Proof.Machine

open Sys2Proof

/-! ## CHECKPOINT and RESTORE (Table 13.3) -/

/-- Range i of a payload: device address and length. -/
def rangeOf (m : List Byte) (i : Nat) : Nat × Nat := (msgField m (32 + 16 * i) 8, msgField m (40 + 16 * i) 8)
def rangesOf (m : List Byte) : List (Nat × Nat) := (List.range (msgField m 16 2)).map (rangeOf m)

/-- Whether the root port has port n: MODE gives it and PDIS leaves it, as taken at boot (R361, Table 12.13). -/
def State.rootPort (s : State) (n : Nat) : Bool :=
  ! (fieldOf s.pb.rpBoot 5 2).testBit n && decide (n < match fieldOf s.pb.rpBoot 1 0 with | 0 => 1 | 1 => 2 | _ => 4)

/-- The byte offset of the first bad field (R370): counts, port (log 39), LENGTH, then each range's address and length. -/
def rangesBad (s : State) (r : Nat) (m : List Byte) : Option Nat :=
  let n := msgField m 16 2
  if n = 0 ∨ n > 254 then some 16
  else if ! s.rootPort (msgField m 18 1) then some 18
  else if msgField m 19 1 ≠ 0 then some 19
  else if msgLength m ≠ max 64 (32 + 16 * n) then some 2
  else (List.range n).findSome? fun i =>
    let x := rangeOf m i
    if x.1 % 4096 ≠ 0 then some (32 + 16 * i)
    else if x.2 % 4096 ≠ 0 then some (40 + 16 * i)
    else if ! rangeMapped s r x.1 x.2 then some (32 + 16 * i)
    else none

/-- Where byte i from the payload's first LBA lies in storage: port, namespace and LBA of 512 bytes (log 39). -/
def storageAt (m : List Byte) (i : Nat) : Nat :=
  (msgField m 18 1 * 2 ^ 32 + msgField m 20 4) * 2 ^ 80 + msgField m 24 8 * 512 + i

/-- The parts of the ranges within the first n bytes: device address, length, and place in the whole. -/
def movedParts : List (Nat × Nat) → Nat → Nat → List (Nat × Nat × Nat)
  | [], _, _ => []
  | x :: xs, n, at_ => (x.1, min x.2 n, at_) :: movedParts xs (n - x.2) (at_ + x.2)

def saveParts (r : Nat) (m : List Byte) (ps : List (Nat × Nat × Nat)) (s : State) : State :=
  foldState (fun (p : Nat × Nat × Nat) s =>
    modHost (fun h => { h with storage := writeBytes h.storage (storageAt m p.2.2) (regionRead s r p.1 p.2.1) }) s) ps s

def loadParts (r : Nat) (m : List Byte) (ps : List (Nat × Nat × Nat)) (s : State) : State :=
  foldState (fun (p : Nat × Nat × Nat) s => regionWrite r p.1 (readBytes s.host.storage (storageAt m p.2.2) p.2.1) s) ps s

/-- A transfer: all of it, or what an NVMe error leaves moved, with DEVICE_ERROR and the status in the detail. -/
def transfer (id : Nat) (e : JEntry) (err : Option NvmeErr) (move : Nat → List Byte → List (Nat × Nat × Nat) → State → State) (s : State) : State :=
  let r := msgTarget e.fn.val e.msg
  match rangesBad s r e.msg with
  | some o => completeMsg id stBadArgument o [] s
  | none =>
    let xs := rangesOf e.msg
    let total := (xs.map (·.2)).foldl (· + ·) 0
    let n := match err with
      | some x => min x.moved total
      | none => total
    let s1 := move r e.msg (movedParts xs n 0) s
    match err with
    | some x => completeMsg id stDeviceError x.status.toNat (leBytes 8 n) s1
    | none => completeMsg id stOk 0 (leBytes 8 n) s1

def execCheckpoint (id : Nat) (err : Option NvmeErr) (s : State) : Host.Outcome State Fault Refusal :=
  .next (runMsg id 9 (fun e s => transfer id e err saveParts s) s)

def execRestore (id : Nat) (err : Option NvmeErr) (s : State) : Host.Outcome State Fault Refusal :=
  .next (runMsg id 10 (fun e s => transfer id e err loadParts s) s)

/-! ## Downstream requests (R361) -/

/-- Whether a buffer is posted at a port: a range of a started CHECKPOINT or RESTORE that has not ended (log 39). -/
def posted (s : State) (port addr len : Nat) : Bool :=
  s.pb.journal.any fun e =>
    decide (msgOpcode e.msg = 9 ∨ msgOpcode e.msg = 10) && e.result.isNone && decide (msgField e.msg 18 1 = port)
      && (rangesBad s (msgTarget e.fn.val e.msg) e.msg).isNone
      && (rangesOf e.msg).any fun x => decide (x.1 ≤ addr ∧ addr + len ≤ x.1 + x.2)

/-- DOWNSTREAM_REQUEST: its data is part of the transfer; any other completes Unsupported Request. None comes through a port that the split
does not give. -/
def execDownstreamRequest (port : BitVec 2) (addr : BitVec 64) (len : Nat) (s : State) : Host.Outcome State Fault Refusal :=
  .next (if ! s.rootPort port.toNat ∨ posted s port.toNat addr.toNat len then s else { s with outbox := s.outbox ++ [.unsupported (some port)] })

/-! ## The aperture (R337, R341) -/

def ApAccess.size : Sys2Proof.ApAccess → Nat
  | .read n => n
  | .write d => d.length

/-- The packet that the endpoint issues for an access. -/
def apPacket (r a : Nat) (acc : ApAccess) : Packet :=
  { h := { addr := BitVec.ofNat 48 a, snode := BitVec.ofNat 10 pcieNode, region := BitVec.ofNat 6 r, cls := clsReq
           kind := match acc with | .read _ => kRead | .write _ => kWrite }
    data := match acc with | .read n => leBytes 2 n | .write d => d }

/-- A refusal at a core's network port is counted there too (R205). -/
def apCounts (s : State) (a : Nat) : Option Nat :=
  match placeOfAddr (BitVec.ofNat 48 a) with
  | .scratch n _ => if s.exposed n then some n else none
  | .block n off => if s.exposed n ∧ ((0x22000 ≤ off ∧ off < 0x220C0) ∨ (0x23000 ≤ off ∧ off < 0x23100)) then some n else none
  | .unmapped => (scratchSlot (BitVec.ofNat 48 a)).filter s.exposed
  | _ => none

/-- Whether an access reaches memory: the region's tier-1 and tier-2, its own or another region's scratchpad that a window opens, and
nothing of node blocks (R258: their pages take no load or store). -/
def apGood (s : State) (r a : Nat) (acc : ApAccess) : Bool :=
  s.regionExists r &&
    (match placeOfAddr (BitVec.ofNat 48 a) with
    | .scratch n off =>
      (portRefusal s n (apPacket r a acc)).isNone && decide (off + ApAccess.size acc ≤ scratchSize)
        && (windowRefusal (s.core n) n (apPacket r a acc) off (ApAccess.size acc)).isNone
    | _ => rangeMapped s r a (ApAccess.size acc) && rangeGood s r a (ApAccess.size acc))

/-- Whether a read would deliver a poisoned word. -/
def apPoisoned (s : State) (r a n : Nat) : Bool :=
  match placeOfAddr (BitVec.ofNat 48 a) with
  | .scratch m off => poisonedAt 8 (s.core m).mem.poison off n
  | _ => regionPoisoned s r a n

def apRead (s : State) (r a n : Nat) : List Byte :=
  match placeOfAddr (BitVec.ofNat 48 a) with
  | .scratch m off => (s.core m).mem.readScratch off n
  | _ => regionRead s r a n

def apWrite (r a : Nat) (bs : List Byte) (s : State) : State :=
  match placeOfAddr (BitVec.ofNat 48 a) with
  | .scratch m off => s.modCore m fun c => c.modMem (·.writeScratch off bs)
  | _ => regionWrite r a bs s

/-- A refused access: AP_REF and AP_COUNT of the function whose BAR2 took it; a read completes with Unsupported Request. -/
def apRefuse (fn a : Nat) (acc : ApAccess) (s : State) : State :=
  let s1 := modHostErr fn (fun e => { e with apRef := true, apCount := satAdd e.apCount 1 }) s
  let s2 := match apCounts s a with
    | some n => modCtlPage n (fun c => { c with winRefused := c.winRefused + 1 }) s1
    | none => s1
  match acc with
  | .read _ => { s2 with outbox := s2.outbox ++ [.unsupported none] }
  | .write _ => s2

/-- APERTURE_ACCESS: BASE + o, as traffic of the function's region. What a read returns is `rbytes`, and its first 8 bytes `rdata`
(log 9). -/
def apertureAccess (fn : Nat) (off : Nat) (acc : ApAccess) (s : State) : State :=
  let r := apRegion s fn
  let a := ((s.aperture fn).base.toNat * 2 ^ 20 + off) % 2 ^ 48
  if ! apGood s r a acc then apRefuse fn a acc s
  else match acc with
    | .read n =>
      if apPoisoned s r a n then apRefuse fn a acc s
      else
        let bs := apRead s r a n
        { s with rdata := leBits 64 bs, rbytes := bs }
    | .write d => apWrite r a d s

def execApertureAccess (fn : FnNo) (off : BitVec 36) (acc : ApAccess) (s : State) : Host.Outcome State Fault Refusal :=
  .next (apertureAccess fn.val off.toNat acc s)

/-! ## Function Level Reset (R338) -/

/-- The function's queue pairs are disabled, the completions of its messages discarded, its emulated registers reset. -/
def functionReset (fn : Nat) (s : State) : State :=
  let s1 := foldState (fun q s => modQp fn q (fun x => { x with en := false }) s) (List.range (fnUnits fn)) s
  let s2 := discardMsgs (fun e => decide (e.fn.val = fn)) s1
  let mine := s2.emu.writes.filter fun w => decide (w.master = fn)
  let s3 := modEmu (fun e => { e with writes := e.writes.filter (fun w => decide (w.master ≠ fn)),
                                      verdicts := e.verdicts.filter (fun v => decide (v.write.master ≠ fn)) }) s2
  let undone := foldState (fun (w : ShadowWrite) s => restoreShadow w (inForce s w) s) mine s3
  modPwr (fun p => { p with reqs := p.reqs.filter fun r => decide (r.master ≠ some fn) }) (modMaster fn (fun _ => {}) undone)

def execFunctionLevelReset (fn : FnNo) (s : State) : Host.Outcome State Fault Refusal := .next (functionReset fn.val s)

end Sys2Proof.Machine
end

