-- ==== Sys2Proof/Machine/Physical.lean ====
section
/-! DEFINITION. Latch, button and standby: the module quiesce and the return to service (R441 to R445), and the LEDs (R446). -/

namespace Sys2Proof.Machine

open Sys2Proof

def modPhys (f : Phys → Phys) (s : State) : State := { s with phys := f s.phys }

/-- The static I3C address of the module (R437). -/
def State.i3cAddress (s : State) : BitVec 7 := 0x50 + s.phys.addrSel.zeroExtend 7

/-- A request for a module state at BMC rank, in PB1's present tick (R392, R444). -/
def moduleRequest (s : State) : State := modPwr (fun p => { p with reqs := p.reqs ++ [.moduleState .bmc] }) s

/-- Starts a module quiesce; during one, nothing further starts (R442, R444). -/
def startQuiesce (button : Bool) (s : State) : State :=
  if s.phys.quiesce.isSome ∨ s.phys.thermtrip ∨ ! s.phys.pwrgd then s
  else moduleRequest (modPhys (fun p => { p with quiesce := some { button := button, graceOver := false, safe := false, start := s.mc }, returning := false }) s)

/-- LATCH_OPEN (R442). -/
def execLatchOpen (s : State) : Host.Outcome State Fault Refusal :=
  .next (startQuiesce false (modPhys (fun p => { p with latchOpen := true }) (setAlert 3 s)))

/-- LATCH_CLOSE (R443). -/
def execLatchClose (s : State) : Host.Outcome State Fault Refusal :=
  .next (returnToService (modPhys (fun p => { p with latchOpen := false }) s))

/-- BUTTON_SHORT_PRESS (R441): PB2 toggles LOCATE.BLINK, or will once it runs. -/
def buttonShort (s : State) : State :=
  let s1 := setAlert 1 s
  if s.pbRuns 2 then modEmu (fun e => { e with blink := ! e.blink, blinkShadow := ! e.blink }) s1
  else modEmu (fun e => { e with toggleDue := ! e.toggleDue }) s1

def execButtonShortPress (s : State) : Host.Outcome State Fault Refusal := .next (buttonShort s)

/-- BUTTON_LONG_PRESS (R441, R443): starts a quiesce, or ends the hold of the one that the button started once step 6 is reached. -/
def buttonLong (s : State) : State :=
  let s1 := setAlert 2 s
  match s.phys.quiesce with
  | none => startQuiesce true s1
  | some q =>
    if q.safe ∧ q.button then returnToService (modPhys (fun p => { p with quiesce := some { q with button := false } }) s1) else s1

def execButtonLongPress (s : State) : Host.Outcome State Fault Refusal := .next (buttonLong s)

/-- STBY_EN_RISE (R445): a quiesce, and no cause bit. -/
def execStbyEnRise (s : State) : Host.Outcome State Fault Refusal :=
  .next (startQuiesce false (modPhys (fun p => { p with stby := true }) s))

/-- STBY_EN_FALL (R445). -/
def execStbyEnFall (s : State) : Host.Outcome State Fault Refusal :=
  .next (returnToService (modPhys (fun p => { p with stby := false }) s))

/-! ## The steps of a quiesce (R442) -/

/-- The regions that exist, ascending. -/
def liveRegions (s : State) : List Nat := (List.range 32).filter s.regionExists

/-- Step 5's state of a domain: IDLE for the meshes, the endpoint and a root port with a port enabled, OFF for the rest. -/
def quiesceState (s : State) (d : Nat) : Nat := if d = 32 ∨ d = 33 ∨ d = 56 ∨ (d = 57 ∧ ! s.rpAllOff) then 1 else 4

/-- Step 4: PB3 disables every link. Step 5: PB1 orders the domains. -/
def quiesceDown (s : State) : State :=
  let s1 := foldState (fun l s => linkEnable l false s) (List.range 40) s
  foldState (fun d s => orderDomain d (quiesceState s d) s) (List.range 58) s1

/-- QUIESCE_GRACE_EXPIRE: the grace ends after 30 s, or once no region exists; PB2 destroys the remaining regions in ascending ID, and once none is left links and domains go
down. What waits for a core of Pegbox, or for a region's courses to stop, is taken up when the command comes again (log 37). -/
def quiesceGrace (s : State) : State :=
  match s.phys.quiesce with
  | none => s
  | some q =>
    if q.safe ∨ ! (q.graceOver || (liveRegions s).isEmpty || decide (s.mc ≥ q.start + 30000000 * usMc)) then s
    else
      let s1 := modPhys (fun p => { p with quiesce := some { q with graceOver := true } }) s
      let s2 := if s1.pbRuns 2 then foldState (fun r s => (destroyRegion r s).2) (liveRegions s1) s1 else s1
      if liveRegions s2 = [] ∧ s2.pbRuns 3 ∧ s2.pbRuns 1 then quiesceDown s2 else s2

def execQuiesceGraceExpire (s : State) : Host.Outcome State Fault Refusal := .next (quiesceGrace s)

/-- Whether steps 1 to 5 are done. -/
def quiesced (s : State) : Bool :=
  (liveRegions s).isEmpty && (List.range 40).all (fun l => ! (s.link l).en)
    && (List.range 58).all fun d => decide ((s.dom d).state.toNat = quiesceState s d)

/-- QUIESCE_COMPLETE: step 6; the return follows at once where nothing holds the quiesce any more. -/
def quiesceComplete (s : State) : State :=
  match s.phys.quiesce with
  | none => s
  | some q =>
    if ! q.safe ∧ q.graceOver ∧ quiesced s then returnToService (modPhys (fun p => { p with quiesce := some { q with safe := true } }) s) else s

def execQuiesceComplete (s : State) : Host.Outcome State Fault Refusal := .next (quiesceComplete s)

/-! ## LEDs (Table 17.7) -/

inductive Led where
  | off | steady | hz1 | hz4
  deriving DecidableEq, Repr

/-- Whether a quiesce has reached step 6. -/
def safeToRemove (s : State) : Bool := s.phys.thermtrip || (match s.phys.quiesce with | some q => q.safe | none => false)

def blueLed (s : State) : Led := if safeToRemove s then .steady else if s.emu.blink then .hz1 else .off

def amberLed (s : State) : Led :=
  if s.pwr.trip ∨ s.pb.bootfail ≠ 0 ∨ (s.phys.pwrEn ∧ ! s.phys.vin) then .steady
  else if (List.range 32).any (fun c => (s.course c).withheld) ∨ s.emu.insts.any (fun i => decide (i.2.pstate = 7)) ∨ bitOf s.host.alertCause 0 then .hz1
  else .off

def greenLed (s : State) : Led :=
  if s.phys.quiesce.any (fun q => ! q.safe) ∨ s.phys.returning then .hz4
  else if s.host.readyEp then .steady
  else if s.phys.pwrgd then .hz1
  else .off

end Sys2Proof.Machine
end

