-- ==== Sys2Proof/Machine/NodePort.lean ====
section
/-! DEFINITION. Packets that reach a node: NETWORK_PORT_ACCESS at a core, a memory node, an L node and a service node (R203, R298, R303,
R333, R377, R394, R417), and rdb requests held at a node with their cancels (R273). -/

namespace Sys2Proof.Machine

open Sys2Proof

/-! ## Registers reached by packets -/

/-- A node holds at most 32 pending rdb requests (R273). -/
def rdbRoom : Nat := 32

/-- The blocking condition of a register: LINK_EVT ≠ 0 and RAIL_GEN_DRAIN.ALL = 1 of an L node (R333); no other register has one. -/
def rdbCondition (s : State) (n off : Nat) : Option Bool :=
  if nodeKind n = .link then
    if off = 0x024 then some (decide ((s.lnode n).evt ≠ 0)) else if off = 0x050 then some s.allDrained else none
  else none

/-- The registers of consecutive words, read in order. -/
def readWords (n : Nat) (who : Accessor) : List Nat → State → List Byte × State
  | [], s => ([], s)
  | o :: os, s =>
    let r := regRead who (.block (Fin.ofNat 960 n) (BitVec.ofNat 20 o)) s
    let rest := readWords n who os r.2
    (leBytes 4 r.1.toNat ++ rest.1, rest.2)

/-- The register words written in order. -/
def writeWords (n : Nat) (who : Accessor) (data : List Byte) : List (Nat × Nat) → State → State
  | [], s => s
  | (o, i) :: os, s => writeWords n who data os (regWrite who (.block (Fin.ofNat 960 n) (BitVec.ofNat 20 o)) (wordAt data i) s)

/-- Whether a node block places a register at an offset: Tables 10.4, 11.10, 13.7, 14.8 and 15.11 (R197). -/
def placesReg (n off : Nat) : Bool :=
  match nodeKind n with
  | .hbm => [0x000, 0x004, 0x008, 0x010, 0x014, 0x018, 0x01C, 0x020, 0x024, 0x028, 0x02C, 0x030].any fun o => decide (off = 0x80000 + o)
  | .link => [0x000, 0x004, 0x008, 0x00C, 0x010, 0x014, 0x018, 0x01C, 0x020, 0x024, 0x040, 0x044, 0x048, 0x04C, 0x050].contains off
  | .service =>
    if n = pegboxNode then
      [0x000, 0x004, 0x008, 0x010, 0x014, 0x018, 0x01C].contains off
        || [0x000, 0x004, 0x008, 0x00C, 0x010, 0x040, 0x044, 0x050, 0x054, 0x058].any fun o => decide (off = 0x10000 + o)
    else decide (n = securityNode) && [0x000, 0x004, 0x008, 0x00C, 0x010, 0x020, 0x024, 0x028, 0x02C, 0x030].contains off
  | _ => false

/-- Whether every byte of an access to a node block lies in a register. -/
def blockMaps (n off len : Nat) : Bool := (wordsOf 4 off len).all fun w => placesReg n (4 * w)

/-- Whether an RDB asks for one test of its condition (R98; layout log 8). -/
def asksOnce (p : Packet) : Bool := decide (p.data.headD 0 = 1)

/-- An rdb at a node that is no core: its value at once, or it is held until its condition holds; none while the node has no room. One that
asks for a single test is answered at once, with kind 0 where the condition does not hold (log 17). -/
def rdbAt (n off : Nat) (p : Packet) (s : State) : Option State :=
  let value : State :=
    let r := readWords n (packetWho p) (pageWords off 4) s
    r.2.send (dataOf n p (padTo 16 r.1))
  match rdbCondition s n off with
  | none => some value
  | some met =>
    if asksOnce p then some (if met then value else s.send (rspErrOf n p 0))
    else if (s.node n).rdbs.length < rdbRoom then some (s.modNode n fun x => { x with rdbs := x.rdbs ++ [p] }) else none

/-- The bytes of a node block that an access names. -/
def blockLen (p : Packet) : Nat := if p.h.kind = kRdb then 4 else if p.h.kind = kRead then readCount p else p.data.length

/-- An access to the block of a node that is no core (R2); where no register lies it is refused (R197); only Pegbox and the security node issue region 0x3F (R298). -/
def nodeAccess (n : Nat) (p : Packet) (s : State) : Option State :=
  let who := packetWho p
  let stranger := decide (p.h.region = 0x3F) && ! (fromPegbox p || decide (who = .security))
  match placeOfAddr p.h.addr with
  | .block m off =>
    if m ≠ n ∨ ! reachesNode n who ∨ stranger ∨ ! blockMaps n off (blockLen p) then some (s.send (refusalOf n p refUnmapped))
    else if p.h.kind = kRdb then rdbAt n off p s
    else if p.h.kind = kRead then
      let r := readWords n who (pageWords off (readCount p)) s
      some (r.2.send (dataOf n p (padTo (readCount p) r.1)))
    else if p.h.kind = kWrite then
      let ws := pageWords off p.data.length
      some ((writeWords n who p.data (ws.zip (List.range ws.length)) s).send (ackOf n p))
    else some (s.send (refusalOf n p refUnmapped))
  | _ => some (s.send (refusalOf n p refUnmapped))

/-! ## Ports -/

/-- The oldest register access that has arrived at a node. -/
def blockPort (n : Nat) (want : Packet → Bool) (s : State) : State :=
  (takeThen (takeRx n (fun p => decide (p.h.module = 0xFFFF) && ! isAnswer p && want p) s) (nodeAccess n)).getD s

/-- Fret increments and messages have no target but a core: they are refused UNMAPPED. -/
def strayCtrl (n : Nat) (s : State) : Option State :=
  (takeCtrl n (fun p => decide (p.h.module = 0xFFFF ∧ (p.h.kind = kFinc ∨ p.h.kind = kMsg))) s).map fun r => r.2.send (refusalOf n r.1 refUnmapped)

/-- The answer to an rdb of Pegbox, kept by TAG; that of an admission brings its step 4 (R322). -/
def pegboxAnswer (s : State) : Option State :=
  (takeRx pegboxNode isAnswer s).map fun r =>
    if r.1.h.kind = kData then
      let s1 := modPb (fun b => { b with pbRdb := mapSet 0 b.pbRdb r.1.h.tag.toNat (wordAt r.1.data 0) }) r.2
      if r.1.h.tag = admitRdb.h.tag then admitEnds s1 else s1
    else r.2

/-- The port of a node that is no core. -/
def otherPort (n : Nat) (s : State) : State :=
  match strayCtrl n s with
  | some t => t
  | none => match nodeKind n with
    | .hbm => blockPort n toBlock (admitMem n s)
    | .far => blockPort n toBlock (admitMem n s)
    | .service => if n = pegboxNode then (pegboxAnswer s).getD (blockPort n (fun _ => true) s) else blockPort n (fun _ => true) s
    | _ => blockPort n (fun _ => true) s

/-- NETWORK_PORT_ACCESS. -/
def networkPort (n : Nat) (s : State) : State := if isCore n then corePortAccess n s else otherPort n s

def execNetworkPortAccess (node : NodeNo) (s : State) : Host.Outcome State Fault Refusal := .next (networkPort node.val s)

/-! ## Held rdb requests (R273) -/

/-- The offset that a held request reads. -/
def rdbOff (p : Packet) : Nat :=
  match placeOfAddr p.h.addr with
  | .block _ off => off
  | _ => 0

/-- RDB_CONDITION_MET: the oldest held request whose condition holds returns the value read now. -/
def rdbMet (n : Nat) (s : State) : State :=
  match findWith (fun p => decide (rdbCondition s n (rdbOff p) = some true)) (s.node n).rdbs with
  | none => s
  | some (i, p) =>
    let r := readWords n (packetWho p) [rdbOff p] (s.modNode n fun x => { x with rdbs := x.rdbs.eraseIdx i })
    r.2.send (dataOf n p (padTo 16 r.1))

def execRdbConditionMet (node : NodeNo) (s : State) : Host.Outcome State Fault Refusal := .next (rdbMet node.val s)

/-- Whether a CANCEL names an rdb. -/
def cancels (c p : Packet) : Bool := decide (p.h.kind = kRdb ∧ p.h.snode = c.h.snode ∧ p.h.tag = c.h.tag)

/-- Whether the header of a packet that satisfies p is under way at a node: at its source, in its router or on its links. -/
def NodeIO.carries (p : Header → Bool) (x : NodeIO) : Bool :=
  let flit (f : Flit) : Bool := match f.head with
    | some h => p h
    | none => false
  x.out.any (fun q => p q.h) || x.inj.any (fun e => e.2.any flit) || x.asm.any (fun e => e.2.any flit)
    || x.router.inq.any (fun e => e.2.any flit) || x.router.tx.any fun e => (e.2.buf ++ e.2.wire).any fun t => flit t.flit

/-- Whether the request that a CANCEL names has yet to reach its node: the CANCEL has overtaken it. -/
def cancelEarly (s : State) (c : Packet) : Bool :=
  s.nodes.any fun e => e.2.carries fun h => decide (h.kind = kRdb ∧ h.snode = c.h.snode ∧ h.dnode = c.h.dnode ∧ h.tag = c.h.tag)

/-- CANCEL_ARRIVE: the node drops the request that the CANCEL names, held or still at its input, and acknowledges it, which frees its TAG
(log 17); a request already answered is not there. A CANCEL that has overtaken its request waits for it. -/
def cancelArrive (n : Nat) (s : State) : State :=
  match takeCtrl n (fun p => decide (p.h.module = 0xFFFF ∧ p.h.kind = kCancel) && ! cancelEarly s p) s with
  | none => s
  | some (c, s1) =>
    if (s1.node n).rdbs.any (cancels c) then (s1.modNode n fun x => { x with rdbs := removeFirst (cancels c) x.rdbs }).send (ackOf n c)
    else match takeRx n (cancels c) s1 with
      | some (_, s2) => s2.send (ackOf n c)
      | none => s1

def execCancelArrive (node : NodeNo) (s : State) : Host.Outcome State Fault Refusal := .next (cancelArrive node.val s)

end Sys2Proof.Machine
end

