-- ==== Sys2Proof/Machine/Scrub.lean ====
section
/-! DEFINITION. Patrol scrub, and the errors of SRAM that a reader meets (R419, R421 to R425). -/

namespace Sys2Proof.Machine

open Sys2Proof

/-! ## Patrol scrub (R421, R422) -/

/-- Scrub of a core's SRAM. DESIGN CHOICE (log 43): the write-back of a corrected word is no write of R106, so a granule keeps its tag. -/
def scrubCore (n st : Nat) (off : Nat) (ecc : EccOutcome) (bad : Bool) (mark : CoreMem → CoreMem) (s : State) : State :=
  if bad then s.coreEcc n st off
  else match ecc with
    | .clean => s
    | .corrected => s.coreCorr n
    | .uncorrectable => (s.modCore n fun c => c.modMem mark).coreEcc n st off

/-- Scrub of a controller's memory. -/
def scrubCtl (n i off : Nat) (ecc : EccOutcome) (s : State) : State :=
  let w := off / eccUnit i
  let (k, x) := ctlInst i
  if mapGet false (s.ctl i).poison w then ctlUncorr n i off s
  else match ecc with
    | .clean => s
    | .corrected => modInst k x (fun y => { y with corr := satAdd y.corr 1 }) s
    | .uncorrectable => ctlUncorr n i off (s.modCtl i fun c => { c with poison := mapSet false c.poison w true })

/-! ## SRAMs whose errors their reader meets (R419, R423; log 41) -/

/-- A line of the read cache is dropped, and its load fetches it again (R216). -/
def cacheUpset (n key : Nat) (ecc : EccOutcome) (s : State) : State :=
  match entryAt (s.core n).mem.cache key, ecc with
  | none, _ => s
  | some _, .clean => s
  | some _, .corrected => s.coreCorr n
  | some _, .uncorrectable => (s.modCore n fun c => c.modMem fun m => { m with cache := mapDel m.cache key }).coreEcc n 7 (key * 128)

/-- A queued message is discarded (Table 16.1). -/
def messageUpset (n i : Nat) (ecc : EccOutcome) (s : State) : State :=
  if i < (s.core n).syn.msgs.length then
    match ecc with
    | .clean => s
    | .corrected => s.coreCorr n
    | .uncorrectable => (s.modCore n fun c => { c with syn := { c.syn with msgs := c.syn.msgs.eraseIdx i } }).coreEcc n 8 (i * 32)
  else s

/-- A burst whose bytes stand in the Plectrum buffer is not sent: channel error ECC (Table 16.1, R242). -/
def burstUpset (n ch id : Nat) (ecc : EccOutcome) (s : State) : State :=
  match ((s.core n).chan ch).run.bind fun r => r.bursts.find? fun b => decide (b.id = id ∧ b.stage = .read), ecc with
  | none, _ => s
  | some _, .clean => s
  | some _, .corrected => s.coreCorr n
  | some _, .uncorrectable =>
    let s1 := setDma n (fun p => { p with ready := p.ready.filter fun y => decide (y ≠ (BitVec.ofNat 3 ch, id)) }) (s.coreEcc n 9 0)
    settle n (burstFails n ch id 7 0xF9 s1)

/-- A link that reads an uncorrectable word of its replay or egress buffer flushes, with cause REPLAY (Table 16.1). -/
def linkUpset (l : Nat) (ecc : EccOutcome) (s : State) : State :=
  let k := s.link l
  if k.state = .off ∨ (k.egress = [] ∧ k.replay = []) ∨ ecc ≠ .uncorrectable then s
  else
    let s1 := s.health { code := 6, record := eccRecord s 10 1 l true 0, region := s.linkRegion l }
    flushLink l .train (s1.modLink l fun k => { k with cause := 2 })

/-- A PB core that reads an uncorrectable word of Pegbox memory restarts (Table 16.1, R372). -/
def pegboxUpset (n : Nat) (ecc : EccOutcome) (s : State) : State :=
  if ! s.pbRuns n ∨ ecc ≠ .uncorrectable then s
  else restartPb n (s.health { code := 6, record := eccRecord s 11 0 0 true 0, region := none })

/-- PATROL_SCRUB of a place; places outside a memory hold nothing. -/
def scrub (p : ScrubPlace) (ecc : EccOutcome) (s : State) : State :=
  match p with
  | .scratchpad n off =>
    if off < scratchSize then
      scrubCore n.val 1 off ecc (mapGet false (s.core n.val).mem.poison (off / 8)) (fun m => { m with poison := mapSet false m.poison (off / 8) true }) s
    else s
  | .imem n off =>
    if off < 0x20000 then
      scrubCore n.val 0 off ecc (mapGet false (s.core n.val).mem.imemPoison (off / 8))
        (fun m => { m with imemPoison := mapSet false m.imemPoison (off / 8) true }) s
    else s
  | .tile n t off =>
    let k := t.toNat * 4096 + off / 8
    if off / 8 < 4096 then
      scrubCore n.val 2 off ecc (mapGet false (s.core n.val).mem.tilePoison k) (fun m => { m with tilePoison := mapSet false m.tilePoison k true }) s
    else s
  | .acc n e =>
    if e < 65536 then
      scrubCore n.val 3 e ecc (mapGet false (s.core n.val).mem.accPoison e) (fun m => { m with accPoison := mapSet false m.accPoison e true }) s
    else s
  | .tier1 c off => if off < 0x300000000 then scrubCtl (hbmNode c.val) c.val off ecc s else s
  | .tier2 ch off => if off < 0x1000000000 then scrubCtl (auxNode (ctlCourse (32 + ch.val))) (32 + ch.val) off ecc s else s
  | .cacheLine n set way => cacheUpset n.val (set.toNat * 4 + way.toNat) ecc s
  | .message n i => messageUpset n.val i ecc s
  | .burst n ch id => burstUpset n.val ch.toNat id ecc s
  | .linkBuffer l => linkUpset l.val ecc s
  | .pegbox n => pegboxUpset n.val ecc s

def execPatrolScrub (place : ScrubPlace) (ecc : EccOutcome) (s : State) : Host.Outcome State Fault Refusal :=
  match scrubNode place with
  | some n => atCore n (scrub place ecc s)
  | none => .next (scrub place ecc s)

end Sys2Proof.Machine
end

