-- ==== Sys2Proof/Machine/SynOps.lean ====
section
/-! DEFINITION. Commands of the SYN unit and Plectrum (Table 3.15), each the bundle of that op (log 4). -/

namespace Sys2Proof.Machine

open Sys2Proof

/-- FINC (R250). -/
def execFinc (c : OpAt) (f : BitVec 6) (ga : GReg) (s : State) : Host.Outcome State Fault Refusal :=
  issueOne c (.finc f ga) s

/-- FINC_I (R250). -/
def execFincI (c : OpAt) (f : BitVec 6) (n : BitVec 5) (s : State) : Host.Outcome State Fault Refusal :=
  issueOne c (.fincI f n) s

/-- FINC_R (R256). -/
def execFincR (c : OpAt) (cap : SReg) (ga : GReg) (gb : GReg) (s : State) : Host.Outcome State Fault Refusal :=
  issueOne c (.fincR cap ga gb) s

/-- FWAIT (R99). -/
def execFwait (c : OpAt) (f : BitVec 6) (ga : GReg) (pd : PReg) (s : State) : Host.Outcome State Fault Refusal :=
  issueOne c (.fwait f ga pd) s

/-- FREAD (R254). -/
def execFread (c : OpAt) (f : BitVec 6) (gd : GReg) (s : State) : Host.Outcome State Fault Refusal :=
  issueOne c (.fread f gd) s

/-- SEND (R261). -/
def execSend (c : OpAt) (cap : SReg) (gw : GReg) (n : BitVec 3) (tag : BitVec 4) (s : State) : Host.Outcome State Fault Refusal :=
  issueOne c (.send cap gw n tag) s

/-- WAITD (R100). -/
def execWaitd (c : OpAt) (ga : GReg) (pd : PReg) (s : State) : Host.Outcome State Fault Refusal :=
  issueOne c (.waitd ga pd) s

/-- RETD (R101). -/
def execRetd (c : OpAt) (s : State) : Host.Outcome State Fault Refusal :=
  issueOne c .retd s

/-- RDB (R273). -/
def execRdb (c : OpAt) (gd : GReg) (cap : SReg) (ga : GReg) (pd : PReg) (s : State) : Host.Outcome State Fault Refusal :=
  issueOne c (.rdb gd cap ga pd) s

/-- ISTORE (R70). -/
def execIstore (c : OpAt) (cap : SReg) (ga : GReg) (gb : GReg) (s : State) : Host.Outcome State Fault Refusal :=
  issueOne c (.istore cap ga gb) s

/-- IFENCE (R72). -/
def execIfence (c : OpAt) (s : State) : Host.Outcome State Fault Refusal :=
  issueOne c .ifence s

/-- DMA_START (R228). -/
def execDmaStart (c : OpAt) (ch : BitVec 3) (cap : SReg) (ga : GReg) (s : State) : Host.Outcome State Fault Refusal :=
  issueOne c (.dmaStart false ch cap ga) s

/-- DMA_START_NT (R228). -/
def execDmaStartNt (c : OpAt) (ch : BitVec 3) (cap : SReg) (ga : GReg) (s : State) : Host.Outcome State Fault Refusal :=
  issueOne c (.dmaStart true ch cap ga) s

/-- DMA_WR (R246). -/
def execDmaWr (c : OpAt) (reg : GReg) (g : GReg) (s : State) : Host.Outcome State Fault Refusal :=
  issueOne c (.dmaWr reg g) s

/-- DMA_RD (R228). -/
def execDmaRd (c : OpAt) (g : GReg) (reg : GReg) (s : State) : Host.Outcome State Fault Refusal :=
  issueOne c (.dmaRd g reg) s

end Sys2Proof.Machine
end

