-- ==== Sys2Proof/Machine/VecOps.lean ====
section
/-! DEFINITION. Commands of the vector unit (Table 3.10), each the bundle of that op (log 4). -/

namespace Sys2Proof.Machine

open Sys2Proof

/-- VADD (R91). -/
def execVadd (c : OpAt) (fmt : BitVec 4) (vd : VReg) (va : VReg) (vb : VReg) (s : State) : Host.Outcome State Fault Refusal :=
  issueOne c (.vec .add fmt vd va vb 0) s

/-- VSUB (R91). -/
def execVsub (c : OpAt) (fmt : BitVec 4) (vd : VReg) (va : VReg) (vb : VReg) (s : State) : Host.Outcome State Fault Refusal :=
  issueOne c (.vec .sub fmt vd va vb 0) s

/-- VMUL (R91). -/
def execVmul (c : OpAt) (fmt : BitVec 4) (vd : VReg) (va : VReg) (vb : VReg) (s : State) : Host.Outcome State Fault Refusal :=
  issueOne c (.vec .mul fmt vd va vb 0) s

/-- VFMA (R91). -/
def execVfma (c : OpAt) (fmt : BitVec 4) (vd : VReg) (va : VReg) (vb : VReg) (s : State) : Host.Outcome State Fault Refusal :=
  issueOne c (.vec .fma fmt vd va vb 0) s

/-- VMIN (R91). -/
def execVmin (c : OpAt) (fmt : BitVec 4) (vd : VReg) (va : VReg) (vb : VReg) (s : State) : Host.Outcome State Fault Refusal :=
  issueOne c (.vec .min fmt vd va vb 0) s

/-- VMAX (R91). -/
def execVmax (c : OpAt) (fmt : BitVec 4) (vd : VReg) (va : VReg) (vb : VReg) (s : State) : Host.Outcome State Fault Refusal :=
  issueOne c (.vec .max fmt vd va vb 0) s

/-- VDIV (R91). -/
def execVdiv (c : OpAt) (fmt : BitVec 4) (vd : VReg) (va : VReg) (vb : VReg) (s : State) : Host.Outcome State Fault Refusal :=
  issueOne c (.vec .div fmt vd va vb 0) s

/-- VSQRT (R91). -/
def execVsqrt (c : OpAt) (fmt : BitVec 4) (vd : VReg) (va : VReg) (s : State) : Host.Outcome State Fault Refusal :=
  issueOne c (.vec .sqrt fmt vd va 0 0) s

/-- VAND (R91). -/
def execVand (c : OpAt) (vd : VReg) (va : VReg) (vb : VReg) (s : State) : Host.Outcome State Fault Refusal :=
  issueOne c (.vec .and 0 vd va vb 0) s

/-- VOR (R91). -/
def execVor (c : OpAt) (vd : VReg) (va : VReg) (vb : VReg) (s : State) : Host.Outcome State Fault Refusal :=
  issueOne c (.vec .or 0 vd va vb 0) s

/-- VXOR (R91). -/
def execVxor (c : OpAt) (vd : VReg) (va : VReg) (vb : VReg) (s : State) : Host.Outcome State Fault Refusal :=
  issueOne c (.vec .xor 0 vd va vb 0) s

/-- VSHL (R91). -/
def execVshl (c : OpAt) (fmt : BitVec 4) (vd : VReg) (va : VReg) (vb : VReg) (s : State) : Host.Outcome State Fault Refusal :=
  issueOne c (.vec .shl fmt vd va vb 0) s

/-- VSHR (R91). -/
def execVshr (c : OpAt) (fmt : BitVec 4) (vd : VReg) (va : VReg) (vb : VReg) (md : BitVec 3) (s : State) : Host.Outcome State Fault Refusal :=
  issueOne c (.vec .shr fmt vd va vb md) s

/-- VCMP (R91). -/
def execVcmp (c : OpAt) (fmt : BitVec 4) (vd : VReg) (va : VReg) (vb : VReg) (md : BitVec 3) (s : State) : Host.Outcome State Fault Refusal :=
  issueOne c (.vec .cmp fmt vd va vb md) s

/-- VSEL (R91). -/
def execVsel (c : OpAt) (vd : VReg) (va : VReg) (vb : VReg) (s : State) : Host.Outcome State Fault Refusal :=
  issueOne c (.vec .sel 0 vd va vb 0) s

/-- VCVT (R92). -/
def execVcvt (c : OpAt) (q : BitVec 2) (fmt : BitVec 4) (vd : VReg) (va : VReg) (dst : BitVec 4) (md : BitVec 3) (s : State) : Host.Outcome State Fault Refusal :=
  issueOne c (.vec (.cvt q) fmt vd va dst md) s

/-- VRED_ADD (R93). -/
def execVredAdd (c : OpAt) (fmt : BitVec 4) (vd : VReg) (va : VReg) (s : State) : Host.Outcome State Fault Refusal :=
  issueOne c (.vec .redAdd fmt vd va 0 0) s

/-- VRED_MAX (R91). -/
def execVredMax (c : OpAt) (fmt : BitVec 4) (vd : VReg) (va : VReg) (s : State) : Host.Outcome State Fault Refusal :=
  issueOne c (.vec .redMax fmt vd va 0 0) s

/-- VBCAST (R91). -/
def execVbcast (c : OpAt) (fmt : BitVec 4) (g : GReg) (v : VReg) (s : State) : Host.Outcome State Fault Refusal :=
  issueOne c (.vbcast fmt g v) s

/-- VEXT (R91). -/
def execVext (c : OpAt) (fmt : BitVec 4) (g : GReg) (v : VReg) (lane : BitVec 6) (s : State) : Host.Outcome State Fault Refusal :=
  issueOne c (.vext fmt g v lane) s

/-- VINS (R91). -/
def execVins (c : OpAt) (fmt : BitVec 4) (g : GReg) (v : VReg) (lane : BitVec 6) (s : State) : Host.Outcome State Fault Refusal :=
  issueOne c (.vins fmt g v lane) s

/-- VMOV (R91). -/
def execVmov (c : OpAt) (vd : VReg) (va : VReg) (s : State) : Host.Outcome State Fault Refusal :=
  issueOne c (.vec .mov 0 vd va 0 0) s

/-- VPERM (R91). -/
def execVperm (c : OpAt) (fmt : BitVec 4) (vd : VReg) (va : VReg) (vb : VReg) (s : State) : Host.Outcome State Fault Refusal :=
  issueOne c (.vec .perm fmt vd va vb 0) s

end Sys2Proof.Machine
end

