-- ==== Sys2Proof/Machine/Dispatch.lean ====
section
/-! DEFINITION. exec: one arm per command, each a direct call of its meaning. -/

namespace Sys2Proof.Machine

def exec (i : Instr) (s : State) : Host.Outcome State Fault Refusal :=
  match i with
  | .moduleReset => Sys2Proof.Machine.execModuleReset s
  | .powerUp => Sys2Proof.Machine.execPowerUp s
  | .inputDisconnect enLow => Sys2Proof.Machine.execInputDisconnect enLow s
  | .stbyEnRise => Sys2Proof.Machine.execStbyEnRise s
  | .stbyEnFall => Sys2Proof.Machine.execStbyEnFall s
  | .latchOpen => Sys2Proof.Machine.execLatchOpen s
  | .latchClose => Sys2Proof.Machine.execLatchClose s
  | .buttonShortPress => Sys2Proof.Machine.execButtonShortPress s
  | .buttonLongPress => Sys2Proof.Machine.execButtonLongPress s
  | .quiesceGraceExpire => Sys2Proof.Machine.execQuiesceGraceExpire s
  | .quiesceComplete => Sys2Proof.Machine.execQuiesceComplete s
  | .powerTick watts => Sys2Proof.Machine.execPowerTick watts s
  | .fastcap => Sys2Proof.Machine.execFastcap s
  | .thermalCrossing sensor level up value => Sys2Proof.Machine.execThermalCrossing sensor level up value s
  | .thermalTrip sensor value => Sys2Proof.Machine.execThermalTrip sensor value s
  | .dwellExpire course => Sys2Proof.Machine.execDwellExpire course s
  | .reclaimGrant course => Sys2Proof.Machine.execReclaimGrant course s
  | .domTargetWrite target => Sys2Proof.Machine.execDomTargetWrite target s
  | .domainStateReached domain => Sys2Proof.Machine.execDomainStateReached domain s
  | .shellCalibrate who => Sys2Proof.Machine.execShellCalibrate who s
  | .shellCalibrationDone shell result => Sys2Proof.Machine.execShellCalibrationDone shell result s
  | .shellSetpointWrite who setpoint => Sys2Proof.Machine.execShellSetpointWrite who setpoint s
  | .registerWrite who reg size value => Sys2Proof.Machine.execRegisterWrite who reg size value s
  | .wideLowWrite who reg value => Sys2Proof.Machine.execWideLowWrite who reg value s
  | .wideHighWrite who reg value => Sys2Proof.Machine.execWideHighWrite who reg value s
  | .wideLowRead who reg => Sys2Proof.Machine.execWideLowRead who reg s
  | .wideHighRead who reg => Sys2Proof.Machine.execWideHighRead who reg s
  | .bundleIssue node => Sys2Proof.Machine.execBundleIssue node s
  | .loadDataReturn node thread => Sys2Proof.Machine.execLoadDataReturn node thread s
  | .storeDrain node => Sys2Proof.Machine.execStoreDrain node s
  | .ackArrive node => Sys2Proof.Machine.execAckArrive node s
  | .nackArrive node => Sys2Proof.Machine.execNackArrive node s
  | .rspArrive node => Sys2Proof.Machine.execRspArrive node s
  | .add c rd ra b => Sys2Proof.Machine.execAdd c rd ra b s
  | .sub c rd ra b => Sys2Proof.Machine.execSub c rd ra b s
  | .addO c rd ra b => Sys2Proof.Machine.execAddO c rd ra b s
  | .subO c rd ra b => Sys2Proof.Machine.execSubO c rd ra b s
  | .and c rd ra b => Sys2Proof.Machine.execAnd c rd ra b s
  | .or c rd ra b => Sys2Proof.Machine.execOr c rd ra b s
  | .xor c rd ra b => Sys2Proof.Machine.execXor c rd ra b s
  | .andn c rd ra b => Sys2Proof.Machine.execAndn c rd ra b s
  | .sll c rd ra b => Sys2Proof.Machine.execSll c rd ra b s
  | .srl c rd ra b => Sys2Proof.Machine.execSrl c rd ra b s
  | .sra c rd ra b => Sys2Proof.Machine.execSra c rd ra b s
  | .min c rd ra b => Sys2Proof.Machine.execMin c rd ra b s
  | .max c rd ra b => Sys2Proof.Machine.execMax c rd ra b s
  | .minu c rd ra b => Sys2Proof.Machine.execMinu c rd ra b s
  | .maxu c rd ra b => Sys2Proof.Machine.execMaxu c rd ra b s
  | .clz c rd ra => Sys2Proof.Machine.execClz c rd ra s
  | .popc c rd ra => Sys2Proof.Machine.execPopc c rd ra s
  | .cmpEq c pd ra b => Sys2Proof.Machine.execCmpEq c pd ra b s
  | .cmpNe c pd ra b => Sys2Proof.Machine.execCmpNe c pd ra b s
  | .cmpLt c pd ra b => Sys2Proof.Machine.execCmpLt c pd ra b s
  | .cmpGe c pd ra b => Sys2Proof.Machine.execCmpGe c pd ra b s
  | .cmpLtu c pd ra b => Sys2Proof.Machine.execCmpLtu c pd ra b s
  | .cmpGeu c pd ra b => Sys2Proof.Machine.execCmpGeu c pd ra b s
  | .pand c pd pa pb => Sys2Proof.Machine.execPand c pd pa pb s
  | .por c pd pa pb => Sys2Proof.Machine.execPor c pd pa pb s
  | .pxor c pd pa pb => Sys2Proof.Machine.execPxor c pd pa pb s
  | .pandn c pd pa pb => Sys2Proof.Machine.execPandn c pd pa pb s
  | .mul c rd ra b => Sys2Proof.Machine.execMul c rd ra b s
  | .mulh c rd ra b => Sys2Proof.Machine.execMulh c rd ra b s
  | .mulhu c rd ra b => Sys2Proof.Machine.execMulhu c rd ra b s
  | .mulO c rd ra b => Sys2Proof.Machine.execMulO c rd ra b s
  | .div c rd ra b => Sys2Proof.Machine.execDiv c rd ra b s
  | .divu c rd ra b => Sys2Proof.Machine.execDivu c rd ra b s
  | .rem c rd ra b => Sys2Proof.Machine.execRem c rd ra b s
  | .remu c rd ra b => Sys2Proof.Machine.execRemu c rd ra b s
  | .addD c rd ra b => Sys2Proof.Machine.execAddD c rd ra b s
  | .subD c rd ra b => Sys2Proof.Machine.execSubD c rd ra b s
  | .sllD c rd ra b => Sys2Proof.Machine.execSllD c rd ra b s
  | .srlD c rd ra b => Sys2Proof.Machine.execSrlD c rd ra b s
  | .sraD c rd ra b => Sys2Proof.Machine.execSraD c rd ra b s
  | .mulwD c rd ra rb => Sys2Proof.Machine.execMulwD c rd ra rb s
  | .rsr c rd n => Sys2Proof.Machine.execRsr c rd n s
  | .wsr c n ra => Sys2Proof.Machine.execWsr c n ra s
  | .crsr c sd n => Sys2Proof.Machine.execCrsr c sd n s
  | .cwsr c n sa => Sys2Proof.Machine.execCwsr c n sa s
  | .csub c sd sa ga gb => Sys2Proof.Machine.execCsub c sd sa ga gb s
  | .cperm c sd sa ga => Sys2Proof.Machine.execCperm c sd sa ga s
  | .cbind c sd sa sb => Sys2Proof.Machine.execCbind c sd sa sb s
  | .cfree c sd sa sb => Sys2Proof.Machine.execCfree c sd sa sb s
  | .ckey c sd sa ga => Sys2Proof.Machine.execCkey c sd sa ga s
  | .cget c rd sa f => Sys2Proof.Machine.execCget c rd sa f s
  | .cmov c sd sa => Sys2Proof.Machine.execCmov c sd sa s
  | .ldB c rt cap off => Sys2Proof.Machine.execLdB c rt cap off s
  | .ldBu c rt cap off => Sys2Proof.Machine.execLdBu c rt cap off s
  | .ldH c rt cap off => Sys2Proof.Machine.execLdH c rt cap off s
  | .ldHu c rt cap off => Sys2Proof.Machine.execLdHu c rt cap off s
  | .ldW c rt cap off => Sys2Proof.Machine.execLdW c rt cap off s
  | .ldD c rt cap off => Sys2Proof.Machine.execLdD c rt cap off s
  | .ldv c rt cap off => Sys2Proof.Machine.execLdv c rt cap off s
  | .ldc c rt cap off => Sys2Proof.Machine.execLdc c rt cap off s
  | .stB c rt cap off => Sys2Proof.Machine.execStB c rt cap off s
  | .stH c rt cap off => Sys2Proof.Machine.execStH c rt cap off s
  | .stW c rt cap off => Sys2Proof.Machine.execStW c rt cap off s
  | .stD c rt cap off => Sys2Proof.Machine.execStD c rt cap off s
  | .stv c rt cap off => Sys2Proof.Machine.execStv c rt cap off s
  | .stc c rt cap off => Sys2Proof.Machine.execStc c rt cap off s
  | .vldW c rt cap off => Sys2Proof.Machine.execVldW c rt cap off s
  | .vldD c rt cap off => Sys2Proof.Machine.execVldD c rt cap off s
  | .acq c cap => Sys2Proof.Machine.execAcq c cap s
  | .acqAll c => Sys2Proof.Machine.execAcqAll c s
  | .amoAddW c rt cap off => Sys2Proof.Machine.execAmoAddW c rt cap off s
  | .amoAddD c rt cap off => Sys2Proof.Machine.execAmoAddD c rt cap off s
  | .amoMinW c rt cap off => Sys2Proof.Machine.execAmoMinW c rt cap off s
  | .amoMinD c rt cap off => Sys2Proof.Machine.execAmoMinD c rt cap off s
  | .amoMaxW c rt cap off => Sys2Proof.Machine.execAmoMaxW c rt cap off s
  | .amoMaxD c rt cap off => Sys2Proof.Machine.execAmoMaxD c rt cap off s
  | .amoSwapW c rt cap off => Sys2Proof.Machine.execAmoSwapW c rt cap off s
  | .amoSwapD c rt cap off => Sys2Proof.Machine.execAmoSwapD c rt cap off s
  | .amoCasW c rt cap off => Sys2Proof.Machine.execAmoCasW c rt cap off s
  | .amoCasD c rt cap off => Sys2Proof.Machine.execAmoCasD c rt cap off s
  | .amoFaddF32 c rt cap off => Sys2Proof.Machine.execAmoFaddF32 c rt cap off s
  | .amoFaddBf16 c rt cap off => Sys2Proof.Machine.execAmoFaddBf16 c rt cap off s
  | .br c tgt => Sys2Proof.Machine.execBr c tgt s
  | .bl c rl tgt => Sys2Proof.Machine.execBl c rl tgt s
  | .jr c ra => Sys2Proof.Machine.execJr c ra s
  | .jrl c rl ra => Sys2Proof.Machine.execJrl c rl ra s
  | .callg c sa sb => Sys2Proof.Machine.execCallg c sa sb s
  | .retg c => Sys2Proof.Machine.execRetg c s
  | .exit c => Sys2Proof.Machine.execExit c s
  | .vadd c fmt vd va vb => Sys2Proof.Machine.execVadd c fmt vd va vb s
  | .vsub c fmt vd va vb => Sys2Proof.Machine.execVsub c fmt vd va vb s
  | .vmul c fmt vd va vb => Sys2Proof.Machine.execVmul c fmt vd va vb s
  | .vfma c fmt vd va vb => Sys2Proof.Machine.execVfma c fmt vd va vb s
  | .vmin c fmt vd va vb => Sys2Proof.Machine.execVmin c fmt vd va vb s
  | .vmax c fmt vd va vb => Sys2Proof.Machine.execVmax c fmt vd va vb s
  | .vdiv c fmt vd va vb => Sys2Proof.Machine.execVdiv c fmt vd va vb s
  | .vsqrt c fmt vd va => Sys2Proof.Machine.execVsqrt c fmt vd va s
  | .vand c vd va vb => Sys2Proof.Machine.execVand c vd va vb s
  | .vor c vd va vb => Sys2Proof.Machine.execVor c vd va vb s
  | .vxor c vd va vb => Sys2Proof.Machine.execVxor c vd va vb s
  | .vshl c fmt vd va vb => Sys2Proof.Machine.execVshl c fmt vd va vb s
  | .vshr c fmt vd va vb md => Sys2Proof.Machine.execVshr c fmt vd va vb md s
  | .vcmp c fmt vd va vb md => Sys2Proof.Machine.execVcmp c fmt vd va vb md s
  | .vsel c vd va vb => Sys2Proof.Machine.execVsel c vd va vb s
  | .vcvt c q fmt vd va dst md => Sys2Proof.Machine.execVcvt c q fmt vd va dst md s
  | .vredAdd c fmt vd va => Sys2Proof.Machine.execVredAdd c fmt vd va s
  | .vredMax c fmt vd va => Sys2Proof.Machine.execVredMax c fmt vd va s
  | .vbcast c fmt g v => Sys2Proof.Machine.execVbcast c fmt g v s
  | .vext c fmt g v lane => Sys2Proof.Machine.execVext c fmt g v lane s
  | .vins c fmt g v lane => Sys2Proof.Machine.execVins c fmt g v lane s
  | .vmov c vd va => Sys2Proof.Machine.execVmov c vd va s
  | .vperm c fmt vd va vb => Sys2Proof.Machine.execVperm c fmt vd va vb s
  | .matOpStart node => Sys2Proof.Machine.execMatOpStart node s
  | .matOpComplete node engine => Sys2Proof.Machine.execMatOpComplete node engine s
  | .tcfg c t ga => Sys2Proof.Machine.execTcfg c t ga s
  | .tld c t cap ga gb => Sys2Proof.Machine.execTld c t cap ga gb s
  | .tldT c t cap ga gb => Sys2Proof.Machine.execTldT c t cap ga gb s
  | .tst c t cap ga gb => Sys2Proof.Machine.execTst c t cap ga gb s
  | .trel c t => Sys2Proof.Machine.execTrel c t s
  | .tsave c cap ga => Sys2Proof.Machine.execTsave c cap ga s
  | .trestore c cap ga => Sys2Proof.Machine.execTrestore c cap ga s
  | .accCfg c acc ga => Sys2Proof.Machine.execAccCfg c acc ga s
  | .mma c acc ta tb g z rn => Sys2Proof.Machine.execMma c acc ta tb g z rn s
  | .accNorm c acc => Sys2Proof.Machine.execAccNorm c acc s
  | .accCvt c acc t rm => Sys2Proof.Machine.execAccCvt c acc t rm s
  | .accCvtS c acc cap ga gb => Sys2Proof.Machine.execAccCvtS c acc cap ga gb s
  | .mseqRun c cap ga => Sys2Proof.Machine.execMseqRun c cap ga s
  | .mseqRunNt c cap ga => Sys2Proof.Machine.execMseqRunNt c cap ga s
  | .seqTableStart node => Sys2Proof.Machine.execSeqTableStart node s
  | .seqStep node => Sys2Proof.Machine.execSeqStep node s
  | .seqFinc node => Sys2Proof.Machine.execSeqFinc node s
  | .seqFwaitPass node => Sys2Proof.Machine.execSeqFwaitPass node s
  | .seqTableEnd node => Sys2Proof.Machine.execSeqTableEnd node s
  | .mseqAbort node => Sys2Proof.Machine.execMseqAbort node s
  | .finc c f ga => Sys2Proof.Machine.execFinc c f ga s
  | .fincI c f n => Sys2Proof.Machine.execFincI c f n s
  | .fincR c cap ga gb => Sys2Proof.Machine.execFincR c cap ga gb s
  | .fwait c f ga pd => Sys2Proof.Machine.execFwait c f ga pd s
  | .fread c f gd => Sys2Proof.Machine.execFread c f gd s
  | .send c cap gw n tag => Sys2Proof.Machine.execSend c cap gw n tag s
  | .waitd c ga pd => Sys2Proof.Machine.execWaitd c ga pd s
  | .retd c => Sys2Proof.Machine.execRetd c s
  | .rdb c gd cap ga pd => Sys2Proof.Machine.execRdb c gd cap ga pd s
  | .istore c cap ga gb => Sys2Proof.Machine.execIstore c cap ga gb s
  | .ifence c => Sys2Proof.Machine.execIfence c s
  | .dmaStart c ch cap ga => Sys2Proof.Machine.execDmaStart c ch cap ga s
  | .dmaStartNt c ch cap ga => Sys2Proof.Machine.execDmaStartNt c ch cap ga s
  | .dmaWr c reg g => Sys2Proof.Machine.execDmaWr c reg g s
  | .dmaRd c g reg => Sys2Proof.Machine.execDmaRd c g reg s
  | .dmaQueueDepart node => Sys2Proof.Machine.execDmaQueueDepart node s
  | .waitTimeout node thread => Sys2Proof.Machine.execWaitTimeout node thread s
  | .fretIncrementApply node => Sys2Proof.Machine.execFretIncrementApply node s
  | .fincArrive node => Sys2Proof.Machine.execFincArrive node s
  | .msgArrive node => Sys2Proof.Machine.execMsgArrive node s
  | .msgRetry node => Sys2Proof.Machine.execMsgRetry node s
  | .threadCtl node => Sys2Proof.Machine.execThreadCtl node s
  | .faultRecordSend node => Sys2Proof.Machine.execFaultRecordSend node s
  | .coreHalt who node value => Sys2Proof.Machine.execCoreHalt who node value s
  | .descriptorFetch node ch => Sys2Proof.Machine.execDescriptorFetch node ch s
  | .burstRead node => Sys2Proof.Machine.execBurstRead node s
  | .burstWrite node => Sys2Proof.Machine.execBurstWrite node s
  | .channelDrainEnd node ch => Sys2Proof.Machine.execChannelDrainEnd node ch s
  | .plectrumMsgAccept node ch => Sys2Proof.Machine.execPlectrumMsgAccept node ch s
  | .dmaAbort node via => Sys2Proof.Machine.execDmaAbort node via s
  | .dmaCredit node via value => Sys2Proof.Machine.execDmaCredit node via value s
  | .dmaWstatClear node via => Sys2Proof.Machine.execDmaWstatClear node via s
  | .networkPortAccess node => Sys2Proof.Machine.execNetworkPortAccess node s
  | .rdbConditionMet node => Sys2Proof.Machine.execRdbConditionMet node s
  | .cancelArrive node => Sys2Proof.Machine.execCancelArrive node s
  | .flitForward node out => Sys2Proof.Machine.execFlitForward node out s
  | .ctrlRelease node => Sys2Proof.Machine.execCtrlRelease node s
  | .flitReceive node port err => Sys2Proof.Machine.execFlitReceive node port err s
  | .meshLinkResync node port ok => Sys2Proof.Machine.execMeshLinkResync node port ok s
  | .memRequestServe node index ecc => Sys2Proof.Machine.execMemRequestServe node index ecc s
  | .patrolScrub place ecc => Sys2Proof.Machine.execPatrolScrub place ecc s
  | .coreLost node cause => Sys2Proof.Machine.execCoreLost node cause s
  | .coprocHang node => Sys2Proof.Machine.execCoprocHang node s
  | .linkLookup node => Sys2Proof.Machine.execLinkLookup node s
  | .frameSend link => Sys2Proof.Machine.execFrameSend link s
  | .frameReceive link bytes => Sys2Proof.Machine.execFrameReceive link bytes s
  | .ackonlySend link => Sys2Proof.Machine.execAckonlySend link s
  | .replayRequestRepeat link => Sys2Proof.Machine.execReplayRequestRepeat link s
  | .replayTimeout link => Sys2Proof.Machine.execReplayTimeout link s
  | .laneLoss link lane => Sys2Proof.Machine.execLaneLoss link lane s
  | .lanesAligned link => Sys2Proof.Machine.execLanesAligned link s
  | .trainFrameSend link => Sys2Proof.Machine.execTrainFrameSend link s
  | .linkHoldExpire link => Sys2Proof.Machine.execLinkHoldExpire link s
  | .linkEnWrite link en => Sys2Proof.Machine.execLinkEnWrite link en s
  | .linkRetrain link => Sys2Proof.Machine.execLinkRetrain link s
  | .railEntryWrite who value => Sys2Proof.Machine.execRailEntryWrite who value s
  | .railGenWrite value => Sys2Proof.Machine.execRailGenWrite value s
  | .sqDoorbell fn q value => Sys2Proof.Machine.execSqDoorbell fn q value s
  | .cqDoorbell fn q value => Sys2Proof.Machine.execCqDoorbell fn q value s
  | .qpEnable fn q value => Sys2Proof.Machine.execQpEnable fn q value s
  | .messageTake => Sys2Proof.Machine.execMessageTake s
  | .completionWrite id => Sys2Proof.Machine.execCompletionWrite id s
  | .hello id => Sys2Proof.Machine.execHello id s
  | .regionCreate id => Sys2Proof.Machine.execRegionCreate id s
  | .regionDestroy id => Sys2Proof.Machine.execRegionDestroy id s
  | .loadImage id image => Sys2Proof.Machine.execLoadImage id image s
  | .launch id => Sys2Proof.Machine.execLaunch id s
  | .signal id => Sys2Proof.Machine.execSignal id s
  | .query id => Sys2Proof.Machine.execQuery id s
  | .checkpoint id err => Sys2Proof.Machine.execCheckpoint id err s
  | .restore id err => Sys2Proof.Machine.execRestore id err s
  | .powerCapMsg id => Sys2Proof.Machine.execPowerCapMsg id s
  | .fwStage id => Sys2Proof.Machine.execFwStage id s
  | .fwActivate id => Sys2Proof.Machine.execFwActivate id s
  | .healthEvent => Sys2Proof.Machine.execHealthEvent s
  | .programEnd region => Sys2Proof.Machine.execProgramEnd region s
  | .functionLevelReset fn => Sys2Proof.Machine.execFunctionLevelReset fn s
  | .apertureAccess fn off acc => Sys2Proof.Machine.execApertureAccess fn off acc s
  | .emuRegisterWrite master off value => Sys2Proof.Machine.execEmuRegisterWrite master off value s
  | .emuShadowApply => Sys2Proof.Machine.execEmuShadowApply s
  | .powerCapWrite master value => Sys2Proof.Machine.execPowerCapWrite master value s
  | .instOfflineRequest master offline => Sys2Proof.Machine.execInstOfflineRequest master offline s
  | .alertCauseClear value => Sys2Proof.Machine.execAlertCauseClear value s
  | .dbgDoorWrite len => Sys2Proof.Machine.execDbgDoorWrite len s
  | .pbReset who value => Sys2Proof.Machine.execPbReset who value s
  | .pbCoreRuns n => Sys2Proof.Machine.execPbCoreRuns n s
  | .pbKick n => Sys2Proof.Machine.execPbKick n s
  | .watchdogExpire n => Sys2Proof.Machine.execWatchdogExpire n s
  | .nonce path => Sys2Proof.Machine.execNonce path s
  | .dbgOpen path level token => Sys2Proof.Machine.execDbgOpen path level token s
  | .dbgEnd path => Sys2Proof.Machine.execDbgEnd path s
  | .dbgStop path node mask => Sys2Proof.Machine.execDbgStop path node mask s
  | .dbgRelease path node mask => Sys2Proof.Machine.execDbgRelease path node mask s
  | .dbgStep path node mask => Sys2Proof.Machine.execDbgStep path node mask s
  | .dbgRead path target len => Sys2Proof.Machine.execDbgRead path target len s
  | .dbgWrite path target data => Sys2Proof.Machine.execDbgWrite path target data s
  | .trace path ctl base len => Sys2Proof.Machine.execTrace path ctl base len s
  | .traceRecord node thread written => Sys2Proof.Machine.execTraceRecord node thread written s
  | .sessionExpire id => Sys2Proof.Machine.execSessionExpire id s
  | .nonceLapse path => Sys2Proof.Machine.execNonceLapse path s
  | .lifecycleTransition path target token => Sys2Proof.Machine.execLifecycleTransition path target token s
  | .getVersion fn => Sys2Proof.Machine.execGetVersion fn s
  | .getCapabilities fn => Sys2Proof.Machine.execGetCapabilities fn s
  | .negotiateAlgorithms fn => Sys2Proof.Machine.execNegotiateAlgorithms fn s
  | .getDigests fn => Sys2Proof.Machine.execGetDigests fn s
  | .getCertificate fn => Sys2Proof.Machine.execGetCertificate fn s
  | .challenge fn nonce => Sys2Proof.Machine.execChallenge fn nonce s
  | .getMeasurements fn index => Sys2Proof.Machine.execGetMeasurements fn index s
  | .extest => Sys2Proof.Machine.execExtest s
  | .idcode => Sys2Proof.Machine.execIdcode s
  | .samplePreload => Sys2Proof.Machine.execSamplePreload s
  | .dbgacc data => Sys2Proof.Machine.execDbgacc data s
  | .bypass => Sys2Proof.Machine.execBypass s
  | .shellFault shell => Sys2Proof.Machine.execShellFault shell s
  | .inputReturn => Sys2Proof.Machine.execInputReturn s
  | .downstreamRequest port addr len => Sys2Proof.Machine.execDownstreamRequest port addr len s
  | .pcieLinkTrained => Sys2Proof.Machine.execPcieLinkTrained s
  | .refresh node => Sys2Proof.Machine.execRefresh node s

end Sys2Proof.Machine
end

