-- ==== Sys2Proof/Machine/OpEncode.lean ====
section
/-! DEFINITION. The word of a Camhar op, from the encoding tables of spec/03 (Tables 2.6, 3.4 to 3.15). -/

namespace Sys2Proof.Machine

open Sys2Proof

/-- The place of an element in a list of opcodes. -/
def codeOf {α : Type} [DecidableEq α] (x : α) (xs : List α) : Nat := (placeIn x xs).getD 0
where
  placeIn {α : Type} [DecidableEq α] (x : α) : List α → Option Nat
    | [] => none
    | y :: ys => if y = x then some 0 else (placeIn x ys).map (· + 1)

/-- Fields of an R or I form's b operand (Table 3.4). -/
def encSrc2 : Src2 → List (Nat × Nat)
  | .reg r => [(r.toNat, 3)]
  | .imm i => [(1, 8), (i.toNat, 0)]

/-- Fields of an LS form's offset (R86). -/
def encOff : LsOff → List (Nat × Nat)
  | .reg r => [(r.toNat, 4)]
  | .imm i => [(1, 9), (i.toNat, 0)]

/-- Opcode and fields of a scalar function in ALU-A, or in ALU-B where Table 3.5 has none. -/
def encAlu (f : AluFn) (rd ra : GReg) (b : Src2) : List (Nat × Nat) :=
  match f with
  | .clz => [(0x0F, 19), (rd.toNat, 14), (ra.toNat, 9)]
  | .popc => [(0x10, 19), (rd.toNat, 14), (ra.toNat, 9)]
  | f => ((if aluA.contains f then codeOf f aluA else codeOf f aluB), 19) :: (rd.toNat, 14) :: (ra.toNat, 9) :: encSrc2 b

/-- Fields of the C form. -/
def encC (opc a b c d : Nat) : List (Nat × Nat) := [(opc, 19), (a, 15), (b, 11), (c, 6), (d, 1)]

/-- Opcode of a V-form function (Table 3.10). -/
def vecCode : VecFn → Nat
  | .mov => 0x18
  | .perm => 0x19
  | f => codeOf f vecFns

def encMat (m : MatOp) : List (Nat × Nat) :=
  match m with
  | .tcfg t a => [(0x0, 20), (t.toNat, 14), (a.toNat, 5)]
  | .tld t c a b x => [(0x1, 20), (t.toNat, 16), (c.toNat, 12), (a.toNat, 7), (b.toNat, 2), (bn x, 1)]
  | .tst t c a b => [(0x2, 20), (t.toNat, 16), (c.toNat, 12), (a.toNat, 7), (b.toNat, 2)]
  | .trel t => [(0x3, 20), (t.toNat, 14)]
  | .tsave c a => [(0x4, 20), (c.toNat, 10), (a.toNat, 5)]
  | .trestore c a => [(0x5, 20), (c.toNat, 10), (a.toNat, 5)]
  | .accCfg acc a => [(0x6, 20), (acc.toNat, 14), (a.toNat, 5)]
  | .mma acc a b g z rn => [(0x7, 20), (acc.toNat, 14), (a.toNat, 10), (b.toNat, 6), (g.toNat, 4), (z.toNat, 2), (bn rn, 1)]
  | .accNorm acc => [(0x8, 20), (acc.toNat, 14)]
  | .accCvt acc t rm => [(0x9, 20), (acc.toNat, 14), (t.toNat, 10), (rm.toNat, 7)]
  | .accCvtS acc c a b => [(0xA, 20), (acc.toNat, 14), (c.toNat, 10), (a.toNat, 5), (b.toNat, 0)]
  | .mseqRun nt c a => [(if nt then 0xC else 0xB, 20), (c.toNat, 10), (a.toNat, 5)]

/-- The fields of an op's bits 23:0, each with its lowest bit. -/
def encFields (o : Op) : List (Nat × Nat) :=
  match o with
  | .alu f rd ra b => encAlu f rd ra b
  | .cmp f pd ra b => (0x11 + codeOf f cmpFns, 19) :: (pd.toNat, 14) :: (ra.toNat, 9) :: encSrc2 b
  | .pred f pd pa pb => [(0x17 + codeOf f predFns, 19), (pd.toNat, 14), (pa.toNat, 9), (pb.toNat, 3)]
  | .pair f rd ra b => (0x10 + codeOf f pairFns, 19) :: (rd.toNat, 14) :: (ra.toNat, 9) :: encSrc2 b
  | .mulwD rd ra rb => [(0x15, 19), (rd.toNat, 14), (ra.toNat, 9), (rb.toNat, 3)]
  | .rsr rd n => [(0x16, 19), (rd.toNat, 14), (1, 8), (n.toNat, 0)]
  | .wsr n ra => [(0x17, 19), (ra.toNat, 9), (1, 8), (n.toNat, 0)]
  | .crsr sd n => encC 0x18 sd.toNat 0 n.toNat 0
  | .cwsr n sa => encC 0x19 0 sa.toNat n.toNat 0
  | .csub sd sa ga gb => encC 0x1A sd.toNat sa.toNat ga.toNat gb.toNat
  | .cperm sd sa ga => encC 0x1B sd.toNat sa.toNat ga.toNat 0
  | .cbind sd sa sb => encC 0x1C sd.toNat sa.toNat sb.toNat 0
  | .cfree sd sa sb => encC 0x1C sd.toNat sa.toNat (16 + sb.toNat) 0
  | .ckey sd sa ga => encC 0x1D sd.toNat sa.toNat ga.toNat 0
  | .cget rd sa f => [(0x1E, 19), (rd.toNat, 14), (sa.toNat, 9), (1, 8), (f.toNat, 0)]
  | .cmov sd sa => encC 0x1F sd.toNat sa.toNat 0 0
  | .load f rt c o =>
    ((match f with | .vw => 0x0E | .vd => 0x0F | f => codeOf f ldFns), 19) :: (rt.toNat, 14) :: (c.toNat, 10) :: encOff o
  | .store f rt c o => (0x08 + codeOf f stFns, 19) :: (rt.toNat, 14) :: (c.toNat, 10) :: encOff o
  | .acq c => [(0x10, 19), (c.toNat, 10)]
  | .acqAll => [(0x11, 19)]
  | .amo f rt c o => (0x12 + codeOf f amoFns, 19) :: (rt.toNat, 14) :: (c.toNat, 10) :: encOff o
  | .br t => [(0, 20), (t.toNat, 0)]
  | .bl rl t => [(1, 20), (rl.toNat, 15), (t.toNat, 0)]
  | .jr a => [(2, 20), (a.toNat, 10)]
  | .jrl rl a => [(3, 20), (rl.toNat, 15), (a.toNat, 10)]
  | .callg a b => [(4, 20), (a.toNat, 11), (b.toNat, 7)]
  | .retg => [(5, 20)]
  | .exit => [(6, 20)]
  | .vec f fmt vd va vb md => [(vecCode f, 19), (fmt.toNat, 15), (vd.toNat, 11), (va.toNat, 7), (vb.toNat, 3), (md.toNat, 0)]
  | .vbcast fmt g v => [(0x15, 19), (fmt.toNat, 15), (g.toNat, 10), (v.toNat, 6)]
  | .vext fmt g v lane => [(0x16, 19), (fmt.toNat, 15), (g.toNat, 10), (v.toNat, 6), (lane.toNat, 0)]
  | .vins fmt g v lane => [(0x17, 19), (fmt.toNat, 15), (g.toNat, 10), (v.toNat, 6), (lane.toNat, 0)]
  | .mat m => encMat m
  | .finc f ga => [(0x00, 19), (f.toNat, 13), (ga.toNat, 8)]
  | .fincI f n => [(0x01, 19), (f.toNat, 13), (n.toNat, 8)]
  | .fincR c a b => [(0x02, 19), (c.toNat, 15), (a.toNat, 10), (b.toNat, 5)]
  | .fwait f ga pd => [(0x03, 19), (f.toNat, 13), (ga.toNat, 8), (pd.toNat, 5)]
  | .fread f gd => [(0x04, 19), (f.toNat, 13), (gd.toNat, 8)]
  | .send c w n t => [(0x05, 19), (c.toNat, 15), (w.toNat, 10), (n.toNat, 7), (t.toNat, 3)]
  | .waitd a pd => [(0x06, 19), (a.toNat, 14), (pd.toNat, 11)]
  | .retd => [(0x07, 19)]
  | .rdb gd c a pd => [(0x08, 19), (c.toNat, 15), (a.toNat, 10), (gd.toNat, 5), (pd.toNat, 2)]
  | .istore c a b => [(0x09, 19), (c.toNat, 15), (a.toNat, 10), (b.toNat, 5)]
  | .ifence => [(0x0A, 19)]
  | .dmaStart nt ch c a => [(if nt then 0x0C else 0x0B, 19), (ch.toNat, 16), (c.toNat, 12), (a.toNat, 7)]
  | .dmaWr reg g => [(0x0D, 19), (reg.toNat, 14), (g.toNat, 9)]
  | .dmaRd g reg => [(0x0E, 19), (reg.toNat, 14), (g.toNat, 9)]

/-- The word of an op with its stop bit and condition (Table 2.6). -/
def encodeOp (stop psense : Bool) (psel : PReg) (o : Op) : Word :=
  packWord ((bn stop, 31) :: (bn psense, 30) :: (psel.toNat, 27) :: (opClass o, 24) :: encFields o)

/-- The ops that a word can spell: those their tables allow, with no b operand in clz and popc. -/
def encodable (o : Op) : Bool :=
  opLegal o && (match o with
    | .alu .clz _ _ b => decide (b = .reg 0)
    | .alu .popc _ _ b => decide (b = .reg 0)
    | _ => true)

end Sys2Proof.Machine
end

