-- ==== Sys2Proof/WellFormed.lean ====
section
/-! DEFINITION. Well-formed commands: the unit exists, the Camhar op keeps the rules of its op table, a queue pair exists, and what an
image declares lies in the memories it names. -/

namespace Sys2Proof

open Sys2Proof.Machine

/-- The Camhar op that a command issues, with where it issues (log 4); none for the other commands. -/
def opOf (i : Instr) : Option (OpAt × Op) :=
  match i with
  | .add c rd ra b => some (c, .alu .add rd ra b)
  | .sub c rd ra b => some (c, .alu .sub rd ra b)
  | .addO c rd ra b => some (c, .alu .addO rd ra b)
  | .subO c rd ra b => some (c, .alu .subO rd ra b)
  | .and c rd ra b => some (c, .alu .and rd ra b)
  | .or c rd ra b => some (c, .alu .or rd ra b)
  | .xor c rd ra b => some (c, .alu .xor rd ra b)
  | .andn c rd ra b => some (c, .alu .andn rd ra b)
  | .sll c rd ra b => some (c, .alu .sll rd ra b)
  | .srl c rd ra b => some (c, .alu .srl rd ra b)
  | .sra c rd ra b => some (c, .alu .sra rd ra b)
  | .min c rd ra b => some (c, .alu .min rd ra b)
  | .max c rd ra b => some (c, .alu .max rd ra b)
  | .minu c rd ra b => some (c, .alu .minu rd ra b)
  | .maxu c rd ra b => some (c, .alu .maxu rd ra b)
  | .clz c rd ra => some (c, .alu .clz rd ra (.reg 0))
  | .popc c rd ra => some (c, .alu .popc rd ra (.reg 0))
  | .cmpEq c pd ra b => some (c, .cmp .eq pd ra b)
  | .cmpNe c pd ra b => some (c, .cmp .ne pd ra b)
  | .cmpLt c pd ra b => some (c, .cmp .lt pd ra b)
  | .cmpGe c pd ra b => some (c, .cmp .ge pd ra b)
  | .cmpLtu c pd ra b => some (c, .cmp .ltu pd ra b)
  | .cmpGeu c pd ra b => some (c, .cmp .geu pd ra b)
  | .pand c pd pa pb => some (c, .pred .pand pd pa pb)
  | .por c pd pa pb => some (c, .pred .por pd pa pb)
  | .pxor c pd pa pb => some (c, .pred .pxor pd pa pb)
  | .pandn c pd pa pb => some (c, .pred .pandn pd pa pb)
  | .mul c rd ra b => some (c, .alu .mul rd ra b)
  | .mulh c rd ra b => some (c, .alu .mulh rd ra b)
  | .mulhu c rd ra b => some (c, .alu .mulhu rd ra b)
  | .mulO c rd ra b => some (c, .alu .mulO rd ra b)
  | .div c rd ra b => some (c, .alu .div rd ra b)
  | .divu c rd ra b => some (c, .alu .divu rd ra b)
  | .rem c rd ra b => some (c, .alu .rem rd ra b)
  | .remu c rd ra b => some (c, .alu .remu rd ra b)
  | .addD c rd ra b => some (c, .pair .add rd ra b)
  | .subD c rd ra b => some (c, .pair .sub rd ra b)
  | .sllD c rd ra b => some (c, .pair .sll rd ra b)
  | .srlD c rd ra b => some (c, .pair .srl rd ra b)
  | .sraD c rd ra b => some (c, .pair .sra rd ra b)
  | .mulwD c rd ra rb => some (c, .mulwD rd ra rb)
  | .rsr c rd n => some (c, .rsr rd n)
  | .wsr c n ra => some (c, .wsr n ra)
  | .crsr c sd n => some (c, .crsr sd n)
  | .cwsr c n sa => some (c, .cwsr n sa)
  | .csub c sd sa ga gb => some (c, .csub sd sa ga gb)
  | .cperm c sd sa ga => some (c, .cperm sd sa ga)
  | .cbind c sd sa sb => some (c, .cbind sd sa sb)
  | .cfree c sd sa sb => some (c, .cfree sd sa sb)
  | .ckey c sd sa ga => some (c, .ckey sd sa ga)
  | .cget c rd sa f => some (c, .cget rd sa f)
  | .cmov c sd sa => some (c, .cmov sd sa)
  | .ldB c rt cap off => some (c, .load .b rt cap off)
  | .ldBu c rt cap off => some (c, .load .bu rt cap off)
  | .ldH c rt cap off => some (c, .load .h rt cap off)
  | .ldHu c rt cap off => some (c, .load .hu rt cap off)
  | .ldW c rt cap off => some (c, .load .w rt cap off)
  | .ldD c rt cap off => some (c, .load .d rt cap off)
  | .ldv c rt cap off => some (c, .load .v rt cap off)
  | .ldc c rt cap off => some (c, .load .c rt cap off)
  | .stB c rt cap off => some (c, .store .b rt cap off)
  | .stH c rt cap off => some (c, .store .h rt cap off)
  | .stW c rt cap off => some (c, .store .w rt cap off)
  | .stD c rt cap off => some (c, .store .d rt cap off)
  | .stv c rt cap off => some (c, .store .v rt cap off)
  | .stc c rt cap off => some (c, .store .c rt cap off)
  | .vldW c rt cap off => some (c, .load .vw rt cap off)
  | .vldD c rt cap off => some (c, .load .vd rt cap off)
  | .acq c cap => some (c, .acq cap)
  | .acqAll c => some (c, .acqAll)
  | .amoAddW c rt cap off => some (c, .amo .addW rt cap off)
  | .amoAddD c rt cap off => some (c, .amo .addD rt cap off)
  | .amoMinW c rt cap off => some (c, .amo .minW rt cap off)
  | .amoMinD c rt cap off => some (c, .amo .minD rt cap off)
  | .amoMaxW c rt cap off => some (c, .amo .maxW rt cap off)
  | .amoMaxD c rt cap off => some (c, .amo .maxD rt cap off)
  | .amoSwapW c rt cap off => some (c, .amo .swapW rt cap off)
  | .amoSwapD c rt cap off => some (c, .amo .swapD rt cap off)
  | .amoCasW c rt cap off => some (c, .amo .casW rt cap off)
  | .amoCasD c rt cap off => some (c, .amo .casD rt cap off)
  | .amoFaddF32 c rt cap off => some (c, .amo .faddF32 rt cap off)
  | .amoFaddBf16 c rt cap off => some (c, .amo .faddBf16 rt cap off)
  | .br c tgt => some (c, .br tgt)
  | .bl c rl tgt => some (c, .bl rl tgt)
  | .jr c ra => some (c, .jr ra)
  | .jrl c rl ra => some (c, .jrl rl ra)
  | .callg c sa sb => some (c, .callg sa sb)
  | .retg c => some (c, .retg)
  | .exit c => some (c, .exit)
  | .vadd c fmt vd va vb => some (c, .vec .add fmt vd va vb 0)
  | .vsub c fmt vd va vb => some (c, .vec .sub fmt vd va vb 0)
  | .vmul c fmt vd va vb => some (c, .vec .mul fmt vd va vb 0)
  | .vfma c fmt vd va vb => some (c, .vec .fma fmt vd va vb 0)
  | .vmin c fmt vd va vb => some (c, .vec .min fmt vd va vb 0)
  | .vmax c fmt vd va vb => some (c, .vec .max fmt vd va vb 0)
  | .vdiv c fmt vd va vb => some (c, .vec .div fmt vd va vb 0)
  | .vsqrt c fmt vd va => some (c, .vec .sqrt fmt vd va 0 0)
  | .vand c vd va vb => some (c, .vec .and 0 vd va vb 0)
  | .vor c vd va vb => some (c, .vec .or 0 vd va vb 0)
  | .vxor c vd va vb => some (c, .vec .xor 0 vd va vb 0)
  | .vshl c fmt vd va vb => some (c, .vec .shl fmt vd va vb 0)
  | .vshr c fmt vd va vb md => some (c, .vec .shr fmt vd va vb md)
  | .vcmp c fmt vd va vb md => some (c, .vec .cmp fmt vd va vb md)
  | .vsel c vd va vb => some (c, .vec .sel 0 vd va vb 0)
  | .vcvt c q fmt vd va dst md => some (c, .vec (.cvt q) fmt vd va dst md)
  | .vredAdd c fmt vd va => some (c, .vec .redAdd fmt vd va 0 0)
  | .vredMax c fmt vd va => some (c, .vec .redMax fmt vd va 0 0)
  | .vbcast c fmt g v => some (c, .vbcast fmt g v)
  | .vext c fmt g v lane => some (c, .vext fmt g v lane)
  | .vins c fmt g v lane => some (c, .vins fmt g v lane)
  | .vmov c vd va => some (c, .vec .mov 0 vd va 0 0)
  | .vperm c fmt vd va vb => some (c, .vec .perm fmt vd va vb 0)
  | .tcfg c t ga => some (c, .mat (.tcfg t ga))
  | .tld c t cap ga gb => some (c, .mat (.tld t cap ga gb false))
  | .tldT c t cap ga gb => some (c, .mat (.tld t cap ga gb true))
  | .tst c t cap ga gb => some (c, .mat (.tst t cap ga gb))
  | .trel c t => some (c, .mat (.trel t))
  | .tsave c cap ga => some (c, .mat (.tsave cap ga))
  | .trestore c cap ga => some (c, .mat (.trestore cap ga))
  | .accCfg c acc ga => some (c, .mat (.accCfg acc ga))
  | .mma c acc ta tb g z rn => some (c, .mat (.mma acc ta tb g z rn))
  | .accNorm c acc => some (c, .mat (.accNorm acc))
  | .accCvt c acc t rm => some (c, .mat (.accCvt acc t rm))
  | .accCvtS c acc cap ga gb => some (c, .mat (.accCvtS acc cap ga gb))
  | .mseqRun c cap ga => some (c, .mat (.mseqRun false cap ga))
  | .mseqRunNt c cap ga => some (c, .mat (.mseqRun true cap ga))
  | .finc c f ga => some (c, .finc f ga)
  | .fincI c f n => some (c, .fincI f n)
  | .fincR c cap ga gb => some (c, .fincR cap ga gb)
  | .fwait c f ga pd => some (c, .fwait f ga pd)
  | .fread c f gd => some (c, .fread f gd)
  | .send c cap gw n tag => some (c, .send cap gw n tag)
  | .waitd c ga pd => some (c, .waitd ga pd)
  | .retd c => some (c, .retd)
  | .rdb c gd cap ga pd => some (c, .rdb gd cap ga pd)
  | .istore c cap ga gb => some (c, .istore cap ga gb)
  | .ifence c => some (c, .ifence)
  | .dmaStart c ch cap ga => some (c, .dmaStart false ch cap ga)
  | .dmaStartNt c ch cap ga => some (c, .dmaStart true ch cap ga)
  | .dmaWr c reg g => some (c, .dmaWr reg g)
  | .dmaRd c g reg => some (c, .dmaRd g reg)
  | _ => none

/-- The core node that a core's event names; none for the other commands. -/
def coreOf (i : Instr) : Option NodeNo :=
  match i with
  | .bundleIssue node => some node
  | .loadDataReturn node _ => some node
  | .storeDrain node => some node
  | .ackArrive node => some node
  | .nackArrive node => some node
  | .rspArrive node => some node
  | .matOpStart node => some node
  | .matOpComplete node _ => some node
  | .seqTableStart node => some node
  | .seqStep node => some node
  | .seqFinc node => some node
  | .seqFwaitPass node => some node
  | .seqTableEnd node => some node
  | .mseqAbort node => some node
  | .dmaQueueDepart node => some node
  | .waitTimeout node _ => some node
  | .fretIncrementApply node => some node
  | .fincArrive node => some node
  | .msgArrive node => some node
  | .msgRetry node => some node
  | .threadCtl node => some node
  | .faultRecordSend node => some node
  | .coreHalt _ node _ => some node
  | .descriptorFetch node _ => some node
  | .burstRead node => some node
  | .burstWrite node => some node
  | .channelDrainEnd node _ => some node
  | .plectrumMsgAccept node _ => some node
  | .dmaAbort node _ => some node
  | .dmaCredit node _ _ => some node
  | .dmaWstatClear node _ => some node
  | .patrolScrub place _ => scrubNode place
  | .coreLost node _ => some node
  | .coprocHang node => some node
  | .traceRecord node _ _ => some node
  | _ => none

/-- A Camhar op that its tables allow, at a core, extended only where it takes an extension (R41, R80, R95). -/
def opWellFormed (c : OpAt) (o : Op) : Bool :=
  isCore c.node.val && opLegal o && (match c.ext with
    | none => true
    | some h => takesExt o && extLegal o (some h))

/-- Offsets of an image's code and data within instruction memory and the program's scratchpad (R40, R114), and its program counters
(R88). -/
def imageWellFormed (im : Image) : Bool :=
  im.cores.all fun d =>
    (d.code.all fun b => decide (b.1 < 0x20000)) && (d.scratch.all fun b => decide (b.1 < 0x1FE000))
      && d.threads.all fun t => decide (t.pc.toNat % 4 = 0 ∧ t.pc.toNat < 0x20000)

/-- The PF has 64 queue pairs, each VF 4 (R339, R340). -/
def pairExists (fn : FnNo) (q : BitVec 6) : Bool := decide (fn = 0 ∨ q.toNat < 4)

/-- Whether a command names what the module has. -/
def wellFormed (i : Instr) : Bool :=
  match opOf i with
  | some (c, o) => opWellFormed c o
  | none => match coreOf i with
    | some n => isCore n.val
    | none => match i with
      | .linkLookup node => decide (nodeKind node.val = .link)
      | .memRequestServe node _ _ => decide (nodeKind node.val = .hbm ∨ nodeKind node.val = .far)
      | .refresh node => decide (nodeKind node.val = .hbm ∨ nodeKind node.val = .far)
      | .sqDoorbell fn q _ => pairExists fn q
      | .cqDoorbell fn q _ => pairExists fn q
      | .qpEnable fn q _ => pairExists fn q
      | .loadImage _ image => imageWellFormed image
      | _ => true

end Sys2Proof
end

