-- ==== Sys2Proof/Safety.lean ====
section
/-! DEFINITION. The terms claims use: safe steps, when an op issues and what its bundle leaves, canonical states, quiet links. -/

namespace Sys2Proof.Machine

open Sys2Proof

/-- A step is safe when it answers a next state: no command of the queue names a unit that the module does not have. -/
def SafeStep (s : State) : Prop := ∃ t, step s = .next t

/-! ## Camhar ops -/

/-- The bundle of an op given as a command, at its thread's program counter (log 4). -/
def opBundle (s : State) (c : OpAt) (o : Op) : Bundle := commandBundle (s.thread c.node.val c.thread.val).pc c o

/-- An op issues and executes: its node is a core, its thread is ready for the bundle (R45), the bundle is legal (R41), no deferred
fault stops it (R54), and its condition holds (R42). -/
def opIssues (s : State) (c : OpAt) (o : Op) : Bool :=
  let n := c.node.val
  let b := opBundle s c o
  isCore n && bundleReady s n c.thread b && (bundleIllegal (s.core n) c.thread.val b b.pastEnd).isNone
    && (deferredFor (s.core n) c.thread [o]).isNone && ((s.thread n c.thread.val).getP c.psel != c.psense)

/-- The op's bundle has issued: the other ready threads have waited one issue more (R46), and the issue is counted, for an op of the branch
unit with a new branch epoch (R75, R88). -/
def opIssued (s : State) (c : OpAt) (o : Op) : State :=
  countIssue c.node.val c.thread (opBundle s c o) (countWaits s c.node.val c.thread)

/-- What an op that issues reads (R43): its thread and its core as the bundle finds them. -/
def opCtx (s : State) (c : OpAt) (o : Op) : Ctx :=
  let n := c.node.val
  { n := n, k := c.thread, t := (opIssued s c o).thread n c.thread.val, c := (opIssued s c o).core n, module := s.module, region := s.regionOf n
    logical := s.logical n, timeLo := s.timeLo, timeHi := s.time.extractLsb' 32 32, pc := (s.thread n c.thread.val).pc
    link := (s.thread n c.thread.val).pc + (if c.ext.isSome then 8 else 4), cls := opClass o, ext := c.ext }

/-- The bytes of the bundle: the op, and its extension if it has one. -/
def opBytes (c : OpAt) : Word := if c.ext.isSome then 8 else 4

/-- The op at WB: the thread past the bundle, with the op's writes. -/
def opWritten (s : State) (c : OpAt) (o : Op) (w : Thread → Thread) : State :=
  (opIssued s c o).modThread c.node.val c.thread.val fun t =>
    w { t with pc := (s.thread c.node.val c.thread.val).pc + opBytes c, load := none, held := none }

/-- What an op of a class other than the branch unit's leaves: the op's writes, the fetch restarted where the BTB predicted something else
(R48), the op's work after release, what an istore or ifence flushes (R70, R72), then what the SYN unit and the course do of themselves. -/
def afterOp (s : State) (c : OpAt) (o : Op) (w : Thread → Thread) (a : State → State) : State :=
  let n := c.node.val
  settle n (flushAtCM n c.thread [o] (a (resolve n c.thread (opBundle s c o) false false (opWritten s c o w))))

/-- What a blocking op or ifence leaves (R271, R412): as afterOp, then a debug stop that was pending for the thread, if it still runs. -/
def afterSafe (s : State) (c : OpAt) (o : Op) (w : Thread → Thread) (a : State → State) : State :=
  let n := c.node.val
  let s1 := opWritten s c o w
  let s2 := flushAtCM n c.thread [o] (a (resolve n c.thread (opBundle s c o) false false s1))
  settle n (if bitOf (s2.core n).ctl.dbgPend c.thread.val && decide ((s2.thread n c.thread.val).st = .running)
    then parkDebug n c.thread.val (flushYounger n c.thread untilCM 0 (s1.thread n c.thread.val).pc s2) else s2)

/-- What a branch leaves: as afterOp, with the branch resolved and recorded (R47, R48), and a debug stop where a branch goes
backwards (R412). -/
def afterBranch (s : State) (c : OpAt) (o : Op) (taken : Bool) (w : Thread → Thread) (a : State → State) : State :=
  let n := c.node.val
  let s1 := opWritten s c o w
  let target := (s1.thread n c.thread.val).pc
  let s2 := a (resolve n c.thread (opBundle s c o) taken (popsFault (opIssued s c o) n c.thread [o]) s1)
  let back := taken && decide (target.toNat ≤ (s.thread n c.thread.val).pc.toNat)
  settle n (if back && bitOf (s2.core n).ctl.dbgPend c.thread.val && decide ((s2.thread n c.thread.val).st = .running)
    then parkDebug n c.thread.val (flushYounger n c.thread untilCM 0 target s2) else s2)

/-- The fault of an op that issues: the op's bundle and the thread's younger ones are discarded, and the fault is taken (R52, R59). -/
def afterFault (s : State) (c : OpAt) (o : Op) (f : FaultInfo) : State :=
  let n := c.node.val
  let pc := (s.thread n c.thread.val).pc
  settle n (takeFault (discard n c.thread (opBundle s c o) untilWB (opIssued s c o)) n c.thread f pc pc false)

/-- What an op leaves whose condition is false (R42, R58): the op discarded if a coprocessor held it, the thread past the bundle, and for an
op of the branch unit a branch not taken. -/
def afterFalse (s : State) (c : OpAt) (o : Op) : State :=
  let n := c.node.val
  let b := opBundle s c o
  settle n (resolve n c.thread b false false ((squash n (copOps b) (opIssued s c o)).modThread n c.thread.val fun t =>
    { t with pc := (s.thread n c.thread.val).pc + opBytes c, load := none, held := none }))

/-- The thread of an op command. -/
def opThread (s : State) (c : OpAt) : Thread := s.thread c.node.val c.thread.val

/-- Issued, the op command answers a next state: the op's writes and its work after release, and nothing else of the op. -/
def OpGives (s : State) (i : Instr) (w : Thread → Thread) (a : State → State) : Prop :=
  ∀ c o, opOf i = some (c, o) → opIssues s c o = true → exec i s = .next (afterOp s c o w a)

/-- As OpGives, for a blocking op or ifence. -/
def SafepointGives (s : State) (i : Instr) (w : Thread → Thread) (a : State → State) : Prop :=
  ∀ c o, opOf i = some (c, o) → opIssues s c o = true → exec i s = .next (afterSafe s c o w a)

/-- As OpGives, for an op of the branch unit. -/
def BranchGives (s : State) (i : Instr) (taken : Bool) (w : Thread → Thread) (a : State → State) : Prop :=
  ∀ c o, opOf i = some (c, o) → opIssues s c o = true → exec i s = .next (afterBranch s c o taken w a)

/-- Issued, the op command takes a fault. -/
def OpTraps (s : State) (i : Instr) (f : FaultInfo) : Prop :=
  ∀ c o, opOf i = some (c, o) → opIssues s c o = true → exec i s = .next (afterFault s c o f)

/-- An LSU access of an op passes Table 4.3, lies in the core's own scratchpad at offset p, and nothing holds or poisons it (R50, R61, R65,
R167, R222, R422). -/
def ReachesOwn (s : State) (c : OpAt) (o : Op) (store : Bool) (r : SReg) (perms : List Nat) (cause : Option Nat) (off size p : Nat) : Prop :=
  let x := opCtx s c o
  let cap := x.t.getS r
  let a := cap.addrAt off
  x.t.load = none ∧ checkAccess cap x.dom r.toNat x.cls perms cause off size size = none ∧ x.norm cap.module = 0xFFFF
    ∧ ownScratch x.n a size = some p ∧ lsuHeld x store 0xFFFF a size = false ∧ sbOverlap x.t 0xFFFF a size = []
    ∧ unackedOverlap x.t 0xFFFF a size = false ∧ poisonedAt 8 x.c.mem.poison p size = false

/-! ## Units -/

/-- The unit that a command names exists (R18, R21): the core of an op or of a core's event, the link or memory node of its event. -/
def unitExists (i : Instr) : Bool :=
  match opOf i with
  | some (c, _) => isCore c.node.val
  | none => match coreOf i with
    | some n => isCore n.val
    | none => match i with
      | .linkLookup node => decide (nodeKind node.val = .link)
      | .memRequestServe node _ _ => decide (nodeKind node.val = .hbm ∨ nodeKind node.val = .far)
      | .refresh node => decide (nodeKind node.val = .hbm ∨ nodeKind node.val = .far)
      | _ => true

/-! ## Messages -/

/-- PB2 runs and comes to run a started message with an opcode (R352, R369): it has no completion yet, no earlier one for its region is
still to run, the region it names exists, and one of the opcodes whose repetition gives the first run's result has not run before. -/
def MessageRuns (s : State) (id opcode : Nat) (e : JEntry) : Prop :=
  s.pbRuns 2 = true ∧ s.entry id = some e ∧ e.result = none ∧ e.handed = false ∧ msgOpcode e.msg = opcode ∧ blockedBefore s e = false ∧ (onceOnly opcode = true → e.made = none)
    ∧ (opNamesRegion e.msg = true → s.regionExists (msgTarget e.fn.val e.msg) = true)

/-- PB0 takes a debug request of a path at once: over I3C the door must have been rung, with no other request waiting, and over the TAP
DBGACC must have carried the request object (R409, R410, R411). -/
def RequestServed (s : State) (p : DbgPath) : Prop :=
  s.pbRuns 0 = true ∧ (p = .bmc → s.emu.dbgBusy = true ∧ ∀ w ∈ s.sec.waiting, w.path ≠ some .bmc) ∧ (p = .tap → s.sec.dbgacc ≠ [])

/-! ## Canonical states -/

/-- The maps of a state are in canonical form: no two states differ only in how they list the same contents. -/
def State.canonical (s : State) : Bool :=
  mapWf {} s.cores && mapWf {} s.nodes && mapWf {} s.ctls && mapWf {} s.courses && mapWf {} s.links && mapWf {} s.lnodes

/-- The byte memories of a core are in canonical form. -/
def Core.memoriesWf (c : Core) : Bool :=
  Memory.wf c.mem.imem && Memory.wf c.mem.scratch && c.mat.tileData.all fun t => Memory.wf t.2

/-- Every byte memory of a state is in canonical form: instruction memories, scratchpads, tiles, tier-1 and tier-2, the boot flash, the
debug buffer, what lies beyond the host port, and what a debugger has written of Pegbox's memories. -/
def State.memoriesWf (s : State) : Bool :=
  s.cores.all (fun e => e.2.memoriesWf) && s.ctls.all (fun e => Memory.wf e.2.mem) && Memory.wf s.host.hostMem && Memory.wf s.host.storage
    && Memory.wf s.pb.flashA && Memory.wf s.pb.flashB && Memory.wf s.emu.dbgBuf
    && s.pb.localMem.all (fun m => Memory.listedWf m.2) && Memory.listedWf s.pb.shared

end Sys2Proof.Machine
end

