-- ==== Sys2Proof/Certificates/Slice0/Obligations.lean ====
section
/-! DEFINITION. Statements about the model, for the provers. -/

open Sys2Proof Sys2Proof.Machine

/-! ## Camhar ops -/

/-- ADD, SUB, AND, OR, XOR, ANDN, SLL, SRL, SRA, MIN, MAX, MINU, MAXU, CLZ, POPC, MUL, MULH, MULHU, DIV, DIVU, REM, REMU, ADD_O, SUB_O and
MUL_O complete with the result of Tables 3.5 and 3.6 in rd; of a division by zero where FAULT_EN.IDIV is 0, and of an overflow where
FAULT_EN.IOVF is 0, too. Nothing else of the thread but its program counter changes (R83, R84, R119).
ADD_O, SUB_O and MUL_O fault OVERFLOW on a signed overflow where FAULT_EN.IOVF is 1; DIV, DIVU, REM and REMU fault DIV_ZERO on a zero
divisor where FAULT_EN.IDIV is 1. The detail word names the slot class, lane 0 (R84, R119, R122). -/
def Obligations.ScalarOpsWriteTheirResultOrTrap : Prop :=
  (∀ (s : State) (c : OpAt) (rd ra : GReg) (b : Src2),
     let t := opThread s c
     let x := t.getG ra
     let y := src2 t c.ext b
     let gives (i : Instr) (v : Word) : Prop := OpGives s i (fun t => t.setG rd v) id
     let noDiv : Prop := y ≠ 0 ∨ enIdiv t = false
     gives (.add c rd ra b) (x + y) ∧ gives (.sub c rd ra b) (x - y) ∧ gives (.and c rd ra b) (x &&& y) ∧ gives (.or c rd ra b) (x ||| y)
       ∧ gives (.xor c rd ra b) (x ^^^ y) ∧ gives (.andn c rd ra b) (x &&& ~~~y) ∧ gives (.sll c rd ra b) (x <<< (y &&& 31))
       ∧ gives (.srl c rd ra b) (x >>> (y &&& 31)) ∧ gives (.sra c rd ra b) (x.sshiftRight' (y &&& 31))
       ∧ gives (.min c rd ra b) (if x.slt y then x else y) ∧ gives (.max c rd ra b) (if x.slt y then y else x)
       ∧ gives (.minu c rd ra b) (if x < y then x else y) ∧ gives (.maxu c rd ra b) (if x < y then y else x)
       ∧ gives (.clz c rd ra) (if x = 0 then 32 else BitVec.ofNat 32 (31 - x.toNat.log2))
       ∧ gives (.popc c rd ra) (BitVec.ofNat 32 ((List.range 32).filter fun i => x.getLsbD i).length)
       ∧ gives (.mul c rd ra b) (x * y)
       ∧ gives (.mulh c rd ra b) (((x.signExtend 64 * y.signExtend 64) >>> 32).truncate 32)
       ∧ gives (.mulhu c rd ra b) (((x.zeroExtend 64 * y.zeroExtend 64) >>> 32).truncate 32)
       ∧ (noDiv → gives (.div c rd ra b) (if y = 0 then 0xFFFFFFFF else x.sdiv y) ∧ gives (.divu c rd ra b) (if y = 0 then 0xFFFFFFFF else x / y)
         ∧ gives (.rem c rd ra b) (if y = 0 then x else x.srem y) ∧ gives (.remu c rd ra b) (if y = 0 then x else x % y))
       ∧ (x.saddOverflow y = false ∨ enIovf t = false → gives (.addO c rd ra b) (x + y))
       ∧ (x.ssubOverflow y = false ∨ enIovf t = false → gives (.subO c rd ra b) (x - y))
       ∧ (x.smulOverflow y = false ∨ enIovf t = false → gives (.mulO c rd ra b) (x * y)))
  ∧ (∀ (s : State) (c : OpAt) (rd ra : GReg) (b : Src2),
       let t := opThread s c
       let x := t.getG ra
       let y := src2 t c.ext b
       (enIovf t = true →
         (x.saddOverflow y = true → OpTraps s (.addO c rd ra b) ⟨0x08, 0x00⟩) ∧ (x.ssubOverflow y = true → OpTraps s (.subO c rd ra b) ⟨0x08, 0x00⟩)
           ∧ (x.smulOverflow y = true → OpTraps s (.mulO c rd ra b) ⟨0x08, 0x10⟩))
       ∧ (enIdiv t = true → y = 0 →
         OpTraps s (.div c rd ra b) ⟨0x07, 0x10⟩ ∧ OpTraps s (.divu c rd ra b) ⟨0x07, 0x10⟩ ∧ OpTraps s (.rem c rd ra b) ⟨0x07, 0x10⟩
           ∧ OpTraps s (.remu c rd ra b) ⟨0x07, 0x10⟩))

/-- CMP_EQ, CMP_NE, CMP_LT, CMP_GE, CMP_LTU, CMP_GEU, PAND, POR, PXOR and PANDN complete with the truth of Table 3.5 in pd, and write
nothing else but the program counter (R83). ADD_D, SUB_D, SLL_D, SRL_D, SRA_D and MULW_D complete with the 64-bit result of Table 3.6 in the
pair rd; a pair of g0 is not written (R79, R84). -/
def Obligations.ComparesAndPairOpsWriteTheirResult : Prop :=
  (∀ (s : State) (c : OpAt) (pd pa pb : PReg) (ra : GReg) (b : Src2),
     let t := opThread s c
     let x := t.getG ra
     let y := src2 t c.ext b
     let p := t.getP pa
     let q := t.getP pb
     let gives (i : Instr) (v : Bool) : Prop := OpGives s i (fun t => t.setP pd v) id
     gives (.cmpEq c pd ra b) (x == y) ∧ gives (.cmpNe c pd ra b) (x != y) ∧ gives (.cmpLt c pd ra b) (x.slt y)
       ∧ gives (.cmpGe c pd ra b) (!x.slt y) ∧ gives (.cmpLtu c pd ra b) (x.ult y) ∧ gives (.cmpGeu c pd ra b) (!x.ult y)
       ∧ gives (.pand c pd pa pb) (p && q) ∧ gives (.por c pd pa pb) (p || q) ∧ gives (.pxor c pd pa pb) (p ^^ q)
       ∧ gives (.pandn c pd pa pb) (p && !q))
  ∧ (∀ (s : State) (c : OpAt) (rd ra rb : GReg) (b : Src2),
       let t := opThread s c
       let x := t.getPair ra
       let y := src2Pair t c.ext b
       let gives (i : Instr) (v : DWord) : Prop := OpGives s i (fun t => t.setPair rd v) id
       gives (.addD c rd ra b) (x + y) ∧ gives (.subD c rd ra b) (x - y) ∧ gives (.sllD c rd ra b) (x <<< (y &&& 63))
         ∧ gives (.srlD c rd ra b) (x >>> (y &&& 63)) ∧ gives (.sraD c rd ra b) (x.sshiftRight' (y &&& 63))
         ∧ gives (.mulwD c rd ra rb) ((t.getG ra).signExtend 64 * (t.getG rb).signExtend 64))

/-- RSR completes with the special register in rd, and keeps or drops the shadow of the timestamp's upper word (R3); WSR with FPFLAGS
cleared by ones and TH (not while ESC is 1) from a TSW write, the low bits of FAULT_EN and RMODE, SEED with the thread's count of
conversions back at 0, DRET, or a handler; CRSR with FAULT_GATE, FAULT_GDATA or GSTACK in sd (R85, R98, R100, R120, R152). -/
def Obligations.SpecialRegistersReadAndWrite : Prop :=
  ∀ (s : State) (c : OpAt) (rd ra : GReg) (sd : SReg) (n : Byte),
    let t := opThread s c
    let v := t.getG ra
    let now : DWord := BitVec.ofNat 64 (s.mc / 16)
    let reads (n : Byte) (w : Thread → Thread) : Prop := OpGives s (.rsr c rd n) w id
    let writes (n : Byte) (w : Thread → Thread) : Prop := OpGives s (.wsr c n ra) w id
    reads 0x00 (fun u => u.setG rd (t.tsw c.thread.val)) ∧ reads 0x01 (fun u => u.setG rd (t.faultEn.zeroExtend 32))
      ∧ reads 0x02 (fun u => u.setG rd t.seed) ∧ reads 0x03 (fun u => u.setG rd (t.rmode.zeroExtend 32))
      ∧ reads 0x04 (fun u => { u.setG rd (now.truncate 32) with timeShadow := some ((now >>> 32).truncate 32) })
      ∧ reads 0x05 (fun u => { u.setG rd (t.timeShadow.getD ((now >>> 32).truncate 32)) with timeShadow := none })
      ∧ reads 0x06 (fun u => u.setG rd (BitVec.ofNat 32
        (s.logical c.node.val + 2 ^ 5 * courseOf c.node.val + 2 ^ 10 * (s.regionOf c.node.val).toNat + 2 ^ 15 * c.thread.val)))
      ∧ reads 0x07 (fun u => u.setG rd (s.module.zeroExtend 32)) ∧ reads 0x08 (fun u => u.setG rd t.dret)
      ∧ (0x20 ≤ n → n ≤ 0x2F → reads n (fun u => u.setG rd (mapGet 0 t.handlers (n.toNat - 0x20)))
        ∧ writes n (fun u => { u with handlers := mapSet 0 u.handlers (n.toNat - 0x20) v }))
      ∧ writes 0x00 (fun u => { u with fpflags := u.fpflags &&& ~~~(v.extractLsb' 16 5), th := if u.esc then u.th else v.getLsbD 3 })
      ∧ writes 0x01 (fun u => { u with faultEn := v.truncate 5 }) ∧ writes 0x02 (fun u => { u with seed := v, vcvts := 0 })
      ∧ writes 0x03 (fun u => { u with rmode := v.truncate 3 }) ∧ writes 0x08 (fun u => { u with dret := v })
      ∧ OpGives s (.crsr c sd 0) (fun u => u.setS sd t.faultGate) id ∧ OpGives s (.crsr c sd 1) (fun u => u.setS sd t.faultGdata) id
      ∧ OpGives s (.crsr c sd 2) (fun u => u.setS sd t.gstack) id

/-- CWSR, CSUB, CPERM, CBIND, CFREE, CKEY, CGET and CMOV complete under the conditions of Table 4.4, with the capability that each
derives, its tag the source's; CGET with the field (R110). -/
def Obligations.CapabilityOpsDerive : Prop :=
  ∀ (s : State) (c : OpAt) (sd sa sb : SReg) (rd ga gb : GReg) (f : Byte),
    let t := opThread s c
    let a := t.getS sa
    let b := t.getS sb
    let x := t.getG ga
    let y := t.getG gb
    let here : BitVec 6 := (s.regionOf c.node.val).zeroExtend 6
    let open_ (k : Cap) : Prop := k.tag = true ∧ k.resv = 0 ∧ k.otype = 0
    let gives (i : Instr) (k : Cap) : Prop := OpGives s i (fun u => u.setS sd k) id
    (a.tag = false ∨ a.region = here → OpGives s (.cwsr c 0 sa) (fun u => { u with faultGate := a }) id
      ∧ OpGives s (.cwsr c 1 sa) (fun u => { u with faultGdata := a }) id)
    ∧ (open_ a → a.has pSeal = false → a.has pUnseal = false → x.toNat + y.toNat ≤ a.limit.toNat →
      gives (.csub c sd sa ga gb) (mkCap true (a.base + x.zeroExtend 48) y a.module a.perm 0 a.region))
    ∧ (open_ a → gives (.cperm c sd sa ga) (mkCap true a.base a.limit a.module (a.perm &&& x.truncate 12) 0 a.region))
    ∧ (open_ a → open_ b → b.has pSeal = true → b.region = here → b.keyMask = 0 → 0x10 ≤ b.keyType →
      gives (.cbind c sd sa sb) (mkCap true a.base a.limit a.module a.perm b.keyType a.region))
    ∧ (a.tag = true → a.resv = 0 → 0x10 ≤ a.otype → open_ b → b.has pUnseal = true → b.region = here →
      a.otype &&& ~~~b.keyMask = b.keyType &&& ~~~b.keyMask →
      gives (.cfree c sd sa sb) (mkCap true a.base a.limit a.module a.perm 0 a.region))
    ∧ (open_ a → a.has pSeal = true ∨ a.has pUnseal = true → x < 0x10000 → (x >>> 8).truncate 8 &&& ~~~a.keyMask = 0 →
      x.truncate 8 &&& ~~~a.keyMask = a.keyType &&& ~~~a.keyMask →
      gives (.ckey c sd sa ga) (mkCap true (x.zeroExtend 48) a.limit a.module a.perm 0 a.region))
    ∧ gives (.cmov c sd sa) a
    ∧ (f ≤ 7 → OpGives s (.cget c rd sa f) (fun u => u.setG rd (match f.toNat with
      | 0 => a.base.truncate 32
      | 1 => (a.base >>> 32).truncate 32
      | 2 => a.limit
      | 3 => a.module.zeroExtend 32
      | 4 => a.perm.zeroExtend 32
      | 5 => a.otype.zeroExtend 32
      | 6 => a.region.zeroExtend 32
      | _ => if a.tag = true ∧ a.resv = 0 then 1 else 0)) id)

/-- LD_B, LD_BU, LD_H, LD_HU, LD_W, LD_D, LDV, LDC, VLD_W and VLD_D of the core's own scratchpad complete with the loaded bytes,
little-endian, sign- or zero-extended; LDC with the granule's tag. No byte of memory changes (R86, R87, R106, Table 3.8). -/
def Obligations.OwnScratchpadLoadsDeliver : Prop :=
  ∀ (s : State) (c : OpAt) (rt : GReg) (cap : SReg) (o : LsOff) (p : Nat),
    let x := opCtx s c (.load .w rt cap o)
    let m := (s.core c.node.val).mem
    let off (size : Nat) : Nat := lsOffset x.t c.ext size o
    let reach (size : Nat) (perms : List Nat) (cause : Option Nat) : Prop :=
      ReachesOwn s c (.load .w rt cap o) false cap perms cause (off size) size p
    let value (size : Nat) : Nat := leNat (readBytes m.scratch p size)
    let gives (i : Instr) (w : Thread → Thread) : Prop := OpGives s i w id
    (reach 1 [pR] none → gives (.ldB c rt cap o) (·.setG rt ((BitVec.ofNat 8 (value 1)).signExtend 32))
      ∧ gives (.ldBu c rt cap o) (·.setG rt (BitVec.ofNat 32 (value 1))))
    ∧ (reach 2 [pR] none → gives (.ldH c rt cap o) (·.setG rt ((BitVec.ofNat 16 (value 2)).signExtend 32))
      ∧ gives (.ldHu c rt cap o) (·.setG rt (BitVec.ofNat 32 (value 2))))
    ∧ (reach 4 [pR] none → gives (.ldW c rt cap o) (·.setG rt (BitVec.ofNat 32 (value 4))))
    ∧ (reach 8 [pR] none → gives (.ldD c rt cap o) (·.setPair rt (BitVec.ofNat 64 (value 8))))
    ∧ (reach 64 [pR] none → gives (.ldv c rt cap o) (·.setV (rt.truncate 4) (BitVec.ofNat 512 (value 64))))
    ∧ (reach 16 [pR, pLdcap] none →
      gives (.ldc c rt cap o) (·.setS (rt.truncate 4) { bits := BitVec.ofNat 128 (value 16), tag := mapGet false m.tags (p / 16) }))
    ∧ (reach 4 [pR, pVolatile] none → gives (.vldW c rt cap o) (·.setG rt (BitVec.ofNat 32 (value 4))))
    ∧ (reach 8 [pR, pVolatile] none → gives (.vldD c rt cap o) (·.setPair rt (BitVec.ofNat 64 (value 8))))

/-- ST_B, ST_H, ST_W, ST_D, STV and STC complete by entering the thread's store buffer at the address of the capability and the offset,
with the register's low bytes; memory itself does not change (R61, R86, Table 3.8).
A store or an atomic whose address falls in instruction memory faults CAP_PERM, cause 13, even where its capability carries W; every
check of Table 4.3 before step 6 has passed (R68). -/
def Obligations.StoresEnterTheStoreBuffer : Prop :=
  (∀ (s : State) (c : OpAt) (rt : GReg) (cap : SReg) (o : LsOff),
     let x := opCtx s c (.store .w rt cap o)
     let t := opThread s c
     let k := t.getS cap
     let addr (size : Nat) : Addr := k.addrAt (lsOffset t c.ext size o)
     let free (size : Nat) : Prop := lsuHeld x true (x.norm k.module) (addr size) size = false
     let allowed (size : Nat) (perms : List Nat) (cause : Option Nat) : Prop :=
       checkAccess k x.dom cap.toNat 2 perms cause (lsOffset t c.ext size o) size size = none ∧ free size
     let plain (size : Nat) : Prop := inImem (addr size) = false ∧ allowed size [pW] none
     let gives (i : Instr) (size : Nat) (bytes : List Byte) (tag : Option Bool) : Prop :=
       OpGives s i (fun u => { u with storeSeq := u.storeSeq + 1, sb := u.sb ++
         [{ addr := addr size, data := bytes, capTag := tag, module := x.norm k.module, region := k.region, pc := t.pc, seq := u.storeSeq }] }) id
     (plain 1 → gives (.stB c rt cap o) 1 (leBytes 1 (t.getG rt).toNat) none)
     ∧ (plain 2 → gives (.stH c rt cap o) 2 (leBytes 2 (t.getG rt).toNat) none)
     ∧ (plain 4 → gives (.stW c rt cap o) 4 (leBytes 4 (t.getG rt).toNat) none)
     ∧ (plain 8 → gives (.stD c rt cap o) 8 (leBytes 8 (t.getPair rt).toNat) none)
     ∧ (plain 64 → gives (.stv c rt cap o) 64 (leBytes 64 (t.getV (rt.truncate 4)).toNat) none)
     ∧ (x.norm k.module = 0xFFFF → (ownScratch c.node.val (addr 16) 16).isSome = true → allowed 16 [pW, pStcap] none →
       gives (.stc c rt cap o) 16 (leBytes 16 (t.getS (rt.truncate 4)).bits.toNat) (some (t.getS (rt.truncate 4)).tag)))
  ∧ (∀ (s : State) (c : OpAt) (rt : GReg) (cap : SReg) (o : LsOff),
       let x := opCtx s c (.store .w rt cap o)
       let k := x.t.getS cap
       let traps (i : Instr) (size : Nat) (perms : List Nat) : Prop :=
         checkRights k x.dom cap.toNat 2 perms = none → inImem (k.addrAt (lsOffset x.t c.ext size o)) = true →
           OpTraps s i (capFault 0x04 cap.toNat 2 13)
       traps (.stB c rt cap o) 1 [pW] ∧ traps (.stH c rt cap o) 2 [pW] ∧ traps (.stW c rt cap o) 4 [pW] ∧ traps (.stD c rt cap o) 8 [pW]
         ∧ traps (.stv c rt cap o) 64 [pW] ∧ traps (.stc c rt cap o) 16 [pW, pStcap]
         ∧ traps (.amoAddW c rt cap o) 4 [pAtomic] ∧ traps (.amoAddD c rt cap o) 8 [pAtomic] ∧ traps (.amoMinW c rt cap o) 4 [pAtomic]
         ∧ traps (.amoMinD c rt cap o) 8 [pAtomic] ∧ traps (.amoMaxW c rt cap o) 4 [pAtomic] ∧ traps (.amoMaxD c rt cap o) 8 [pAtomic]
         ∧ traps (.amoSwapW c rt cap o) 4 [pAtomic] ∧ traps (.amoSwapD c rt cap o) 8 [pAtomic] ∧ traps (.amoCasW c rt cap o) 4 [pAtomic]
         ∧ traps (.amoCasD c rt cap o) 8 [pAtomic] ∧ traps (.amoFaddF32 c rt cap o) 4 [pAtomic] ∧ traps (.amoFaddBf16 c rt cap o) 2 [pAtomic])

/-- ACQ drops the read-cache lines that hold a byte of its segment, ACQ_ALL all of them; a fill in flight for one is not installed. No
other part of the core's memories changes (R214). -/
def Obligations.AcquireDropsCachedLines : Prop :=
  ∀ (s : State) (c : OpAt) (cap : SReg),
    let n := c.node.val
    let k := (opThread s c).getS cap
    let x := opCtx s c (.acq cap)
    let segment (l : Addr) : Bool := decide (x.norm k.module = 0xFFFF) && overlaps l 128 k.base (k.limit.toNat + 1)
    let drops (p : Addr → Bool) (u : State) : Prop :=
      (u.core n).mem.cache = (s.core n).mem.cache.filter (fun e => !p e.2.addr) ∧ (u.core n).mem.scratch = (s.core n).mem.scratch
        ∧ (u.core n).mem.imem = (s.core n).mem.imem ∧ (u.core n).mem.tags = (s.core n).mem.tags
        ∧ ∀ j : ThreadNo, ∀ w, (s.thread n j.val).load = some w → w.fill = true → p w.addr = true → j ≠ c.thread →
          (u.thread n j.val).load.map (·.dropFill) = some true
    (∀ o, opOf (.acqAll c) = some (c, o) → opIssues s c o = true → ∃ u, exec (.acqAll c) s = .next u ∧ drops (fun _ => true) u)
    ∧ (∀ o, opOf (.acq c cap) = some (c, o) → opIssues s c o = true → checkRights k x.dom cap.toNat 2 [pR] = none →
      ∃ u, exec (.acq c cap) s = .next u ∧ drops segment u)

/-- AMO_ADD_W, AMO_ADD_D, AMO_MIN_W, AMO_MIN_D, AMO_MAX_W, AMO_MAX_D, AMO_SWAP_W, AMO_SWAP_D, AMO_CAS_W and AMO_CAS_D of the own
scratchpad complete with the old value in rt and the new value in memory, in one step; AMO_FADD_F32 and AMO_FADD_BF16 with the sum of
the formats' addition. Every byte outside the operand keeps its value (R219, Table 3.8). -/
def Obligations.OwnScratchpadAtomicsComplete : Prop :=
  ∀ (s : State) (c : OpAt) (rt : GReg) (cap : SReg) (o : LsOff) (p : Nat),
    let n := c.node.val
    let x := opCtx s c (.amo .addW rt cap o)
    let t := opThread s c
    let bytes := (s.core n).mem.scratch
    let put (size : Nat) (v : Nat) (u : State) : State := u.modCore n fun k => k.modMem fun m => m.writeScratch p (leBytes size v)
    let reach (size : Nat) : Prop :=
      inImem ((x.t.getS cap).addrAt (lsOffset t c.ext size o)) = false
        ∧ ReachesOwn s c (.amo .addW rt cap o) true cap [pAtomic] none (lsOffset t c.ext size o) size p
    let old : Word := BitVec.ofNat 32 (leNat (readBytes bytes p 4))
    let oldD : DWord := BitVec.ofNat 64 (leNat (readBytes bytes p 8))
    let word (i : Instr) (v : Word) : Prop := reach 4 → OpGives s i (·.setG rt old) (put 4 v.toNat)
    let dword (i : Instr) (v : DWord) : Prop := reach 8 → OpGives s i (·.setPair rt oldD) (put 8 v.toNat)
    let a := t.getG rt
    let d := t.getPair rt
    word (.amoAddW c rt cap o) (old + a) ∧ dword (.amoAddD c rt cap o) (oldD + d)
      ∧ word (.amoMinW c rt cap o) (if old.slt a then old else a) ∧ dword (.amoMinD c rt cap o) (if oldD.slt d then oldD else d)
      ∧ word (.amoMaxW c rt cap o) (if old.slt a then a else old) ∧ dword (.amoMaxD c rt cap o) (if oldD.slt d then d else oldD)
      ∧ word (.amoSwapW c rt cap o) a ∧ dword (.amoSwapD c rt cap o) d
      ∧ word (.amoCasW c rt cap o) (if old = a then t.getG (rt + 1) else old)
      ∧ dword (.amoCasD c rt cap o) (if oldD = d then t.getPair (rt + 2) else oldD)
      ∧ word (.amoFaddF32 c rt cap o) (BitVec.ofNat 32 (faddBits 0x0 old.toNat a.toNat))
      ∧ (reach 2 → OpGives s (.amoFaddBf16 c rt cap o) (·.setG rt (BitVec.ofNat 32 (leNat (readBytes bytes p 2))))
        (put 2 (faddBits 0x1 (leNat (readBytes bytes p 2)) (a.toNat % 0x10000))))

/-- BR, BL, JR and JRL go to TGT × 4 or to ga, BL and JRL with the address of the next bundle in gl, ga read first; a target in ga at or
above 0x2_0000 faults CAP_BOUNDS, then a target that is no multiple of 4 faults ALIGN (R88, Table 3.9). -/
def Obligations.BranchesRedirect : Prop :=
  ∀ (s : State) (c : OpAt) (rl ra : GReg) (tgt : BitVec 15),
    let t := opThread s c
    let a := t.getG ra
    let next := t.pc + opBytes c
    BranchGives s (.br c tgt) true (fun u => { u with pc := tgt.zeroExtend 32 * 4 }) id
      ∧ BranchGives s (.bl c rl tgt) true (fun u => { u.setG rl next with pc := tgt.zeroExtend 32 * 4 }) id
      ∧ (a < 0x20000 → a.toNat % 4 = 0 → BranchGives s (.jr c ra) true (fun u => { u with pc := a }) id
        ∧ BranchGives s (.jrl c rl ra) true (fun u => { u.setG rl next with pc := a }) id)
      ∧ (0x20000 ≤ a → OpTraps s (.jr c ra) ⟨0x03, 0x30⟩ ∧ OpTraps s (.jrl c rl ra) ⟨0x03, 0x30⟩)
      ∧ (a < 0x20000 → a.toNat % 4 ≠ 0 → OpTraps s (.jr c ra) ⟨0x06, 0x30⟩ ∧ OpTraps s (.jrl c rl ra) ⟨0x06, 0x30⟩)

/-- CALLG through a gate pair that passes its checks, with ESC 0 and a free frame, enters the gate: the frame at GSTACK + 32 × GDEPTH
takes the return capability to the next bundle and the caller's s15, s15 becomes the unsealed data capability, GDEPTH grows by one.
RETG through such a frame returns to it: s15 from the frame, GDEPTH one less (R113, R115, R116).
EXIT makes its thread IDLE and ends its escalation; its registers, its buffered stores and the core's memories stay (R89, R127). -/
def Obligations.GatesCallAndReturnAndExitIdles : Prop :=
  (∀ (s : State) (c : OpAt) (sa sb : SReg),
     let n := c.node.val
     let t := opThread s c
     let a := t.getS sa
     let b := t.getS sb
     let x := opCtx s c (.callg sa sb)
     let frame (d : Nat) : Nat := frameAt t n c.thread.val d
     (gateCheck a b sa.toNat sb.toNat x.dom n = none → t.esc = false → t.gdepth ≠ 16 →
       BranchGives s (.callg c sa sb) true
         (fun u => { u.setS 15 (b.withOtype 0) with pc := (a.base - blockAddr n).truncate 32, gdepth := t.gdepth + 1 })
         (fun u => u.modCore n fun k => k.modMem fun m =>
           (m.writeCap (frame t.gdepth.toNat) (returnCap n (t.pc + opBytes c) false false x.region)).writeCap (frame t.gdepth.toNat + 16) (t.getS 15)))
     ∧ (t.esc = false → t.gdepth ≠ 0 → poisonedAt 8 (s.core n).mem.poison (frame (t.gdepth.toNat - 1)) 32 = false →
       let ret := (s.core n).mem.readCap (frame (t.gdepth.toNat - 1))
       let target : Word := (ret.base - blockAddr n).truncate 32
       bitOf ret.limit 0 = false → target < 0x20000 → target.toNat % 4 = 0 →
       BranchGives s (.retg c) true (fun u => { u.setS 15 ((s.core n).mem.readCap (frame (t.gdepth.toNat - 1) + 16)) with
         pc := target, gdepth := t.gdepth - 1 }) id))
  ∧ (∀ (s : State) (c : OpAt) (o : Op), opOf (.exit c) = some (c, o) → opIssues s c o = true →
       ∃ u, exec (.exit c) s = .next u ∧
         let t := opThread s c
         let v := opThread u c
         v.st = .idle ∧ v.esc = false ∧ v.wait = none ∧ v.load = none ∧ v.g = t.g ∧ v.p = t.p ∧ v.s = t.s ∧ v.v = t.v ∧ v.sb = t.sb
           ∧ v.gdepth = t.gdepth ∧ v.handlers = t.handlers ∧ (u.core c.node.val).mem.scratch = (s.core c.node.val).mem.scratch
           ∧ ∀ d ∈ (u.core c.node.val).deferred, d.thread ≠ c.thread)

/-- VADD, VSUB, VMUL, VFMA, VMIN, VMAX, VDIV and VSQRT complete with each lane of vd the lane result of R91, wrapped for integers, rounded to
nearest even for floats, and with the lanes' flags added to FPFLAGS; where FAULT_EN makes a flag of a lane a fault, they take that fault
at the lowest such lane instead. VMIN and VMAX of floats pass the other operand of a NaN; on zeros of different sign the sign is open
(R91, R119, R157; log 14). -/
def Obligations.VectorArithmeticIsLaneWise : Prop :=
  ∀ (s : State) (c : OpAt) (fmt : BitVec 4) (vd va vb : VReg),
    let t := opThread s c
    let w := fmtWidth fmt
    let gives (i : Instr) (lane : Nat → Nat → Nat → Nat × BitVec 5) : Prop :=
      let rs := (List.range (512 / w)).map fun j => lane (laneOf w (t.getV va) j) (laneOf w (t.getV vb) j) (laneOf w (t.getV vd) j)
      (vecFault t 4 (rs.map (·.2)) = none →
        OpGives s i (fun u => { u.setV vd (ofLanes w (rs.map (·.1))) with fpflags := u.fpflags ||| rs.foldl (fun a r => a ||| r.2) 0 }) id)
      ∧ ∀ f, vecFault t 4 (rs.map (·.2)) = some f → OpTraps s i f
    let int (x : Int) : Nat × BitVec 5 := ((x % 2 ^ w).toNat, 0)
    let z := sLane w
    let v := valOf fmt
    (isIntFmt fmt = true →
      gives (.vadd c fmt vd va vb) (fun a b _ => int (z a + z b)) ∧ gives (.vsub c fmt vd va vb) (fun a b _ => int (z a - z b))
      ∧ gives (.vmul c fmt vd va vb) (fun a b _ => int (z a * z b)) ∧ gives (.vfma c fmt vd va vb) (fun a b d => int (z a * z b + z d))
      ∧ gives (.vmin c fmt vd va vb) (fun a b _ => (if z b < z a then b else a, 0))
      ∧ gives (.vmax c fmt vd va vb) (fun a b _ => (if z a ≤ z b then b else a, 0)))
    ∧ (isIntFmt fmt = false →
      gives (.vadd c fmt vd va vb) (fun a b _ => rne fmt (valAdd (v a) (v b)))
      ∧ gives (.vsub c fmt vd va vb) (fun a b _ => rne fmt (valAdd (v a) (valNeg (v b))))
      ∧ gives (.vmul c fmt vd va vb) (fun a b _ => rne fmt (valMul (v a) (v b)))
      ∧ gives (.vfma c fmt vd va vb) (fun a b d => rne fmt (valFma (v a) (v b) (v d)))
      ∧ gives (.vdiv c fmt vd va vb) (fun a b _ => rne fmt (valDiv (v a) (v b)))
      ∧ gives (.vsqrt c fmt vd va) (fun a _ _ => rne fmt (valSqrt (v a)))
      ∧ gives (.vmin c fmt vd va vb) (fun a b _ => (minMaxF fmt true a b, 0)) ∧ gives (.vmax c fmt vd va vb) (fun a b _ => (minMaxF fmt false a b, 0)))

/-- VAND, VOR, VXOR, VSEL, VMOV, VSHL, VSHR, VCMP, VPERM, VBCAST, VEXT and VINS complete with the lanes of Table 3.10 and set no flag:
shift counts modulo the lane width, VSHR arithmetic under MOD 0 and logical under MOD 1, VCMP all ones or zero, VPERM's source lane
modulo the lane count (R91). -/
def Obligations.VectorMovesAndLogic : Prop :=
  ∀ (s : State) (c : OpAt) (fmt : BitVec 4) (vd va vb : VReg) (md : BitVec 3) (g : GReg) (lane : BitVec 6),
    let t := opThread s c
    let w := fmtWidth fmt
    let n := 512 / w
    let a := t.getV va
    let b := t.getV vb
    let d := t.getV vd
    let gives (i : Instr) (v : Vec) : Prop := OpGives s i (·.setV vd v) id
    let each (i : Instr) (f : Nat → Nat) : Prop :=
      OpGives s i (fun u => { u.setV vd (ofLanes w ((List.range n).map f)) with fpflags := u.fpflags ||| 0 }) id
    let la (j : Nat) : Nat := laneOf w a j
    let lb (j : Nat) : Nat := laneOf w b j
    gives (.vand c vd va vb) (a &&& b) ∧ gives (.vor c vd va vb) (a ||| b) ∧ gives (.vxor c vd va vb) (a ^^^ b)
      ∧ gives (.vsel c vd va vb) ((d &&& a) ||| (~~~d &&& b)) ∧ gives (.vmov c vd va) a
      ∧ each (.vshl c fmt vd va vb) (fun j => la j * 2 ^ (lb j % w) % 2 ^ w)
      ∧ each (.vshr c fmt vd va vb 0) (fun j => ((sLane w (la j) / 2 ^ (lb j % w)) % 2 ^ w).toNat)
      ∧ each (.vshr c fmt vd va vb 1) (fun j => la j / 2 ^ (lb j % w))
      ∧ each (.vcmp c fmt vd va vb md) (fun j => if cmpMod md.toNat (laneCmp fmt (la j) (lb j)) then 2 ^ w - 1 else 0)
      ∧ each (.vperm c fmt vd va vb) (fun j => laneOf w a (lb j % n))
      ∧ gives (.vbcast c fmt g vd) (ofLanes w (List.replicate n (t.getG g).toNat))
      ∧ (isIntFmt fmt = true → OpGives s (.vext c fmt g va lane) (·.setG g (BitVec.ofInt 32 (sLane w (la lane.toNat)))) id)
      ∧ (isIntFmt fmt = false → OpGives s (.vext c fmt g va lane) (·.setG g (BitVec.ofNat 32 (la lane.toNat))) id)
      ∧ gives (.vins c fmt g vd lane) (ofLanes w ((lanes w d).set lane.toNat (t.getG g).toNat))

/-- VRED_ADD adds lane 2i to lane 2i + 1 for every i, then adjacent pairs of those sums, until one value remains, each addition rounded to
nearest even, and writes lane 0 with the sum and the others with 0 (R93); VRED_MAX writes lane 0 with the largest lane. Neither writes
anything else but FPFLAGS. -/
def Obligations.VectorReductionsFold : Prop :=
  ∀ (s : State) (c : OpAt) (fmt : BitVec 4) (vd va : VReg),
    let t := opThread s c
    let w := fmtWidth fmt
    let pairs (xs : List (Nat × BitVec 5)) : List (Nat × BitVec 5) := (List.range (xs.length / 2)).map fun i =>
      let a := xs.getD (2 * i) (0, 0)
      let b := xs.getD (2 * i + 1) (0, 0)
      let r := laneArith .add fmt a.1 b.1 0
      (r.1, r.2 ||| a.2 ||| b.2)
    let sum := ((pairs^[(512 / w).log2]) ((lanes w (t.getV va)).map fun l => (l, 0))).headD (0, 0)
    let writes (i : Instr) (r : Nat × BitVec 5) : Prop :=
      (vecFault t 4 [r.2] = none →
        OpGives s i (fun u => { u.setV vd (BitVec.ofNat 512 (r.1 % 2 ^ w)) with fpflags := u.fpflags ||| r.2 }) id)
      ∧ ∀ f, vecFault t 4 [r.2] = some f → OpTraps s i f
    vecFmtOk fmt = true →
      writes (.vredAdd c fmt vd va) sum
      ∧ (isIntFmt fmt = true → ∀ m ∈ lanes w (t.getV va), (∀ l ∈ lanes w (t.getV va), sLane w l ≤ sLane w m) →
        writes (.vredMax c fmt vd va) (m, 0))
      ∧ (isIntFmt fmt = false → writes (.vredMax c fmt vd va) (maxLane fmt (lanes w (t.getV va)), 0))

/-- VCVT of part q: narrowing writes lanes q × (512 / ws) onward of vd and keeps its others, widening reads lanes q × (512 / wd) onward of
va; each lane is converted under MOD's rounding, the lanes' flags are added, and the thread's count of conversions grows by one (R92,
R152, R157). -/
def Obligations.VectorConversionWritesItsPart : Prop :=
  ∀ (s : State) (c : OpAt) (q : BitVec 2) (src : BitVec 4) (vd va : VReg) (dst : BitVec 4) (md : BitVec 3),
    let t := opThread s c
    let ws := fmtWidth src
    let wd := fmtWidth dst
    let conv (i : Nat) : Nat × BitVec 5 :=
      convert dst (modeOf md.toNat t.rmode) (srBits t.seed t.vcvts 0 0 (BitVec.ofNat 32 i)) (valOf src (laneOf ws (t.getV va) i))
    let gives (rs : List (Nat × BitVec 5)) (v : Vec) : Prop := vecFault t 4 (rs.map (·.2)) = none →
      OpGives s (.vcvt c q src vd va dst md)
        (fun u => { u.setV vd v with fpflags := u.fpflags ||| rs.foldl (fun a r => a ||| r.2) 0, vcvts := u.vcvts + 1 }) id
    (ws ≤ wd →
      let rs := (List.range (512 / wd)).map fun i => conv (q.toNat * (512 / wd) + i)
      gives rs (ofLanes wd (rs.map (·.1))))
    ∧ (wd < ws →
      let rs := (List.range (512 / ws)).map conv
      let old := lanes wd (t.getV vd)
      gives rs (ofLanes wd (old.take (q.toNat * (512 / ws)) ++ rs.map (·.1) ++ old.drop (q.toNat * (512 / ws) + 512 / ws))))

/-- A MAT op (TCFG, TLD, TLD_T, TST, TREL, TSAVE, TRESTORE, ACC_CFG, MMA, ACC_NORM, ACC_CVT, ACC_CVT_S, MSEQ_RUN, MSEQ_RUN_NT) whose
capability and configuration checks pass completes by entering the matrix queue behind every op there, with the operand values, SEED,
RMODE and ACCR that its bundle read and its thread's branch epoch; MSEQ_RUN takes a range-table entry, MSEQ_RUN_NT none (R53, R56, R63,
R94, R186; which checks wait for a pending configuration, log 46). -/
def Obligations.MatrixOpsEnterTheQueue : Prop :=
  ∀ (s : State) (c : OpAt) (m : MatOp),
    let n := c.node.val
    let t := opThread s c
    let w := matWorkOf t c.ext m
    let x := opCtx s c (.mat m)
    let unit := (s.core n).mat
    matCheck unit (s.core n).relSeq w x.dom n (matCapReg m).toNat = none →
    ∀ i, opOf i = some (c, .mat m) → OpGives s i id fun u =>
      let k := u.core n
      let tracked : List RangeEntry := match w with
        | .mseqRun false cap _ =>
          let g : Seg := { module := if cap.module = s.module then 0xFFFF else cap.module, base := cap.base, limit := cap.limit }
          [{ thread := c.thread, seq := k.relSeq, ch := none, src := some g, dst := some g }]
        | _ => []
      u.setCore n { k with relSeq := k.relSeq + 1, ranges := k.ranges ++ tracked, mat := { k.mat with queue := k.mat.queue ++
        [{ seq := k.relSeq, thread := c.thread, epoch := t.epoch, pc := t.pc, seed := t.seed, rmode := t.rmode, accr := bitOf t.faultEn 4
           after := (k.thread c.thread.val).storeSeq, work := w, reg := matCapReg m, fromSeq := false, step := 0 }] } }

/-- FINC, FINC_I, FINC_R and SEND complete by entering the SYN queue with the increment (FINC_I of 0 adds 32) or the message words; FREAD
with the fret's value in gd; RETD goes to DRET; ISTORE writes its word to the core's own instruction memory and nothing else of it, and
discards every thread's fetch buffer. FINC, FINC_I and FREAD of a fret at or above 48 fault BAD_FRET, RETD to a misaligned DRET faults ALIGN
(R69, R70, R97, R101, R250, R256, R261). -/
def Obligations.SynOpsAct : Prop :=
  ∀ (s : State) (c : OpAt) (f : BitVec 6) (cap : SReg) (ga gb gd : GReg) (imm : BitVec 5) (cnt : BitVec 3) (tag : BitVec 4),
    let n := c.node.val
    let t := opThread s c
    let x := opCtx s c (.finc f ga)
    let k := t.getS cap
    let off := (t.getG ga).toNat
    let m := x.norm k.module
    let releases (i : Instr) (w : SynWork) : Prop := OpGives s i id (pushSyn n c.thread false t.epoch t.pc w)
    (f < 48 → releases (.finc c f ga) (.finc f (t.getG ga)) ∧ releases (.fincI c f imm) (.finc f (if imm = 0 then 32 else imm.zeroExtend 32))
      ∧ OpGives s (.fread c f gd) (·.setG gd (mapGet 0 (s.core n).syn.frets f.toNat)) id)
    ∧ (48 ≤ f → OpTraps s (.finc c f ga) ⟨0x0E, f.zeroExtend 32⟩ ∧ OpTraps s (.fincI c f imm) ⟨0x0E, f.zeroExtend 32⟩
      ∧ OpTraps s (.fread c f gd) ⟨0x0E, f.zeroExtend 32⟩)
    ∧ (checkAccess k x.dom cap.toNat 6 [pW] none off 4 4 = none →
      releases (.fincR c cap ga gb) (.fincR m k.region (k.addrAt off) (t.getG gb)))
    ∧ (checkAccess k x.dom cap.toNat 6 [pW] none 0 16 16 = none → cnt ≠ 0 → cnt ≤ 4 → ∀ o ch, channelOf k.base = some (o, ch) →
      ch ≠ 15 ∨ 9 < tag → releases (.send c cap ga cnt tag)
        (.send m k.region k.base ((List.range cnt.toNat).map fun i => t.getG (ga + BitVec.ofNat 5 i)) tag))
    ∧ (t.dret.toNat % 4 = 0 → OpGives s (.retd c) (fun u => { u with pc := t.dret }) id)
    ∧ (t.dret.toNat % 4 ≠ 0 → OpTraps s (.retd c) ⟨0x06, 0x60⟩)
    ∧ (m = 0xFFFF → ∀ p, ownImem n (k.addrAt off) = some p → checkAccess k x.dom cap.toNat 6 [pW] none off 4 4 = none →
      OpGives s (.istore c cap ga gb) id (fun u => u.modCore n fun k => k.istore p (leBytes 4 (t.getG gb).toNat))
      ∧ ∀ k : Core, let k' := k.istore p (leBytes 4 (t.getG gb).toNat)
        k'.mem = k.mem.writeImem p (leBytes 4 (t.getG gb).toNat) ∧ ∀ j : ThreadNo, (k'.thread j.val).fbuf = []
          ∧ { k'.thread j.val with fbuf := (k.thread j.val).fbuf, stale := (k.thread j.val).stale } = k.thread j.val)

/-- FWAIT, WAITD and IFENCE complete. FWAIT of a fret that has reached its target, (int32)(fret − target) ≥ 0, completes with pd true; else
an extension of 0 completes it with pd false, and otherwise its thread waits at it, from the timestamp at its release, or parks where a
debug stop is pending. WAITD of channels bound to its thread takes the oldest message of its mask: the words in g24 to g27, channel, tag and
count in g28, pd true, DRET at the waitd, the program counter at the channel's handler; without one it tests or waits in the same way.
IFENCE discards the thread's fetch buffer and writes nothing: the blocks that the thread fetches from then on are those that instruction
memory holds, where before each could be an older one that a DMA write had changed. FWAIT of a fret at or above 48 faults BAD_FRET (R72,
R98, R99, R100, R251, R271, R413). -/
def Obligations.WaitsTestOrBlock : Prop :=
  (∀ (s : State) (c : OpAt) (f : BitVec 6) (ga : GReg) (pd : PReg),
     let n := c.node.val
     let k := c.thread.val
     let t := opThread s c
     let target := t.getG ga
     let mask : BitVec 16 := target.truncate 16
     let put (v : Bool) (u : State) : State := u.modThread n k (·.setP pd v)
     let waits (kind : WaitKind) (v : Thread) : Thread := { v with
       st := .waiting, pc := t.pc, wait := some { kind := kind, start := s.mc / 16, limit := c.ext.map (·.toNat), pd := pd, next := v.pc } }
     let blocks (i : Instr) (kind : WaitKind) : Prop :=
       (bitOf (s.core n).ctl.dbgPend k = false → SafepointGives s i id (·.modThread n k (waits kind)))
       ∧ (bitOf (s.core n).ctl.dbgPend k = true → SafepointGives s i id fun u => parkDebug n k (u.modThread n k (waits kind)))
     let now := 0 ≤ (mapGet 0 (s.core n).syn.frets f.toNat - target).toInt
     let bound := ∀ i < 16, mask.getLsbD i = true → (s.core n).boundTo i = k
     (f < 48 → (now → SafepointGives s (.fwait c f ga pd) id (put true))
       ∧ (¬now → c.ext = some 0 → SafepointGives s (.fwait c f ga pd) id (put false))
       ∧ (¬now → c.ext ≠ some 0 → blocks (.fwait c f ga pd) (.fret f target)))
     ∧ (48 ≤ f → OpTraps s (.fwait c f ga pd) ⟨0x0E, f.zeroExtend 32⟩)
     ∧ (bound → mask ≠ 0 ∨ c.ext ≠ none →
       (∀ j m, findWith (fun m => mask.getLsbD m.chan.toNat) (s.core n).syn.msgs = some (j, m) →
         SafepointGives s (.waitd c ga pd) id (dispatchMsg n c.thread t.pc pd j m))
       ∧ ((∀ m ∈ (s.core n).syn.msgs, mask.getLsbD m.chan.toNat = false) →
         (c.ext = some 0 → SafepointGives s (.waitd c ga pd) id (put false))
         ∧ (c.ext ≠ some 0 → blocks (.waitd c ga pd) (.msg mask))))
     ∧ SafepointGives s (.ifence c) id (fun u => u.modThread n k fun v => { v with fbuf := [], stale := [] }))
  ∧ ∀ (s : State) (n : Nat) (k : ThreadNo) (b : Nat),
      let t := s.thread n k.val
      ∃ bs, ((fetchBlock n k b s).thread n k.val).fbuf = t.buffered ++ [(b, bs)]
        ∧ (bs = (s.core n).mem.imemBlock b ∨ (b, bs) ∈ t.stale)

/-- RDB whose access passes its checks sends its request under a free TAG and its thread waits at it, from the timestamp at its release;
under an extension of 0 the request asks for one test and the wait has no timeout. A refusal met at once completes it with pd false and is
recorded; where a debug stop is pending its thread parks at it instead (R98, R271, R273, R413; the single test's request, log 17). -/
def Obligations.RdbRequestsAndWaits : Prop :=
  ∀ (s : State) (c : OpAt) (gd : GReg) (cap : SReg) (ga : GReg) (pd : PReg),
    let n := c.node.val
    let t := opThread s c
    let x := opCtx s c (.rdb gd cap ga pd)
    let k := t.getS cap
    let a := k.addrAt (t.getG ga).toNat
    let m := x.norm k.module
    checkAccess k x.dom cap.toNat 6 [pR] none (t.getG ga).toNat 4 4 = none →
    (∀ r, s.destOf n m k.region a = .error r →
      SafepointGives s (.rdb c gd cap ga pd) id fun u => noteRefusal n c.thread.val r t.pc (u.modThread n c.thread.val (·.setP pd false)))
    ∧ ∀ dst, s.destOf n m k.region a = .ok dst →
      (bitOf (s.core n).ctl.dbgPend c.thread.val = true → SafepointGives s (.rdb c gd cap ga pd) id fun u =>
        parkDebug n c.thread.val (u.modThread n c.thread.val fun v => { v with pc := t.pc }))
      ∧ ∀ tag, (s.core n).freeTag = some tag → bitOf (s.core n).ctl.dbgPend c.thread.val = false →
        let sends (limit : Option Nat) (payload : List Byte) : Prop := SafepointGives s (.rdb c gd cap ga pd) id fun u =>
          let waiting (v : Thread) : Thread :=
            let wait : Wait := { kind := .rdb gd (some tag) m k.region a, start := s.mc / 16, limit := limit, pd := pd, next := v.pc }
            { v with st := .waiting, pc := t.pc, wait := some wait }
          ((u.modThread n c.thread.val waiting).modCore n fun q => { q with reqs := q.reqs ++ [(tag, .rdb c.thread t.pc)] }).send
            (reqPacket n dst k.region a kRdb clsReq tag payload)
        (c.ext = some 0 → sends none onceMark) ∧ (c.ext ≠ some 0 → sends (c.ext.map (·.toNat)) [])

/-- DMA_START, DMA_START_NT, DMA_WR and DMA_RD complete by entering the DMA queue: a start with the thread's sixteen capabilities and the
64-byte descriptor as the thread's buffered stores will leave it, and, if tracked, a range-table entry over the segments of its SCAP
and DCAP; DMA_RD makes its register unavailable until it is written (R63, R228, R229, R230, R233, R246). -/
def Obligations.DmaOpsEnterTheQueue : Prop :=
  ∀ (s : State) (c : OpAt) (ch : BitVec 3) (cap : SReg) (ga reg g : GReg),
    let n := c.node.val
    let t := opThread s c
    let x := opCtx s c (.dmaWr reg g)
    let k := t.getS cap
    let off := (t.getG ga).toNat
    let queued (u : State) (w : DmaWork) (ranges : List RangeEntry) : State :=
      let q := u.core n
      u.setCore n { q with relSeq := q.relSeq + 1, ranges := q.ranges ++ ranges, dma := { q.dma with queue := q.dma.queue ++
        [{ seq := q.relSeq, thread := c.thread, epoch := t.epoch, pc := t.pc, after := (q.thread c.thread.val).storeSeq, work := w }] } }
    let caps : List Cap := (List.range 16).map fun i => t.getS (BitVec.ofNat 4 i)
    let seg (i : Nat) : Option Seg :=
      let e := caps.getD i {}
      some { module := if e.module = s.module then 0xFFFF else e.module, base := e.base, limit := e.limit }
    let ok := checkAccess k x.dom cap.toNat 6 [pR] none off 64 64 = none ∧ x.norm k.module = 0xFFFF
      ∧ (ownScratch n (k.addrAt off) 64).isSome = true
    let d := readDesc (drained s n c.thread.val) (scratchOff n k off)
    let named (f : Word → Nat) : Option Seg := match d with
      | .data bs => seg (f (wordAt bs 0))
      | _ => none
    (ok → OpGives s (.dmaStart c ch cap ga) id (fun u => queued u (.start false ch k (t.getG ga) caps (some d))
        [{ thread := c.thread, seq := (u.core n).relSeq, ch := some ch, src := named fun w => (w &&& 15).toNat
           dst := named fun w => ((w >>> 4) &&& 15).toNat }])
      ∧ OpGives s (.dmaStartNt c ch cap ga) id (fun u => queued u (.start true ch k (t.getG ga) caps (some d)) []))
    ∧ OpGives s (.dmaWr c reg g) id (fun u => queued u (.wr reg (t.getG g)) [])
    ∧ (g ≠ 0 → OpGives s (.dmaRd c g reg) (fun u => { u with rdPending := u.rdPending ++ [g] }) fun u => queued u (.rd g reg) [])
    ∧ (g = 0 → OpGives s (.dmaRd c g reg) id fun u => queued u (.rd g reg) [])

/-! ## Events of a core -/

/-- RSP_ARRIVE takes the oldest answer at the node and frees its TAG: a withdrawn load keeps the answer, and an rdb ends with the word and
pd true, or, refused, with pd false and the refusal recorded; one whose timeout has expired discards the answer. LOAD_DATA_RETURN lets the bundle of an answered load issue again, and
installs a filled line, with the stores of the core that met it in flight, unless an acquire met the fill; an atomic that returns drops
its own line (R50, R205, R210, R212, R214, R222, R272, R273; the answer to a single test that failed, log 17). -/
def Obligations.AnswersReachTheirRequests : Prop :=
  ∀ (s : State) (node : NodeNo) (k : ThreadNo), isCore node.val = true →
    let n := node.val
    (∀ p rest kind, (s.node n).rx = p :: rest → (p.h.kind = kData ∨ p.h.kind = kRspErr) → assocGet p.h.tag (s.core n).reqs = some kind →
      let u := (s.modNode n fun x => { x with rx := rest }).modCore n fun c => { c with reqs := assocDel p.h.tag c.reqs }
      (kind = .load k → ∀ w, (s.thread n k.val).load = some w → w.tag = some p.h.tag → w.resp = none →
        exec (.rspArrive node) s = .next (settle n (u.modThread n k.val fun t => { t with load := some { w with resp := some (respOf p) } })))
      ∧ (∀ pc w gd m r a, kind = .rdb k pc → (s.thread n k.val).wait = some w → w.kind = .rdb gd (some p.h.tag) m r a →
        let fails (v : State) : Prop := exec (.rspArrive node) s = .next (settle n (v.modThread n k.val
          fun t => { t.setP w.pd false with st := .running, wait := none, pc := w.next }))
        let late := ∃ l, w.limit = some l ∧ 16 * (w.start + l + 1) ≤ s.mc
        (p.h.kind = kData → ¬late → exec (.rspArrive node) s = .next (settle n ((u.modThread n k.val (·.setG gd (wordAt p.data 0))).modThread n k.val
          fun t => { t.setP w.pd true with st := .running, wait := none, pc := w.next })))
        ∧ (p.h.kind = kRspErr → ¬late → kindOf p ≠ 7 → kindOf p ≠ 0 → fails (noteRefusal n k.val (kindOf p) pc u))
        ∧ (p.h.kind = kRspErr → ¬late → kindOf p = 7 ∨ kindOf p = 0 → fails u)
        ∧ (late → exec (.rspArrive node) s = .next (settle n (u.modThread n k.val
          fun t => { t with wait := some { w with kind := .rdb gd none m r a } })))))
    ∧ ∀ w bs, (s.thread n k.val).load = some w → w.resp = some (.data bs) → w.ready = false →
      let put (d : List Byte) : State := s.modThread n k.val fun t => { t with load := some { w with ready := true, resp := some (.data d) } }
      let line := mergeStores w.addr w.merge bs
      (w.fill = true → w.dropFill = false → exec (.loadDataReturn node k) s =
        .next (settle n ((put line).modCore n fun c => c.modMem (·.install w.addr line))))
      ∧ (w.fill = true → w.dropFill = true → exec (.loadDataReturn node k) s = .next (settle n (put line)))
      ∧ (w.fill = false → w.amo = true → w.module = 0xFFFF → exec (.loadDataReturn node k) s =
        .next (settle n (acquire (fun l => decide (l = lineAddr w.addr)) n (put bs))))
      ∧ (w.fill = false → w.amo = false ∨ w.module ≠ 0xFFFF → exec (.loadDataReturn node k) s = .next (settle n (put bs)))

/-- STORE_DRAIN of a core whose only buffered stores are one thread's: the oldest leaves the buffer, into the core's own scratchpad at once,
or as a write request under a free TAG that stays unacknowledged and updates the line that the cache holds or a fill brings; a handler
record that waited for room takes its place. ACK_ARRIVE frees the TAG and acknowledges the store; NACK_ARRIVE also records the refusal (R61,
R62, R124, R205, R212, R217, R222). -/
def Obligations.StoresDrainAndAreAcknowledged : Prop :=
  ∀ (s : State) (node : NodeNo) (k : ThreadNo), isCore node.val = true →
    let n := node.val
    (∀ e rest, (s.thread n k.val).sb = e :: rest → (∀ j : ThreadNo, j ≠ k → (s.thread n j.val).sb = []) →
      let u := (s.modThread n k.val fun t => { t with sb := rest ++ t.entryWrite.toList, entryWrite := none }).modCore n fun c =>
        { c with drainRr := k + 1 }
      (∀ off, e.module = 0xFFFF → ownScratch n e.addr e.data.length = some off → e.capTag = none →
        exec (.storeDrain node) s = .next (settle n (u.modCore n fun c => c.modMem (·.writeScratch off e.data))))
      ∧ (∀ off tag, e.module = 0xFFFF → ownScratch n e.addr e.data.length = some off → e.capTag = some tag → exec (.storeDrain node) s =
        .next (settle n (u.modCore n fun c => c.modMem (·.writeCap off { bits := leBits 128 e.data, tag := tag }))))
      ∧ (∀ dst tag, e.module ≠ 0xFFFF ∨ ownScratch n e.addr e.data.length = none → s.destOf n e.module e.region e.addr = .ok dst →
        (s.core n).freeTag = some tag →
        exec (.storeDrain node) s = .next (settle n
          (((u.modCore n fun c =>
              let sent : Core := { c with reqs := c.reqs ++ [(tag, .store k e.pc)] }
              if cacheable e.module e.addr then
                (List.range 4).foldl (fun c j => c.modThread j (·.mergeFill e.addr e.data)) (sent.modMem (·.updateLine e.addr e.data))
              else sent).modThread n k.val
            fun t => { t with unacked := t.unacked ++
              [{ addr := e.addr, data := e.data, module := e.module, tag := tag, seq := e.seq }] }).send
            (reqPacket n dst e.region e.addr kWrite clsReq tag e.data)))))
    ∧ ∀ p rest pc, (s.node n).ctrl = p :: rest → assocGet p.h.tag (s.core n).reqs = some (.store k pc) →
      let u := ((s.modNode n fun x => { x with ctrl := rest }).modCore n fun c => { c with reqs := assocDel p.h.tag c.reqs }).modThread n k.val
        fun t => { t with unacked := removeFirst (fun a => decide (a.tag = p.h.tag)) t.unacked }
      (p.h.kind = kAck → exec (.ackArrive node) s = .next (settle n u))
      ∧ (p.h.kind = kNack → exec (.nackArrive node) s = .next (settle n (noteRefusal n k.val (kindOf p) pc u)))

/-- WAIT_TIMEOUT ends a WAITING thread's wait with pd false once the tick is over in which the timestamp has advanced by its limit, and does
nothing before; an rdb whose request has left sends its CANCEL; an event after that comes too late. FRET_INCREMENT_APPLY adds the oldest increment of the core and the oldest of
the network port, modulo 2^32, then wakes the threads whose fret has reached its target. FINC_ARRIVE of the core's own region queues its
increment and acknowledges it, and one of another region is refused with kind WINDOW, or UNMAPPED where no region owns the course, and
counted (R98, R204, R253, R256, R272, R273, R300). -/
def Obligations.FretsCountAndWaitsEnd : Prop :=
  ∀ (s : State) (node : NodeNo) (k : ThreadNo), isCore node.val = true →
    let n := node.val
    let t := s.thread n k.val
    (∀ w l, t.st = .waiting → t.wait = some w → w.limit = some l →
      (s.mc < 16 * (w.start + l + 1) → exec (.waitTimeout node k) s = .next (settle n s))
      ∧ (16 * (w.start + l + 1) ≤ s.mc → exec (.waitTimeout node k) s = .next (settle n
        ((cancelRdb n k w s).modThread n k.val fun t => { t.setP w.pd false with st := .running, wait := none, pc := w.next })))
      ∧ (16 * (w.start + l + 1) ≤ s.mc → wakeFret n k s = s ∧ wakeMsg n k s = s)
      ∧ ((∀ gd tag m r a, w.kind ≠ .rdb gd tag m r a) → cancelRdb n k w s = s)
      ∧ ∀ gd tag m r a dst, w.kind = .rdb gd (some tag) m r a → s.destOf n m r a = .ok dst →
        cancelRdb n k w s = s.send (reqPacket n dst r a kCancel clsCtrl tag []))
    ∧ (∀ w f g, t.st = .waiting → t.wait = some w → w.kind = .fret f g → (∀ l, w.limit = some l → s.mc < 16 * (w.start + l + 1)) →
      (reached ((s.core n).fret f.toNat) g = true → wakeFret n k s =
        s.modThread n k.val fun t => { t.setP w.pd true with st := .running, wait := none, pc := w.next })
      ∧ (reached ((s.core n).fret f.toNat) g = false → wakeFret n k s = s))
    ∧ (let y := (s.core n).syn
      let own := y.incOwn.head?
      let net := y.incNet.head?
      let add (m : Map Word) (i : Option FretInc) : Map Word := match i with
        | some i => mapSet 0 m i.f.toNat (mapGet 0 m i.f.toNat + i.v)
        | none => m
      exec (.fretIncrementApply node) s = .next (settle n (wakeAllFret n (s.modCore n fun c => { c with syn := { c.syn with
        frets := add (add y.frets own) net, incOwn := y.incOwn.tail, incNet := y.incNet.tail } }))))
    ∧ ∀ p rest, (s.node n).ctrl = p :: rest → p.h.kind = kFinc → (s.core n).lost = none → s.exposed n = true →
      let u := s.modNode n fun x => { x with ctrl := rest }
      let here := (s.course (courseOf n)).valid = true ∧ p.h.region = (s.regionOf n).zeroExtend 6
      (∀ f, here → fretOf p.h.addr = some (n, f) → exec (.fincArrive node) s = .next
        ((u.modCore n fun c => { c with syn := { c.syn with incNet := c.syn.incNet ++ [{ f := BitVec.ofNat 6 f, v := wordAt p.data 0 }] } }).send
          (ackOf n p)))
      ∧ (¬here → exec (.fincArrive node) s = .next
        ((u.modCore n fun c => { c with ctl := { c.ctl with winRefused := c.ctl.winRefused + 1 } }).send
          (nackOf n p (if (s.course (courseOf n)).valid = true ∨ p.h.region = 0x3F then 1 else 2))))

/-- MSG_ARRIVE of an admitted message that finds room queues it on its channel, wakes the threads that wait for it and acknowledges it; without
room it refuses it FULL and counts it; a HALTED core acknowledges and discards it. MSG_RETRY makes the oldest refused message whose
delay has passed wait to be sent again (R76, R263, R264, R265). -/
def Obligations.MessagesQueueOrAreRefused : Prop :=
  ∀ (s : State) (node : NodeNo), isCore node.val = true →
    let n := node.val
    (∀ p rest ch, (s.node n).ctrl = p :: rest → p.h.kind = kMsg → msgRefusal s n p = none → channelOf p.h.addr = some (n, ch) →
      isThreadCtl p = false →
      let u := s.modNode n fun x => { x with ctrl := rest }
      let m : Msg := { chan := BitVec.ofNat 4 ch, words := msgWords p, tag := msgTag p }
      ((s.core n).ctl.halted = true → exec (.msgArrive node) s = .next (settle n (u.send (ackOf n p))))
      ∧ ((s.core n).ctl.halted = false → (s.core n).msgRoom ch = true → exec (.msgArrive node) s = .next (settle n
        ((wakeAllMsg n (u.modCore n fun c => { c with syn := { c.syn with msgs := c.syn.msgs ++ [m] } })).send (ackOf n p))))
      ∧ ((s.core n).ctl.halted = false → (s.core n).msgRoom ch = false → exec (.msgArrive node) s = .next (settle n
        ((u.modCore n fun c => { c with ctl := { c.ctl with chFull := c.ctl.chFull + 1 } }).send (nackOf n p 5)))))
    ∧ ∀ pre e post, (s.core n).syn.queue = pre ++ e :: post → (∀ x ∈ pre, x.stage ≠ .backoff ∨ s.mc < x.due) → e.stage = .backoff →
      e.due ≤ s.mc → exec (.msgRetry node) s = .next (settle n (s.modCore n fun c =>
        { c with syn := { c.syn with queue := pre ++ { e with stage := .queued } :: post } }))

/-- THREAD_CTL of its own region is acknowledged, and answered on channel 15 of the core that sent it with status 0 where its op was
carried out: START of an IDLE thread runs it at word 1 with TH 1, GDEPTH and SEED 0 (and no conversion counted, log 43), lets the
coprocessor ops that a discarded fault held start again, and ends a halt; RESUME of a PARKED_FAULT thread
runs it at word 1, or at its parked bundle where word 1 is all ones. FAULT_RECORD_SEND moves the oldest record of the lowest thread that
has one to the core's own channel 15 where another thread supervises and can take it (R55, R76, R128, R129, R130, R131, R153). -/
def Obligations.ThreadsAreControlled : Prop :=
  ∀ (s : State) (node : NodeNo), isCore node.val = true →
    let n := node.val
    (∀ p rest w0 w1, (s.node n).ctrl = p :: rest → p.h.kind = kMsg → msgRefusal s n p = none → isThreadCtl p = true →
      msgWords p = [w0, w1] → w0 < 0x40 → isCore p.h.snode.toNat = true →
      let k : ThreadNo := (w0.extractLsb' 4 2).toFin
      let u := s.modNode n fun x => { x with ctrl := rest }
      let answers (v : State) : Prop := exec (.threadCtl node) s = .next (settle n
        (pushSyn n (s.core n).ctl.supv true 0 0 (.send 0xFFFF p.h.region (chan15 p.h.snode.toNat) [w0, 0] 9) (v.send (ackOf n p))))
      (w0 &&& 15 = 1 → w1.toNat % 4 = 0 → w1 < 0x20000 → (s.thread n k.val).st = .idle → answers
        ((u.modThread n k.val fun t =>
            { t with pc := w1, th := true, gdepth := 0, seed := 0, vcvts := 0, st := .running, ran := true, fbuf := [] }).modCore n fun c =>
          { c with ctl := { c.ctl with halted := false }, afterDrop := c.afterDrop.filter fun e => decide (e.2 ≠ k) }))
      ∧ (w0 &&& 15 = 2 → w1 = 0xFFFFFFFF ∨ w1.toNat % 4 = 0 ∧ w1 < 0x20000 → (s.thread n k.val).st = .parkedFault → answers
        (u.modThread n k.val fun t => { t with pc := if w1 = 0xFFFFFFFF then t.parkedPc else w1, st := .running, fbuf := [] })))
    ∧ ∀ (k : ThreadNo) r rest, (s.thread n k.val).records = r :: rest → (∀ j : ThreadNo, j < k → (s.thread n j.val).records = []) →
      (s.core n).ctl.supv ≠ k → (s.core n).supvThread.st = .running → (s.core n).ctl.halted = false →
      ((s.core n).syn.msgs.filter fun m => decide (m.chan = 15)).length < 8 →
      exec (.faultRecordSend node) s = .next (settle n ((wakeAllMsg n (s.modCore n fun c => { c with syn := { c.syn with
        msgs := c.syn.msgs ++ [{ chan := 15, words := [r.w0, r.w1, r.w2, r.w3], tag := r.tag }] } })).modThread n k.val
          fun t => { t with records := rest }))

/-- BUNDLE_ISSUE lets fetch run ahead, which fills the threads' fetch buffers and changes nothing else of the core; with no thread ready
then it does no more, with threads ready it issues the bundle at the program counter of one that is ready, whole in its fetch buffer: one in
escalation if any is, else one that has waited longest, the lowest-numbered of those. CORE_HALT written 1 by Pegbox makes every thread IDLE,
drops the deferred faults and the queued messages and sets HALTED; written by any other accessor it changes no thread and sets LOCK_VIOL
(R44, R45, R46, R76; how far fetch has come, log 2). -/
def Obligations.BundlesIssueAndCoresHalt : Prop :=
  ∀ (s : State) (node : NodeNo), isCore node.val = true →
    let n := node.val
    let v := fetchAhead n 8 s
    let waited (k : ThreadNo) : Nat := mapGet 0 (s.core n).waits k.val
    ({ v.core n with threads := (s.core n).threads } = s.core n ∧ ∀ k : ThreadNo, { v.thread n k.val with fbuf := (s.thread n k.val).fbuf } =
      s.thread n k.val)
    ∧ ((∀ k : ThreadNo, threadReady v n k = false) → exec (.bundleIssue node) s = .next v)
    ∧ (∀ k : ThreadNo, threadReady v n k = true → (v.thread n k.val).holdsBundle (nextBundle v n k.val).1 = true
      ∧ bundleReady v n k (nextBundle v n k.val).1 = true ∧ ∃ j : ThreadNo, threadReady v n j = true
      ∧ exec (.bundleIssue node) s = .next (settle n (issueThread v n j)) ∧ ((s.thread n k.val).esc = true → (s.thread n j.val).esc = true)
      ∧ ((∀ i : ThreadNo, threadReady v n i = true → (s.thread n i.val).esc = false) → waited k ≤ waited j ∧ (waited k = waited j → j ≤ k)))
    ∧ (∀ i v, v.getLsbD 0 = true → ∃ u, exec (.coreHalt (.pb i) node v) s = .next u ∧ (∀ k : ThreadNo, (u.thread n k.val).st = .idle)
      ∧ (u.core n).deferred = [] ∧ (u.core n).syn.msgs = [] ∧ (u.core n).ctl.halted = true)
    ∧ ∀ who v, isPb who = false → ∃ u, exec (.coreHalt who node v) s = .next u ∧ (u.core n).ctl.lockViol = true
      ∧ ∀ k : ThreadNo, (u.thread n k.val).st = (s.thread n k.val).st

/-! ## The matrix unit -/

/-- MAT_OP_START of the oldest waiting op, where it may start (R169, R171) and meets no fault, takes the op's engine and leaves the queue;
where it meets a fault, the op is gone and the fault is held against its thread with the top bit of its detail set, or discarded where the
thread has ended or the core is halted (log 42). MAT_OP_COMPLETE of a busy engine frees it and applies its op: TREL and TCFG leave the tile
out of use, TCFG with its new configuration, TLD fills the tile with the rows it read, TST writes the tile's rows to the core's own
scratchpad; of a free engine it does nothing (R54, R159, R162, R169, R171). -/
def Obligations.MatrixOpsStartAndComplete : Prop :=
  ∀ (s : State) (node : NodeNo) (e : Engine) (j : MatJob), isCore node.val = true →
    let n := node.val
    let k := s.core n
    (∀ rest, k.mat.waiting = j :: rest → mayStart k n [] j = true → engineOf j.work = some e →
      (startFault s n j = none → exec (.matOpStart node) s = .next (settle n (s.modCore n fun c => { c with mat := { dropJob j c.mat with
        active := c.mat.active ++ [(e, j)] } })))
      ∧ ∀ f, startFault s n j = some f → ∃ u, exec (.matOpStart node) s = .next u ∧ (∀ x ∈ (u.core n).mat.waiting, x.seq ≠ j.seq)
        ∧ let ended := (s.thread n j.thread.val).st = .idle ∨ (s.thread n j.thread.val).st = .dead
          (k.ctl.halted = false → ¬ended →
            { cop := .mat, thread := j.thread, code := f.code, detail := f.detail ||| 0x80000000, pc := j.pc } ∈ (u.core n).deferred)
          ∧ (k.ctl.halted = false → ended → (u.core n).deferred = k.deferred ∧ (u.core n).holds .mat j.thread = true)
          ∧ (k.ctl.halted = true → (u.core n).deferred = k.deferred))
    ∧ ((∀ a ∈ k.mat.active, a.1 ≠ e) → exec (.matOpComplete node e) s = .next (settle n s))
    ∧ ∀ rest, k.mat.active = (e, j) :: rest → ∃ u, exec (.matOpComplete node e) s = .next u ∧
      let m := (u.core n).mat
      m.active = rest ∧ m.queue = k.mat.queue ∧ match j.work with
        | .trel t => m.used t.toNat = false ∧ m.tiles = k.mat.tiles
        | .tcfg t w => m.used t.toNat = false ∧ m.cfg t.toNat = tileCfgOf w
        | .tld t cap _ _ false => m.used t.toNat = true ∧ m.tiles = k.mat.tiles ∧ mapGet [] m.tileData t.toNat =
          writeBytes [] 0 ((matRows k.mat j.work).flatMap fun r => k.mem.readScratch (scratchOff n cap r.1) r.2)
        | .tst t cap off stride => m.tileData = k.mat.tileData ∧
          let c := k.mat.cfg t.toNat
          (u.core n).mem = rowsWrite n cap ((List.range c.nrows).map fun i =>
            (off.toNat + i * stride.toNat, ((k.mat.tileBytes t.toNat).drop (i * c.rowBytes)).take c.rowBytes)) k.mem
        | .accCfg a w => m.desc a.toNat = accDescOf w
        | _ => True

/-- SEQ_TABLE_START of the MSEQ_RUN at the head of the queue, where the table may start and is well formed, makes it the running table with its
eight address registers and its steps. SEQ_STEP on it generates the step's op behind every op released before, counts a LOOP down and
goes back to its target or falls through, or lets a FINC wait. SEQ_FINC applies the oldest waiting FINC once every op generated before it
has completed; SEQ_FWAIT_PASS goes past a wait whose fret has reached its address register (R187, R188, R189, R190). -/
def Obligations.SequencerTablesRun : Prop :=
  ∀ (s : State) (node : NodeNo), isCore node.val = true →
    let n := node.val
    let k := s.core n
    let put (r : SeqRun) (u : State) : State := u.modCore n fun c => { c with mat := { c.mat with seq := some r } }
    (∀ j rest nt cap off, k.mat.queue = j :: rest → j.work = .mseqRun nt cap off → k.holds .mat j.thread = false →
      let lo := scratchOff n cap off.toNat
      let ns := (wordAt (k.mem.readScratch lo 64) 8).toNat % 128
      let bs := k.mem.readScratch lo (64 + 16 * ns)
      tableMayStart k n j nt (segOf s cap) lo = true → tableFault s n j cap off.toNat = none →
      ∃ u r, exec (.seqTableStart node) s = .next u ∧ (u.core n).mat.seq = some r ∧ r.job = j ∧ r.step = 0 ∧ r.fincs = [] ∧ r.finished = false
        ∧ r.steps.length = ns ∧ (∀ i < 8, mapGet 0 r.a i = wordAt bs i)
        ∧ (∀ i < ns, r.steps[i]? = some ⟨wordAt bs (16 + 4 * i), wordAt bs (17 + 4 * i), wordAt bs (18 + 4 * i), wordAt bs (19 + 4 * i)⟩)
        ∧ ∀ x ∈ (u.core n).mat.queue, x.seq ≠ j.seq)
    ∧ (∀ r st, k.mat.seq = some r → r.finished = false → r.steps[r.step]? = some st →
      let op := (st.w0 &&& 15).toNat
      let areg := ((st.w0 >>> 4) &&& 7).toNat
      let breg := ((st.w0 >>> 8) &&& 7).toNat
      let count := if st.w1 >>> 8 = 0 then 2 ^ 24 else (st.w1 >>> 8).toNat
      let left := (if mapGet 0 r.loops r.step = 0 then count else mapGet 0 r.loops r.step) - 1
      let counted : SeqRun := { r with loops := mapSet 0 r.loops r.step left }
      let fret := st.w1 &&& 63
      (op = 9 → left ≠ 0 → exec (.seqStep node) s = .next (put { counted with step := (st.w1 &&& 63).toNat } s))
      ∧ (op = 9 → left = 0 → exec (.seqStep node) s = .next (put { (counted.addA areg st.w2).addA breg st.w3 with step := r.step + 1 } s))
      ∧ (op = 7 → fret < 48 → exec (.seqStep node) s =
        .next (put { r with step := r.step + 1, fincs := r.fincs ++ [(k.relSeq, fret.truncate 6, (st.w1 >>> 8) &&& 0xFF)] } s))
      ∧ (∀ w, op ≠ 7 → op ≠ 8 → op ≠ 9 → stepWork r st (firstIteration r) = some w → genFault s n r.job w = none →
        ∃ u q, exec (.seqStep node) s = .next u ∧ (u.core n).mat.seq = some q ∧ q.step = r.step + 1 ∧ (u.core n).relSeq = k.relSeq + 1
          ∧ (u.core n).mat.seqOps = k.mat.seqOps ++ [{ r.job with seq := k.relSeq, work := w, fromSeq := true, step := r.step }]
          ∧ ∀ i, mapGet 0 q.a i = if i = areg ∧ (op = 1 ∨ op = 2 ∨ op = 5) then mapGet 0 r.a i + st.w2 else mapGet 0 r.a i)
      ∧ (op = 8 → fret < 48 → 0 ≤ (mapGet 0 k.syn.frets fret.toNat - mapGet 0 r.a areg).toInt →
        exec (.seqFwaitPass node) s = .next (put { r.addA areg st.w2 with step := r.step + 1 } s)))
    ∧ ∀ r q f v rest, k.mat.seq = some r → r.fincs = (q, f, v) :: rest → (∀ x ∈ generated k.mat, q ≤ x.seq) →
      exec (.seqFinc node) s = .next ((put { r with fincs := rest } s).modCore n fun c =>
        { c with syn := { c.syn with incOwn := c.syn.incOwn ++ [{ f := f, v := v }] } })

/-- SEQ_TABLE_END of a running table that generates no more, once its ops have completed and its FINCs have taken effect, frees the sequencer and
drops its range-table entry; before that it does nothing to them. MSEQ_ABORT makes a running table generate no more and records the step;
with none running it changes no core (R66, R190, R193). -/
def Obligations.SequencerTablesEnd : Prop :=
  ∀ (s : State) (node : NodeNo), isCore node.val = true →
    let n := node.val
    let k := s.core n
    (∀ r, k.mat.seq = some r → r.finished = true ∨ r.steps.length ≤ r.step → r.fincs = [] → generated k.mat = [] →
      ∃ u, exec (.seqTableEnd node) s = .next u ∧ (u.core n).mat.seq = none
        ∧ (u.core n).ranges = k.ranges.filter (fun e => !decide (e.ch = none ∧ e.seq = r.job.seq))
        ∧ (u.core n).mat.seqStep = if r.finished = true then k.mat.seqStep else BitVec.ofNat 6 (r.steps.length - 1))
    ∧ (∀ r, k.mat.seq = some r → (r.finished = false ∧ r.step < r.steps.length) ∨ r.fincs ≠ [] ∨ generated k.mat ≠ [] →
      exec (.seqTableEnd node) s = .next (settle n s))
    ∧ (∀ r, k.mat.seq = some r → r.finished = false → r.step < r.steps.length → ∃ u, exec (.mseqAbort node) s = .next u
      ∧ (u.core n).mat.seq = some { r with finished := true } ∧ (u.core n).mat.seqAborted = true
      ∧ (u.core n).mat.seqStep = BitVec.ofNat 6 r.step)
    ∧ (k.mat.seq = none → ∃ u, exec (.mseqAbort node) s = .next u ∧ ∀ m, u.core m = s.core m)

/-! ## Plectrum -/

/-- DMA_QUEUE_DEPART of a start whose channel is idle and which nothing holds makes it the channel's chain, with LAST_ERR, DETAIL and the level
cleared; of a register read it writes gd, which becomes available again. DESCRIPTOR_FETCH of the descriptor that was read at issue appends
its words to the chain (R228, R229, R230, R248). -/
def Obligations.DmaChainsBegin : Prop :=
  ∀ (s : State) (node : NodeNo) (ch : BitVec 3), isCore node.val = true →
    let n := node.val
    let k := s.core n
    (∀ j rest nt cap off caps d, k.dma.queue = j :: rest → j.work = .start nt ch cap off caps d → (k.chan ch.toNat).state = 0 →
      nt = true ∨ startHeld s n j = false → ∃ u r, exec (.dmaQueueDepart node) s = .next u ∧ (u.core n).dma.queue = rest
        ∧ ((u.core n).chan ch.toNat).run = some r ∧ r.thread = j.thread ∧ r.nt = nt ∧ r.s = cap ∧ r.caps = caps ∧ r.fetching = some off
        ∧ r.prefetched = d ∧ r.descs = [] ∧ r.bursts = [] ∧ r.err = none ∧ r.aborting = false
        ∧ ((u.core n).chan ch.toNat).lastErr = 0 ∧ ((u.core n).chan ch.toNat).detail = 0 ∧ ((u.core n).chan ch.toNat).level = 0
        ∧ ((u.core n).chan ch.toNat).state = 1)
    ∧ (∀ j rest g reg, k.dma.queue = j :: rest → j.work = .rd g reg → ∃ u, exec (.dmaQueueDepart node) s = .next u
      ∧ (u.core n).dma.queue = rest ∧ (u.thread n j.thread.val).g = ((s.thread n j.thread.val).setG g (dmaRead k
        (s.thread n j.thread.val).selCh (s.thread n j.thread.val).selDenied reg.toNat)).g
      ∧ (u.thread n j.thread.val).rdPending = (s.thread n j.thread.val).rdPending.erase g)
    ∧ ∀ r off bs, (k.chan ch.toNat).run = some r → r.fetching = some off → r.prefetched = some (.data bs) → s.normModule r.s.module = 0xFFFF →
      (ownScratch n (r.s.addrAt off.toNat) 64).isSome = true →
      checkAccess r.s { module := s.module, region := s.regionOf n } 0 0 [pR] none off.toNat 64 64 = none →
      ∃ u, exec (.descriptorFetch node ch) s = .next u ∧ ((u.core n).chan ch.toNat).wmarkIn = (k.chan ch.toNat).wmark
        ∧ ((u.core n).chan ch.toNat).run = some { r with fetching := none, prefetched := none, descs := r.descs ++
          [{ off := off, words := (List.range 16).map (wordAt bs), started := 0, completed := false }] }

/-- BURST_READ completes: it takes the first channel in round robin that has a burst to start or an error to meet. Of the earliest descriptor
with bytes left, one that breaks a rule of Table 8.2 ends in a DESC_ERR with the reason, one whose burst fails a check of R236 in a CAP
error; one that passes starts its next burst where buffer and FLOW have room: the count of started bytes grows by the burst's length, a burst
reads into the buffer under the next number, its packet leaves for the source under a free TAG, and the round robin moves past the
channel; without room nothing starts. BURST_WRITE completes: it sends the first burst that may leave, of one piece, under a free TAG, as a
posted write or the reduction its descriptor names, and takes it out of the bursts that wait (R218, R220, R230, R232, R235, R236, R237,
R238, R242, R248; the channels' order within one mesh cycle, log 1). -/
def Obligations.DmaBurstsReadAndWrite : Prop :=
  ∀ (s : State) (node : NodeNo) (ch : BitVec 3), isCore node.val = true →
    let n := node.val
    let k := s.core n
    let c := k.chan ch.toNat
    let turn (i : Nat) : Nat := (i + 8 - k.dma.rr.toNat) % 8
    ((∀ i < 8, turn i < turn ch.toNat → planBurst s n i = none) → ∀ r j x, c.run = some r → r.err = none → r.aborting = false →
      r.finished = false → r.msgs = [] → r.descs[j]? = some x →
      let d : Desc := ⟨x.words⟩
      let first : Desc := ⟨(r.descs.headD x).words⟩
      let len := d.burstLen x.started
      let fails (code detail : Byte) (at_ : Nat) : Prop := ∃ u q, exec (.burstRead node) s = .next u ∧ ((u.core n).chan ch.toNat).run = some q
        ∧ q.err = some { code := code, detail := detail, desc := j, at_ := at_, mc := s.mc } ∧ q.descs = r.descs ∧ q.bursts = r.bursts
        ∧ (u.core n).dma.rr = ch + 1
      (∀ i y, i < j → r.descs[i]? = some y → (Desc.mk y.words).total ≤ y.started ∧ (Desc.mk y.words).total ≠ 0) → x.completed = false →
      (x.started = 0 → ∀ e, descBad s r first d = some e → fails 6 (BitVec.ofNat 8 e) 0)
      ∧ (x.started < d.total → (x.started = 0 → descBad s r first d = none) →
        (∀ e, burstCheck s n r d x.started len = some e → fails 5 e x.started)
        ∧ (burstCheck s n r d x.started len = none → burstRoom k c d len = true → ∃ u q y b, exec (.burstRead node) s = .next u
          ∧ (u.core n).dma.rr = ch + 1 ∧ ((u.core n).chan ch.toNat).run = some q ∧ q.nextBurst = r.nextBurst + 1
          ∧ q.descs[j]? = some y ∧ y.started = x.started + len ∧ b ∈ q.bursts ∧ b.id = r.nextBurst ∧ b.desc = j ∧ b.len = len
          ∧ b.dst = d.dst x.started ∧ b.dcap.toNat = d.dcap % 16 ∧ b.red.toNat = d.red % 4
          ∧ b.tail = (d.tail && decide (x.started + len = d.total))
          ∧ ∀ p dst tag, let sc := r.caps.getD d.scap {}
            d.readReqs sc.base x.started len = [p] → s.destOf n 0xFFFF sc.region (sc.addrAt p.off) = .ok dst → k.freeTag = some tag →
            b.stage = .reading ∧ (tag, .dmaRead ch b.id p.at_ p.len) ∈ (u.core n).reqs ∧ (dst.1.toNat ≠ n →
              reqPacket n dst sc.region (sc.addrAt p.off) p.kind clsReq tag p.data ∈ (u.node n).out))
        ∧ (burstCheck s n r d x.started len = none → burstRoom k c d len = false → planBurst s n ch.toNat = none)))
    ∧ ((∀ i < 8, planBurst s n i = none) → exec (.burstRead node) s = .next (settle n s))
    ∧ (∀ r b i o l dst tag, k.dma.ready.find? (mayWrite k) = some (ch, b.id) → c.run = some r →
      r.bursts.find? (fun x => decide (x.id = b.id ∧ x.stage = .read)) = some b →
      let dc := r.caps.getD b.dcap.toNat {}
      piecesOf dc.base ((List.range b.len).map (b.dst + ·)) = [(i, o, l)] →
      s.destOf n (s.normModule dc.module) dc.region (dc.addrAt o) = .ok dst → k.freeTag = some tag →
      let out := reqPacket n dst dc.region (dc.addrAt o) (if b.red = 1 then kRedF32 else if b.red = 2 then kRedBf16 else kWrite) clsBulk tag
        (readBytes b.data i l)
      ∃ u, exec (.burstWrite node) s = .next u ∧ (u.core n).dma.ready = k.dma.ready.filter (fun y => !decide (y = (ch, b.id)))
        ∧ (∃ q, ((u.core n).chan ch.toNat).run = some q
          ∧ q.bursts = r.bursts.map fun y => if y.id = b.id then { y with stage := .writing } else y)
        ∧ (tag, .dmaWrite ch b.id l) ∈ (u.core n).reqs
        ∧ (dst.1.toNat ≠ n → ∃ before after, (u.node n).out = before ++ { out with h := { out.h with tail := b.tail, rflex := true } } :: after))
    ∧ (k.dma.ready.find? (mayWrite k) = none → exec (.burstWrite node) s = .next (settle n s))

/-- CHANNEL_DRAIN_END of a chain that has met an error, or is aborting, with nothing in flight records the error, or code 9, and ends the
chain but for messages that wait. PLECTRUM_MSG_ACCEPT queues a waiting WATERMARK that finds room, else the oldest waiting message, on its
channel of the core where there is room, and discards it while the core is HALTED. DMA_ABORT of a channel it may name makes its chain abort;
DMA_CREDIT takes its value off the level, or empties it with CREDIT_ERR set where the value is larger; DMA_WSTAT_CLEAR clears CROSSED (R240,
R243, R244, R248, R249). -/
def Obligations.DmaChainsEndAndRegistersAct : Prop :=
  ∀ (s : State) (node : NodeNo) (ch : BitVec 3) (via : DmaVia) (v : Word), isCore node.val = true →
    let n := node.val
    let k := s.core n
    let c := k.chan ch.toNat
    let after (u : State) : DmaChan := (u.core n).chan ch.toNat
    (∀ r, c.run = some r → r.finished = false → r.fetching = none → chanReqs k ch.toNat = false →
      (∀ b ∈ r.bursts, b.stage = .acked ∨ b.stage = .failed) →
      let ends (code detail : Byte) : Prop := ∃ u, exec (.channelDrainEnd node ch) s = .next u ∧ (after u).lastErr = code ∧ (after u).detail = detail
        ∧ ((after u).run = none ∨ ∃ q, (after u).run = some q ∧ q.finished = true ∧ q.msgs ≠ [])
      (∀ e, r.err = some e → ends e.code e.detail) ∧ (r.err = none → r.aborting = true → ends 9 0))
    ∧ (∀ m, c.wmsg = some m → k.ctl.halted = false → k.msgRoom m.chan.toNat = true → ∃ q, (q.chan ch.toNat).wmsg = none
      ∧ exec (.plectrumMsgAccept node ch) s = .next (settle n (wakeAllMsg n ((s.setCore n q).modCore n fun c => { c with syn := { c.syn with
        msgs := c.syn.msgs ++ [{ chan := m.chan, words := [m.w0, m.w1], tag := m.tag }] } }))))
    ∧ (∀ m, c.wmsg = some m → k.ctl.halted = true → ∃ u, exec (.plectrumMsgAccept node ch) s = .next u ∧ (after u).wmsg = none
      ∧ (u.core n).syn.msgs = k.syn.msgs)
    ∧ (∀ r m rest, (∀ w, c.wmsg = some w → k.msgRoom w.chan.toNat = false) → c.run = some r → r.msgs = m :: rest → k.ctl.halted = false → k.msgRoom m.chan.toNat = true →
      ∃ q, (q.chan ch.toNat).run = (if r.finished = true ∧ rest = [] then none else some { r with msgs := rest })
        ∧ exec (.plectrumMsgAccept node ch) s = .next (settle n (wakeAllMsg n ((s.setCore n q).modCore n fun c => { c with syn := { c.syn with
          msgs := c.syn.msgs ++ [{ chan := m.chan, words := [m.w0, m.w1], tag := m.tag }] } }))))
    ∧ ((viaSel k via).1 = ch →
      (∀ r, dmaBarred k via ch = false → c.run = some r → r.finished = false → r.aborting = false → r.err = none → r.more c.chainLimit = true →
        ∃ u, exec (.dmaAbort node via) s = .next u ∧ (after u).run = some { r with aborting := true })
      ∧ (v ≤ c.level → ∃ u, exec (.dmaCredit node via v) s = .next u ∧ (after u).level = c.level - v ∧ (after u).creditErr = c.creditErr)
      ∧ (c.level < v → ∃ u, exec (.dmaCredit node via v) s = .next u ∧ (after u).level = 0 ∧ (after u).creditErr = true)
      ∧ ∃ u, exec (.dmaWstatClear node via) s = .next u ∧ (after u).crossed = false ∧ (after u).level = c.level)

/-! ## Nodes, the mesh and the memory controllers -/

/-- NETWORK_PORT_ACCESS of a core whose next packet in turn is a request for bytes of its own scratchpad: where Pegbox or the core itself sent
it, or a window admits and grants it, a write stores its bytes and is acknowledged, a read, plain, strided or transposed, returns its bytes in
order of delivery, an atomic returns the old value and stores the new one; otherwise it is refused with kind WINDOW and counted. A region's
packet to a course that no region owns is refused UNMAPPED (R200, R202, R203, R205, R217, R219, R300). -/
def Obligations.PortsServeTheScratchpad : Prop :=
  ∀ (s : State) (node : NodeNo) (p : Packet) (rest : List Packet) (off : Nat), isCore node.val = true →
    let n := node.val
    let c := s.core n
    let lo := (spanOf p off).1
    let len := (spanOf p off).2
    let own (q : Packet) : Bool := decide (q.h.snode.toNat = n)
    (s.node n).rx = p :: rest → isAnswer p = false → p.h.kind ≠ kRdb → c.lost = none → s.exposed n = true →
    (own p = c.portOwn → ∀ q ∈ rest, isAnswer q = false → own q = own p) →
    placeOfAddr p.h.addr = .scratch n off → lo + len ≤ 0x200000 →
    let u := (s.modNode n fun x => { x with rx := rest }).modCore n fun c => { c with portOwn := own p }
    let refused (k : BitVec 3) : Prop := exec (.networkPortAccess node) s = .next (settle n
      ((u.modCore n fun c => { c with ctl := { c.ctl with winRefused := c.ctl.winRefused + 1 } }).send (refusalOf n p k)))
    let granted := p.h.snode.toNat = pegboxNode ∨ (lo + len ≤ 0x1FE000 ∧ (p.h.snode.toNat = n ∨
      ∃ i < 8, winAdmits (winOf c i) (fromLink p) p.h.region = true ∧ winGrants (winOf c i) p = true ∧ winCovers (winOf c i) lo len = true))
    ((s.course (courseOf n)).valid = false → p.h.region ≠ 0x3F → refused 2)
    ∧ ((s.course (courseOf n)).valid = true ∨ p.h.region = 0x3F →
      (granted → p.h.kind = kWrite → exec (.networkPortAccess node) s = .next (settle n
        ((u.modCore n fun c => c.modMem (·.writeScratch off p.data)).send (ackOf n p))))
      ∧ (granted → p.h.kind = kRead → poisonedAt 8 c.mem.poison off len = false → exec (.networkPortAccess node) s =
        .next (settle n (u.send (dataOf n p (c.mem.readScratch off (readCount p))))))
      ∧ (granted → p.h.kind = kReadStrided ∨ p.h.kind = kReadTransposed → (∀ o ∈ readOffsets p off, poisonedAt 8 c.mem.poison o 1 = false) →
        exec (.networkPortAccess node) s = .next (settle n (u.send (dataOf n p ((readOffsets p off).map (mapGet 0 c.mem.scratch))))))
      ∧ (∀ f, granted → p.h.kind = kAtomic → amoOf p = some f → poisonedAt 8 c.mem.poison off len = false →
        let old := leNat (c.mem.readScratch off f.size)
        let new := amoResult f old (leNat ((p.data.drop 1).take f.size)) (leNat ((p.data.drop 9).take f.size))
        exec (.networkPortAccess node) s = .next (settle n
          ((u.modCore n fun c => c.modMem (·.writeScratch off (leBytes f.size new))).send (dataOf n p (padTo 16 (leBytes f.size old))))))
      ∧ (¬granted → refused 1))

/-- NETWORK_PORT_ACCESS of a register word: a core's control page admits its own region and Pegbox; an L node's registers admit Pegbox
alone, and others are refused UNMAPPED, as is an offset that holds no register. An rdb of LINK_EVT or RAIL_GEN_DRAIN is held while the node
has room, but one that asks for a single test is answered at once; RDB_CONDITION_MET answers the oldest held one whose condition holds, with
the value read then; CANCEL_ARRIVE drops the request that it names and is acknowledged, and waits for a request that it has overtaken (R2,
R98, R197, R200, R204, R273, R300, R333; the acknowledgement of a CANCEL and the answer to a single test are log 17's choice, the admission
of a core's own region log 25's). -/
def Obligations.PortsServeRegistersAndHoldRdbs : Prop :=
  ∀ (s : State) (node : NodeNo) (p : Packet) (rest : List Packet) (off : Nat),
    let n := node.val
    let at_ : RegAddr := .block node (BitVec.ofNat 20 off)
    placeOfAddr p.h.addr = .block n off → off % 4 = 0 →
    ((s.node n).rx = p :: rest → isAnswer p = false →
      let u := s.modNode n fun x => { x with rx := rest }
      let own := p.h.snode.toNat = pegboxNode ∨ ((s.course (courseOf n)).valid = true ∧ p.h.region = (s.regionOf n).zeroExtend 6)
      let self (q : Packet) : Bool := decide (q.h.snode.toNat = n)
      (isCore n = true → (s.core n).lost = none → s.exposed n = true → (s.course (courseOf n)).valid = true ∨ p.h.region = 0x3F →
        0x20000 ≤ off → off < 0x22000 → (self p = (s.core n).portOwn → ∀ q ∈ rest, isAnswer q = false → self q = self p) →
        let v := u.modCore n fun c => { c with portOwn := self p }
        (own → p.h.kind = kWrite → p.data.length = 4 → exec (.networkPortAccess node) s =
          .next (settle n ((corePageWrite (packetWho p) n off (wordAt p.data 0) v).send (ackOf n p))))
        ∧ (own → p.h.kind = kRead → readCount p = 4 → exec (.networkPortAccess node) s =
          .next (settle n (v.send (dataOf n p (leBytes 4 (corePageRead v n off).toNat)))))
        ∧ (¬own → exec (.networkPortAccess node) s = .next (settle n
          ((v.modCore n fun c => { c with ctl := { c.ctl with winRefused := c.ctl.winRefused + 1 } }).send (refusalOf n p 1)))))
      ∧ (nodeKind n = .link → (s.node n).ctrl = [] → p.h.module = 0xFFFF →
        (placesReg n off = true →
          (p.h.snode.toNat = pegboxNode → p.h.kind = kWrite → p.data.length = 4 → exec (.networkPortAccess node) s =
            .next ((regWrite (.pb 2) at_ (wordAt p.data 0) u).send (ackOf n p)))
          ∧ (p.h.snode.toNat = pegboxNode → p.h.kind = kRead → readCount p = 4 → exec (.networkPortAccess node) s =
            .next ((regRead (.pb 2) at_ u).2.send (dataOf n p (leBytes 4 (regRead (.pb 2) at_ u).1.toNat)))))
        ∧ (p.h.snode.toNat = pegboxNode → p.h.kind = kRdb → off = 0x24 ∨ off = 0x50 →
          (asksOnce p = false → (s.node n).rdbs.length < 32 →
            exec (.networkPortAccess node) s = .next (u.modNode n fun x => { x with rdbs := x.rdbs ++ [p] }))
          ∧ (asksOnce p = true → (off = 0x24 → (s.lnode n).evt = 0) → (off = 0x50 → s.allDrained = false) →
            exec (.networkPortAccess node) s = .next (u.send (rspErrOf n p 0))))
        ∧ (placesReg n off = false → p.h.snode.toNat = pegboxNode → (p.h.kind = kWrite ∧ p.data.length = 4) ∨ (p.h.kind = kRead ∧ readCount p = 4) →
          exec (.networkPortAccess node) s = .next (u.send (refusalOf n p 2)))
        ∧ (p.h.snode.toNat ≠ pegboxNode → exec (.networkPortAccess node) s = .next (u.send (refusalOf n p 2)))))
    ∧ (nodeKind n = .link →
      let met (q : Packet) : Prop := (rdbOff q = 0x24 ∧ (s.lnode n).evt ≠ 0) ∨ (rdbOff q = 0x50 ∧ s.allDrained = true)
      ((∀ q ∈ (s.node n).rdbs, ¬met q) → exec (.rdbConditionMet node) s = .next s)
      ∧ ((s.node n).rdbs = p :: rest → met p → p.h.snode.toNat = pegboxNode →
        let v := s.modNode n fun x => { x with rdbs := rest }
        exec (.rdbConditionMet node) s = .next ((regRead (.pb 2) at_ v).2.send (dataOf n p (padTo 16 (leBytes 4 (regRead (.pb 2) at_ v).1.toNat))))))
    ∧ ∀ c cs, (s.node n).ctrl = c :: cs → c.h.module = 0xFFFF → c.h.kind = kCancel →
      let w := s.modNode n fun x => { x with ctrl := cs }
      let named (q : Packet) : Prop := q.h.kind = kRdb ∧ q.h.snode = c.h.snode ∧ q.h.tag = c.h.tag
      (cancelEarly s c = true → cs = [] → exec (.cancelArrive node) s = .next s)
      ∧ (cancelEarly s c = false →
        ((s.node n).rdbs = p :: rest → named p → exec (.cancelArrive node) s =
          .next ((w.modNode n fun x => { x with rdbs := rest }).send (ackOf n c)))
        ∧ ((∀ q ∈ (s.node n).rdbs ++ (s.node n).rx, ¬named q) → exec (.cancelArrive node) s = .next w))

/-- FLIT_FORWARD of an output of a node that injects nothing, in a powered die mesh, moves one flit, or none where none may go: off its
input queue, onto the link's wire and into the retry buffer under the next sequence number, or, at the local port, to the node. A CTRL flit
goes first while tokens last, and a CTRL packet's head goes east or west first. A CTRL packet that arrives is held until it is due, or
counted late, with the due mc that it had; where the mesh is not powered nothing moves. CTRL_RELEASE delivers the held packet that is due
first (R26, R287, R289, R293, R294, R295). -/
def Obligations.FlitsMoveThroughTheMesh : Prop :=
  ∀ (s : State) (node : NodeNo) (out : Port),
    let n := node.val
    let x := s.node n
    let o := (mapGet ({} : OutPort) x.router.outs (portIx out)).refill s.mc
    let cs := choices s n (portIx out)
    (s.meshUp n = false → exec (.flitForward node out) s = .next s)
    ∧ (s.meshUp n = true → x.out = [] → x.inj = [] →
      ((∀ d ∈ cs, d.vc < 2 ∧ o.tok = 0) → exec (.flitForward node out) s = .next s)
      ∧ ((∃ d ∈ cs, 2 ≤ d.vc ∨ 0 < o.tok) → ∃ c w, c ∈ cs ∧ chooseFlit o cs = some (c, w) ∧ ((∃ d ∈ cs, d.vc < 2) → 0 < o.tok → c.vc < 2)
        ∧ exec (.flitForward node out) s = .next (forward n (portIx out) c w o s))
      ∧ ∀ (c : Choice) w f rest, chooseFlit o cs = some (c, w) → x.router.queue c.key = f :: rest → c.esc = false → ∃ u,
        exec (.flitForward node out) s = .next u ∧ (u.node n).router.queue c.key = rest
        ∧ (∀ key, key ≠ c.key → (u.node n).router.queue key = x.router.queue key) ∧ u.cores = s.cores
        ∧ (out ≠ .localPort → let a := mapGet ({} : LinkTx) x.router.tx (portIx out)
          let t : TxFlit := { seq := a.seq, vc := BitVec.ofNat 3 c.vc, flit := f }
          mapGet {} (u.node n).router.tx (portIx out) = { buf := a.buf ++ [t], seq := a.seq + 1, wire := a.wire ++ [t] } ∧ (u.node n).rx = x.rx)
        ∧ ∀ h, out = .localPort → f.last = true → f.head = some h → mapGet [] x.asm c.vc = [] →
          let d := lateness s n h
          (isCtrl h = false → (u.node n).rx = x.rx ++ [{ h := h, data := f.data }])
          ∧ (isCtrl h = true → (u.node n).held = x.held ++
              [{ due := if -12 ≤ d ∧ d < 0 then s.mc + (-d).toNat else if d < -12 then s.mc - (d + 256).toNat else s.mc - d.toNat, arrived := s.mc, pkt := { h := h, data := f.data } }]
            ∧ (u.course (courseOf n)).ctrlLate = (s.course (courseOf n)).ctrlLate + (if d > 0 ∨ d < -12 then 1 else 0)))
    ∧ (∀ c ∈ cs, ∀ f rest h, x.router.queue c.key = f :: rest → mapGet 0 x.router.route c.key = 0 → f.head = some h → isCtrl h = true →
      let d := h.dnode.toNat
      (nodeX n < nodeX d → out = .east) ∧ (nodeX d < nodeX n → out = .west)
      ∧ (nodeX d = nodeX n → (nodeY n < nodeY d → out = .south) ∧ (nodeY d < nodeY n → out = .north) ∧ (nodeY d = nodeY n → out = .localPort)))
    ∧ ((∀ h ∈ x.held, s.mc < h.due) → exec (.ctrlRelease node) s = .next s)
    ∧ ((∃ h ∈ x.held, h.due ≤ s.mc) → ∃ u h, exec (.ctrlRelease node) s = .next u ∧ h ∈ x.held ∧ h.due ≤ s.mc
      ∧ (∀ g ∈ x.held, g.due ≤ s.mc → h.due ≤ g.due) ∧ (u.node n).ctrl = x.ctrl ++ [h.pkt] ∧ (u.node n).held = x.held.erase h
      ∧ (u.node n).rx = x.rx)

/-- FLIT_RECEIVE of the next flit on the wire of a mesh link: intact and in sequence, it leaves the sender's retry buffer and enters the input
queue, but for a malformed packet, which is discarded and counted; with a detected error or out of sequence, a RETRY makes the sender
resend all it holds. After 8 retries MESH_LINK_RESYNC starts the count anew, or marks the link failed in both courses' records; before,
it does nothing, nor does either command in a die mesh that is not powered (R26, R285, R295, R296, R429, R430). -/
def Obligations.MeshLinksRetryAndFail : Prop :=
  ∀ (s : State) (node : NodeNo) (port : Port) (m : Nat) (err : BitVec 1037),
    let n := node.val
    let i := portIx port
    let back := oppositePort i
    let x := (s.node n).router
    let rx := mapGet ({} : LinkRx) x.rx i
    let tx := mapGet ({} : LinkTx) (s.node m).router.tx back
    neighbour n i = some m →
    (s.meshUp n = false → exec (.flitReceive node port err) s = .next s ∧ ∀ ok, exec (.meshLinkResync node port ok) s = .next s)
    ∧ (∀ t rest, s.meshUp n = true → tx.wire = t :: rest → rx.failed = false → rx.retries < 8 →
      (err = 0 → t.seq = rx.expected → ∃ u, exec (.flitReceive node port err) s = .next u
        ∧ mapGet {} (u.node n).router.rx i = { expected := rx.expected + 1, retries := 0, failed := false }
        ∧ mapGet {} (u.node m).router.tx back = { tx with wire := rest, buf := tx.buf.tail }
        ∧ let key := i * 8 + t.vc.toNat
          (∀ h, t.flit.head = some h → malformed h = false → (u.node n).router.queue key = x.queue key ++ [t.flit])
          ∧ (∀ h, t.flit.head = some h → malformed h = true → (u.node n).router.queue key = x.queue key
            ∧ (u.course (courseOf n)).malformed = (s.course (courseOf n)).malformed + 1)
          ∧ (t.flit.head = none → (u.node n).router.queue key =
            if mapGet false x.drop key = true then x.queue key else x.queue key ++ [t.flit]))
      ∧ (undetected err = false ∨ (err = 0 ∧ t.seq ≠ rx.expected) → ∃ u, exec (.flitReceive node port err) s = .next u
        ∧ mapGet {} (u.node n).router.rx i = { rx with retries := rx.retries + 1 } ∧ (u.node n).router.inq = x.inq
        ∧ mapGet {} (u.node m).router.tx back = { tx with wire := tx.buf }
        ∧ (u.course (courseOf n)).crcRetry = (s.course (courseOf n)).crcRetry + 1))
    ∧ (rx.failed = true ∨ rx.retries < 8 → ∀ ok, exec (.meshLinkResync node port ok) s = .next s)
    ∧ (s.meshUp n = true → rx.failed = false → 8 ≤ rx.retries →
      (∃ u, exec (.meshLinkResync node port true) s = .next u ∧ mapGet {} (u.node n).router.rx i = { rx with retries := 0 }
        ∧ mapGet {} (u.node m).router.tx back = { tx with wire := tx.buf } ∧ (u.course (courseOf n)).resync = (s.course (courseOf n)).resync + 1)
      ∧ ∃ u, exec (.meshLinkResync node port false) s = .next u ∧ (mapGet ({} : LinkRx) (u.node n).router.rx i).failed = true
        ∧ (u.course (courseOf n)).failSeen = true ∧ ((mapGet 0 (u.course (courseOf n)).linkFail i).getLsbD (posOf n)) = true
        ∧ (u.course (courseOf n)).marked = true ∧ (u.course (courseOf m)).marked = true
        ∧ (mapGet {} u.pb.repair (courseOf n)).withheld = true ∧ (mapGet {} u.pb.repair (courseOf m)).withheld = true)

/-- MEM_REQUEST_SERVE of a memory node with nothing new at its input serves the request with the index, if no older one touches its bytes or has
waited 1 µs: a write lands, a read of sound words returns the bytes, counted where an error was corrected, and an error that is not
corrected poisons its word and answers poisoned; else it serves none. A request that has arrived enters its controller's queue, a write
acknowledged as it enters. REFRESH refreshes the node's controllers (R217, R420, R422, R424, R449). -/
def Obligations.ControllersServeRequests : Prop :=
  ∀ (s : State) (node : NodeNo) (index : Nat), nodeKind node.val = .hbm ∨ nodeKind node.val = .far →
    let n := node.val
    (∀ i j r, (s.node n).rx = [] → pickReq s (ctlsOf n) index = some (i, j) → (s.ctl i).queue[j]? = some r →
      let q := (s.ctl i).queue
      let u := s.modCtl i fun c => { c with queue := q.eraseIdx j }
      let clear := ∀ o ∈ q.take j, rangesMeet o.span.1 o.span.2 r.span.1 r.span.2 = false ∧ s.mc < o.arrived + 1600
      let unit := if i < 32 then 32 else 64
      let sound := ∀ w ∈ wordsOf unit r.span.1 r.span.2, mapGet false (s.ctl i).poison w = false
      (¬clear → ∀ ecc, exec (.memRequestServe node index ecc) s = .next s)
      ∧ (clear → r.pkt.h.kind = kWrite → ∀ ecc, exec (.memRequestServe node index ecc) s = .next (u.modCtl i fun c =>
        { c with mem := writeBytes c.mem r.off r.pkt.data, poison := clearPoison unit c.poison r.off r.pkt.data.length }))
      ∧ (clear → r.pkt.h.kind = kRead → sound → readCount r.pkt ≠ 128 →
        let answer := dataOf n r.pkt (readBytes (s.ctl i).mem r.off (readCount r.pkt))
        exec (.memRequestServe node index .clean) s = .next (u.send answer)
        ∧ exec (.memRequestServe node index .corrected) s =
          .next ((modInst (ctlInst i).1 (ctlInst i).2 (fun y => { y with corr := satAdd y.corr 1 }) u).send answer))
      ∧ (clear → r.pkt.h.kind = kRead → r.pkt.h.snode.toNat ≠ n → ∃ t, exec (.memRequestServe node index .uncorrectable) s = .next t
        ∧ mapGet false (t.ctl i).poison (r.off / unit) = true
        ∧ poisonedOf n r.pkt (if i < 32 then 4 else 5) ∈ (t.node n).out ∧ t.emu.healthCnt ≠ s.emu.healthCnt))
    ∧ (∀ p i off, (s.node n).rx = [p] → (∀ j, (s.ctl j).queue = []) → isAnswer p = false → p.h.module = 0xFFFF →
      ctlPlace s n p = some (i, off) → (s.ctl i).failed = false → 0 < index → ∀ ecc,
      let u := (s.modNode n fun x => { x with rx := [] }).modCtl i fun c => { c with queue := c.queue ++ [{ pkt := p, off := off, arrived := s.mc }] }
      exec (.memRequestServe node index ecc) s = .next (if p.h.kind = kWrite then u.send (ackOf n p) else u))
    ∧ ∃ u, exec (.refresh node) s = .next u ∧ ∀ i, u.ctl i = if i ∈ ctlsOf n then { s.ctl i with refreshAt := s.mc } else s.ctl i

/-- PATROL_SCRUB of a sound scratchpad or tier-1 word changes nothing where the word is clean, counts a corrected error, and poisons and
counts an uncorrectable one; an uncorrectable error of a queued message discards it, of a cache line drops it, of a link's buffer flushes
the link and of Pegbox's memory restarts the PB core (that the scrub command also stands for these readers is the model's choice, log 41).
CORE_LOST of an exposed core that is not lost leaves it lost with everything that it held gone, and raises a health event; of any other
core, and COPROC_HANG of a core without coprocessor work, it changes nothing (R421, R422, R424, R426, R427). -/
def Obligations.ErrorsPoisonAndCoresAreLost : Prop :=
  ∀ (s : State) (node : NodeNo) (cause : Byte), isCore node.val = true →
    let n := node.val
    (∀ off : BitVec 21, mapGet false (s.core n).mem.poison (off.toNat / 8) = false →
      let at_ : ScrubPlace := .scratchpad node off.toNat
      exec (.patrolScrub at_ .clean) s = .next s
      ∧ (∃ u, exec (.patrolScrub at_ .corrected) s = .next u ∧ (u.core n).ctl.eccCorr = satAdd (s.core n).ctl.eccCorr 1
        ∧ (u.core n).mem = (s.core n).mem)
      ∧ ∃ u, exec (.patrolScrub at_ .uncorrectable) s = .next u ∧ mapGet false (u.core n).mem.poison (off.toNat / 8) = true
        ∧ (u.core n).mem.scratch = (s.core n).mem.scratch ∧ (u.core n).ctl.eccUncorr = satAdd (s.core n).ctl.eccUncorr 1
        ∧ (u.core n).ctl.eccLast = 1 ∧ u.emu.healthCnt = s.emu.healthCnt + 1)
    ∧ (∀ (c : CourseNo) off, off < 0x300000000 → mapGet false (s.ctl c.val).poison (off / 32) = false →
      exec (.patrolScrub (.tier1 c off) .clean) s = .next s
      ∧ ∃ u, exec (.patrolScrub (.tier1 c off) .uncorrectable) s = .next u ∧ mapGet false (u.ctl c.val).poison (off / 32) = true
        ∧ (u.ctl c.val).mem = (s.ctl c.val).mem ∧ u.emu.healthCnt ≠ s.emu.healthCnt)
    ∧ (∀ i < (s.core n).syn.msgs.length, ∃ u, exec (.patrolScrub (.message node i) .uncorrectable) s = .next u
      ∧ (u.core n).syn.msgs = (s.core n).syn.msgs.eraseIdx i ∧ (u.core n).ctl.eccLast = 8 ∧ u.emu.healthCnt = s.emu.healthCnt + 1)
    ∧ (∀ set way v, entryAt (s.core n).mem.cache (set.toNat * 4 + way.toNat) = some v → ∃ u,
      exec (.patrolScrub (.cacheLine node set way) .uncorrectable) s = .next u
      ∧ (u.core n).mem.cache = mapDel (s.core n).mem.cache (set.toNat * 4 + way.toNat) ∧ (u.core n).ctl.eccLast = 7)
    ∧ (∀ l : LinkNo, (s.link l.val).state ≠ .off → (s.link l.val).egress ≠ [] ∨ (s.link l.val).replay ≠ [] → ∃ u,
      exec (.patrolScrub (.linkBuffer l) .uncorrectable) s = .next u ∧ (u.link l.val).state = .train ∧ (u.link l.val).cause = 2
      ∧ (u.link l.val).egress = [] ∧ (u.link l.val).replay = [])
    ∧ (∀ p : PbNo, s.pbRuns p.val = true → ∃ u, exec (.patrolScrub (.pegbox p) .uncorrectable) s = .next u
      ∧ u.pb.restarting.getLsbD p.val = true ∧ u.pb.run.getLsbD p.val = false)
    ∧ ((s.core n).lost = none → s.exposed n = true → ∃ u, exec (.coreLost node cause) s = .next u ∧ u.core n = { lost := some cause }
      ∧ u.emu.healthCnt = s.emu.healthCnt + 1 ∧ (coprocBusy (s.core n) = true → ∃ v, exec (.coprocHang node) s = .next v ∧ v.core n = { lost := some 2 }))
    ∧ ((s.core n).lost ≠ none ∨ s.exposed n = false → exec (.coreLost node cause) s = .next s)
    ∧ (coprocBusy (s.core n) = false → exec (.coprocHang node) s = .next s)

/-! ## Links -/

/-- LINK_LOOKUP of a packet for another module takes the rail-table entry of the module and the links that it lists, that the node's region
owns and that ADMIT: it is refused UNMAPPED without one, or LINK_DOWN where its link is OFF or TRAIN; else it enters that link's egress
queue with a transaction, or is handed to that link's L node. A CTRL packet waits while HOLD is set or a lookup of an older generation is
still on its way; an answer returns on the link of its transaction. RAIL_GEN_WRITE writes HOLD and GEN, and waits while PB3 does not run;
RAIL_ENTRY_WRITE writes the selected entry and moves ENTRY on (R319, R320, R322, R324, R374). -/
def Obligations.LookupsSteerPackets : Prop :=
  ∀ (s : State) (node : NodeNo) (p : Packet) (rest : List Packet),
    let n := node.val
    let m := p.h.snode.toNat
    let own := m < 960 ∧ (s.course (courseOf n)).valid = true ∧ (s.course (courseOf m)).valid = true ∧ s.regionOf m = s.regionOf n
      ∧ nodeKind m ≠ .link
    let u := s.modNode n fun x => { x with rx := rest }
    let e := mapGet ({} : RailEntry) s.rail.table p.h.module.toNat
    let cand := (List.range 40).filter fun l => e.rails.getLsbD l && decide (s.linkRegion l = some (s.regionOf n)) && (s.link l).admits
    let ups := cand.filter fun l => decide ((s.link l).state = .up)
    let flex := e.flex = true ∧ p.h.cls = clsBulk
    let from_ := if flex ∧ ups ≠ [] then ups else cand
    let l := from_.getD ((m + addrNode p.h.addr) % from_.length) 0
    (nodeKind n = .link → (s.node n).ctrl = [] → (s.node n).rx = p :: rest →
      (own → p.h.module ≠ 0xFFFF → (∀ q ∈ rest, q.h.module ≠ 0xFFFF) → p.data.length ≤ 2032 → p.h.cls ≠ clsCtrl → p.h.kind ≠ kCancel →
        (e.valid = false ∨ cand = [] → exec (.linkLookup node) s = .next (u.send (refusalOf n p 2)))
        ∧ (e.valid = true → cand ≠ [] → ¬flex → (s.link l).state = .off ∨ (s.link l).state = .train →
          exec (.linkLookup node) s = .next (u.send (refusalOf n p 4)))
        ∧ (e.valid = true → cand ≠ [] → flex ∨ (s.link l).state = .up ∨ (s.link l).state = .hold →
          (∀ t, linkNode l = n → freeEntry (fun t => (entryAt (s.link l).etxn t).isSome) = some t →
            let q : LinkPkt := { dmodule := p.h.module, dnode := BitVec.ofNat 10 (addrNode p.h.addr), snode := p.h.snode, tag := BitVec.ofNat 10 t
                                 kind := p.h.kind, cls := p.h.cls, addr := p.h.addr, region := p.h.region.truncate 5, sregion := s.regionOf n
                                 tail := p.h.tail, rflex := decide flex, gen := some e.gen, data := p.data }
            (s.link l).egressRoom q = true → ∃ w, exec (.linkLookup node) s = .next w ∧ (w.link l).egress = (s.link l).egress ++ [q]
              ∧ entryAt (w.link l).etxn t = some { kind := p.h.kind, module := 0xFFFF, snode := p.h.snode, tag := p.h.tag, addr := p.h.addr
                                                   region := p.h.region.truncate 5, link := l, node := p.h.dnode, dead := false })
          ∧ (linkNode l ≠ n → (s.lnode n).handoffs = [] → ∃ w h, exec (.linkLookup node) s = .next w
            ∧ (w.node n).out = (s.node n).out ++ [h] ∧ h.h.dnode.toNat = linkNode l ∧ h.h.snode.toNat = n ∧ h.h.rflex = decide flex
            ∧ handedPacket h = { h := { p.h with dnode := h.h.dnode, rflex := h.h.rflex, len := lenOf p.data.length }, data := p.data }
            ∧ handoffGen h = e.gen ∧ (w.lnode n).handoffs = [(h.h.tag, e.gen, p.h)])))
      ∧ (∀ k t, p.h.module = 0xFFFF → isAnswerKind p.h.kind = true → ¬(p.h.kind = kAck ∧ nodeKind m = .link) → answeredEntry s n p = some (k, t) →
        t.dead = false → (s.link t.link).ingress = [] →
        let q : LinkPkt := { dmodule := t.module, dnode := t.snode, snode := p.h.snode, tag := t.tag, kind := p.h.kind, cls := p.h.cls, addr := p.h.addr
                             region := t.region, sregion := s.regionOf n, tail := p.h.tail, rflex := false, gen := none, data := p.data }
        (s.link t.link).egressRoom q = true → ∃ w, exec (.linkLookup node) s = .next w
          ∧ (w.link t.link).egress = (s.link t.link).egress ++ [q] ∧ entryAt (w.lnode n).itxn k = none))
    ∧ (nodeKind n = .link → (s.node n).ctrl = [p] → (s.node n).rx = [] → own → p.h.module ≠ 0xFFFF → p.h.cls = clsCtrl → p.data.length ≤ 2032 →
      s.rail.hold = true ∨ s.allDrained = false → exec (.linkLookup node) s = .next s)
    ∧ (∀ v : Word, ∃ w, exec (.railGenWrite v) s = .next w ∧
      if s.pbRuns 3 = true then w.rail = { s.rail with hold := v.getLsbD 31, gen := v.truncate 8 }
      else w.rail = s.rail ∧ w.pb.waiting = s.pb.waiting ++ [.railGen v true])
    ∧ ∀ (b : PbNo) (lo hi : Word), assocGet (.pb b, WideReg.rail.key) s.wide.hold = some lo → s.pbRuns 3 = true → ∃ w, exec (.railEntryWrite (.pb b) hi) s = .next w
      ∧ mapGet {} w.rail.table s.rail.entry.toNat = { valid := hi.getLsbD 31, flex := hi.getLsbD 30, gen := (hi >>> 8).truncate 8
                                                      rails := hi.truncate 8 ++ lo }
      ∧ w.rail.entry = (if s.rail.ainc = true then s.rail.entry + 1 else s.rail.entry) ∧ w.rail.gen = s.rail.gen

/-- FRAME_SEND of an UP link without a replay request due sends the oldest frame to resend, marked RESENT, else the new frame that is first
in the egress queue, with the next SEQ, and keeps it for replay; ACKONLY_SEND sends what acknowledgement, request or credit is due, and
TRAIN_FRAME_SEND the link's identity, epoch and last SEQ. Every frame carries the last SEQ received and one class's freed units.
REPLAY_REQUEST_REPEAT asks again, REPLAY_TIMEOUT resends all, and after eight such resends in a row takes the link down. Each frame puts
LINK_HOLD in force (R306, R308, R310, R311, R312, R313, R314, R315, R328, R329, R335). -/
def Obligations.LinksSendFrames : Prop :=
  ∀ (s : State) (link : LinkNo),
    let l := link.val
    let k := s.link l
    let sent (f : Frame) (u : State) : Prop := u.outbox = s.outbox ++ [.frame link (Frame.bytes { f with
        smodule := (if f.ftype = 0 then s.module else 0), ack := k.rxLast, cclass := k.ccNext, credit := mapGet 0 k.freed k.ccNext.toNat })]
      ∧ (u.link l).ccNext = k.ccNext + 1 ∧ (u.link l).ackDue = false ∧ (u.link l).holdUsIn = k.holdUs ∧ u.nodes = s.nodes ∧ ∀ j, j ≠ l → u.link j = s.link j
    (k.state ≠ .up ∨ k.nakDue = true ∨ (k.resend = [] ∧ k.egress = []) → exec (.frameSend link) s = .next s)
    ∧ (k.state = .up → k.nakDue = false →
      (∀ seq q rest, k.resend = (seq, q) :: rest → ∃ u, exec (.frameSend link) s = .next u ∧ sent (dataFrame seq true q) u
        ∧ (u.link l).resend = rest ∧ (u.link l).replays = k.replays + 1 ∧ (u.link l).replay = k.replay ∧ (u.link l).egress = k.egress)
      ∧ ∀ q rest, k.resend = [] → k.egress = q :: rest → k.sendRoom q = true → (q.cls = clsCtrl ∧ k.ctrlRoom s.mc q = true) ∨ (q.cls ≠ clsCtrl ∧ rest = []) →
        ∃ u, exec (.frameSend link) s = .next u ∧ sent (dataFrame k.txNext false q) u ∧ (u.link l).egress = rest
          ∧ (u.link l).replay = k.replay ++ [(k.txNext, q)] ∧ (u.link l).txNext = k.txNext + 1
          ∧ mapGet 0 (u.link l).charged q.cls.toNat = (mapGet 0 k.charged q.cls.toNat + q.cost) % 4096)
    ∧ (k.state = .up → k.ackDue = true ∨ k.nakDue = true ∨ k.credDue ≠ [] → ∃ u, exec (.ackonlySend link) s = .next u
      ∧ sent (emptyFrame 1 k.nakDue []) u ∧ (u.link l).nakDue = false)
    ∧ (k.state ≠ .up ∨ (k.ackDue = false ∧ k.nakDue = false ∧ k.credDue = []) → exec (.ackonlySend link) s = .next s)
    ∧ (k.state = .up → k.nakSent = true → exec (.replayRequestRepeat link) s = .next (s.modLink l fun k => { k with nakDue := true }))
    ∧ (k.state ≠ .up ∨ k.nakSent = false → exec (.replayRequestRepeat link) s = .next s)
    ∧ (k.state = .up → k.replay ≠ [] →
      (k.stale < 8 → exec (.replayTimeout link) s = .next (s.modLink l fun k => { k with resend := k.replay, stale := k.stale + 1 }))
      ∧ (8 ≤ k.stale → ∃ u, exec (.replayTimeout link) s = .next u ∧ (u.link l).state = .hold ∧ (u.link l).cause = 2
        ∧ (u.link l).downs = k.downs + 1))
    ∧ (k.state ≠ .up ∨ k.replay = [] → exec (.replayTimeout link) s = .next s)
    ∧ ((k.state = .train ∨ k.state = .hold) → k.lanes = 0xF → ∃ u, exec (.trainFrameSend link) s = .next u
      ∧ sent (emptyFrame 2 false (leBytes 4 (s.module.toNat + l * 65536) ++ leBytes 4 k.ownEpoch.toNat ++ leBytes 4 k.rxLast.toNat ++ leBytes 4 0)) u)
    ∧ (k.state = .off ∨ k.state = .up ∨ k.lanes ≠ 0xF → exec (.trainFrameSend link) s = .next s)

/-- FRAME_RECEIVE of an UP link: a frame of a length or a CRC that is wrong is counted and a replay requested once; a DATA frame in sequence
for this module and the link's region enters the mesh under a free ingress entry, one of another module or region is counted and answered; a
duplicate only acknowledges; a gap asks for a replay. An acknowledgement frees the frames it covers, and NAK makes the rest be sent again
(R307, R309, R310, R311, R323, R324). -/
def Obligations.LinksReceiveFrames : Prop :=
  ∀ (s : State) (link : LinkNo) (bs : List Byte),
    let l := link.val
    let k := s.link l
    let n := linkNode l
    (k.state = .off ∨ k.lanes ≠ 0xF → exec (.frameReceive link bs) s = .next s)
    ∧ (k.state = .up → k.lanes = 0xF →
      (checkFrame true bs = .badLength ∨ checkFrame true bs = .badCrc → ∃ u, exec (.frameReceive link bs) s = .next u
        ∧ (u.link l).errLength = (if checkFrame true bs = .badLength then satAdd k.errLength 1 else k.errLength)
        ∧ (u.link l).errCrc = (if checkFrame true bs = .badCrc then satAdd k.errCrc 1 else k.errCrc)
        ∧ (u.link l).nakSent = true ∧ (u.link l).nakDue = (k.nakDue || !k.nakSent) ∧ (u.link l).rxLast = k.rxLast ∧ u.nodes = s.nodes)
      ∧ ∀ f, checkFrame true bs = .good f →
        let a := (f.ack - k.txAcked).toNat
        let back := (k.rxLast - f.seq).toNat
        let q := f.packet
        (f.ftype = 1 → ∃ u, exec (.frameReceive link bs) s = .next u ∧ u.nodes = s.nodes ∧ (u.link l).rxLast = k.rxLast
          ∧ mapGet 0 (u.link l).credSeen f.cclass.toNat = f.credit
          ∧ (u.link l).replay = (if 0 < a ∧ a ≤ k.replay.length then k.replay.drop a else k.replay)
          ∧ (u.link l).txAcked = (if 0 < a ∧ a ≤ k.replay.length then f.ack else k.txAcked)
          ∧ (f.nak = true → (u.link l).resend = (u.link l).replay))
        ∧ (f.ftype = 0 → f.seq ≠ k.rxLast + 1 → back < 1024 → ∃ u, exec (.frameReceive link bs) s = .next u ∧ u.nodes = s.nodes
          ∧ (u.link l).rxLast = k.rxLast ∧ (u.link l).ackDue = true)
        ∧ (f.ftype = 0 → f.seq ≠ k.rxLast + 1 → 1024 ≤ back → ∃ u, exec (.frameReceive link bs) s = .next u ∧ u.nodes = s.nodes
          ∧ (u.link l).rxLast = k.rxLast ∧ (u.link l).nakSent = true)
        ∧ (f.ftype = 0 → f.seq = k.rxLast + 1 → ∃ u, exec (.frameReceive link bs) s = .next u ∧ (u.link l).rxLast = f.seq
          ∧ (u.link l).ackDue = true
          ∧ (f.dmodule ≠ s.module → (u.link l).errMisroute = satAdd k.errMisroute 1 ∧ u.nodes = s.nodes
            ∧ (isAnswerKind q.kind = false → q.kind ≠ kCancel → ∃ x, x ∈ (u.link l).egress ∧ x.kind = kNack ∧ x.dmodule = f.smodule ∧ x.tag = q.tag))
          ∧ (f.dmodule = s.module → s.linkRegion l ≠ some f.region → (u.link l).errTenant = satAdd k.errTenant 1 ∧ u.nodes = s.nodes)
          ∧ ∀ t, f.dmodule = s.module → s.linkRegion l = some f.region → k.ingress = [] → isAnswerKind q.kind = false → q.kind ≠ kCancel →
            q.dnode ≠ 0x3FF → q.dnode.toNat ≠ n → ingressTag (s.lnode n) l q.dnode = some t →
            (u.node n).out = (s.node n).out ++
              [{ h := { module := 0xFFFF, addr := q.addr, dnode := q.dnode, snode := BitVec.ofNat 10 n, region := q.region.zeroExtend 6, cls := q.cls
                        kind := q.kind, len := lenOf q.data.length, tag := BitVec.ofNat 10 t, tail := q.tail, rflex := q.rflex }
                 data := q.data }]
            ∧ (entryAt (u.lnode n).itxn (l % 2 * 1024 + t)).map (·.tag) = some q.tag))

/-- LANE_LOSS, LANES_ALIGNED, LINK_HOLD_EXPIRE, LINK_EN_WRITE, LINK_RETRAIN and the TRAIN frames of FRAME_RECEIVE move a link between its
states: an UP link that loses a lane goes to HOLD; a held one resumes and resends when the same peer trains again with the same epochs
within the hold, and flushes when another does or its hold time ends; enabling trains, where MODULE_ID has been written and the PHY group is
powered; disabling flushes to OFF. A flush answers LINK_DOWN to every open request, starts a new epoch, clears ADMIT and sets HOLD of
RAIL_GEN; a state change sets LINK_EVT and moves READY_LINK (R305, R327, R328, R329, R330, R331, R332, R342, R368, R384). -/
def Obligations.LinksTrainHoldAndFlush : Prop :=
  ∀ (s : State) (link : LinkNo),
    let l := link.val
    let k := s.link l
    let n := linkNode l
    let gives (c : Instr) (p : Link → Prop) : Prop := ∃ u, exec c s = .next u ∧ p (u.link l) ∧ ((u.link l).state ≠ k.state →
      (u.lnode n).evt.getLsbD (l % 2) = true ∧ u.host.readyLink.getLsbD l = decide ((u.link l).state = .up))
    let flushes (c : Instr) (st : LinkState) : Prop := ∃ u, exec c s = .next u ∧ (u.link l).state = st ∧ (u.link l).etxn = [] ∧ (u.link l).egress = []
      ∧ (u.link l).replay = [] ∧ (u.link l).resend = [] ∧ (u.link l).txNext = 0 ∧ (u.link l).rxLast = 0xFFF ∧ (u.link l).admits = false
      ∧ (u.link l).ownEpoch = k.ownEpoch + 1 ∧ u.rail.hold = true
      ∧ ∀ e ∈ k.etxn, e.2.snode.toNat ≠ n → lostAnswer n e.2 ∈ (u.node n).out
    (∀ lane : BitVec 2, (k.state = .off → exec (.laneLoss link lane) s = .next s)
      ∧ (k.state ≠ .off → gives (.laneLoss link lane) fun x => x.lanes = setBit k.lanes lane.toNat false ∧ (k.state ≠ .up → x.state = k.state)
        ∧ (k.state = .up → x.state = .hold ∧ x.cause = 1 ∧ x.downs = k.downs + 1 ∧ x.holdAt = s.mc ∧ x.holdIn = min k.holdUsIn.toNat 64000)))
    ∧ (k.state = .train ∨ k.state = .hold → ∃ u, exec (.lanesAligned link) s = .next u ∧ u.link l = { k with lanes := 0xF }
      ∧ u.nodes = s.nodes ∧ u.lnodes = s.lnodes ∧ ∀ j ≠ l, u.link j = s.link j)
    ∧ (k.state ≠ .train → k.state ≠ .hold → exec (.lanesAligned link) s = .next s)
    ∧ (k.state = .hold ∧ k.holdAt + k.holdIn * 1600 ≤ s.mc → flushes (.linkHoldExpire link) .train)
    ∧ (k.state ≠ .hold ∨ s.mc < k.holdAt + k.holdIn * 1600 → exec (.linkHoldExpire link) s = .next s)
    ∧ exec (.linkEnWrite link k.en) s = .next s
    ∧ (k.en = false → s.emu.moduleIdWritten = true → (s.dom (46 + l / 4)).state ≤ 1 → gives (.linkEnWrite link true) fun x => x.en = true ∧ x.state = .train
      ∧ x.ownEpoch = k.ownEpoch + 1)
    ∧ (k.en = false → s.emu.moduleIdWritten = false ∨ 1 < (s.dom (46 + l / 4)).state → exec (.linkEnWrite link true) s = .next s)
    ∧ (k.en = true → flushes (.linkEnWrite link false) .off ∧ gives (.linkEnWrite link false) fun x => x.en = false ∧ x.cause = 5 ∧ x.lanes = 0)
    ∧ (k.en = true → flushes (.linkRetrain link) .train ∧ gives (.linkRetrain link) fun x => x.en = true ∧ x.cause = 6 ∧ x.lanes = 0)
    ∧ (k.en = false → exec (.linkRetrain link) s = .next s)
    ∧ ∀ bs f, k.lanes = 0xF → checkFrame false bs = .good f → f.ftype = 2 →
      let pm := (wordAt f.payload 0).toNat % 65536
      let pl := (wordAt f.payload 0).toNat / 65536 % 64
      let pe := (wordAt f.payload 1).toNat % 65536
      let last := BitVec.ofNat 12 (wordAt f.payload 2).toNat
      let ends := k.holdAt + k.holdIn * 1600
      let same := pm = k.peerModule.toNat ∧ pl = k.peerLink.toNat ∧ pe = k.peerEpoch.toNat ∧ k.ownEpoch = k.epochAtUp
      (k.state = .train → gives (.frameReceive link bs) fun x => x.state = .up ∧ x.peerValid = true ∧ x.peerModule.toNat = pm ∧ x.peerLink.toNat = pl
        ∧ x.peerEpoch.toNat = pe ∧ x.epochAtUp = k.ownEpoch ∧ x.txNext = 0 ∧ x.rxLast = 0xFFF ∧ x.replay = [])
      ∧ (k.state = .hold → ends ≤ s.mc → gives (.frameReceive link bs) fun x => x.state = .up ∧ x.peerModule.toNat = pm ∧ x.peerLink.toNat = pl
        ∧ x.peerEpoch.toNat = pe ∧ x.ownEpoch = k.ownEpoch + 1 ∧ x.epochAtUp = x.ownEpoch ∧ x.replay = [] ∧ x.etxn = [])
      ∧ (k.state = .hold → s.mc < ends → same → f.nak = false → f.ack = k.txAcked → (last - k.txAcked).toNat ≤ k.replay.length →
        gives (.frameReceive link bs) fun x => x.state = .up ∧ x.replay = k.replay.drop (last - k.txAcked).toNat ∧ x.resend = x.replay ∧ x.stale = 0)
      ∧ (k.state = .hold → s.mc < ends → ¬same → flushes (.frameReceive link bs) .train)

/-- The DATA frame of a packet, as its bytes, passes the receive checks and carries the packet, whatever the frame's acknowledgement and
credit fields (R306, R307, R308, R309; the fill of short data is log 8's layout). -/
def Obligations.FramesCarryTheirPackets : Prop :=
  ∀ (q : LinkPkt) (seq ack credit : BitVec 12) (resent nak up : Bool) (smodule : BitVec 16) (cclass : BitVec 2),
    q.kind.toNat < 15 → q.data.length ≤ 2032 →
    let f : Frame := { dataFrame seq resent q with smodule := smodule, ack := ack, nak := nak, cclass := cclass, credit := credit }
    checkFrame up f.bytes = .good f ∧ f.packet = { q with gen := none }

/-! ## The host -/

/-- SQ_DOORBELL and CQ_DOORBELL take a value below the ring's size and set DB_BAD for another; QP_ENABLE enables a configuration that R346
allows with its rings at slot 0, and sets CFG_ERR for another. MESSAGE_TAKE journals the next message of the first pair in turn, with a
completion at once where a check fails; HELLO completes OK; COMPLETION_WRITE writes a completion with its PHASE into the ring, frees its
reservation and sends the vector; HEALTH_EVENT keeps an event for ring 0 and delivers it where there is room (R346, R347, R349, R351, R352,
R353, R354, R369). -/
def Obligations.QueuePairsCarryMessages : Prop :=
  ∀ (s : State) (fn : FnNo) (q : BitVec 6) (v : Word),
    let f := fn.val
    let i := q.toNat
    let x := s.qp f i
    let slot (x : Qp) : Nat := ringBase x.cqBase + 64 * (x.cqTail.toNat % x.cqSize)
    let flagged (x : Qp) (bs : List Byte) : List Byte := bs.take 11 ++ [if x.phase then 0x80 else 0] ++ bs.drop 12
    (fnUnits f ≤ i → exec (.sqDoorbell fn q v) s = .next s ∧ exec (.cqDoorbell fn q v) s = .next s ∧ exec (.qpEnable fn q v) s = .next s)
    ∧ (i < fnUnits f →
      (x.sqSize ≤ v.toNat % 4096 → exec (.sqDoorbell fn q v) s = .next (modHostErr f (fun e => { e with dbBad := true }) s))
      ∧ (v.toNat % 4096 < x.sqSize → exec (.sqDoorbell fn q v) s = .next (modQp f i (fun x => { x with sqTail := v.truncate 12 }) s))
      ∧ (x.cqSize ≤ v.toNat % 4096 → exec (.cqDoorbell fn q v) s = .next (modHostErr f (fun e => { e with dbBad := true }) s))
      ∧ (v.toNat % 4096 < x.cqSize →
        let d := (v.toNat % 4096 + x.cqSize - x.cqHead.toNat % x.cqSize) % x.cqSize
        ∃ u, exec (.cqDoorbell fn q v) s = .next u ∧ (u.qp f i).cqHead.toNat = v.toNat % 4096 ∧ (u.qp f i).armed = true
          ∧ (u.qp f i).used = x.used - min (if d = 0 ∧ x.used = x.cqSize then x.cqSize else d) x.used)
      ∧ (let a := fieldOf v 19 16
        let b := fieldOf v 11 8
        let good := 7 ≤ a ∧ a ≤ 12 ∧ 7 ≤ b ∧ b ≤ 12 ∧ v.toNat % 64 < fnUnits f
        (x.en = false → v.getLsbD 31 = true → good → ∃ u, exec (.qpEnable fn q v) s = .next u ∧ (u.qp f i).en = true ∧ (u.qp f i).sqLog.toNat = a
          ∧ (u.qp f i).cqLog.toNat = b ∧ (u.qp f i).vector.toNat = v.toNat % 64 ∧ (u.qp f i).ie = v.getLsbD 6 ∧ (u.qp f i).sqHead = 0
          ∧ (u.qp f i).cqTail = 0 ∧ (u.qp f i).phase = true ∧ (u.qp f i).used = 0)
        ∧ (x.en = false → v.getLsbD 31 = true → ¬good → ∃ u, exec (.qpEnable fn q v) s = .next u ∧ (u.qp f i).en = false ∧ (u.qp f i).cfgErr = true)
        ∧ (x.en = true → v.getLsbD 31 = true → ∃ u, exec (.qpEnable fn q v) s = .next u ∧ (u.qp f i).en = true ∧ (u.qp f i).sqLog = x.sqLog
          ∧ (u.qp f i).cqLog = x.cqLog ∧ (u.qp f i).vector = x.vector ∧ (u.qp f i).ie = v.getLsbD 6
          ∧ (a ≠ x.sqLog.toNat → (u.qp f i).wrBusy = true))
        ∧ (x.en = true → v.getLsbD 31 = false → ∃ u, exec (.qpEnable fn q v) s = .next u ∧ (u.qp f i).en = false
          ∧ ∀ e ∈ s.pb.journal, e.fn = fn → e.qp = q → { e with discarded := true } ∈ u.pb.journal)))
    ∧ (s.pbRuns 2 = false ∨ s.host.readyEp = false → exec .messageTake s = .next s)
    ∧ (∀ key m n, s.pbRuns 2 = true → s.host.readyEp = true →
      (qpOrder s.host.qpRr).findSome? (fun k => (nextMsg s (s.qp (k / 64) (k % 64))).map fun r => (k, r)) = some (key, m, n) →
      let y := s.qp (key / 64) (key % 64)
      ∃ u e, exec .messageTake s = .next u ∧ u.pb.journal = s.pb.journal ++ [e] ∧ e.id = s.pb.nextId ∧ u.pb.nextId = s.pb.nextId + 1
        ∧ e.fn.val = key / 64 ∧ e.qp.toNat = key % 64 ∧ e.msg = m ∧ e.handed = false ∧ e.discarded = false
        ∧ e.result = (msgCheck s (key / 64) m).map (fun c => completionBytes m c.1 c.2 [])
        ∧ (u.qp (key / 64) (key % 64)).sqHead = BitVec.ofNat 12 ((y.sqHead.toNat + n) % y.sqSize)
        ∧ (u.qp (key / 64) (key % 64)).reserved = y.reserved + slotsNeeded m)
    ∧ (∀ id e, MessageRuns s id 1 e → exec (.hello id) s = .next (completeMsg id 0 0 [] s))
    ∧ (∀ id e bs, s.pbRuns 2 = true → s.entry id = some e → e.result = some bs →
      let y := s.qp e.fn.val e.qp.toNat
      (e.discarded = true → ∃ u, exec (.completionWrite id) s = .next u ∧ u.pb.journal = s.pb.journal.filter (fun e => decide (e.id ≠ id))
        ∧ u.host = s.host ∧ u.outbox = s.outbox)
      ∧ (e.discarded = false → bs.length = 64 → ∃ u, exec (.completionWrite id) s = .next u ∧ u.hostBytes (slot y) 64 = flagged y bs
        ∧ u.pb.journal = s.pb.journal.filter (fun e => decide (e.id ≠ id))
        ∧ (u.qp e.fn.val e.qp.toNat).cqTail = BitVec.ofNat 12 ((y.cqTail.toNat + 1) % y.cqSize) ∧ (u.qp e.fn.val e.qp.toNat).used = y.used + 1
        ∧ (u.qp e.fn.val e.qp.toNat).phase = (if y.cqSize ≤ y.cqTail.toNat + 1 then !y.phase else y.phase)
        ∧ u.outbox = s.outbox ++ (if y.ie && y.armed then [.msix e.fn y.vector] else [])))
    ∧ ∀ e rest, s.pbRuns 2 = true → s.pb.events = e :: rest → e.region = none →
      let y := s.qp 0 0
      let r := s.ring 0
      (y.en = false → r.events.length < 256 → ∃ u, exec .healthEvent s = .next u ∧ u.pb.events = rest ∧ u.pb.dropped = 0
        ∧ (u.ring 0).events = r.events ++ [e] ∧ (u.ring 0).dropped = r.dropped + s.pb.dropped)
      ∧ (y.en = true → 1 ≤ y.room → (∀ g, (s.ring g).events = []) → (healthBytes e (r.dropped + s.pb.dropped)).length = 64 →
        ∃ u, exec .healthEvent s = .next u ∧ u.pb.events = rest ∧ (u.ring 0).events = [] ∧ (u.qp 0 0).used = y.used + 1
          ∧ u.hostBytes (slot y) 64 = flagged y (healthBytes e (r.dropped + s.pb.dropped)))

/-- REGION_CREATE of ready, free courses gives the lowest free region ID their courses, whose cores are reset, with their steering nodes
locked, or completes with the failure's status; it waits while PB1, which must first raise a course, does not run. REGION_DESTROY halts a
region and, once its courses are still, scrubs its memory and frees them. LOAD_IMAGE stores an image under a new handle; LAUNCH of a fitting
one runs the program, its declared threads at their program counters. PROGRAM_END ends a program that runs nothing more; SIGNAL queues a
message or is refused FULL; QUERY returns the READY words and spares (R297, R300, R355, R357, R358, R360, R374, R385; the position of a bad
field is log 36's reading, the wait for courses log 37's). -/
def Obligations.RegionsRunPrograms : Prop :=
  ∀ (s : State) (id : Nat) (e : JEntry),
    let f (o n : Nat) : Nat := msgField e.msg o n
    let r := msgTarget e.fn.val e.msg
    let done (st d : Nat) (p : List Byte) (u : State) : Prop :=
      let c := some (completionBytes e.msg st d p)
      u.entry id = some { e with result := c, made := c }
    (MessageRuns s id 2 e →
      let cs := rectCourses (f 16 1) (f 17 1) (f 18 1) (f 19 1)
      let up := s.pbRuns 1 = true ∨ ∀ c ∈ cs, asleep s c = [] ∧ PbWork.order c 2 ∉ s.pb.waiting
      (s.held = true → exec (.regionCreate id) s = .next (completeMsg id stBusy 0 [] s))
      ∧ (s.held = false →
        (∀ o, rectBad (f 16 1) (f 17 1) (f 18 1) (f 19 1) = some o → exec (.regionCreate id) s = .next (completeMsg id stBadArgument o [] s))
        ∧ (rectBad (f 16 1) (f 17 1) (f 18 1) (f 19 1) = none →
          (∀ c, cs.find? (fun c => !s.courseReady c) = some c → exec (.regionCreate id) s = .next (completeMsg id stNotReady c [] s))
          ∧ ((∀ c ∈ cs, s.courseReady c = true) → (∃ c ∈ cs, (s.course c).valid = true) →
            exec (.regionCreate id) s = .next (completeMsg id stBusy 0 [] s))
          ∧ ∀ t < 32, (∀ c ∈ cs, s.courseReady c = true ∧ (s.course c).valid = false) → s.regionCourses t = [] → (∀ t' < t, s.regionCourses t' ≠ []) →
            (¬up → exec (.regionCreate id) s = .next s) ∧ (up → ∃ u, exec (.regionCreate id) s = .next u ∧ done stOk 0 [BitVec.ofNat 8 t] u
              ∧ (∀ c ∈ cs, (u.course c).valid = true ∧ (u.course c).region.toNat = t ∧ (u.course c).cx0.toNat = f 16 1 ∧ (u.course c).cy0.toNat = f 17 1
                ∧ (u.course c).cx1.toNat = f 18 1 ∧ (u.course c).cy1.toNat = f 19 1)
              ∧ (∀ c, c ∉ cs → (u.course c).valid = (s.course c).valid ∧ (u.course c).region = (s.course c).region)
              ∧ ∀ n, s.exposed n = true → courseOf n ∈ cs → (u.core n).ctl.gwLock = true ∧ (u.core n).ctl.escPage = some 0x1FF
                ∧ ∀ k < 4, (u.thread n k).st = .idle))))
    ∧ (MessageRuns s id 3 e →
      let h := haltRegion r s
      ((∃ c ∈ h.regionCourses r, courseRunning h c = true) → exec (.regionDestroy id) s = .next h)
      ∧ ((∀ c ∈ h.regionCourses r, courseRunning h c = false) → ∃ u, exec (.regionDestroy id) s = .next u ∧ done stOk 0 [] u
        ∧ (∀ c ∈ s.regionCourses r, (u.course c).valid = false ∧ ∀ i ∈ courseCtls c, (u.ctl i).mem = [])
        ∧ ∀ n ∈ s.regionCores r, (u.core n).mem.imem = [] ∧ (u.core n).mem.scratch = [] ∧ (u.core n).mem.tags = []))
    ∧ (MessageRuns s id 4 e → ∀ im, let h := s.pb.nextHandle
      (0xFFFF < h → exec (.loadImage id im) s = .next (completeMsg id stFailResources 0 [] s))
      ∧ (h ≤ 0xFFFF → ∃ u, exec (.loadImage id im) s = .next u ∧ done stOk 0 (leBytes 2 h) u ∧ u.pb.nextHandle = h + 1
        ∧ entryAt u.pb.images h = some { region := BitVec.ofNat 16 r, image := im }))
    ∧ (MessageRuns s id 5 e →
      (s.held = true ∨ s.runs r = true → exec (.launch id) s = .next (completeMsg id stBusy 0 [] s))
      ∧ (s.held = false → s.runs r = false → entryAt s.pb.images (f 38 2) = none → exec (.launch id) s = .next (completeMsg id stBadArgument 38 [] s))
      ∧ ∀ li, s.held = false → s.runs r = false → entryAt s.pb.images (f 38 2) = some li → li.region.toNat = r →
        let ck := launchCheck li.image.t1Segs (decide (msgFlags e.msg % 2 = 1)) (f 16 4) (f 20 8) (f 28 8) (f 36 2) (t1Share s r) (t2Share s r)
          (regionLinks s r)
        (ck.status = stFailResources → exec (.launch id) s = .next (completeMsg id stFailResources 0 ck.payload s))
        ∧ ∀ pl, ck.status ≠ stFailResources → placeImage s r li.image ck.chosen = some pl → imageGood s r li.image pl = true →
          (∀ n ∈ s.regionCores r, chansIdle s n = true) → ∃ u, exec (.launch id) s = .next u ∧ done ck.status 0 ck.payload u
            ∧ u.program r = some { handle := f 38 2, running := true, digest := li.image.digest, tenantKey := li.image.tenantKey }
            ∧ ∀ n ∈ s.regionCores r, (s.core n).lost = none → (u.core n).ctl.lock = true ∧
              let d := declOf li.image (27 * s.rankOf (courseOf n) + s.logical n)
              (d = none → ∀ k < 4, (u.thread n k).st = .idle)
              ∧ ∀ c t, d = some c → c.threads = [t] → (u.thread n t.thread.val).st = .running ∧ (u.thread n t.thread.val).pc = t.pc)
    ∧ (∀ (t : RegionNo) (p : Program), s.program t.val = some p →
      let still := ∀ n ∈ s.regionCores t.val, coreEnded (s.core n) = true
      (p.running = true → still → ∃ u, exec (.programEnd t) s = .next u ∧ u.program t.val = some { p with running := false }
        ∧ u.emu.healthCnt = s.emu.healthCnt + 1 ∧ u.cores = s.cores)
      ∧ (p.running = false ∨ ¬still → exec (.programEnd t) s = .next s))
    ∧ (MessageRuns s id 6 e →
      (s.regionCore r (f 16 2) = none → exec (.signal id) s = .next (completeMsg id stBadArgument 16 [] s))
      ∧ ∀ n, s.regionCore r (f 16 2) = some n → f 18 1 ≤ 14 → 1 ≤ f 19 1 → f 19 1 ≤ 4 → f 20 1 ≤ 15 → (s.core n).lost = none →
        (s.core n).ctl.halted = false → e.due ≤ s.mc →
        ((s.core n).msgRoom (f 18 1) = true → exec (.signal id) s = .next (completeMsg id stOk 0 [] (settle n (acceptMsg n
          { chan := BitVec.ofNat 4 (f 18 1), tag := BitVec.ofNat 4 (f 20 1)
            words := (List.range (f 19 1)).map fun i => BitVec.ofNat 32 (f (24 + 4 * i) 4) } s))))
        ∧ ((s.core n).msgRoom (f 18 1) = false → ∃ u, exec (.signal id) s = .next u ∧ (u.core n).ctl.chFull = (s.core n).ctl.chFull + 1
          ∧ u.entry id = some { e with due := s.mc + nextDelay e.delay, delay := nextDelay e.delay }))
    ∧ (MessageRuns s id 7 e →
      (f 16 1 = 0 → exec (.query id) s = .next
        (completeMsg id stOk 0 ((readyMirror s e.fn.val).flatMap (fun w => leBytes 4 w.toNat) ++ spareBytes s e.fn.val) s))
      ∧ (f 16 1 = 1 ∨ f 16 1 = 2 → ∃ u p, exec (.query id) s = .next u ∧ done stOk 0 p u ∧ u.cores = s.cores)
      ∧ (2 < f 16 1 → exec (.query id) s = .next (completeMsg id stBadArgument 16 [] s)))

/-- CHECKPOINT copies a range of region memory to storage and RESTORE copies it back, up to where an NVMe error stops it; a field that R370
does not allow completes BAD_ARGUMENT at its offset. APERTURE_ACCESS reads or writes BASE + o as traffic of the function's region, or counts
its refusal; DOWNSTREAM_REQUEST is supported for a posted buffer alone, and only from a port of the root port's split. FUNCTION_LEVEL_RESET
disables the function's queue pairs, discards its messages' completions and resets its emulated registers, and no core changes (R338, R341,
R361, R370). -/
def Obligations.StorageAndAperturesReachMemory : Prop :=
  ∀ (s : State) (id : Nat) (e : JEntry) (fn : FnNo),
    let r := msgTarget e.fn.val e.msg
    let at_ := storageAt e.msg 0
    (MessageRuns s id 9 e →
      (∀ o err, rangesBad s r e.msg = some o → exec (.checkpoint id err) s = .next (completeMsg id stBadArgument o [] s))
      ∧ ∀ a n, rangesBad s r e.msg = none → rangesOf e.msg = [(a, n)] →
        exec (.checkpoint id none) s = .next (completeMsg id stOk 0 (leBytes 8 n)
          (modHost (fun h => { h with storage := writeBytes h.storage at_ (regionRead s r a n) }) s))
        ∧ ∀ x : NvmeErr, exec (.checkpoint id (some x)) s = .next (completeMsg id stDeviceError x.status.toNat (leBytes 8 (min x.moved n))
          (modHost (fun h => { h with storage := writeBytes h.storage at_ (regionRead s r a (min x.moved n)) }) s)))
    ∧ (MessageRuns s id 10 e →
      (∀ o err, rangesBad s r e.msg = some o → exec (.restore id err) s = .next (completeMsg id stBadArgument o [] s))
      ∧ ∀ a n, rangesBad s r e.msg = none → rangesOf e.msg = [(a, n)] →
        exec (.restore id none) s = .next (completeMsg id stOk 0 (leBytes 8 n) (regionWrite r a (readBytes s.host.storage at_ n) s))
        ∧ ∀ x : NvmeErr, exec (.restore id (some x)) s = .next (completeMsg id stDeviceError x.status.toNat (leBytes 8 (min x.moved n))
          (regionWrite r a (readBytes s.host.storage at_ (min x.moved n)) s)))
    ∧ (∀ (off : BitVec 36) (acc : ApAccess),
      let g := apRegion s fn.val
      let a := ((s.aperture fn.val).base.toNat * 2 ^ 20 + off.toNat) % 2 ^ 48
      (∀ n, acc = .read n → apGood s g a acc = true → apPoisoned s g a n = false → exec (.apertureAccess fn off acc) s =
        .next { s with rdata := leBits 64 (apRead s g a n), rbytes := apRead s g a n })
      ∧ (∀ d, acc = .write d → apGood s g a acc = true → exec (.apertureAccess fn off acc) s = .next (apWrite g a d s))
      ∧ (apGood s g a acc = false ∨ (∃ n, acc = .read n ∧ apPoisoned s g a n = true) → ∃ u, exec (.apertureAccess fn off acc) s = .next u ∧ (u.hostErr fn.val).apRef = true
        ∧ (u.hostErr fn.val).apCount = satAdd (s.hostErr fn.val).apCount 1 ∧ u.ctls = s.ctls
        ∧ u.outbox = s.outbox ++ (match acc with | .read _ => [.unsupported none] | .write _ => [])))
    ∧ (∀ (port : BitVec 2) (addr : BitVec 64) (len : Nat), exec (.downstreamRequest port addr len) s =
      .next (if s.rootPort port.toNat = false ∨ posted s port.toNat addr.toNat len = true then s else { s with outbox := s.outbox ++ [.unsupported (some port)] }))
    ∧ ∃ u, exec (.functionLevelReset fn) s = .next u ∧ u.cores = s.cores ∧ u.ctls = s.ctls ∧ u.courses = s.courses
      ∧ (∀ q < fnUnits fn.val, (u.qp fn.val q).en = false) ∧ (∀ g : FnNo, g ≠ fn → ∀ q < 64, u.qp g.val q = s.qp g.val q)
      ∧ u.pb.journal = s.pb.journal.map (fun e => if e.fn = fn then { e with discarded := true } else e)
      ∧ u.master fn.val = {} ∧ u.emu.writes = s.emu.writes.filter (fun w => decide (w.master ≠ fn.val))

/-- EMU_REGISTER_WRITE of MODULE_ID, POWER_CAP, LOCATE or RP_CFG by the PF or the BMC, and INST_OFFLINE_REQUEST, change the shadow alone and
wait with PENDING; a VF's write sets DENIED. EMU_SHADOW_APPLY applies or refuses the waiting writes while PB2 runs. POWER_CAP_WRITE is the
write of POWER_CAP. DBG_DOOR_WRITE rings the door once, for 16 to 1,024 bytes, and waits with PENDING while PB0 does not run. POWER_CAP_MSG makes a request of PB1, and POWER_TICK resolves
the requests, of which PB2 refuses with REJECT one that loses, and holds the input power to the cap: over it the newest boost is revoked,
under it a boost goes only to courses that may have it (R344, R345, R386, R387, R388, R393, R410). -/
def Obligations.EmulatedRegistersAndPowerCaps : Prop :=
  ∀ (s : State) (m : Master) (v : Word),
    let i := masterIx m
    let x := s.master i
    let waits (c : Instr) (w : ShadowWrite) : Prop := ∃ u, exec c s = .next u ∧ u.emu.writes = s.emu.writes ++ [w] ∧ (u.master i).pending = true
      ∧ u.emu.moduleId = s.emu.moduleId ∧ u.emu.blink = s.emu.blink ∧ u.emu.rpCfg = s.emu.rpCfg ∧ (u.master i).cap = x.cap ∧ u.pwr = s.pwr
    ((i = 0 ∨ i = 33) →
      (∀ off : BitVec 12, off = 0x010 ∨ off = 0x014 ∨ off = 0x020 ∨ off = 0x024 →
        waits (.emuRegisterWrite m off v) { master := i, off := off, inst := 0, value := v })
      ∧ waits (.powerCapWrite m v) { master := i, off := 0x014, inst := 0, value := v }
      ∧ ∀ b, (∀ k j, s.selInst i = some (k, j) →
          waits (.instOfflineRequest m b) { master := i, off := 0x104, inst := instKey k j, value := if b then 1 else 0 })
        ∧ (s.selInst i = none → exec (.instOfflineRequest m b) s = .next (modMaster i (fun x => { x with badSel := true }) s)))
    ∧ (¬(i = 0 ∨ i = 33) →
      (∀ off : BitVec 12, off.toNat % 4 = 0 → off ≠ 0 → off ≠ 4 → exec (.emuRegisterWrite m off v) s =
        .next (modMaster i (fun x => { x with denied := true
                                              badSel := x.badSel || (decide (0x100 ≤ off.toNat ∧ off.toNat < 0x200) && (s.selInst i).isNone) }) s))
      ∧ exec (.powerCapWrite m v) s = .next (modMaster i (fun x => { x with denied := true }) s))
    ∧ (∃ u, exec (.emuRegisterWrite m 0 v) s = .next u ∧ (u.master i).kind.toNat = fieldOf v 11 8 ∧ (u.master i).index.toNat = v.toNat % 64)
    ∧ (∀ len : BitVec 11,
      (s.pbRuns 0 = false → ∃ u, exec (.dbgDoorWrite len) s = .next u ∧ u.pb.waiting = s.pb.waiting ++ [.door len.toNat]
        ∧ (u.master 33).pending = true ∧ u.emu.dbgBusy = s.emu.dbgBusy ∧ u.emu.dbgLen = s.emu.dbgLen ∧ doorShadow u = len.toNat)
      ∧ (s.pbRuns 0 = true → s.emu.dbgBusy = true ∨ len.toNat < 16 ∨ 1024 < len.toNat → ∃ u, exec (.dbgDoorWrite len) s = .next u ∧ (u.master 33).reject = true
        ∧ u.emu.dbgBusy = s.emu.dbgBusy ∧ u.emu.dbgLen = s.emu.dbgLen
        ∧ u.emu.refusalLog = s.emu.refusalLog ++ [{ master := 33, off := 0x02C, inst := 0, value := len.zeroExtend 32 }])
      ∧ (s.pbRuns 0 = true → s.emu.dbgBusy = false → 16 ≤ len.toNat → len.toNat ≤ 1024 → ∃ u, exec (.dbgDoorWrite len) s = .next u ∧ u.emu.dbgBusy = true
        ∧ u.emu.dbgLen = len))
    ∧ (s.pbRuns 2 = false → exec .emuShadowApply s = .next s)
    ∧ (∀ w, s.pbRuns 2 = true → s.emu.verdicts = [] → s.emu.writes = [w] → w.master = i → (i = 0 ∨ i = 33) → ∃ u, exec .emuShadowApply s = .next u ∧ u.emu.writes = []
      ∧ (w.off = 0x020 → u.emu.blink = w.value.getLsbD 0 ∧ u.emu.refusalLog = s.emu.refusalLog)
      ∧ (w.off = 0x014 → s.sec.emuLock = false → w.value.toNat % 65536 = 0 ∨ 400 ≤ w.value.toNat % 65536 →
        u.pwr.reqs = s.pwr.reqs ++ [.cap i (w.value.truncate 16)] ∧ (u.master i).pending = true)
      ∧ (w.off = 0x014 → s.sec.emuLock = false → 1 ≤ w.value.toNat % 65536 → w.value.toNat % 65536 ≤ 399 →
        (u.master i).reject = true ∧ (u.master i).capShadow = x.cap ∧ u.pwr.reqs = s.pwr.reqs ∧ u.emu.refusalLog = s.emu.refusalLog ++ [w])
      ∧ (w.off = 0x010 → s.sec.emuLock = false → w.value.toNat % 65536 ≠ s.emu.moduleId.toNat → (∃ l < 40, (s.link l).en = true) →
        (u.master i).wrBusy = true ∧ u.emu.moduleId = s.emu.moduleId ∧ u.module = s.module)
      ∧ (w.off = 0x010 → s.sec.emuLock = false → (∀ l < 40, (s.link l).en = false) → u.emu.moduleId = w.value.truncate 16
        ∧ u.emu.moduleIdWritten = true ∧ u.module = (if s.pbRuns 3 = true then w.value.truncate 16 else s.module))
      ∧ (w.off = 0x024 → s.sec.emuLock = true → i = 0 → w.value.toNat % 64 ≠ s.emu.rpCfg.toNat → (u.master 0).lockViol = true
        ∧ u.emu.rpCfg = s.emu.rpCfg))
    ∧ (∀ id e, MessageRuns s id 11 e → (∀ q ∈ s.pwr.reqs, ∀ w, q ≠ .capMsg id w) →
      let w := msgField e.msg 16 2
      (1 ≤ w → w ≤ 399 → exec (.powerCapMsg id) s = .next (completeMsg id stBadArgument 16 [] s))
      ∧ (w = 0 ∨ 400 ≤ w → exec (.powerCapMsg id) s = .next (modPwr (fun p => { p with reqs := p.reqs ++ [.capMsg id (BitVec.ofNat 16 w)] }) s)))
    ∧ ∀ p, (s.pbRuns 1 = false → exec (.powerTick p) s = .next s)
      ∧ (s.pbRuns 1 = true →
        (∀ w, s.pwr.reqs = [.cap 0 w] → ∃ u, exec (.powerTick p) s = .next u ∧ (u.master 0).cap = w ∧ u.pwr.reqs = [])
        ∧ (∀ w, s.pwr.reqs = [.cap 0 w, .moduleState .bmc] → ∃ u, exec (.powerTick p) s = .next u ∧ (u.master 0).cap = (s.master 0).cap
          ∧ (s.pbRuns 2 = true → (u.master 0).reject = true))
        ∧ (s.pwr.reqs = [] → s.pwr.hot = [] → ∃ u, exec (.powerTick p) s = .next u
          ∧ (s.effCap.1 < p → (∀ c, s.pwr.boosted.getLast? = some c → c ∉ u.pwr.boosted) ∧ ∀ b ∈ u.pwr.boosted, b ∈ s.pwr.boosted)
          ∧ (p ≤ s.effCap.1 → (∀ b ∈ s.pwr.boosted, b ∈ u.pwr.boosted) ∧ ∀ b ∈ u.pwr.boosted, b ∉ s.pwr.boosted →
            s.pwr.variantB = false ∧ s.pwr.boostEn.getLsbD b.val = true ∧ p + 23 ≤ s.effCap.1 ∧ 23 ≤ s.pwr.pool)))

/-- SHELL_SETPOINT_WRITE, in force from the next control step, SHELL_CALIBRATE and SHELL_CALIBRATION_DONE act on the selected or named shell;
SHELL_FAULT of a regulator loses its course's cores. DOM_TARGET_WRITE refuses what R384 refuses, else orders the domain down at once or up,
and DOMAIN_STATE_REACHED reaches the target; both wait for PB1 where the work is its. DWELL_EXPIRE lends a course's budget and RECLAIM_GRANT
wakes it. FASTCAP steps every course one divider down. THERMAL_CROSSING marks a sensor with its alert and releases it 5 °C below what set it,
THERMAL_TRIP ends everything, ALERT_CAUSE_CLEAR clears causes (R276, R277, R343, R374, R381, R382, R384, R388, R389, R390, R391). -/
def Obligations.PowerAndHeatAreManaged : Prop :=
  ∀ (s : State) (c : CourseNo),
    let x := s.course c.val
    (∀ who sp, (s.selected who = none → exec (.shellSetpointWrite who sp) s = .next s ∧ exec (.shellCalibrate who) s = .next s)
      ∧ ∀ k, s.selected who = some k →
        (k / 256 ≠ 1 ∨ (s.shell k).lock = false → ∃ u, exec (.shellSetpointWrite who sp) s = .next u ∧ (u.shell k).setpoint = clampSet (k / 256) sp
          ∧ ((s.shell k).setpoint ≠ clampSet (k / 256) sp → (u.shell k).inForce s.mc = (s.shell k).inForce s.mc
            ∧ (u.shell k).inForce ((s.mc / 64 + 1) * 64) = clampSet (k / 256) sp))
        ∧ (k / 256 = 1 → (s.shell k).lock = true → clampSet 1 sp ≠ (s.shell k).setpoint → ∃ u, exec (.shellSetpointWrite who sp) s = .next u
          ∧ (u.shell k).setpoint = (s.shell k).setpoint ∧ (u.shell k).lockViol = true)
        ∧ exec (.shellCalibrate who) s = .next (modShell k (fun x => { x with busy := true }) s))
    ∧ (∀ i k res, shellOf i = some k →
      ((s.shell k).busy = true → ∃ u, exec (.shellCalibrationDone i res) s = .next u ∧ (u.shell k).busy = false ∧ (u.shell k).result = res
        ∧ (u.shell k).lost = decide (res ≠ 0) ∧ (res ≠ 0 → ∀ t, (u.shell k).ready i.kind.toNat t = false))
      ∧ ((s.shell k).busy = false → exec (.shellCalibrationDone i res) s = .next s)
      ∧ ∃ u, exec (.shellFault i) s = .next u ∧ (u.shell k).fault = true ∧ (∀ t, (u.shell k).ready i.kind.toNat t = false)
        ∧ (i.kind = 0 → ∀ n ∈ s.courseCores i.index.toNat, (u.core n).lost ≠ none))
    ∧ (∀ t : BitVec 3, let d := s.pwr.domSel.toNat
      let y := s.dom d
      (58 ≤ d → exec (.domTargetWrite t) s = .next s)
      ∧ (d < 58 → s.pbRuns 1 = false → exec (.domTargetWrite t) s = .next (modPb (fun b => { b with waiting := b.waiting ++ [.target d t] }) s))
      ∧ (s.pbRuns 1 = true → t = y.target ∨ y.state ≠ y.target → exec (.domTargetWrite t) s = .next s)
      ∧ (d < 58 → s.pbRuns 1 = true → t ≠ y.target → y.state = y.target →
        (targetRefused s d t.toNat = true → exec (.domTargetWrite t) s = .next (modDom d (fun x => { x with refused := true }) s))
        ∧ (targetRefused s d t.toNat = false → ∃ u, exec (.domTargetWrite t) s = .next u ∧ (u.dom d).target = t
          ∧ (u.dom d).state = if y.state.toNat ≤ t.toNat then t else y.state)))
    ∧ (∀ d : DomainNo, let y := s.dom d.val
      (y.state = y.target → exec (.domainStateReached d) s = .next s)
      ∧ (y.state ≠ y.target → (32 ≤ d.val ∨ y.state ≠ 4 ∨ s.host.readyHbm.getLsbD (stackOf d.val) = true) →
        (46 ≤ d.val ∨ y.state ≠ 4 ∨ s.pbRuns 1 = true) → ∃ u,
        exec (.domainStateReached d) s = .next u ∧ (u.dom d.val).state = y.target ∧ (u.dom d.val).target = y.target)
      ∧ (d.val < 46 → y.state = 4 → y.target ≠ 4 → s.pbRuns 1 = false → exec (.domainStateReached d) s =
        .next (modPb (fun b => { b with waiting := b.waiting ++ [.reached d.val] }) s)))
    ∧ (let ends := x.lend = true ∧ x.wstate = .dwell ∧ x.dwellAt + max 1 x.dwell.toNat * 1600 ≤ s.mc
      (ends → ∃ u, exec (.dwellExpire c) s = .next u ∧ (u.course c.val).wstate = .lent ∧ (u.course c.val).lends = x.lends + 1
        ∧ (u.course c.val).div = 8 ∧ u.pwr.pool = s.pwr.pool + (divBudget (s.divOf c.val) - 5) ∧ c ∉ u.pwr.boosted)
      ∧ (¬ends → exec (.dwellExpire c) s = .next s))
    ∧ (x.wstate = .reclaim → s.pbRuns 1 = true → ∃ u, exec (.reclaimGrant c) s = .next u ∧ (u.course c.val).credited = 0
      ∧ (u.course c.val).wstate = (if x.lend = true ∧ ∀ n ∈ s.courseCores c.val, (s.core n).gated = true then .dwell else .awake))
    ∧ (x.wstate ≠ .reclaim ∨ s.pbRuns 1 = false → exec (.reclaimGrant c) s = .next s)
    ∧ (∃ u, exec .fastcap s = .next u ∧ u.pwr.fastcap = true ∧ (s.divOf c.val = 3 → (u.course c.val).div = 4 + min x.throttled 2)
      ∧ (s.divOf c.val = 4 → (u.course c.val).div = 5) ∧ (s.divOf c.val = 5 → (u.course c.val).div = 6))
    ∧ (∀ (n : SensorNo) (l : ThermLevel) (v : BitVec 16),
      let key := if l = .hard then 64 + n.val else n.val
      let lim : Int := thermLimit s n.val l * 4
      let hot := mapGet false s.pwr.hot key
      (hot = false → lim ≤ v.toInt → ∃ u, exec (.thermalCrossing n l true v) s = .next u ∧ mapGet false u.pwr.hot key = true
        ∧ mapGet 0 u.pwr.hotAt key = thermLimit s n.val l ∧ u.emu.healthCnt = s.emu.healthCnt + 1 ∧ u.host.alertCause.getLsbD 0 = true ∧ (l = .hard → u.pwr.hwtherm = true)
        ∧ (l = .hard → n.val < 32 → (u.course n.val).div = 8))
      ∧ (hot = true → v.toInt ≤ mapGet 0 s.pwr.hotAt key * 4 - 20 → ∃ u, exec (.thermalCrossing n l false v) s = .next u ∧ mapGet false u.pwr.hot key = false)
      ∧ (hot = true ∨ v.toInt < lim → ∃ u, exec (.thermalCrossing n l true v) s = .next u ∧ u.pwr.hot = s.pwr.hot ∧ u.courses = s.courses
        ∧ u.emu.healthCnt = s.emu.healthCnt)
      ∧ (460 ≤ v.toInt → ∃ u, exec (.thermalTrip n v) s = .next u ∧ u.pwr.trip = true ∧ u.phys.thermtrip = true
        ∧ (∀ k < 32, (u.course k).valid = false) ∧ (∀ d < 58, (u.dom d).state = 4) ∧ (∀ j < 40, (u.link j).en = false)
        ∧ u.host.readyCourse = 0 ∧ u.host.readyLink = 0 ∧ u.host.readyEp = false ∧ u.pwr.boosted = [])
      ∧ (v.toInt < 460 → ∃ u, exec (.thermalTrip n v) s = .next u ∧ u.pwr.trip = s.pwr.trip ∧ u.courses = s.courses ∧ u.cores = s.cores))
    ∧ ∀ v : Word, exec (.alertCauseClear v) s = .next (modHost (fun h => { h with alertCause := h.alertCause &&& ~~~(v.truncate 4) }) s)

/-! ## Pegbox and the module's hardware -/

/-- MODULE_RESET, POWER_UP and INPUT_RETURN boot the module: no core holds anything, fuses and boot flash stay, and the PB cores run whose
images verify; INPUT_DISCONNECT leaves every domain off, and PCIE_LINK_TRAINED sets READY_SYS.EP while PB2 runs. PB_RESET, WATCHDOG_EXPIRE and
PB_CORE_RUNS restart a PB core, whose registers and local memory are lost and which runs if its image verifies, by PB0 while PB0 runs;
PB_KICK restarts its period. FW_STAGE writes a chunk to the inactive bank and FW_ACTIVATE moves PB3 first (R366, R367, R372, R373, R374,
R375, R376, R434, R435; what the image of a bank is, log 10). -/
def Obligations.PegboxBootsAndRestarts : Prop :=
  ∀ (s : State) (n : PbNo),
    let b := s.pb
    let booted (s u : State) : Prop := u.cores = [] ∧ u.nodes = [] ∧ u.mc = 0 ∧ u.module = 0xFFFF ∧ u.pending = s.pending ∧ u.sec.life = s.sec.lifeFuse
      ∧ u.sec.sessions = [] ∧ u.pb.flashA = s.pb.flashA ∧ u.pb.flashB = s.pb.flashB ∧ u.pb.journal = [] ∧ u.pb.repair = s.pb.repair
    let boots (c : Instr) (s : State) : Prop := ∃ u, exec c s = .next u ∧ booted s u
      ∧ ∀ i < 4, u.pb.run.getLsbD i = imageVerifies (coldState s) s.pb.bankRec i ∧ u.pb.bootfail.getLsbD i = !imageVerifies (coldState s) s.pb.bankRec i
    (s.phys.pwrgd = true → boots .moduleReset s)
    ∧ (s.phys.pwrgd = false → exec .moduleReset s = .next s)
    ∧ (s.phys.vin = true → boots .powerUp s)
    ∧ (s.phys.vin = false → exec .powerUp s = .next { s with phys := { s.phys with pwrEn := true } })
    ∧ (s.phys.pwrEn = true → boots .inputReturn s)
    ∧ (s.phys.pwrEn = false → exec .inputReturn s = .next { s with phys := { s.phys with vin := true } })
    ∧ (∀ enLow, ∃ u, exec (.inputDisconnect enLow) s = .next u ∧ booted s u ∧ u.phys.vin = (enLow && s.phys.vin)
      ∧ u.phys.pwrEn = (!enLow && s.phys.pwrEn) ∧ u.phys.pwrgd = false ∧ u.pb.run = 0 ∧ u.emu.rpCfg = s.emu.rpCfg
      ∧ ∀ d < 58, (u.dom d).state = 4)
    ∧ (s.phys.pwrgd = true → ∃ u, exec .pcieLinkTrained s = .next u ∧ u.host.pcieTrained = true
      ∧ u.host.readyEp = (s.host.readyEp || (s.pbRuns 2 && !s.phys.thermtrip && !s.host.svcFailed.getLsbD 0)))
    ∧ (s.phys.pwrgd = false → exec .pcieLinkTrained s = .next s)
    ∧ (∀ who v, (who ≠ .pb 0 → exec (.pbReset who v) s = .next s)
      ∧ (who = .pb 0 → s.pbRuns 0 = false → exec (.pbReset who v) s = .next (modPb (fun b => { b with waiting := b.waiting ++ [.restart v] }) s))
      ∧ (who = .pb 0 → s.pbRuns 0 = true → ∃ u, exec (.pbReset who v) s = .next u ∧ u.pb.bank.toNat = fieldOf v 7 4 ∧ ∀ i < 4,
        u.pb.run.getLsbD i = (b.run.getLsbD i && !v.getLsbD i) ∧ u.pb.restarting.getLsbD i = (b.restarting.getLsbD i || v.getLsbD i)
          ∧ mapGet [] u.pb.localMem i = (if v.getLsbD i = true then [] else mapGet [] b.localMem i)
          ∧ entryAt u.pb.t0 i = (if v.getLsbD i = true then none else entryAt b.t0 i)))
    ∧ (let late := s.pbRuns n.val = true ∧ mapGet 0 b.kickAt n.val + max 1 b.wdogMs.toNat * 1600000 ≤ s.mc
      (¬late → exec (.pbKick n) s = .next (modPb (fun b => { b with kickAt := mapSet 0 b.kickAt n.val s.mc }) s))
      ∧ (late → exec (.pbKick n) s = .next s))
    ∧ (b.act = none →
      let late := s.pbRuns n.val = true ∧ mapGet 0 b.kickAt n.val + max 1 b.wdogMs.toNat * 1600000 ≤ s.mc
      (late → ∃ u, exec (.watchdogExpire n) s = .next u ∧ u.pb.wdog.getLsbD n.val = true ∧ u.pb.restarting.getLsbD n.val = true
        ∧ u.pb.run.getLsbD n.val = false ∧ ∀ i < 4, i ≠ n.val → u.pb.run.getLsbD i = b.run.getLsbD i)
      ∧ (¬late → exec (.watchdogExpire n) s = .next s))
    ∧ (n ≠ 0 → s.pbRuns 0 = false → exec (.pbCoreRuns n) s = .next (modPb (fun b => { b with waiting := b.waiting ++ [.runs n] }) s))
    ∧ (b.restarting.getLsbD n.val = false → s.pbRuns 0 = true ∨ n = 0 → b.waiting = [] → exec (.pbCoreRuns n) s = .next s)
    ∧ (b.restarting.getLsbD n.val = true → s.pbRuns 0 = true ∨ n = 0 → b.act = none → b.waiting = [] → s.sec.waiting = [] → ∃ u, exec (.pbCoreRuns n) s = .next u ∧ u.pb.restarting.getLsbD n.val = false
      ∧ (imageVerifies s (b.bank.getLsbD n.val) n.val = true → u.pb.run.getLsbD n.val = true)
      ∧ (imageVerifies s (b.bank.getLsbD n.val) n.val = false → u.pb.bootfail.getLsbD n.val = true ∧ u.pb.run = b.run))
    ∧ (∀ id e, MessageRuns s id 12 e →
      (b.act ≠ none → exec (.fwStage id) s = .next (completeMsg id stBusy 0 [] s))
      ∧ (∀ o, b.act = none → stageBad e.msg = some o → exec (.fwStage id) s = .next (completeMsg id stBadArgument o [] s))
      ∧ (b.act = none → stageBad e.msg = none →
        let off := msgField e.msg 16 4
        let data := (e.msg.drop 32).take (msgField e.msg 20 4 - off)
        let c := some (completionBytes e.msg stOk 0 [])
        ∃ u, exec (.fwStage id) s = .next u ∧ u.entry id = some { e with result := c, made := c }
          ∧ u.flash b.bankRec = s.flash b.bankRec ∧ u.flash (!b.bankRec) = writeBytes (if off = 0 then [] else s.flash (!b.bankRec)) off data))
    ∧ ∀ id e, MessageRuns s id 13 e →
      let bank := !b.bankRec
      (b.act ≠ none → exec (.fwActivate id) s = .next (completeMsg id stBusy 0 [] s))
      ∧ (b.act = none → s.pbRuns 0 = false → exec (.fwActivate id) s = .next s)
      ∧ (b.act = none → s.pbRuns 0 = true → (∃ i < 4, imageVerifies s bank i = false) → ∃ u, exec (.fwActivate id) s = .next u
        ∧ (∃ c, c = some (completionBytes e.msg stDeviceError 1 []) ∧ u.entry id = some { e with handed := true, result := c, made := c })
        ∧ u.pb.run = b.run)
      ∧ (b.act = none → s.pbRuns 0 = true → (∀ i < 4, imageVerifies s bank i = true) → ∃ u, exec (.fwActivate id) s = .next u
        ∧ u.pb.act = some { id := id, bank := bank, moved := [], current := some 3 } ∧ u.pb.restarting.getLsbD 3 = true
        ∧ u.pb.run.getLsbD 3 = false ∧ u.pb.bank.getLsbD 3 = bank ∧ u.entry id = some { e with handed := true })

/-- LATCH_OPEN, STBY_EN_RISE and BUTTON_LONG_PRESS start a module quiesce where none runs; QUIESCE_GRACE_EXPIRE ends the grace and, with no
region left, disables the links and orders the domains down; QUIESCE_COMPLETE reaches step 6 once all is down. LATCH_CLOSE, STBY_EN_FALL and a
further press return the module to service when nothing else holds it. BUTTON_SHORT_PRESS toggles LOCATE (R441, R442, R443, R444, R445). -/
def Obligations.QuiesceAndReturnToService : Prop :=
  ∀ s : State,
    let p := s.phys
    let starts (c : Instr) (button : Bool) (q : Phys → Prop) : Prop := ∃ u, exec c s = .next u ∧ q u.phys ∧ u.courses = s.courses
      ∧ (p.quiesce = none → p.thermtrip = false → p.pwrgd = true → u.phys.quiesce = some { button := button, graceOver := false, safe := false, start := s.mc }
        ∧ u.pwr.reqs = s.pwr.reqs ++ [.moduleState .bmc])
      ∧ (p.quiesce ≠ none → button = false → u.phys.quiesce = p.quiesce)
    let returns (c : Instr) (held : Bool) (q : Phys → Prop) : Prop := ∃ u, exec c s = .next u ∧ q u.phys
      ∧ ∀ k, p.quiesce = some k → (k.safe = true → k.button = false → held = false → p.thermtrip = false → s.pbRuns 1 = true →
          u.phys.quiesce = none ∧ ∀ d < 32, (s.course d).withheld = false → (u.dom d).target = 0)
        ∧ (k.safe = false ∨ k.button = true ∨ held = true ∨ p.thermtrip = true ∨ s.pbRuns 1 = false → u.phys.quiesce = some k)
    starts .latchOpen false (fun u => u.latchOpen = true)
    ∧ (∃ u, exec .latchOpen s = .next u ∧ u.host.alertCause.getLsbD 3 = true)
    ∧ starts .stbyEnRise false (fun u => u.stby = true)
    ∧ (∃ u, exec .stbyEnRise s = .next u ∧ u.host.alertCause = s.host.alertCause)
    ∧ (p.quiesce = none → starts .buttonLongPress true (fun u => u.latchOpen = p.latchOpen))
    ∧ (∀ k, p.quiesce = some k → ∃ u, exec .buttonLongPress s = .next u ∧ u.host.alertCause.getLsbD 2 = true ∧
      (k.safe = false ∨ k.button = false → u.phys.quiesce = some k)
      ∧ (k.safe = true → k.button = true → p.latchOpen = false → p.stby = false → p.thermtrip = false → s.pbRuns 1 = true → u.phys.quiesce = none)
      ∧ (k.safe = true → k.button = true → p.latchOpen = true ∨ p.stby = true → u.phys.quiesce = some { k with button := false }))
    ∧ (∃ u, exec .buttonShortPress s = .next u ∧ u.host.alertCause.getLsbD 1 = true
      ∧ (s.pbRuns 2 = true → u.emu.blink = !s.emu.blink ∧ u.emu.blinkShadow = !s.emu.blink)
      ∧ (s.pbRuns 2 = false → u.emu.blink = s.emu.blink ∧ u.emu.toggleDue = !s.emu.toggleDue))
    ∧ returns .latchClose p.stby (fun u => u.latchOpen = false)
    ∧ returns .stbyEnFall p.latchOpen (fun u => u.stby = false)
    ∧ (p.quiesce = none → exec .quiesceGraceExpire s = .next s ∧ exec .quiesceComplete s = .next s)
    ∧ ∀ k, p.quiesce = some k →
      (k.safe = true → exec .quiesceGraceExpire s = .next s ∧ exec .quiesceComplete s = .next s)
      ∧ (k.safe = false → k.graceOver = false → liveRegions s ≠ [] → s.mc < k.start + 48000000000 → exec .quiesceGraceExpire s = .next s)
      ∧ (k.safe = false → k.graceOver = true ∨ liveRegions s = [] ∨ k.start + 48000000000 ≤ s.mc → ∃ u, exec .quiesceGraceExpire s = .next u ∧ u.phys.quiesce = some { k with graceOver := true }
        ∧ (liveRegions s = [] → p.thermtrip = false → s.pbRuns 1 = true → s.pbRuns 3 = true →
          (∀ l < 40, (u.link l).en = false) ∧ ∀ d < 58, (u.dom d).target = BitVec.ofNat 3 (quiesceState s d)))
      ∧ (k.safe = false → k.graceOver = false ∨ quiesced s = false → exec .quiesceComplete s = .next s)
      ∧ (k.safe = false → k.graceOver = true → quiesced s = true →
        let held := k.button = true ∨ p.latchOpen = true ∨ p.stby = true ∨ p.thermtrip = true ∨ s.pbRuns 1 = false
        ∃ u, exec .quiesceComplete s = .next u ∧ (held → u.phys.quiesce = some { k with safe := true }) ∧ (¬held → u.phys.quiesce = none))

/-! ## Security and debug -/

/-- NONCE issues a fresh nonce; DBG_OPEN opens DBG-OBSERVE for the PF and the BMC, DBG-FULL in DEVELOP, DBG-TENANT on a good token for its
lifetime; DBG_END, SESSION_EXPIRE and NONCE_LAPSE end them. DBG_STOP, DBG_RELEASE, DBG_STEP, DBG_READ and DBG_WRITE need a session that
reaches the core, region or register, and act on its threads, registers and memory. TRACE writes the trace registers; TRACE_RECORD writes or
counts the oldest record due of a thread. While PB0 restarts, requests wait; one whose object has not come does nothing (R374, R404, R406, R407, R408, R409, R412, R413, R414, R415, R416; the targets' numbers,
log 10; a Pegbox core's registers, log 31). -/
def Obligations.DebugRequestsAreServed : Prop :=
  ∀ (s : State) (p : DbgPath),
    let q := requester p
    let sec := s.sec
    let gives (c : Instr) (st : Nat) (data : List Byte) (post : State → Prop) : Prop := ∃ u, exec c s = .next u
      ∧ u.sec.resps = sec.resps ++ [{ path := p, status := st, data := data }] ∧ post u
    let same (u : State) : Prop := u.cores = s.cores ∧ u.ctls = s.ctls ∧ u.sec.sessions = sec.sessions
    (∀ tok, s.pbRuns 0 = false → p ≠ .bmc → (p = .tap → sec.dbgacc ≠ []) →
      let kept (r : Pb0Req) : State := modSec (fun x => { x with waiting := x.waiting ++ [r], dbgacc := if p = .tap then [] else x.dbgacc }) s
      exec (.nonce p) s = .next (kept (.nonce p)) ∧ exec (.dbgOpen p 2 tok) s = .next (kept (.open_ p 2 tok)))
    ∧ (∀ tok, p = .tap → sec.dbgacc = [] → exec (.nonce p) s = .next s ∧ exec (.dbgOpen p 2 tok) s = .next s)
    ∧ (∀ tok, p = .bmc → doorRung s = false → exec (.nonce p) s = .next s ∧ exec (.dbgOpen p 1 tok) s = .next s)
    ∧ (RequestServed s p →
      (gives (.nonce p) 0 (leBytes 8 (Config.freeBits 64 s.free).toNat) fun u => nonceOf u p = some (Config.freeBits 64 s.free) ∧ u.free = s.free + 1)
      ∧ (∀ tok, gives (.dbgOpen p 0 tok) 5 [] same
        ∧ ((q = 0 ∨ q = 33) → gives (.dbgOpen p 1 tok) 0 [] fun u => ∃ e, u.sec.sessions = sec.sessions ++ [e] ∧ e.path = p ∧ e.level = 1 ∧ e.ends = none)
        ∧ (¬(q = 0 ∨ q = 33) → gives (.dbgOpen p 1 tok) 1 [] same)
        ∧ (sec.life = lifeDevelop → q ≠ 33 → gives (.dbgOpen p 3 tok) 0 [] fun u => ∃ e, u.sec.sessions = sec.sessions ++ [e] ∧ e.path = p ∧ e.level = 3
          ∧ u.sec.level = 3)
        ∧ (sec.life ≠ lifeDevelop ∨ q = 33 → gives (.dbgOpen p 3 tok) 1 [] same)
        ∧ ((sec.life ≠ lifeDevelop ∧ sec.life ≠ lifeField) ∨ q = 33 → gives (.dbgOpen p 2 tok) 1 [] same)
        ∧ (sec.life = lifeDevelop ∨ sec.life = lifeField → q ≠ 33 →
          let r := (tok.getD 2 0).toNat
          (tokenGood s p tok = false → gives (.dbgOpen p 2 tok) 2 [] fun u => same u ∧ nonceOf u p = none)
          ∧ (tokenGood s p tok = true → (q ≠ 0 ∧ q ≠ r + 1) → gives (.dbgOpen p 2 tok) 1 [] fun u => same u ∧ nonceOf u p = none)
          ∧ (tokenGood s p tok = true → (q = 0 ∨ q = r + 1) → r < 32 → gives (.dbgOpen p 2 tok) 0 [] fun u => nonceOf u p = none ∧ ∃ e,
            u.sec.sessions = sec.sessions ++ [e] ∧ e.path = p ∧ e.level = 2 ∧ e.region.map (·.val) = some r
            ∧ e.ends = some (s.mc + leNat ((tok.drop 12).take 4) * 1600000000) ∧ u.sec.rdbg.getLsbD r = true ∧ u.sec.rdone.getLsbD r = true)))
      ∧ (sessionsOf s p = [] → gives (.dbgEnd p) 1 [] same)
      ∧ (sessionsOf s p ≠ [] → gives (.dbgEnd p) 0 [] fun u => u.sec.sessions = sec.sessions.filter fun e => decide (requester e.path ≠ q))
      ∧ (∀ (node : NodeNo) (mask : BitVec 4),
        let n := node.val
        let ok := reachesCore s p n = true ∧ s.exposed n = true ∧ s.domState (courseOf n) < 2 ∧ (s.core n).lost = none
        let hit (k : ThreadNo) : Prop := mask.getLsbD k.val = true
        (∀ c ∈ [Instr.dbgStop p node mask, .dbgRelease p node mask, .dbgStep p node mask],
          (reachesCore s p n = false → gives c 1 [] same)
          ∧ (reachesCore s p n = true → s.exposed n = false → gives c 5 [] same)
          ∧ (reachesCore s p n = true → s.exposed n = true → 2 ≤ s.domState (courseOf n) → gives c 3 [] same))
        ∧ (ok → isCore n = true →
          gives (.dbgStop p node mask) 0 [] (fun u => ∀ k : ThreadNo, hit k →
            ((s.thread n k.val).st = .waiting → (u.thread n k.val).st = .parkedDebug)
            ∧ ((s.thread n k.val).st = .running → (u.core n).ctl.dbgPend.getLsbD k.val = true))
          ∧ gives (.dbgRelease p node mask) 0 [] (fun u => ∀ k : ThreadNo, hit k →
            ((s.thread n k.val).st = .parkedDebug → (u.thread n k.val).st = .running)
            ∧ ((s.thread n k.val).st = .running → (u.core n).ctl.dbgPend.getLsbD k.val = false))
          ∧ gives (.dbgStep p node mask) 0 [] (fun u => ∀ k : ThreadNo, hit k →
            (u.core n).ctl.dbgPend.getLsbD k.val = true ∧ ((s.thread n k.val).st = .parkedDebug → (u.thread n k.val).st = .running)))
        ∧ ∀ (k : ThreadNo) (g : BitVec 5) (v : Word), ok → (s.thread n k.val).st = .parkedDebug →
          gives (.dbgRead p (.threadReg node k g.toNat) 4) 0 (leBytes 4 ((s.thread n k.val).getG g).toNat) (fun u => same u)
          ∧ gives (.dbgWrite p (.threadReg node k g.toNat) (leBytes 4 v.toNat)) 0 [] (fun u => u.thread n k.val = (s.thread n k.val).setG g v))
      ∧ (∀ (a : RegAddr) (sel : Word), hasFull s p = false → (observed a && observes s p) = false → gives (.dbgRead p (.register a sel) 4) 1 [] same)
      ∧ (∀ (b : PbNo) (g : BitVec 5), (hasFull s p = false → gives (.dbgRead p (.pbReg b g.toNat) 4) 1 [] same)
        ∧ (hasFull s p = true → gives (.dbgRead p (.pbReg b g.toNat) 4) 0 (leBytes 4 ((mapGet {} s.pb.t0 b.val : Thread).getG g).toNat) same))
      ∧ (∀ (r : RegionNo) (a : Addr) (len : Nat),
        (reaches s p r.val = false → gives (.dbgRead p (.memory r a) len) 1 [] same)
        ∧ (reaches s p r.val = true → 1024 < len → gives (.dbgRead p (.memory r a) len) 5 [] same)
        ∧ (reaches s p r.val = true → len ≤ 1024 → imemRange s r.val a.toNat len = none → rangeMapped s r.val a.toNat len = true →
          rangeUp s r.val a.toNat len = true → rangeGood s r.val a.toNat len = true →
          (regionPoisoned s r.val a.toNat len = true → gives (.dbgRead p (.memory r a) len) 4 [] same)
          ∧ (regionPoisoned s r.val a.toNat len = false → gives (.dbgRead p (.memory r a) len) 0 (regionRead s r.val a.toNat len) same))
        ∧ ∀ bs : List Byte, bs.length = len → reaches s p r.val = true → len ≤ 1024 → imemRange s r.val a.toNat len = none →
          rangeMapped s r.val a.toNat len = true → rangeUp s r.val a.toNat len = true → rangeGood s r.val a.toNat len = true →
          gives (.dbgWrite p (.memory r a) bs) 0 [] fun u => u.ctls = (regionWrite r.val a.toNat bs s).ctls ∧ u.cores = (regionWrite r.val a.toNat bs s).cores)
      ∧ ∀ (ctl : Word) (base : DWord) (len : Word),
        let r := fieldOf ctl 12 8
        (reaches s p r = false → gives (.trace p ctl base len) 1 [] same)
        ∧ (reaches s p r = true → base.toNat % 4096 = 0 → len.toNat % 4096 = 0 → base.toNat + len.toNat ≤ t1Share s r → sec.traceEn = false →
          gives (.trace p ctl base len) 0 [] fun u => u.sec.traceEn = ctl.getLsbD 31 ∧ u.sec.traceRegion.toNat = r ∧ u.sec.traceDest = ctl.getLsbD 0
            ∧ u.sec.traceBase = base ∧ u.sec.traceLen = len))
    ∧ (∀ id, ∃ u, exec (.sessionExpire id) s = .next u ∧ ∀ e, e ∈ u.sec.sessions ↔ e ∈ sec.sessions ∧ ¬(e.id = id ∧ ∃ t, e.ends = some t ∧ t ≤ s.mc))
    ∧ (∃ u, exec (.nonceLapse p) s = .next u ∧ u.cores = s.cores
      ∧ ∀ r, r ∈ u.sec.nonces ↔ r ∈ sec.nonces ∧ ¬(requester r.path = q ∧ r.issued + 96000000000 ≤ s.mc))
    ∧ ((∀ r ∈ s.sec.nonces, requester r.path = requester p → s.mc < r.issued + 96000000000) → exec (.nonceLapse p) s = .next s)
    ∧ ((∀ r ∈ sec.nonces, requester r.path = q → r.issued + 96000000000 ≤ s.mc) → nonceOf s p = none)
    ∧ ∀ (node : NodeNo) (k : ThreadNo), isCore node.val = true →
      let mine (r : TraceRec) : Bool := decide (r.node = node.val ∧ r.thread = k)
      ((∀ r ∈ sec.traceDue, mine r = false) → ∀ w, exec (.traceRecord node k w) s = .next s)
      ∧ ∀ before r after, sec.traceDue = before ++ r :: after → (∀ r' ∈ before, mine r' = false) → mine r = true →
        let s' := modSec (fun x => { x with traceDue := before ++ after }) s
        (traced s node.val = false → ∀ w, exec (.traceRecord node k w) s = .next s')
        ∧ (traced s node.val = true →
          exec (.traceRecord node k false) s = .next (modSec (fun x => { x with traceLost := satAdd x.traceLost 1 }) s')
          ∧ (s.host.traceLanes = true → sec.traceDest = false → exec (.traceRecord node k true) s =
            .next { s' with outbox := s.outbox ++ [.trace r.bytes] })
          ∧ (s.host.traceLanes = false ∨ sec.traceDest = true → sec.traceLen ≠ 0 → ∃ u, exec (.traceRecord node k true) s = .next u ∧
            let at_ := sec.traceNext.toNat % (sec.traceLen.toNat / 256)
            u.sec.traceNext = BitVec.ofNat 24 ((at_ + 1) % (sec.traceLen.toNat / 256)) ∧ u.sec.traceDue = before ++ after
            ∧ u.ctls = (regionWrite sec.traceRegion.toNat (sec.traceBase.toNat + 256 * at_) r.bytes s).ctls))

/-- LIFECYCLE_TRANSITION goes forward only, for the PF: to DEVELOP or FIELD at once, to RETURN on a good token, with UDS blown to all ones and
the device's keys gone; it takes effect at the next reset. The SPDM requests GET_VERSION, GET_CAPABILITIES, NEGOTIATE_ALGORITHMS, GET_DIGESTS,
GET_CERTIFICATE, CHALLENGE and GET_MEASUREMENTS are answered, the last two with a nonce of the TRNG and signed while the keys are held. EXTEST,
IDCODE, SAMPLE_PRELOAD, DBGACC and BYPASS select their data registers, boundary scan in FIELD only under DBG-FULL (R396, R397, R398, R403, R411;
the request codes are log 38's, the free nonce log 3's). -/
def Obligations.LifecycleAttestationAndTap : Prop :=
  ∀ (s : State) (p : DbgPath) (tok : List Byte) (fn : FnNo),
    let sec := s.sec
    let gives (t : BitVec 3) (st : Nat) (post : State → Prop) : Prop := ∃ u, exec (.lifecycleTransition p t tok) s = .next u
      ∧ u.sec.resps = sec.resps ++ [{ path := p, status := st, data := [] }] ∧ u.sec.life = sec.life ∧ post u
    (RequestServed s p →
      (requester p ≠ 0 → ∀ t, gives t 1 fun u => u.sec.lifeFuse = sec.lifeFuse)
      ∧ (requester p = 0 →
        (∀ t, t ≠ lifeDevelop → t ≠ lifeField → t ≠ lifeReturn → gives t 5 fun u => u.sec.lifeFuse = sec.lifeFuse)
        ∧ (sec.lifeFuse = lifeBlank → gives lifeDevelop 0 (fun u => u.sec.lifeFuse = lifeDevelop) ∧ gives lifeField 0 (fun u => u.sec.lifeFuse = lifeField)
          ∧ gives lifeReturn 4 (fun u => u.sec.lifeFuse = lifeBlank))
        ∧ (sec.lifeFuse = lifeDevelop → gives lifeField 0 (fun u => u.sec.lifeFuse = lifeField ∧ u.sec.keyRev.getLsbD 3 = true)
          ∧ gives lifeDevelop 4 (fun u => u.sec.lifeFuse = lifeDevelop))
        ∧ (sec.lifeFuse = lifeField → gives lifeDevelop 4 (fun u => u.sec.lifeFuse = lifeField) ∧ gives lifeField 4 (fun u => u.sec.lifeFuse = lifeField))
        ∧ (sec.lifeFuse = lifeReturn → ∀ t ∈ [lifeDevelop, lifeField, lifeReturn], gives t 4 fun u => u.sec.lifeFuse = lifeReturn)
        ∧ (sec.lifeFuse = lifeDevelop ∨ sec.lifeFuse = lifeField →
          (returnTokenGood s p tok = true → gives lifeReturn 0 fun u => u.sec.lifeFuse = lifeReturn ∧ u.sec.udsBlow = BitVec.allOnes 384 ∧ u.sec.keys = none
            ∧ nonceOf u p = none)
          ∧ (returnTokenGood s p tok = false → gives lifeReturn 2 fun u => u.sec.lifeFuse = sec.lifeFuse ∧ nonceOf u p = none))))
    ∧ (s.pbRuns 0 = true →
      let answered (c : Instr) (code : Byte) (fresh : Bool) : Prop := ∃ u r, exec c s = .next u ∧ u.sec.spdm = sec.spdm ++ [r] ∧ r.fn = fn
        ∧ r.code = code ∧ r.nonce = (if fresh = true then some (Config.freeBits 256 s.free) else none)
        ∧ r.signature.isSome = (fresh && sec.keys.isSome) ∧ u.cores = s.cores ∧ u.sec.resps = sec.resps
      answered (.getVersion fn) 0x84 false ∧ answered (.getCapabilities fn) 0xE1 false ∧ answered (.negotiateAlgorithms fn) 0xE3 false
      ∧ answered (.getDigests fn) 0x81 false ∧ answered (.getCertificate fn) 0x82 false
      ∧ (∀ nonce, answered (.challenge fn nonce) 0x83 true)
      ∧ ∀ index, answered (.getMeasurements fn index) 0xE0 (measure s fn.val index.toNat).isSome)
    ∧ (let selects (c : Instr) (r : TapReg) : Prop := ∃ u, exec c s = .next u ∧ tapReg u = r ∧ u.sec.resps = sec.resps
      let scan : TapReg := if sec.life = lifeField ∧ sec.level ≠ 3 then .bypass else .boundary
      selects .extest scan ∧ selects .samplePreload scan ∧ selects .bypass .bypass ∧ selects .idcode .idcode
      ∧ (∃ u, exec .idcode s = .next u ∧ u.rdata.toNat % 4096 = Config.jedecCode.toNat * 2 + 1 ∧ u.rdata.toNat / 4096 % 65536 = 0x0896
        ∧ u.rdata.toNat / 2 ^ 28 = s.host.stepping.toNat % 16)
      ∧ ∀ d, selects (.dbgacc d) .dbgacc ∧ ∃ u, exec (.dbgacc d) s = .next u ∧ u.sec.dbgacc = sec.dbgacc ++ leBytes 16 d.toNat)

/-! ## Registers -/

/-- REGISTER_WRITE has no effect for a byte or half-word, or from an accessor that does not reach the register; a word from one that does is
written: into a course's error counters, a link's hold time, in force from its next frame, the watchdog period, a function's HOST_ERR.
WIDE_LOW_WRITE holds a low word, which WIDE_HIGH_WRITE takes with the high one; WIDE_LOW_READ returns the low word and keeps the high one
for WIDE_HIGH_READ (R2, R3, R303, R333, R340, R394). -/
def Obligations.RegistersAreReadAndWritten : Prop :=
  ∀ (s : State) (who : Accessor) (reg : RegAddr) (v : Word),
    (∀ size, size ≠ .word ∨ mayReach s who reg = false → exec (.registerWrite who reg size v) s = .next s)
    ∧ (∀ (node : NodeNo) (b : PbNo), nodeKind node.val = .hbm → ∃ u, exec (.registerWrite (.pb b) (.block node 0x80020) .word v) s = .next u
      ∧ (u.course (courseOf node.val)).crcRetry = v ∧ u.cores = s.cores)
    ∧ (∀ (node : NodeNo) (b : PbNo), nodeKind node.val = .link → ∃ u, exec (.registerWrite (.pb b) (.block node 0x0000C) .word v) s = .next u
      ∧ (u.link (s.selLink node.val)).holdUs = v.truncate 16 ∧ (u.link (s.selLink node.val)).holdUsIn = (s.link (s.selLink node.val)).holdUsIn
      ∧ u.cores = s.cores)
    ∧ (∀ (b : PbNo), ∃ u, exec (.registerWrite (.pb b) (.block (Fin.ofNat 960 pegboxNode) 0x00008) .word v) s = .next u ∧ u.pb.wdogMs = v.truncate 16)
    ∧ (∀ f : FnNo, ∃ u, exec (.registerWrite (.fn f) (.bar0 f 0x1020) .word v) s = .next u
      ∧ u.hostErr f.val = { apRef := (s.hostErr f.val).apRef && !v.getLsbD 31, dbBad := (s.hostErr f.val).dbBad && !v.getLsbD 30
                            apCount := if v.getLsbD 31 = true then 0 else (s.hostErr f.val).apCount })
    ∧ (∀ r, wideNamed s who reg false = some r →
      (∃ u, exec (.wideLowWrite who reg v) s = .next u ∧ assocGet (who, r.key) u.wide.hold = some v ∧ wideValue u r = wideValue s r)
      ∧ ∃ u, exec (.wideLowRead who reg) s = .next u ∧ u.rdata = ((wideValue s r).truncate 32 : Word).zeroExtend 64
        ∧ assocGet (who, r.key) u.wide.shadow = some ((wideValue s r).extractLsb' 32 32))
    ∧ (∀ r, wideNamed s who reg true = some r →
      (∃ u, exec (.wideHighRead who reg) s = .next u ∧ assocGet (who, r.key) u.wide.shadow = none
        ∧ u.rdata = ((assocGet (who, r.key) s.wide.shadow).getD ((wideValue s r).extractLsb' 32 32)).zeroExtend 64)
      ∧ ∀ lo, assocGet (who, r.key) s.wide.hold = some lo → ∃ u, exec (.wideHighWrite who reg v) s = .next u
        ∧ assocGet (who, r.key) u.wide.hold = none
        ∧ (∀ f q, r = .sqBase f q → (s.qp f.val q).en = false → (u.qp f.val q).sqBase = v ++ lo)
        ∧ (∀ f q, r = .cqBase f q → (s.qp f.val q).en = true → (u.qp f.val q).cqBase = (s.qp f.val q).cqBase)
        ∧ (∀ f, r = .aperture f → (u.aperture f.val).base.toNat = (v ++ lo : DWord).toNat / 2 ^ 20 % 2 ^ 28)
        ∧ (r = .traceBase → s.sec.traceEn = false → u.sec.traceBase.toNat = (v ++ lo : DWord).toNat / 4096 * 4096))

/-! ## Conditions and encodings of ops -/

/-- An op under PSENSE 0 and p0 always executes and one under PSENSE 1 and p0 never does. An op whose condition is false, in a bundle that
issues and is legal, has no effect, raises no fault and dispatches nothing that commits: the bundle completes, its thread's program
counter moves past it, and of the thread nothing else changes but what every bundle ends (a withdrawn load, the fetch where the BTB
predicted something else, and for the branch unit's ops the epoch) (R42). -/
def Obligations.FalseConditionsHaveNoEffect : Prop :=
  (∀ t : Thread, (t.getP 0 != false) = true ∧ (t.getP 0 != true) = false)
  ∧ ∀ (s : State) (i : Instr) (c : OpAt) (o : Op), opOf i = some (c, o) → isCore c.node.val = true →
    bundleReady s c.node.val c.thread (opBundle s c o) = true →
    bundleIllegal (s.core c.node.val) c.thread.val (opBundle s c o) (opBundle s c o).pastEnd = none →
    (s.thread c.node.val c.thread.val).getP c.psel = c.psense → exec i s = .next (afterFalse s c o)

/-- Every op that a word can spell is what its word decodes to: with any stop bit and condition, the word that Tables 2.6 and 3.4 to 3.15
give it has that stop bit and condition and the op's class, and decodes to that op, with every operand, and breaks no rule of it. -/
def Obligations.OpWordsDecodeToTheirOps : Prop :=
  ∀ (stop psense : Bool) (psel : PReg) (o : Op), encodable o = true →
    let w := encodeOp stop psense psel o
    let x := slotOf w
    bitOf w 31 = stop ∧ x.cls = opClass o ∧ x.psense = psense ∧ x.psel = psel ∧ x.op = .ok o ∧ x.broken = false

/-! ## The machine -/

/-- A step takes the command at the front of the queue: it is exec of that command on the state with the queue's rest. On an empty queue
one mesh cycle passes and nothing else changes (the model's choice, log 2). -/
def Obligations.StepRunsTheFrontCommand : Prop :=
  (∀ (s : State) (c : Instr) (rest : List Instr), s.pending = c :: rest → step s = exec c { s with pending := rest })
  ∧ ∀ s : State, s.pending = [] → step s = .next { s with mc := s.mc + 1 }

/-- A command whose unit the module has completes with a next state, and one whose unit it does not have (R18, R21) stops with noSuchUnit;
neither touches the queue. Every well-formed command names a unit that exists. -/
def Obligations.CommandsCompleteWhereTheirUnitExists : Prop :=
  ∀ (i : Instr) (s : State),
    (unitExists i = true → ∃ t, exec i s = .next t ∧ t.pending = s.pending)
    ∧ (unitExists i = false → exec i s = .fault .noSuchUnit)
    ∧ (wellFormed i = true → unitExists i = true)

/-- Every step keeps the maps of the state in canonical form. -/
def Obligations.StepKeepsCanonical : Prop :=
  ∀ s t : State, s.canonical = true → step s = .next t → t.canonical = true

/-- Every step keeps every byte memory in canonical form: instruction memories, scratchpads, tiles, tier-1 and tier-2, boot flash, the debug
buffer, host memory and storage (an unlisted byte reads 0: log 5), and what a debugger has written of Pegbox's memories (log 31). -/
def Obligations.StepKeepsMemoriesCanonical : Prop :=
  ∀ s t : State, s.memoriesWf = true → step s = .next t → t.memoriesWf = true

/-- What a core's TAGs, its SYN unit and its course do of themselves after an event at the core changes nothing else: of the core, the SYN
queue, its own waiting increments and its TAGs in use (both grow at the end), the requests that wait for a TAG (which leave from the front),
the TAG of a thread's load or rdb and the refusals its threads have noted; of its node, the packets to inject and those for itself (each
grows at the end); of its course, the state under LEND with its time. Every other core, node and course and every other part of the state
stays (R265, R276). -/
def Obligations.SettlingChangesLittle : Prop :=
  ∀ (s : State) (n : NodeNo),
    let u := settle n.val s
    let k := s.core n.val
    let k' := u.core n.val
    let x := s.node n.val
    let x' := u.node n.val
    let c := s.course (courseOf n.val)
    let c' := u.course (courseOf n.val)
    (∀ m, m ≠ n.val → u.core m = s.core m ∧ u.node m = s.node m) ∧ (∀ m, m ≠ courseOf n.val → u.course m = s.course m)
    ∧ (∀ j, { k'.thread j with remoteErr := (k.thread j).remoteErr, load := (k.thread j).load, wait := (k.thread j).wait } = k.thread j
      ∧ ((k'.thread j).load = (k.thread j).load ∨ ∃ tag i, (k'.thread j).load = ((k.thread j).tagged tag (.load i)).load)
      ∧ ((k'.thread j).wait = (k.thread j).wait ∨ ∃ tag i pc, (k'.thread j).wait = ((k.thread j).tagged tag (.rdb i pc)).wait))
    ∧ { k' with threads := k.threads, reqs := k.reqs, tagQueue := k.tagQueue
                syn := { k'.syn with queue := k.syn.queue, incOwn := k.syn.incOwn } } = k
    ∧ k.reqs <+: k'.reqs ∧ k'.tagQueue <:+ k.tagQueue ∧ k.syn.incOwn <+: k'.syn.incOwn
    ∧ (∀ e' ∈ k'.syn.queue, ∃ e ∈ k.syn.queue, e' = e ∨ ∃ tag, e' = { e with stage := .sent tag })
    ∧ { x' with out := x.out, ctrl := x.ctrl, rx := x.rx } = x ∧ x.out <+: x'.out ∧ x.ctrl <+: x'.ctrl ∧ x.rx <+: x'.rx
    ∧ { c' with wstate := c.wstate, dwellAt := c.dwellAt } = c
    ∧ { u with cores := s.cores, nodes := s.nodes, courses := s.courses } = s

/-- After reset the registers read what the Reset columns of their tables state: at every core, CORE_CTL, CORE_HALT, the event counters, the
windows, CH_BIND, LINK_GW and DBG_CTL 0, CORE_STAT idle with every thread IDLE, TSW_VIEW of thread k with TH and its number, MAT_STAT 0; at
every course COURSE_RECT and MESH_STAT 0, DWELL 20, divider 4 and AWAKE; at every link LINK_CTL 0, OFF, hold 500 µs, sequence numbers 0xFFF;
PB_STAT 0 and PB_WDOG 1,000; DOM_STAT 0 for domains 32, 33 and 56 and OFF for the others; SEC_DBG, SEC_RDBG, SEC_RDONE and SEC_CTL 0;
READY_COURSE and ALERT_CAUSE 0, ALERT_EN PIN 1; every queue pair disabled with logs 7 and 7; INST_STATE 0; MODULE_ID 0xFFFF. Frets are 0,
channels and queues empty, accumulators 0, and every map and memory is in canonical form with no command waiting. -/
def Obligations.ResetLeavesTheStatedValues : Prop :=
  let s := State.reset
  (∀ n : NodeNo, isCore n.val = true →
    let r (o : Nat) : Word := corePageRead s n.val (0x20000 + o)
    r 0x0 = 0 ∧ r 0x4 = 0x20000000 ∧ r 0x8 = 0 ∧ r 0x20 = 0 ∧ r 0x24 = 0 ∧ r 0x28 = 0 ∧ r 0x2C = 0 ∧ r 0x100 = 0 ∧ r 0x300 = 0 ∧ r 0x400 = 0
      ∧ r 0x500 = 0 ∧ r 0x600 = 0 ∧ (∀ k < 4, r (0x10 + 4 * k) = BitVec.ofNat 32 (32 * k + 8)) ∧ (∀ k < 32, r (0x200 + 4 * k) = 0)
      ∧ r 0x304 = 20 ∧ r 0x308 = 0x400
      ∧ (∀ f, (s.core n.val).fret f = 0) ∧ (s.core n.val).syn.msgs = [] ∧ (s.core n.val).mat.queue = [] ∧ (s.core n.val).dma.queue = []
      ∧ (s.core n.val).syn.queue = [] ∧ (s.core n.val).ranges = [] ∧ ∀ a, mapGet 0 (s.core n.val).mat.acc a = 0)
  ∧ (∀ c : CourseNo, meshPageRead s c.val 0x000 = 0 ∧ meshPageRead s c.val 0x008 = 0)
  ∧ (∀ n : NodeNo, linkPageRead s n.val 0x004 = 0 ∧ linkPageRead s n.val 0x008 = 0 ∧ linkPageRead s n.val 0x00C = 500
    ∧ linkPageRead s n.val 0x018 = 0x0FFF0FFF ∧ linkPageRead s n.val 0x04C = 0)
  ∧ pbPageRead s 0x004 = 0 ∧ pbPageRead s 0x008 = 1000
  ∧ (∀ d < 58, ((s.dom d).target.toNat = if d = 32 ∨ d = 33 ∨ d = 56 then 0 else 4) ∧ s.domState d = (s.dom d).target.toNat)
  ∧ secPageRead s 0x004 = 0 ∧ secPageRead s 0x008 = 0 ∧ secPageRead s 0x00C = 0 ∧ secPageRead s 0x010 = 0
  ∧ statusRead s 0 0x1000 = 0 ∧ statusRead s 0 0x1018 = 0 ∧ statusRead s 0 0x101C = 1
  ∧ (∀ (fn : FnNo) (q : BitVec 6), qpRead s fn.val q.toNat 0x10 = 0x00070700) ∧ (∀ m, instRead s m 0x100 = 0) ∧ s.emu.moduleId = 0xFFFF
  ∧ s.pending = [] ∧ s.canonical = true ∧ s.memoriesWf = true
end

