-- ==== Sys2Proof/Laws/Maps.lean ====
section
/-! SUPPORT. Sparse maps: reading after writing, and every write keeps the canonical form. -/

namespace Sys2Proof.Machine

open Sys2Proof

variable {α : Type}

@[simp] theorem mapGet_nil (d : α) (i : Nat) : mapGet d [] i = d := rfl

@[simp] theorem mapGet_mapDel_same (d : α) (m : Map α) (i : Nat) : mapGet d (mapDel m i) i = d := by
  induction m with
  | nil => rfl
  | cons e m ih => obtain ⟨k, v⟩ := e; by_cases h : k = i <;> simp [mapDel, mapGet, h, ih]

theorem mapGet_mapDel_ne (d : α) (m : Map α) {i j : Nat} (h : j ≠ i) : mapGet d (mapDel m i) j = mapGet d m j := by
  induction m with
  | nil => rfl
  | cons e m ih =>
    obtain ⟨k, v⟩ := e
    by_cases hk : k = i
    · subst hk; simp [mapDel, mapGet, ih, h.symm]
    · simp [mapDel, mapGet, hk, ih]

@[simp] theorem mapGet_mapPut_same (d : α) (m : Map α) (i : Nat) (x : α) : mapGet d (mapPut m i x) i = x := by
  induction m with
  | nil => simp [mapPut, mapGet]
  | cons e m ih =>
    obtain ⟨k, v⟩ := e
    unfold mapPut
    split
    · simp [mapGet]
    · split
      · simp [mapGet]
      · rename_i h; simp [mapGet, h, ih]

theorem mapGet_mapPut_ne (d : α) (m : Map α) {i j : Nat} (x : α) (h : j ≠ i) : mapGet d (mapPut m i x) j = mapGet d m j := by
  induction m with
  | nil => simp [mapPut, mapGet, h.symm]
  | cons e m ih =>
    obtain ⟨k, v⟩ := e
    unfold mapPut
    split
    · simp [mapGet, h.symm]
    · split
      · rename_i hk; subst hk; simp [mapGet, h.symm]
      · simp [mapGet, ih]

/-- A read after a write of the same key gives the value written. -/
@[simp] theorem mapGet_mapSet_same [DecidableEq α] (d : α) (m : Map α) (i : Nat) (x : α) : mapGet d (mapSet d m i x) i = x := by
  unfold mapSet; split
  · rename_i h; simp [h]
  · simp

/-- A write leaves every other key alone. -/
theorem mapGet_mapSet_ne [DecidableEq α] (d d' : α) (m : Map α) {i j : Nat} (x : α) (h : j ≠ i) : mapGet d' (mapSet d m i x) j = mapGet d' m j := by
  unfold mapSet; split
  · exact mapGet_mapDel_ne _ _ h
  · exact mapGet_mapPut_ne _ _ _ h

theorem mapGet_mapSet [DecidableEq α] (d : α) (m : Map α) (i j : Nat) (x : α) :
    mapGet d (mapSet d m i x) j = if j = i then x else mapGet d m j := by
  split
  · rename_i h; subst h; simp
  · rename_i h; exact mapGet_mapSet_ne _ _ _ _ h

/-! ## The canonical form -/

theorem mapWfFrom_mono [DecidableEq α] (d : α) {lo hi : Nat} (m : Map α) (hl : lo ≤ hi) (h : mapWfFrom d hi m = true) :
    mapWfFrom d lo m = true := by
  cases m with
  | nil => rfl
  | cons e m =>
    obtain ⟨k, v⟩ := e
    simp only [mapWfFrom, Bool.and_eq_true, decide_eq_true_eq] at h ⊢
    exact ⟨⟨by omega, h.1.2⟩, h.2⟩

theorem mapDel_above [DecidableEq α] (d : α) (m : Map α) (i lo : Nat) (hi : i < lo) (h : mapWfFrom d lo m = true) : mapDel m i = m := by
  induction m generalizing lo with
  | nil => rfl
  | cons e m ih =>
    obtain ⟨k, v⟩ := e
    simp [mapWfFrom] at h
    simp [mapDel, show k ≠ i by omega, ih (k + 1) (by omega) h.2]

theorem mapWfFrom_mapDel [DecidableEq α] (d : α) (m : Map α) (i lo : Nat) (h : mapWfFrom d lo m = true) : mapWfFrom d lo (mapDel m i) = true := by
  induction m generalizing lo with
  | nil => rfl
  | cons e m ih =>
    obtain ⟨k, v⟩ := e
    simp [mapWfFrom] at h
    unfold mapDel
    split
    · exact mapWfFrom_mono d _ (show lo ≤ k + 1 by omega) (ih _ h.2)
    · simp [mapWfFrom, h.1, ih _ h.2]

theorem mapWfFrom_mapPut [DecidableEq α] (d : α) (m : Map α) (i lo : Nat) (x : α) (hx : x ≠ d) (hi : lo ≤ i) (h : mapWfFrom d lo m = true) :
    mapWfFrom d lo (mapPut m i x) = true := by
  induction m generalizing lo with
  | nil => simp [mapPut, mapWfFrom, hx, hi]
  | cons e m ih =>
    obtain ⟨k, v⟩ := e
    simp [mapWfFrom] at h
    unfold mapPut
    split
    · rename_i hk; simp [mapWfFrom, hx, hi, h.1.2, h.2]; omega
    · split
      · rename_i hk; subst hk; simp [mapWfFrom, hx, hi, h.2]
      · rename_i h1 h2; simp [mapWfFrom, h.1, ih (k + 1) (by omega) h.2]

/-- A write keeps the canonical form. -/
theorem mapWf_mapSet [DecidableEq α] (d : α) (m : Map α) (i : Nat) (x : α) (h : mapWf d m = true) : mapWf d (mapSet d m i x) = true := by
  unfold mapSet; split
  · exact mapWfFrom_mapDel _ _ _ _ h
  · exact mapWfFrom_mapPut _ _ _ _ _ ‹_› (Nat.zero_le _) h

theorem mapPut_map {β : Type} (f : α → β) (m : Map α) (i : Nat) (x : α) :
    (mapPut m i x).map (fun e => (e.1, f e.2)) = mapPut (m.map fun e => (e.1, f e.2)) i (f x) := by
  induction m with
  | nil => rfl
  | cons e m ih =>
    simp only [mapPut, List.map_cons]
    split
    · rfl
    · split
      · rfl
      · simp [ih]

/-- Putting a byte keeps the canonical form of a memory whose unlisted bytes have values of their own. -/
theorem listedWf_mapPut (m : Map Byte) (i : Nat) (x : Byte) (h : Memory.listedWf m = true) : Memory.listedWf (mapPut m i x) = true := by
  unfold Memory.listedWf at *
  rw [mapPut_map]
  exact mapWfFrom_mapPut _ _ _ _ _ (by simp) (Nat.zero_le _) h

/-- A memory that keeps its canonical form keeps it through every write of bytes. -/
theorem writeBytes_wf (m : Map Byte) (off : Nat) (bs : List Byte) (h : Memory.wf m = true) : Memory.wf (writeBytes m off bs) = true := by
  induction bs generalizing m off with
  | nil => exact h
  | cons b bs ih => exact ih _ _ (mapWf_mapSet _ _ _ _ h)

/-- A byte outside a write of bytes reads as before. -/
theorem mapGet_writeBytes_out (m : Map Byte) (off : Nat) (bs : List Byte) (a : Nat) (h : a < off ∨ off + bs.length ≤ a) :
    mapGet 0 (writeBytes m off bs) a = mapGet 0 m a := by
  induction bs generalizing m off with
  | nil => rfl
  | cons b bs ih =>
    simp only [List.length_cons] at h
    rw [writeBytes, ih _ _ (by omega), mapGet_mapSet_ne _ _ _ _ (by omega)]

/-- A byte inside a write of bytes reads as written. -/
theorem mapGet_writeBytes_in (m : Map Byte) (off : Nat) (bs : List Byte) (i : Nat) (h : i < bs.length) :
    mapGet 0 (writeBytes m off bs) (off + i) = bs[i] := by
  induction bs generalizing m off i with
  | nil => simp at h
  | cons b bs ih =>
    cases i with
    | zero => rw [writeBytes, mapGet_writeBytes_out _ _ _ _ (by omega)]; simp
    | succ i =>
      rw [writeBytes, show off + (i + 1) = off + 1 + i by omega, ih _ _ _ (by simpa using h)]; simp

end Sys2Proof.Machine
end

