-- ==== Sys2Proof/Laws/State.lean ====
section
/-! SUPPORT. Reading a part of State, of a core or of a thread after an update of another part, one lemma per field and update. -/

namespace Sys2Proof.Machine

open Sys2Proof

variable (s : State) (c : Core) (t : Thread) (n k : Nat)

/-! ## State -/

@[simp] theorem State.setCore_pending : (s.setCore n c).pending = s.pending := rfl
@[simp] theorem State.setCore_mc : (s.setCore n c).mc = s.mc := rfl
@[simp] theorem State.setCore_free : (s.setCore n c).free = s.free := rfl
@[simp] theorem State.setCore_rdata : (s.setCore n c).rdata = s.rdata := rfl
@[simp] theorem State.setCore_rbytes : (s.setCore n c).rbytes = s.rbytes := rfl
@[simp] theorem State.setCore_outbox : (s.setCore n c).outbox = s.outbox := rfl
@[simp] theorem State.setCore_module : (s.setCore n c).module = s.module := rfl
@[simp] theorem State.setCore_nodes : (s.setCore n c).nodes = s.nodes := rfl
@[simp] theorem State.setCore_ctls : (s.setCore n c).ctls = s.ctls := rfl
@[simp] theorem State.setCore_courses : (s.setCore n c).courses = s.courses := rfl
@[simp] theorem State.setCore_links : (s.setCore n c).links = s.links := rfl
@[simp] theorem State.setCore_lnodes : (s.setCore n c).lnodes = s.lnodes := rfl
@[simp] theorem State.setCore_rail : (s.setCore n c).rail = s.rail := rfl
@[simp] theorem State.setCore_host : (s.setCore n c).host = s.host := rfl
@[simp] theorem State.setCore_emu : (s.setCore n c).emu = s.emu := rfl
@[simp] theorem State.setCore_pb : (s.setCore n c).pb = s.pb := rfl
@[simp] theorem State.setCore_pwr : (s.setCore n c).pwr = s.pwr := rfl
@[simp] theorem State.setCore_sec : (s.setCore n c).sec = s.sec := rfl
@[simp] theorem State.setCore_phys : (s.setCore n c).phys = s.phys := rfl
@[simp] theorem State.setCore_wide : (s.setCore n c).wide = s.wide := rfl
@[simp] theorem State.setCore_node (m : Nat) : (s.setCore n c).node m = s.node m := rfl
@[simp] theorem State.setCore_ctl (m : Nat) : (s.setCore n c).ctl m = s.ctl m := rfl
@[simp] theorem State.setCore_course (m : Nat) : (s.setCore n c).course m = s.course m := rfl
@[simp] theorem State.setCore_link (m : Nat) : (s.setCore n c).link m = s.link m := rfl
@[simp] theorem State.setCore_lnode (m : Nat) : (s.setCore n c).lnode m = s.lnode m := rfl

@[simp] theorem State.modCore_pending (f : Core → Core) : (s.modCore n f).pending = s.pending := rfl
@[simp] theorem State.modCore_mc (f : Core → Core) : (s.modCore n f).mc = s.mc := rfl
@[simp] theorem State.modCore_free (f : Core → Core) : (s.modCore n f).free = s.free := rfl
@[simp] theorem State.modCore_rdata (f : Core → Core) : (s.modCore n f).rdata = s.rdata := rfl
@[simp] theorem State.modCore_rbytes (f : Core → Core) : (s.modCore n f).rbytes = s.rbytes := rfl
@[simp] theorem State.modCore_outbox (f : Core → Core) : (s.modCore n f).outbox = s.outbox := rfl
@[simp] theorem State.modCore_module (f : Core → Core) : (s.modCore n f).module = s.module := rfl
@[simp] theorem State.modCore_nodes (f : Core → Core) : (s.modCore n f).nodes = s.nodes := rfl
@[simp] theorem State.modCore_ctls (f : Core → Core) : (s.modCore n f).ctls = s.ctls := rfl
@[simp] theorem State.modCore_courses (f : Core → Core) : (s.modCore n f).courses = s.courses := rfl
@[simp] theorem State.modCore_links (f : Core → Core) : (s.modCore n f).links = s.links := rfl
@[simp] theorem State.modCore_lnodes (f : Core → Core) : (s.modCore n f).lnodes = s.lnodes := rfl
@[simp] theorem State.modCore_rail (f : Core → Core) : (s.modCore n f).rail = s.rail := rfl
@[simp] theorem State.modCore_host (f : Core → Core) : (s.modCore n f).host = s.host := rfl
@[simp] theorem State.modCore_emu (f : Core → Core) : (s.modCore n f).emu = s.emu := rfl
@[simp] theorem State.modCore_pb (f : Core → Core) : (s.modCore n f).pb = s.pb := rfl
@[simp] theorem State.modCore_pwr (f : Core → Core) : (s.modCore n f).pwr = s.pwr := rfl
@[simp] theorem State.modCore_sec (f : Core → Core) : (s.modCore n f).sec = s.sec := rfl
@[simp] theorem State.modCore_phys (f : Core → Core) : (s.modCore n f).phys = s.phys := rfl
@[simp] theorem State.modCore_wide (f : Core → Core) : (s.modCore n f).wide = s.wide := rfl
@[simp] theorem State.modCore_node (f : Core → Core) (m : Nat) : (s.modCore n f).node m = s.node m := rfl
@[simp] theorem State.modCore_ctl (f : Core → Core) (m : Nat) : (s.modCore n f).ctl m = s.ctl m := rfl
@[simp] theorem State.modCore_course (f : Core → Core) (m : Nat) : (s.modCore n f).course m = s.course m := rfl
@[simp] theorem State.modCore_link (f : Core → Core) (m : Nat) : (s.modCore n f).link m = s.link m := rfl
@[simp] theorem State.modCore_lnode (f : Core → Core) (m : Nat) : (s.modCore n f).lnode m = s.lnode m := rfl

@[simp] theorem State.setNode_pending (x : NodeIO) : (s.setNode n x).pending = s.pending := rfl
@[simp] theorem State.setNode_mc (x : NodeIO) : (s.setNode n x).mc = s.mc := rfl
@[simp] theorem State.setNode_free (x : NodeIO) : (s.setNode n x).free = s.free := rfl
@[simp] theorem State.setNode_rdata (x : NodeIO) : (s.setNode n x).rdata = s.rdata := rfl
@[simp] theorem State.setNode_rbytes (x : NodeIO) : (s.setNode n x).rbytes = s.rbytes := rfl
@[simp] theorem State.setNode_outbox (x : NodeIO) : (s.setNode n x).outbox = s.outbox := rfl
@[simp] theorem State.setNode_module (x : NodeIO) : (s.setNode n x).module = s.module := rfl
@[simp] theorem State.setNode_cores (x : NodeIO) : (s.setNode n x).cores = s.cores := rfl
@[simp] theorem State.setNode_ctls (x : NodeIO) : (s.setNode n x).ctls = s.ctls := rfl
@[simp] theorem State.setNode_courses (x : NodeIO) : (s.setNode n x).courses = s.courses := rfl
@[simp] theorem State.setNode_links (x : NodeIO) : (s.setNode n x).links = s.links := rfl
@[simp] theorem State.setNode_lnodes (x : NodeIO) : (s.setNode n x).lnodes = s.lnodes := rfl
@[simp] theorem State.setNode_rail (x : NodeIO) : (s.setNode n x).rail = s.rail := rfl
@[simp] theorem State.setNode_host (x : NodeIO) : (s.setNode n x).host = s.host := rfl
@[simp] theorem State.setNode_emu (x : NodeIO) : (s.setNode n x).emu = s.emu := rfl
@[simp] theorem State.setNode_pb (x : NodeIO) : (s.setNode n x).pb = s.pb := rfl
@[simp] theorem State.setNode_pwr (x : NodeIO) : (s.setNode n x).pwr = s.pwr := rfl
@[simp] theorem State.setNode_sec (x : NodeIO) : (s.setNode n x).sec = s.sec := rfl
@[simp] theorem State.setNode_phys (x : NodeIO) : (s.setNode n x).phys = s.phys := rfl
@[simp] theorem State.setNode_wide (x : NodeIO) : (s.setNode n x).wide = s.wide := rfl
@[simp] theorem State.setNode_core (x : NodeIO) (m : Nat) : (s.setNode n x).core m = s.core m := rfl
@[simp] theorem State.setNode_ctl (x : NodeIO) (m : Nat) : (s.setNode n x).ctl m = s.ctl m := rfl
@[simp] theorem State.setNode_course (x : NodeIO) (m : Nat) : (s.setNode n x).course m = s.course m := rfl
@[simp] theorem State.setNode_link (x : NodeIO) (m : Nat) : (s.setNode n x).link m = s.link m := rfl
@[simp] theorem State.setNode_lnode (x : NodeIO) (m : Nat) : (s.setNode n x).lnode m = s.lnode m := rfl
@[simp] theorem State.setNode_thread (x : NodeIO) (m j : Nat) : (s.setNode n x).thread m j = s.thread m j := rfl

@[simp] theorem State.modNode_pending (f : NodeIO → NodeIO) : (s.modNode n f).pending = s.pending := rfl
@[simp] theorem State.modNode_mc (f : NodeIO → NodeIO) : (s.modNode n f).mc = s.mc := rfl
@[simp] theorem State.modNode_free (f : NodeIO → NodeIO) : (s.modNode n f).free = s.free := rfl
@[simp] theorem State.modNode_rdata (f : NodeIO → NodeIO) : (s.modNode n f).rdata = s.rdata := rfl
@[simp] theorem State.modNode_rbytes (f : NodeIO → NodeIO) : (s.modNode n f).rbytes = s.rbytes := rfl
@[simp] theorem State.modNode_outbox (f : NodeIO → NodeIO) : (s.modNode n f).outbox = s.outbox := rfl
@[simp] theorem State.modNode_module (f : NodeIO → NodeIO) : (s.modNode n f).module = s.module := rfl
@[simp] theorem State.modNode_cores (f : NodeIO → NodeIO) : (s.modNode n f).cores = s.cores := rfl
@[simp] theorem State.modNode_ctls (f : NodeIO → NodeIO) : (s.modNode n f).ctls = s.ctls := rfl
@[simp] theorem State.modNode_courses (f : NodeIO → NodeIO) : (s.modNode n f).courses = s.courses := rfl
@[simp] theorem State.modNode_links (f : NodeIO → NodeIO) : (s.modNode n f).links = s.links := rfl
@[simp] theorem State.modNode_lnodes (f : NodeIO → NodeIO) : (s.modNode n f).lnodes = s.lnodes := rfl
@[simp] theorem State.modNode_rail (f : NodeIO → NodeIO) : (s.modNode n f).rail = s.rail := rfl
@[simp] theorem State.modNode_host (f : NodeIO → NodeIO) : (s.modNode n f).host = s.host := rfl
@[simp] theorem State.modNode_emu (f : NodeIO → NodeIO) : (s.modNode n f).emu = s.emu := rfl
@[simp] theorem State.modNode_pb (f : NodeIO → NodeIO) : (s.modNode n f).pb = s.pb := rfl
@[simp] theorem State.modNode_pwr (f : NodeIO → NodeIO) : (s.modNode n f).pwr = s.pwr := rfl
@[simp] theorem State.modNode_sec (f : NodeIO → NodeIO) : (s.modNode n f).sec = s.sec := rfl
@[simp] theorem State.modNode_phys (f : NodeIO → NodeIO) : (s.modNode n f).phys = s.phys := rfl
@[simp] theorem State.modNode_wide (f : NodeIO → NodeIO) : (s.modNode n f).wide = s.wide := rfl
@[simp] theorem State.modNode_core (f : NodeIO → NodeIO) (m : Nat) : (s.modNode n f).core m = s.core m := rfl
@[simp] theorem State.modNode_ctl (f : NodeIO → NodeIO) (m : Nat) : (s.modNode n f).ctl m = s.ctl m := rfl
@[simp] theorem State.modNode_course (f : NodeIO → NodeIO) (m : Nat) : (s.modNode n f).course m = s.course m := rfl
@[simp] theorem State.modNode_link (f : NodeIO → NodeIO) (m : Nat) : (s.modNode n f).link m = s.link m := rfl
@[simp] theorem State.modNode_lnode (f : NodeIO → NodeIO) (m : Nat) : (s.modNode n f).lnode m = s.lnode m := rfl
@[simp] theorem State.modNode_thread (f : NodeIO → NodeIO) (m j : Nat) : (s.modNode n f).thread m j = s.thread m j := rfl

@[simp] theorem State.setCtl_pending (x : MemCtl) : (s.setCtl n x).pending = s.pending := rfl
@[simp] theorem State.setCtl_mc (x : MemCtl) : (s.setCtl n x).mc = s.mc := rfl
@[simp] theorem State.setCtl_free (x : MemCtl) : (s.setCtl n x).free = s.free := rfl
@[simp] theorem State.setCtl_rdata (x : MemCtl) : (s.setCtl n x).rdata = s.rdata := rfl
@[simp] theorem State.setCtl_rbytes (x : MemCtl) : (s.setCtl n x).rbytes = s.rbytes := rfl
@[simp] theorem State.setCtl_outbox (x : MemCtl) : (s.setCtl n x).outbox = s.outbox := rfl
@[simp] theorem State.setCtl_module (x : MemCtl) : (s.setCtl n x).module = s.module := rfl
@[simp] theorem State.setCtl_cores (x : MemCtl) : (s.setCtl n x).cores = s.cores := rfl
@[simp] theorem State.setCtl_nodes (x : MemCtl) : (s.setCtl n x).nodes = s.nodes := rfl
@[simp] theorem State.setCtl_courses (x : MemCtl) : (s.setCtl n x).courses = s.courses := rfl
@[simp] theorem State.setCtl_links (x : MemCtl) : (s.setCtl n x).links = s.links := rfl
@[simp] theorem State.setCtl_lnodes (x : MemCtl) : (s.setCtl n x).lnodes = s.lnodes := rfl
@[simp] theorem State.setCtl_rail (x : MemCtl) : (s.setCtl n x).rail = s.rail := rfl
@[simp] theorem State.setCtl_host (x : MemCtl) : (s.setCtl n x).host = s.host := rfl
@[simp] theorem State.setCtl_emu (x : MemCtl) : (s.setCtl n x).emu = s.emu := rfl
@[simp] theorem State.setCtl_pb (x : MemCtl) : (s.setCtl n x).pb = s.pb := rfl
@[simp] theorem State.setCtl_pwr (x : MemCtl) : (s.setCtl n x).pwr = s.pwr := rfl
@[simp] theorem State.setCtl_sec (x : MemCtl) : (s.setCtl n x).sec = s.sec := rfl
@[simp] theorem State.setCtl_phys (x : MemCtl) : (s.setCtl n x).phys = s.phys := rfl
@[simp] theorem State.setCtl_wide (x : MemCtl) : (s.setCtl n x).wide = s.wide := rfl
@[simp] theorem State.setCtl_core (x : MemCtl) (m : Nat) : (s.setCtl n x).core m = s.core m := rfl
@[simp] theorem State.setCtl_node (x : MemCtl) (m : Nat) : (s.setCtl n x).node m = s.node m := rfl
@[simp] theorem State.setCtl_course (x : MemCtl) (m : Nat) : (s.setCtl n x).course m = s.course m := rfl
@[simp] theorem State.setCtl_link (x : MemCtl) (m : Nat) : (s.setCtl n x).link m = s.link m := rfl
@[simp] theorem State.setCtl_lnode (x : MemCtl) (m : Nat) : (s.setCtl n x).lnode m = s.lnode m := rfl
@[simp] theorem State.setCtl_thread (x : MemCtl) (m j : Nat) : (s.setCtl n x).thread m j = s.thread m j := rfl

@[simp] theorem State.modCtl_pending (f : MemCtl → MemCtl) : (s.modCtl n f).pending = s.pending := rfl
@[simp] theorem State.modCtl_mc (f : MemCtl → MemCtl) : (s.modCtl n f).mc = s.mc := rfl
@[simp] theorem State.modCtl_free (f : MemCtl → MemCtl) : (s.modCtl n f).free = s.free := rfl
@[simp] theorem State.modCtl_rdata (f : MemCtl → MemCtl) : (s.modCtl n f).rdata = s.rdata := rfl
@[simp] theorem State.modCtl_rbytes (f : MemCtl → MemCtl) : (s.modCtl n f).rbytes = s.rbytes := rfl
@[simp] theorem State.modCtl_outbox (f : MemCtl → MemCtl) : (s.modCtl n f).outbox = s.outbox := rfl
@[simp] theorem State.modCtl_module (f : MemCtl → MemCtl) : (s.modCtl n f).module = s.module := rfl
@[simp] theorem State.modCtl_cores (f : MemCtl → MemCtl) : (s.modCtl n f).cores = s.cores := rfl
@[simp] theorem State.modCtl_nodes (f : MemCtl → MemCtl) : (s.modCtl n f).nodes = s.nodes := rfl
@[simp] theorem State.modCtl_courses (f : MemCtl → MemCtl) : (s.modCtl n f).courses = s.courses := rfl
@[simp] theorem State.modCtl_links (f : MemCtl → MemCtl) : (s.modCtl n f).links = s.links := rfl
@[simp] theorem State.modCtl_lnodes (f : MemCtl → MemCtl) : (s.modCtl n f).lnodes = s.lnodes := rfl
@[simp] theorem State.modCtl_rail (f : MemCtl → MemCtl) : (s.modCtl n f).rail = s.rail := rfl
@[simp] theorem State.modCtl_host (f : MemCtl → MemCtl) : (s.modCtl n f).host = s.host := rfl
@[simp] theorem State.modCtl_emu (f : MemCtl → MemCtl) : (s.modCtl n f).emu = s.emu := rfl
@[simp] theorem State.modCtl_pb (f : MemCtl → MemCtl) : (s.modCtl n f).pb = s.pb := rfl
@[simp] theorem State.modCtl_pwr (f : MemCtl → MemCtl) : (s.modCtl n f).pwr = s.pwr := rfl
@[simp] theorem State.modCtl_sec (f : MemCtl → MemCtl) : (s.modCtl n f).sec = s.sec := rfl
@[simp] theorem State.modCtl_phys (f : MemCtl → MemCtl) : (s.modCtl n f).phys = s.phys := rfl
@[simp] theorem State.modCtl_wide (f : MemCtl → MemCtl) : (s.modCtl n f).wide = s.wide := rfl
@[simp] theorem State.modCtl_core (f : MemCtl → MemCtl) (m : Nat) : (s.modCtl n f).core m = s.core m := rfl
@[simp] theorem State.modCtl_node (f : MemCtl → MemCtl) (m : Nat) : (s.modCtl n f).node m = s.node m := rfl
@[simp] theorem State.modCtl_course (f : MemCtl → MemCtl) (m : Nat) : (s.modCtl n f).course m = s.course m := rfl
@[simp] theorem State.modCtl_link (f : MemCtl → MemCtl) (m : Nat) : (s.modCtl n f).link m = s.link m := rfl
@[simp] theorem State.modCtl_lnode (f : MemCtl → MemCtl) (m : Nat) : (s.modCtl n f).lnode m = s.lnode m := rfl
@[simp] theorem State.modCtl_thread (f : MemCtl → MemCtl) (m j : Nat) : (s.modCtl n f).thread m j = s.thread m j := rfl

@[simp] theorem State.setCourse_pending (x : Course) : (s.setCourse n x).pending = s.pending := rfl
@[simp] theorem State.setCourse_mc (x : Course) : (s.setCourse n x).mc = s.mc := rfl
@[simp] theorem State.setCourse_free (x : Course) : (s.setCourse n x).free = s.free := rfl
@[simp] theorem State.setCourse_rdata (x : Course) : (s.setCourse n x).rdata = s.rdata := rfl
@[simp] theorem State.setCourse_rbytes (x : Course) : (s.setCourse n x).rbytes = s.rbytes := rfl
@[simp] theorem State.setCourse_outbox (x : Course) : (s.setCourse n x).outbox = s.outbox := rfl
@[simp] theorem State.setCourse_module (x : Course) : (s.setCourse n x).module = s.module := rfl
@[simp] theorem State.setCourse_cores (x : Course) : (s.setCourse n x).cores = s.cores := rfl
@[simp] theorem State.setCourse_nodes (x : Course) : (s.setCourse n x).nodes = s.nodes := rfl
@[simp] theorem State.setCourse_ctls (x : Course) : (s.setCourse n x).ctls = s.ctls := rfl
@[simp] theorem State.setCourse_links (x : Course) : (s.setCourse n x).links = s.links := rfl
@[simp] theorem State.setCourse_lnodes (x : Course) : (s.setCourse n x).lnodes = s.lnodes := rfl
@[simp] theorem State.setCourse_rail (x : Course) : (s.setCourse n x).rail = s.rail := rfl
@[simp] theorem State.setCourse_host (x : Course) : (s.setCourse n x).host = s.host := rfl
@[simp] theorem State.setCourse_emu (x : Course) : (s.setCourse n x).emu = s.emu := rfl
@[simp] theorem State.setCourse_pb (x : Course) : (s.setCourse n x).pb = s.pb := rfl
@[simp] theorem State.setCourse_pwr (x : Course) : (s.setCourse n x).pwr = s.pwr := rfl
@[simp] theorem State.setCourse_sec (x : Course) : (s.setCourse n x).sec = s.sec := rfl
@[simp] theorem State.setCourse_phys (x : Course) : (s.setCourse n x).phys = s.phys := rfl
@[simp] theorem State.setCourse_wide (x : Course) : (s.setCourse n x).wide = s.wide := rfl
@[simp] theorem State.setCourse_core (x : Course) (m : Nat) : (s.setCourse n x).core m = s.core m := rfl
@[simp] theorem State.setCourse_node (x : Course) (m : Nat) : (s.setCourse n x).node m = s.node m := rfl
@[simp] theorem State.setCourse_ctl (x : Course) (m : Nat) : (s.setCourse n x).ctl m = s.ctl m := rfl
@[simp] theorem State.setCourse_link (x : Course) (m : Nat) : (s.setCourse n x).link m = s.link m := rfl
@[simp] theorem State.setCourse_lnode (x : Course) (m : Nat) : (s.setCourse n x).lnode m = s.lnode m := rfl
@[simp] theorem State.setCourse_thread (x : Course) (m j : Nat) : (s.setCourse n x).thread m j = s.thread m j := rfl

@[simp] theorem State.modCourse_pending (f : Course → Course) : (s.modCourse n f).pending = s.pending := rfl
@[simp] theorem State.modCourse_mc (f : Course → Course) : (s.modCourse n f).mc = s.mc := rfl
@[simp] theorem State.modCourse_free (f : Course → Course) : (s.modCourse n f).free = s.free := rfl
@[simp] theorem State.modCourse_rdata (f : Course → Course) : (s.modCourse n f).rdata = s.rdata := rfl
@[simp] theorem State.modCourse_rbytes (f : Course → Course) : (s.modCourse n f).rbytes = s.rbytes := rfl
@[simp] theorem State.modCourse_outbox (f : Course → Course) : (s.modCourse n f).outbox = s.outbox := rfl
@[simp] theorem State.modCourse_module (f : Course → Course) : (s.modCourse n f).module = s.module := rfl
@[simp] theorem State.modCourse_cores (f : Course → Course) : (s.modCourse n f).cores = s.cores := rfl
@[simp] theorem State.modCourse_nodes (f : Course → Course) : (s.modCourse n f).nodes = s.nodes := rfl
@[simp] theorem State.modCourse_ctls (f : Course → Course) : (s.modCourse n f).ctls = s.ctls := rfl
@[simp] theorem State.modCourse_links (f : Course → Course) : (s.modCourse n f).links = s.links := rfl
@[simp] theorem State.modCourse_lnodes (f : Course → Course) : (s.modCourse n f).lnodes = s.lnodes := rfl
@[simp] theorem State.modCourse_rail (f : Course → Course) : (s.modCourse n f).rail = s.rail := rfl
@[simp] theorem State.modCourse_host (f : Course → Course) : (s.modCourse n f).host = s.host := rfl
@[simp] theorem State.modCourse_emu (f : Course → Course) : (s.modCourse n f).emu = s.emu := rfl
@[simp] theorem State.modCourse_pb (f : Course → Course) : (s.modCourse n f).pb = s.pb := rfl
@[simp] theorem State.modCourse_pwr (f : Course → Course) : (s.modCourse n f).pwr = s.pwr := rfl
@[simp] theorem State.modCourse_sec (f : Course → Course) : (s.modCourse n f).sec = s.sec := rfl
@[simp] theorem State.modCourse_phys (f : Course → Course) : (s.modCourse n f).phys = s.phys := rfl
@[simp] theorem State.modCourse_wide (f : Course → Course) : (s.modCourse n f).wide = s.wide := rfl
@[simp] theorem State.modCourse_core (f : Course → Course) (m : Nat) : (s.modCourse n f).core m = s.core m := rfl
@[simp] theorem State.modCourse_node (f : Course → Course) (m : Nat) : (s.modCourse n f).node m = s.node m := rfl
@[simp] theorem State.modCourse_ctl (f : Course → Course) (m : Nat) : (s.modCourse n f).ctl m = s.ctl m := rfl
@[simp] theorem State.modCourse_link (f : Course → Course) (m : Nat) : (s.modCourse n f).link m = s.link m := rfl
@[simp] theorem State.modCourse_lnode (f : Course → Course) (m : Nat) : (s.modCourse n f).lnode m = s.lnode m := rfl
@[simp] theorem State.modCourse_thread (f : Course → Course) (m j : Nat) : (s.modCourse n f).thread m j = s.thread m j := rfl

@[simp] theorem State.setLink_pending (x : Link) : (s.setLink n x).pending = s.pending := rfl
@[simp] theorem State.setLink_mc (x : Link) : (s.setLink n x).mc = s.mc := rfl
@[simp] theorem State.setLink_free (x : Link) : (s.setLink n x).free = s.free := rfl
@[simp] theorem State.setLink_rdata (x : Link) : (s.setLink n x).rdata = s.rdata := rfl
@[simp] theorem State.setLink_rbytes (x : Link) : (s.setLink n x).rbytes = s.rbytes := rfl
@[simp] theorem State.setLink_outbox (x : Link) : (s.setLink n x).outbox = s.outbox := rfl
@[simp] theorem State.setLink_module (x : Link) : (s.setLink n x).module = s.module := rfl
@[simp] theorem State.setLink_cores (x : Link) : (s.setLink n x).cores = s.cores := rfl
@[simp] theorem State.setLink_nodes (x : Link) : (s.setLink n x).nodes = s.nodes := rfl
@[simp] theorem State.setLink_ctls (x : Link) : (s.setLink n x).ctls = s.ctls := rfl
@[simp] theorem State.setLink_courses (x : Link) : (s.setLink n x).courses = s.courses := rfl
@[simp] theorem State.setLink_lnodes (x : Link) : (s.setLink n x).lnodes = s.lnodes := rfl
@[simp] theorem State.setLink_rail (x : Link) : (s.setLink n x).rail = s.rail := rfl
@[simp] theorem State.setLink_host (x : Link) : (s.setLink n x).host = s.host := rfl
@[simp] theorem State.setLink_emu (x : Link) : (s.setLink n x).emu = s.emu := rfl
@[simp] theorem State.setLink_pb (x : Link) : (s.setLink n x).pb = s.pb := rfl
@[simp] theorem State.setLink_pwr (x : Link) : (s.setLink n x).pwr = s.pwr := rfl
@[simp] theorem State.setLink_sec (x : Link) : (s.setLink n x).sec = s.sec := rfl
@[simp] theorem State.setLink_phys (x : Link) : (s.setLink n x).phys = s.phys := rfl
@[simp] theorem State.setLink_wide (x : Link) : (s.setLink n x).wide = s.wide := rfl
@[simp] theorem State.setLink_core (x : Link) (m : Nat) : (s.setLink n x).core m = s.core m := rfl
@[simp] theorem State.setLink_node (x : Link) (m : Nat) : (s.setLink n x).node m = s.node m := rfl
@[simp] theorem State.setLink_ctl (x : Link) (m : Nat) : (s.setLink n x).ctl m = s.ctl m := rfl
@[simp] theorem State.setLink_course (x : Link) (m : Nat) : (s.setLink n x).course m = s.course m := rfl
@[simp] theorem State.setLink_lnode (x : Link) (m : Nat) : (s.setLink n x).lnode m = s.lnode m := rfl
@[simp] theorem State.setLink_thread (x : Link) (m j : Nat) : (s.setLink n x).thread m j = s.thread m j := rfl

@[simp] theorem State.modLink_pending (f : Link → Link) : (s.modLink n f).pending = s.pending := rfl
@[simp] theorem State.modLink_mc (f : Link → Link) : (s.modLink n f).mc = s.mc := rfl
@[simp] theorem State.modLink_free (f : Link → Link) : (s.modLink n f).free = s.free := rfl
@[simp] theorem State.modLink_rdata (f : Link → Link) : (s.modLink n f).rdata = s.rdata := rfl
@[simp] theorem State.modLink_rbytes (f : Link → Link) : (s.modLink n f).rbytes = s.rbytes := rfl
@[simp] theorem State.modLink_outbox (f : Link → Link) : (s.modLink n f).outbox = s.outbox := rfl
@[simp] theorem State.modLink_module (f : Link → Link) : (s.modLink n f).module = s.module := rfl
@[simp] theorem State.modLink_cores (f : Link → Link) : (s.modLink n f).cores = s.cores := rfl
@[simp] theorem State.modLink_nodes (f : Link → Link) : (s.modLink n f).nodes = s.nodes := rfl
@[simp] theorem State.modLink_ctls (f : Link → Link) : (s.modLink n f).ctls = s.ctls := rfl
@[simp] theorem State.modLink_courses (f : Link → Link) : (s.modLink n f).courses = s.courses := rfl
@[simp] theorem State.modLink_lnodes (f : Link → Link) : (s.modLink n f).lnodes = s.lnodes := rfl
@[simp] theorem State.modLink_rail (f : Link → Link) : (s.modLink n f).rail = s.rail := rfl
@[simp] theorem State.modLink_host (f : Link → Link) : (s.modLink n f).host = s.host := rfl
@[simp] theorem State.modLink_emu (f : Link → Link) : (s.modLink n f).emu = s.emu := rfl
@[simp] theorem State.modLink_pb (f : Link → Link) : (s.modLink n f).pb = s.pb := rfl
@[simp] theorem State.modLink_pwr (f : Link → Link) : (s.modLink n f).pwr = s.pwr := rfl
@[simp] theorem State.modLink_sec (f : Link → Link) : (s.modLink n f).sec = s.sec := rfl
@[simp] theorem State.modLink_phys (f : Link → Link) : (s.modLink n f).phys = s.phys := rfl
@[simp] theorem State.modLink_wide (f : Link → Link) : (s.modLink n f).wide = s.wide := rfl
@[simp] theorem State.modLink_core (f : Link → Link) (m : Nat) : (s.modLink n f).core m = s.core m := rfl
@[simp] theorem State.modLink_node (f : Link → Link) (m : Nat) : (s.modLink n f).node m = s.node m := rfl
@[simp] theorem State.modLink_ctl (f : Link → Link) (m : Nat) : (s.modLink n f).ctl m = s.ctl m := rfl
@[simp] theorem State.modLink_course (f : Link → Link) (m : Nat) : (s.modLink n f).course m = s.course m := rfl
@[simp] theorem State.modLink_lnode (f : Link → Link) (m : Nat) : (s.modLink n f).lnode m = s.lnode m := rfl
@[simp] theorem State.modLink_thread (f : Link → Link) (m j : Nat) : (s.modLink n f).thread m j = s.thread m j := rfl

@[simp] theorem State.setLnode_pending (x : LNode) : (s.setLnode n x).pending = s.pending := rfl
@[simp] theorem State.setLnode_mc (x : LNode) : (s.setLnode n x).mc = s.mc := rfl
@[simp] theorem State.setLnode_free (x : LNode) : (s.setLnode n x).free = s.free := rfl
@[simp] theorem State.setLnode_rdata (x : LNode) : (s.setLnode n x).rdata = s.rdata := rfl
@[simp] theorem State.setLnode_rbytes (x : LNode) : (s.setLnode n x).rbytes = s.rbytes := rfl
@[simp] theorem State.setLnode_outbox (x : LNode) : (s.setLnode n x).outbox = s.outbox := rfl
@[simp] theorem State.setLnode_module (x : LNode) : (s.setLnode n x).module = s.module := rfl
@[simp] theorem State.setLnode_cores (x : LNode) : (s.setLnode n x).cores = s.cores := rfl
@[simp] theorem State.setLnode_nodes (x : LNode) : (s.setLnode n x).nodes = s.nodes := rfl
@[simp] theorem State.setLnode_ctls (x : LNode) : (s.setLnode n x).ctls = s.ctls := rfl
@[simp] theorem State.setLnode_courses (x : LNode) : (s.setLnode n x).courses = s.courses := rfl
@[simp] theorem State.setLnode_links (x : LNode) : (s.setLnode n x).links = s.links := rfl
@[simp] theorem State.setLnode_rail (x : LNode) : (s.setLnode n x).rail = s.rail := rfl
@[simp] theorem State.setLnode_host (x : LNode) : (s.setLnode n x).host = s.host := rfl
@[simp] theorem State.setLnode_emu (x : LNode) : (s.setLnode n x).emu = s.emu := rfl
@[simp] theorem State.setLnode_pb (x : LNode) : (s.setLnode n x).pb = s.pb := rfl
@[simp] theorem State.setLnode_pwr (x : LNode) : (s.setLnode n x).pwr = s.pwr := rfl
@[simp] theorem State.setLnode_sec (x : LNode) : (s.setLnode n x).sec = s.sec := rfl
@[simp] theorem State.setLnode_phys (x : LNode) : (s.setLnode n x).phys = s.phys := rfl
@[simp] theorem State.setLnode_wide (x : LNode) : (s.setLnode n x).wide = s.wide := rfl
@[simp] theorem State.setLnode_core (x : LNode) (m : Nat) : (s.setLnode n x).core m = s.core m := rfl
@[simp] theorem State.setLnode_node (x : LNode) (m : Nat) : (s.setLnode n x).node m = s.node m := rfl
@[simp] theorem State.setLnode_ctl (x : LNode) (m : Nat) : (s.setLnode n x).ctl m = s.ctl m := rfl
@[simp] theorem State.setLnode_course (x : LNode) (m : Nat) : (s.setLnode n x).course m = s.course m := rfl
@[simp] theorem State.setLnode_link (x : LNode) (m : Nat) : (s.setLnode n x).link m = s.link m := rfl
@[simp] theorem State.setLnode_thread (x : LNode) (m j : Nat) : (s.setLnode n x).thread m j = s.thread m j := rfl

@[simp] theorem State.setThread_pending : (s.setThread n k t).pending = s.pending := rfl
@[simp] theorem State.setThread_mc : (s.setThread n k t).mc = s.mc := rfl
@[simp] theorem State.setThread_free : (s.setThread n k t).free = s.free := rfl
@[simp] theorem State.setThread_rdata : (s.setThread n k t).rdata = s.rdata := rfl
@[simp] theorem State.setThread_rbytes : (s.setThread n k t).rbytes = s.rbytes := rfl
@[simp] theorem State.setThread_outbox : (s.setThread n k t).outbox = s.outbox := rfl
@[simp] theorem State.setThread_module : (s.setThread n k t).module = s.module := rfl
@[simp] theorem State.setThread_nodes : (s.setThread n k t).nodes = s.nodes := rfl
@[simp] theorem State.setThread_ctls : (s.setThread n k t).ctls = s.ctls := rfl
@[simp] theorem State.setThread_courses : (s.setThread n k t).courses = s.courses := rfl
@[simp] theorem State.setThread_links : (s.setThread n k t).links = s.links := rfl
@[simp] theorem State.setThread_lnodes : (s.setThread n k t).lnodes = s.lnodes := rfl
@[simp] theorem State.setThread_rail : (s.setThread n k t).rail = s.rail := rfl
@[simp] theorem State.setThread_host : (s.setThread n k t).host = s.host := rfl
@[simp] theorem State.setThread_emu : (s.setThread n k t).emu = s.emu := rfl
@[simp] theorem State.setThread_pb : (s.setThread n k t).pb = s.pb := rfl
@[simp] theorem State.setThread_pwr : (s.setThread n k t).pwr = s.pwr := rfl
@[simp] theorem State.setThread_sec : (s.setThread n k t).sec = s.sec := rfl
@[simp] theorem State.setThread_phys : (s.setThread n k t).phys = s.phys := rfl
@[simp] theorem State.setThread_wide : (s.setThread n k t).wide = s.wide := rfl
@[simp] theorem State.setThread_node (m : Nat) : (s.setThread n k t).node m = s.node m := rfl
@[simp] theorem State.setThread_ctl (m : Nat) : (s.setThread n k t).ctl m = s.ctl m := rfl
@[simp] theorem State.setThread_course (m : Nat) : (s.setThread n k t).course m = s.course m := rfl
@[simp] theorem State.setThread_link (m : Nat) : (s.setThread n k t).link m = s.link m := rfl
@[simp] theorem State.setThread_lnode (m : Nat) : (s.setThread n k t).lnode m = s.lnode m := rfl

@[simp] theorem State.modThread_pending (f : Thread → Thread) : (s.modThread n k f).pending = s.pending := rfl
@[simp] theorem State.modThread_mc (f : Thread → Thread) : (s.modThread n k f).mc = s.mc := rfl
@[simp] theorem State.modThread_free (f : Thread → Thread) : (s.modThread n k f).free = s.free := rfl
@[simp] theorem State.modThread_rdata (f : Thread → Thread) : (s.modThread n k f).rdata = s.rdata := rfl
@[simp] theorem State.modThread_rbytes (f : Thread → Thread) : (s.modThread n k f).rbytes = s.rbytes := rfl
@[simp] theorem State.modThread_outbox (f : Thread → Thread) : (s.modThread n k f).outbox = s.outbox := rfl
@[simp] theorem State.modThread_module (f : Thread → Thread) : (s.modThread n k f).module = s.module := rfl
@[simp] theorem State.modThread_nodes (f : Thread → Thread) : (s.modThread n k f).nodes = s.nodes := rfl
@[simp] theorem State.modThread_ctls (f : Thread → Thread) : (s.modThread n k f).ctls = s.ctls := rfl
@[simp] theorem State.modThread_courses (f : Thread → Thread) : (s.modThread n k f).courses = s.courses := rfl
@[simp] theorem State.modThread_links (f : Thread → Thread) : (s.modThread n k f).links = s.links := rfl
@[simp] theorem State.modThread_lnodes (f : Thread → Thread) : (s.modThread n k f).lnodes = s.lnodes := rfl
@[simp] theorem State.modThread_rail (f : Thread → Thread) : (s.modThread n k f).rail = s.rail := rfl
@[simp] theorem State.modThread_host (f : Thread → Thread) : (s.modThread n k f).host = s.host := rfl
@[simp] theorem State.modThread_emu (f : Thread → Thread) : (s.modThread n k f).emu = s.emu := rfl
@[simp] theorem State.modThread_pb (f : Thread → Thread) : (s.modThread n k f).pb = s.pb := rfl
@[simp] theorem State.modThread_pwr (f : Thread → Thread) : (s.modThread n k f).pwr = s.pwr := rfl
@[simp] theorem State.modThread_sec (f : Thread → Thread) : (s.modThread n k f).sec = s.sec := rfl
@[simp] theorem State.modThread_phys (f : Thread → Thread) : (s.modThread n k f).phys = s.phys := rfl
@[simp] theorem State.modThread_wide (f : Thread → Thread) : (s.modThread n k f).wide = s.wide := rfl
@[simp] theorem State.modThread_node (f : Thread → Thread) (m : Nat) : (s.modThread n k f).node m = s.node m := rfl
@[simp] theorem State.modThread_ctl (f : Thread → Thread) (m : Nat) : (s.modThread n k f).ctl m = s.ctl m := rfl
@[simp] theorem State.modThread_course (f : Thread → Thread) (m : Nat) : (s.modThread n k f).course m = s.course m := rfl
@[simp] theorem State.modThread_link (f : Thread → Thread) (m : Nat) : (s.modThread n k f).link m = s.link m := rfl
@[simp] theorem State.modThread_lnode (f : Thread → Thread) (m : Nat) : (s.modThread n k f).lnode m = s.lnode m := rfl

/-! ## Reading what was written -/

@[simp] theorem State.setCore_core_same (x : Core) : (s.setCore n x).core n = x := mapGet_mapSet_same _ _ _ _
theorem State.setCore_core (x : Core) (m : Nat) : (s.setCore n x).core m = if m = n then x else s.core m := mapGet_mapSet _ _ _ _ _
theorem State.setCore_core_ne (x : Core) (m : Nat) (h : m ≠ n) : (s.setCore n x).core m = s.core m := mapGet_mapSet_ne _ _ _ _ h
@[simp] theorem State.modCore_core_same (f : Core → Core) : (s.modCore n f).core n = f (s.core n) := mapGet_mapSet_same _ _ _ _
theorem State.modCore_core (f : Core → Core) (m : Nat) : (s.modCore n f).core m = if m = n then f (s.core n) else s.core m := mapGet_mapSet _ _ _ _ _
theorem State.modCore_core_ne (f : Core → Core) (m : Nat) (h : m ≠ n) : (s.modCore n f).core m = s.core m := mapGet_mapSet_ne _ _ _ _ h
@[simp] theorem State.setNode_node_same (x : NodeIO) : (s.setNode n x).node n = x := mapGet_mapSet_same _ _ _ _
theorem State.setNode_node (x : NodeIO) (m : Nat) : (s.setNode n x).node m = if m = n then x else s.node m := mapGet_mapSet _ _ _ _ _
theorem State.setNode_node_ne (x : NodeIO) (m : Nat) (h : m ≠ n) : (s.setNode n x).node m = s.node m := mapGet_mapSet_ne _ _ _ _ h
@[simp] theorem State.modNode_node_same (f : NodeIO → NodeIO) : (s.modNode n f).node n = f (s.node n) := mapGet_mapSet_same _ _ _ _
theorem State.modNode_node (f : NodeIO → NodeIO) (m : Nat) : (s.modNode n f).node m = if m = n then f (s.node n) else s.node m := mapGet_mapSet _ _ _ _ _
theorem State.modNode_node_ne (f : NodeIO → NodeIO) (m : Nat) (h : m ≠ n) : (s.modNode n f).node m = s.node m := mapGet_mapSet_ne _ _ _ _ h
@[simp] theorem State.setCtl_ctl_same (x : MemCtl) : (s.setCtl n x).ctl n = x := mapGet_mapSet_same _ _ _ _
theorem State.setCtl_ctl (x : MemCtl) (m : Nat) : (s.setCtl n x).ctl m = if m = n then x else s.ctl m := mapGet_mapSet _ _ _ _ _
theorem State.setCtl_ctl_ne (x : MemCtl) (m : Nat) (h : m ≠ n) : (s.setCtl n x).ctl m = s.ctl m := mapGet_mapSet_ne _ _ _ _ h
@[simp] theorem State.modCtl_ctl_same (f : MemCtl → MemCtl) : (s.modCtl n f).ctl n = f (s.ctl n) := mapGet_mapSet_same _ _ _ _
theorem State.modCtl_ctl (f : MemCtl → MemCtl) (m : Nat) : (s.modCtl n f).ctl m = if m = n then f (s.ctl n) else s.ctl m := mapGet_mapSet _ _ _ _ _
theorem State.modCtl_ctl_ne (f : MemCtl → MemCtl) (m : Nat) (h : m ≠ n) : (s.modCtl n f).ctl m = s.ctl m := mapGet_mapSet_ne _ _ _ _ h
@[simp] theorem State.setCourse_course_same (x : Course) : (s.setCourse n x).course n = x := mapGet_mapSet_same _ _ _ _
theorem State.setCourse_course (x : Course) (m : Nat) : (s.setCourse n x).course m = if m = n then x else s.course m := mapGet_mapSet _ _ _ _ _
theorem State.setCourse_course_ne (x : Course) (m : Nat) (h : m ≠ n) : (s.setCourse n x).course m = s.course m := mapGet_mapSet_ne _ _ _ _ h
@[simp] theorem State.modCourse_course_same (f : Course → Course) : (s.modCourse n f).course n = f (s.course n) := mapGet_mapSet_same _ _ _ _
theorem State.modCourse_course (f : Course → Course) (m : Nat) : (s.modCourse n f).course m = if m = n then f (s.course n) else s.course m := mapGet_mapSet _ _ _ _ _
theorem State.modCourse_course_ne (f : Course → Course) (m : Nat) (h : m ≠ n) : (s.modCourse n f).course m = s.course m := mapGet_mapSet_ne _ _ _ _ h
@[simp] theorem State.setLink_link_same (x : Link) : (s.setLink n x).link n = x := mapGet_mapSet_same _ _ _ _
theorem State.setLink_link (x : Link) (m : Nat) : (s.setLink n x).link m = if m = n then x else s.link m := mapGet_mapSet _ _ _ _ _
theorem State.setLink_link_ne (x : Link) (m : Nat) (h : m ≠ n) : (s.setLink n x).link m = s.link m := mapGet_mapSet_ne _ _ _ _ h
@[simp] theorem State.modLink_link_same (f : Link → Link) : (s.modLink n f).link n = f (s.link n) := mapGet_mapSet_same _ _ _ _
theorem State.modLink_link (f : Link → Link) (m : Nat) : (s.modLink n f).link m = if m = n then f (s.link n) else s.link m := mapGet_mapSet _ _ _ _ _
theorem State.modLink_link_ne (f : Link → Link) (m : Nat) (h : m ≠ n) : (s.modLink n f).link m = s.link m := mapGet_mapSet_ne _ _ _ _ h
@[simp] theorem State.setLnode_lnode_same (x : LNode) : (s.setLnode n x).lnode n = x := mapGet_mapSet_same _ _ _ _
theorem State.setLnode_lnode (x : LNode) (m : Nat) : (s.setLnode n x).lnode m = if m = n then x else s.lnode m := mapGet_mapSet _ _ _ _ _
theorem State.setLnode_lnode_ne (x : LNode) (m : Nat) (h : m ≠ n) : (s.setLnode n x).lnode m = s.lnode m := mapGet_mapSet_ne _ _ _ _ h

/-! ## A core -/

@[simp] theorem Core.setThread_mem : (c.setThread k t).mem = c.mem := rfl
@[simp] theorem Core.setThread_syn : (c.setThread k t).syn = c.syn := rfl
@[simp] theorem Core.setThread_mat : (c.setThread k t).mat = c.mat := rfl
@[simp] theorem Core.setThread_dma : (c.setThread k t).dma = c.dma := rfl
@[simp] theorem Core.setThread_ctl : (c.setThread k t).ctl = c.ctl := rfl
@[simp] theorem Core.setThread_ranges : (c.setThread k t).ranges = c.ranges := rfl
@[simp] theorem Core.setThread_deferred : (c.setThread k t).deferred = c.deferred := rfl
@[simp] theorem Core.setThread_reqs : (c.setThread k t).reqs = c.reqs := rfl
@[simp] theorem Core.setThread_relSeq : (c.setThread k t).relSeq = c.relSeq := rfl
@[simp] theorem Core.setThread_drainRr : (c.setThread k t).drainRr = c.drainRr := rfl
@[simp] theorem Core.setThread_lost : (c.setThread k t).lost = c.lost := rfl
@[simp] theorem Core.setThread_tagQueue : (c.setThread k t).tagQueue = c.tagQueue := rfl
@[simp] theorem Core.setThread_afterDrop : (c.setThread k t).afterDrop = c.afterDrop := rfl
@[simp] theorem Core.setThread_waits : (c.setThread k t).waits = c.waits := rfl
@[simp] theorem Core.setThread_portOwn : (c.setThread k t).portOwn = c.portOwn := rfl
@[simp] theorem Core.setThread_chan (j : Nat) : (c.setThread k t).chan j = c.chan j := rfl
@[simp] theorem Core.modThread_mem (f : Thread → Thread) : (c.modThread k f).mem = c.mem := rfl
@[simp] theorem Core.modThread_syn (f : Thread → Thread) : (c.modThread k f).syn = c.syn := rfl
@[simp] theorem Core.modThread_mat (f : Thread → Thread) : (c.modThread k f).mat = c.mat := rfl
@[simp] theorem Core.modThread_dma (f : Thread → Thread) : (c.modThread k f).dma = c.dma := rfl
@[simp] theorem Core.modThread_ctl (f : Thread → Thread) : (c.modThread k f).ctl = c.ctl := rfl
@[simp] theorem Core.modThread_ranges (f : Thread → Thread) : (c.modThread k f).ranges = c.ranges := rfl
@[simp] theorem Core.modThread_deferred (f : Thread → Thread) : (c.modThread k f).deferred = c.deferred := rfl
@[simp] theorem Core.modThread_reqs (f : Thread → Thread) : (c.modThread k f).reqs = c.reqs := rfl
@[simp] theorem Core.modThread_relSeq (f : Thread → Thread) : (c.modThread k f).relSeq = c.relSeq := rfl
@[simp] theorem Core.modThread_drainRr (f : Thread → Thread) : (c.modThread k f).drainRr = c.drainRr := rfl
@[simp] theorem Core.modThread_lost (f : Thread → Thread) : (c.modThread k f).lost = c.lost := rfl
@[simp] theorem Core.modThread_tagQueue (f : Thread → Thread) : (c.modThread k f).tagQueue = c.tagQueue := rfl
@[simp] theorem Core.modThread_afterDrop (f : Thread → Thread) : (c.modThread k f).afterDrop = c.afterDrop := rfl
@[simp] theorem Core.modThread_waits (f : Thread → Thread) : (c.modThread k f).waits = c.waits := rfl
@[simp] theorem Core.modThread_portOwn (f : Thread → Thread) : (c.modThread k f).portOwn = c.portOwn := rfl
@[simp] theorem Core.modThread_chan (f : Thread → Thread) (j : Nat) : (c.modThread k f).chan j = c.chan j := rfl
@[simp] theorem Core.setChan_threads (x : DmaChan) : (c.setChan k x).threads = c.threads := rfl
@[simp] theorem Core.setChan_mem (x : DmaChan) : (c.setChan k x).mem = c.mem := rfl
@[simp] theorem Core.setChan_syn (x : DmaChan) : (c.setChan k x).syn = c.syn := rfl
@[simp] theorem Core.setChan_mat (x : DmaChan) : (c.setChan k x).mat = c.mat := rfl
@[simp] theorem Core.setChan_ctl (x : DmaChan) : (c.setChan k x).ctl = c.ctl := rfl
@[simp] theorem Core.setChan_ranges (x : DmaChan) : (c.setChan k x).ranges = c.ranges := rfl
@[simp] theorem Core.setChan_deferred (x : DmaChan) : (c.setChan k x).deferred = c.deferred := rfl
@[simp] theorem Core.setChan_reqs (x : DmaChan) : (c.setChan k x).reqs = c.reqs := rfl
@[simp] theorem Core.setChan_relSeq (x : DmaChan) : (c.setChan k x).relSeq = c.relSeq := rfl
@[simp] theorem Core.setChan_drainRr (x : DmaChan) : (c.setChan k x).drainRr = c.drainRr := rfl
@[simp] theorem Core.setChan_lost (x : DmaChan) : (c.setChan k x).lost = c.lost := rfl
@[simp] theorem Core.setChan_tagQueue (x : DmaChan) : (c.setChan k x).tagQueue = c.tagQueue := rfl
@[simp] theorem Core.setChan_afterDrop (x : DmaChan) : (c.setChan k x).afterDrop = c.afterDrop := rfl
@[simp] theorem Core.setChan_waits (x : DmaChan) : (c.setChan k x).waits = c.waits := rfl
@[simp] theorem Core.setChan_portOwn (x : DmaChan) : (c.setChan k x).portOwn = c.portOwn := rfl
@[simp] theorem Core.setChan_thread (x : DmaChan) (j : Nat) : (c.setChan k x).thread j = c.thread j := rfl
@[simp] theorem Core.modMem_threads (f : CoreMem → CoreMem) : (c.modMem f).threads = c.threads := rfl
@[simp] theorem Core.modMem_syn (f : CoreMem → CoreMem) : (c.modMem f).syn = c.syn := rfl
@[simp] theorem Core.modMem_mat (f : CoreMem → CoreMem) : (c.modMem f).mat = c.mat := rfl
@[simp] theorem Core.modMem_dma (f : CoreMem → CoreMem) : (c.modMem f).dma = c.dma := rfl
@[simp] theorem Core.modMem_ctl (f : CoreMem → CoreMem) : (c.modMem f).ctl = c.ctl := rfl
@[simp] theorem Core.modMem_ranges (f : CoreMem → CoreMem) : (c.modMem f).ranges = c.ranges := rfl
@[simp] theorem Core.modMem_deferred (f : CoreMem → CoreMem) : (c.modMem f).deferred = c.deferred := rfl
@[simp] theorem Core.modMem_reqs (f : CoreMem → CoreMem) : (c.modMem f).reqs = c.reqs := rfl
@[simp] theorem Core.modMem_relSeq (f : CoreMem → CoreMem) : (c.modMem f).relSeq = c.relSeq := rfl
@[simp] theorem Core.modMem_drainRr (f : CoreMem → CoreMem) : (c.modMem f).drainRr = c.drainRr := rfl
@[simp] theorem Core.modMem_lost (f : CoreMem → CoreMem) : (c.modMem f).lost = c.lost := rfl
@[simp] theorem Core.modMem_tagQueue (f : CoreMem → CoreMem) : (c.modMem f).tagQueue = c.tagQueue := rfl
@[simp] theorem Core.modMem_afterDrop (f : CoreMem → CoreMem) : (c.modMem f).afterDrop = c.afterDrop := rfl
@[simp] theorem Core.modMem_waits (f : CoreMem → CoreMem) : (c.modMem f).waits = c.waits := rfl
@[simp] theorem Core.modMem_portOwn (f : CoreMem → CoreMem) : (c.modMem f).portOwn = c.portOwn := rfl
@[simp] theorem Core.modMem_thread (f : CoreMem → CoreMem) (j : Nat) : (c.modMem f).thread j = c.thread j := rfl
@[simp] theorem Core.modMem_chan (f : CoreMem → CoreMem) (j : Nat) : (c.modMem f).chan j = c.chan j := rfl
@[simp] theorem Core.modMem_mem (f : CoreMem → CoreMem) : (c.modMem f).mem = f c.mem := rfl
@[simp] theorem Core.setThread_thread_same : (c.setThread k t).thread k = t := mapGet_mapSet_same _ _ _ _
theorem Core.setThread_thread (j : Nat) : (c.setThread k t).thread j = if j = k then t else c.thread j := mapGet_mapSet _ _ _ _ _
@[simp] theorem Core.modThread_thread_same (f : Thread → Thread) : (c.modThread k f).thread k = f (c.thread k) := mapGet_mapSet_same _ _ _ _
theorem Core.modThread_thread (f : Thread → Thread) (j : Nat) : (c.modThread k f).thread j = if j = k then f (c.thread k) else c.thread j :=
  mapGet_mapSet _ _ _ _ _
@[simp] theorem Core.setChan_chan_same (x : DmaChan) : (c.setChan k x).chan k = x := mapGet_mapSet_same _ _ _ _
theorem Core.setChan_chan (x : DmaChan) (j : Nat) : (c.setChan k x).chan j = if j = k then x else c.chan j := mapGet_mapSet _ _ _ _ _
@[simp] theorem State.setThread_thread_same : (s.setThread n k t).thread n k = t := by
  simp [State.setThread, State.thread]
@[simp] theorem State.modThread_thread_same (f : Thread → Thread) : (s.modThread n k f).thread n k = f (s.thread n k) := by
  simp [State.modThread]
theorem State.setThread_thread (m j : Nat) : (s.setThread n k t).thread m j = if m = n ∧ j = k then t else s.thread m j := by
  by_cases h : m = n
  · subst h; simp [State.setThread, State.thread, Core.setThread_thread]
  · simp [State.setThread, State.thread, State.setCore_core, h]
theorem State.modThread_thread (f : Thread → Thread) (m j : Nat) :
    (s.modThread n k f).thread m j = if m = n ∧ j = k then f (s.thread n k) else s.thread m j := State.setThread_thread _ _ _ _ _ _
@[simp] theorem State.setThread_core_same : (s.setThread n k t).core n = (s.core n).setThread k t := State.setCore_core_same _ _ _
@[simp] theorem State.modThread_core_same (f : Thread → Thread) : (s.modThread n k f).core n = (s.core n).modThread k f :=
  State.setCore_core_same _ _ _
theorem State.setThread_core_ne (m : Nat) (h : m ≠ n) : (s.setThread n k t).core m = s.core m := State.setCore_core_ne _ _ _ _ h
theorem State.modThread_core_ne (f : Thread → Thread) (m : Nat) (h : m ≠ n) : (s.modThread n k f).core m = s.core m :=
  State.setCore_core_ne _ _ _ _ h

/-! ## A thread: a register write touches its own file only -/

@[simp] theorem Thread.setG_p (r : GReg) (v : Word) : (t.setG r v).p = t.p := by
  unfold Thread.setG; split <;> rfl
@[simp] theorem Thread.setG_s (r : GReg) (v : Word) : (t.setG r v).s = t.s := by
  unfold Thread.setG; split <;> rfl
@[simp] theorem Thread.setG_v (r : GReg) (v : Word) : (t.setG r v).v = t.v := by
  unfold Thread.setG; split <;> rfl
@[simp] theorem Thread.setG_pc (r : GReg) (v : Word) : (t.setG r v).pc = t.pc := by
  unfold Thread.setG; split <;> rfl
@[simp] theorem Thread.setG_st (r : GReg) (v : Word) : (t.setG r v).st = t.st := by
  unfold Thread.setG; split <;> rfl
@[simp] theorem Thread.setG_esc (r : GReg) (v : Word) : (t.setG r v).esc = t.esc := by
  unfold Thread.setG; split <;> rfl
@[simp] theorem Thread.setG_th (r : GReg) (v : Word) : (t.setG r v).th = t.th := by
  unfold Thread.setG; split <;> rfl
@[simp] theorem Thread.setG_lastFault (r : GReg) (v : Word) : (t.setG r v).lastFault = t.lastFault := by
  unfold Thread.setG; split <;> rfl
@[simp] theorem Thread.setG_fpflags (r : GReg) (v : Word) : (t.setG r v).fpflags = t.fpflags := by
  unfold Thread.setG; split <;> rfl
@[simp] theorem Thread.setG_faultEn (r : GReg) (v : Word) : (t.setG r v).faultEn = t.faultEn := by
  unfold Thread.setG; split <;> rfl
@[simp] theorem Thread.setG_seed (r : GReg) (v : Word) : (t.setG r v).seed = t.seed := by
  unfold Thread.setG; split <;> rfl
@[simp] theorem Thread.setG_rmode (r : GReg) (v : Word) : (t.setG r v).rmode = t.rmode := by
  unfold Thread.setG; split <;> rfl
@[simp] theorem Thread.setG_dret (r : GReg) (v : Word) : (t.setG r v).dret = t.dret := by
  unfold Thread.setG; split <;> rfl
@[simp] theorem Thread.setG_handlers (r : GReg) (v : Word) : (t.setG r v).handlers = t.handlers := by
  unfold Thread.setG; split <;> rfl
@[simp] theorem Thread.setG_faultGate (r : GReg) (v : Word) : (t.setG r v).faultGate = t.faultGate := by
  unfold Thread.setG; split <;> rfl
@[simp] theorem Thread.setG_faultGdata (r : GReg) (v : Word) : (t.setG r v).faultGdata = t.faultGdata := by
  unfold Thread.setG; split <;> rfl
@[simp] theorem Thread.setG_gstack (r : GReg) (v : Word) : (t.setG r v).gstack = t.gstack := by
  unfold Thread.setG; split <;> rfl
@[simp] theorem Thread.setG_gdepth (r : GReg) (v : Word) : (t.setG r v).gdepth = t.gdepth := by
  unfold Thread.setG; split <;> rfl
@[simp] theorem Thread.setG_vcvts (r : GReg) (v : Word) : (t.setG r v).vcvts = t.vcvts := by
  unfold Thread.setG; split <;> rfl
@[simp] theorem Thread.setG_epoch (r : GReg) (v : Word) : (t.setG r v).epoch = t.epoch := by
  unfold Thread.setG; split <;> rfl
@[simp] theorem Thread.setG_timeShadow (r : GReg) (v : Word) : (t.setG r v).timeShadow = t.timeShadow := by
  unfold Thread.setG; split <;> rfl
@[simp] theorem Thread.setG_sb (r : GReg) (v : Word) : (t.setG r v).sb = t.sb := by
  unfold Thread.setG; split <;> rfl
@[simp] theorem Thread.setG_unacked (r : GReg) (v : Word) : (t.setG r v).unacked = t.unacked := by
  unfold Thread.setG; split <;> rfl
@[simp] theorem Thread.setG_storeSeq (r : GReg) (v : Word) : (t.setG r v).storeSeq = t.storeSeq := by
  unfold Thread.setG; split <;> rfl
@[simp] theorem Thread.setG_load (r : GReg) (v : Word) : (t.setG r v).load = t.load := by
  unfold Thread.setG; split <;> rfl
@[simp] theorem Thread.setG_wait (r : GReg) (v : Word) : (t.setG r v).wait = t.wait := by
  unfold Thread.setG; split <;> rfl
@[simp] theorem Thread.setG_parkedPc (r : GReg) (v : Word) : (t.setG r v).parkedPc = t.parkedPc := by
  unfold Thread.setG; split <;> rfl
@[simp] theorem Thread.setG_records (r : GReg) (v : Word) : (t.setG r v).records = t.records := by
  unfold Thread.setG; split <;> rfl
@[simp] theorem Thread.setG_rdPending (r : GReg) (v : Word) : (t.setG r v).rdPending = t.rdPending := by
  unfold Thread.setG; split <;> rfl
@[simp] theorem Thread.setG_remoteErr (r : GReg) (v : Word) : (t.setG r v).remoteErr = t.remoteErr := by
  unfold Thread.setG; split <;> rfl
@[simp] theorem Thread.setG_selCh (r : GReg) (v : Word) : (t.setG r v).selCh = t.selCh := by
  unfold Thread.setG; split <;> rfl
@[simp] theorem Thread.setG_selDenied (r : GReg) (v : Word) : (t.setG r v).selDenied = t.selDenied := by
  unfold Thread.setG; split <;> rfl
@[simp] theorem Thread.setG_fbuf (r : GReg) (v : Word) : (t.setG r v).fbuf = t.fbuf := by
  unfold Thread.setG; split <;> rfl
@[simp] theorem Thread.setG_stale (r : GReg) (v : Word) : (t.setG r v).stale = t.stale := by
  unfold Thread.setG; split <;> rfl
@[simp] theorem Thread.setG_entryWrite (r : GReg) (v : Word) : (t.setG r v).entryWrite = t.entryWrite := by
  unfold Thread.setG; split <;> rfl
@[simp] theorem Thread.setG_ran (r : GReg) (v : Word) : (t.setG r v).ran = t.ran := by
  unfold Thread.setG; split <;> rfl
@[simp] theorem Thread.setG_held (r : GReg) (v : Word) : (t.setG r v).held = t.held := by
  unfold Thread.setG; split <;> rfl
@[simp] theorem Thread.setPair_p (r : GReg) (v : DWord) : (t.setPair r v).p = t.p := by
  unfold Thread.setPair; split <;> simp
@[simp] theorem Thread.setPair_s (r : GReg) (v : DWord) : (t.setPair r v).s = t.s := by
  unfold Thread.setPair; split <;> simp
@[simp] theorem Thread.setPair_v (r : GReg) (v : DWord) : (t.setPair r v).v = t.v := by
  unfold Thread.setPair; split <;> simp
@[simp] theorem Thread.setPair_pc (r : GReg) (v : DWord) : (t.setPair r v).pc = t.pc := by
  unfold Thread.setPair; split <;> simp
@[simp] theorem Thread.setPair_st (r : GReg) (v : DWord) : (t.setPair r v).st = t.st := by
  unfold Thread.setPair; split <;> simp
@[simp] theorem Thread.setPair_esc (r : GReg) (v : DWord) : (t.setPair r v).esc = t.esc := by
  unfold Thread.setPair; split <;> simp
@[simp] theorem Thread.setPair_th (r : GReg) (v : DWord) : (t.setPair r v).th = t.th := by
  unfold Thread.setPair; split <;> simp
@[simp] theorem Thread.setPair_lastFault (r : GReg) (v : DWord) : (t.setPair r v).lastFault = t.lastFault := by
  unfold Thread.setPair; split <;> simp
@[simp] theorem Thread.setPair_fpflags (r : GReg) (v : DWord) : (t.setPair r v).fpflags = t.fpflags := by
  unfold Thread.setPair; split <;> simp
@[simp] theorem Thread.setPair_faultEn (r : GReg) (v : DWord) : (t.setPair r v).faultEn = t.faultEn := by
  unfold Thread.setPair; split <;> simp
@[simp] theorem Thread.setPair_seed (r : GReg) (v : DWord) : (t.setPair r v).seed = t.seed := by
  unfold Thread.setPair; split <;> simp
@[simp] theorem Thread.setPair_rmode (r : GReg) (v : DWord) : (t.setPair r v).rmode = t.rmode := by
  unfold Thread.setPair; split <;> simp
@[simp] theorem Thread.setPair_dret (r : GReg) (v : DWord) : (t.setPair r v).dret = t.dret := by
  unfold Thread.setPair; split <;> simp
@[simp] theorem Thread.setPair_handlers (r : GReg) (v : DWord) : (t.setPair r v).handlers = t.handlers := by
  unfold Thread.setPair; split <;> simp
@[simp] theorem Thread.setPair_faultGate (r : GReg) (v : DWord) : (t.setPair r v).faultGate = t.faultGate := by
  unfold Thread.setPair; split <;> simp
@[simp] theorem Thread.setPair_faultGdata (r : GReg) (v : DWord) : (t.setPair r v).faultGdata = t.faultGdata := by
  unfold Thread.setPair; split <;> simp
@[simp] theorem Thread.setPair_gstack (r : GReg) (v : DWord) : (t.setPair r v).gstack = t.gstack := by
  unfold Thread.setPair; split <;> simp
@[simp] theorem Thread.setPair_gdepth (r : GReg) (v : DWord) : (t.setPair r v).gdepth = t.gdepth := by
  unfold Thread.setPair; split <;> simp
@[simp] theorem Thread.setPair_vcvts (r : GReg) (v : DWord) : (t.setPair r v).vcvts = t.vcvts := by
  unfold Thread.setPair; split <;> simp
@[simp] theorem Thread.setPair_epoch (r : GReg) (v : DWord) : (t.setPair r v).epoch = t.epoch := by
  unfold Thread.setPair; split <;> simp
@[simp] theorem Thread.setPair_timeShadow (r : GReg) (v : DWord) : (t.setPair r v).timeShadow = t.timeShadow := by
  unfold Thread.setPair; split <;> simp
@[simp] theorem Thread.setPair_sb (r : GReg) (v : DWord) : (t.setPair r v).sb = t.sb := by
  unfold Thread.setPair; split <;> simp
@[simp] theorem Thread.setPair_unacked (r : GReg) (v : DWord) : (t.setPair r v).unacked = t.unacked := by
  unfold Thread.setPair; split <;> simp
@[simp] theorem Thread.setPair_storeSeq (r : GReg) (v : DWord) : (t.setPair r v).storeSeq = t.storeSeq := by
  unfold Thread.setPair; split <;> simp
@[simp] theorem Thread.setPair_load (r : GReg) (v : DWord) : (t.setPair r v).load = t.load := by
  unfold Thread.setPair; split <;> simp
@[simp] theorem Thread.setPair_wait (r : GReg) (v : DWord) : (t.setPair r v).wait = t.wait := by
  unfold Thread.setPair; split <;> simp
@[simp] theorem Thread.setPair_parkedPc (r : GReg) (v : DWord) : (t.setPair r v).parkedPc = t.parkedPc := by
  unfold Thread.setPair; split <;> simp
@[simp] theorem Thread.setPair_records (r : GReg) (v : DWord) : (t.setPair r v).records = t.records := by
  unfold Thread.setPair; split <;> simp
@[simp] theorem Thread.setPair_rdPending (r : GReg) (v : DWord) : (t.setPair r v).rdPending = t.rdPending := by
  unfold Thread.setPair; split <;> simp
@[simp] theorem Thread.setPair_remoteErr (r : GReg) (v : DWord) : (t.setPair r v).remoteErr = t.remoteErr := by
  unfold Thread.setPair; split <;> simp
@[simp] theorem Thread.setPair_selCh (r : GReg) (v : DWord) : (t.setPair r v).selCh = t.selCh := by
  unfold Thread.setPair; split <;> simp
@[simp] theorem Thread.setPair_selDenied (r : GReg) (v : DWord) : (t.setPair r v).selDenied = t.selDenied := by
  unfold Thread.setPair; split <;> simp
@[simp] theorem Thread.setPair_fbuf (r : GReg) (v : DWord) : (t.setPair r v).fbuf = t.fbuf := by
  unfold Thread.setPair; split <;> simp
@[simp] theorem Thread.setPair_stale (r : GReg) (v : DWord) : (t.setPair r v).stale = t.stale := by
  unfold Thread.setPair; split <;> simp
@[simp] theorem Thread.setPair_entryWrite (r : GReg) (v : DWord) : (t.setPair r v).entryWrite = t.entryWrite := by
  unfold Thread.setPair; split <;> simp
@[simp] theorem Thread.setPair_ran (r : GReg) (v : DWord) : (t.setPair r v).ran = t.ran := by
  unfold Thread.setPair; split <;> simp
@[simp] theorem Thread.setPair_held (r : GReg) (v : DWord) : (t.setPair r v).held = t.held := by
  unfold Thread.setPair; split <;> simp
@[simp] theorem Thread.setP_g (r : PReg) (v : Bool) : (t.setP r v).g = t.g := by
  unfold Thread.setP; split <;> rfl
@[simp] theorem Thread.setP_s (r : PReg) (v : Bool) : (t.setP r v).s = t.s := by
  unfold Thread.setP; split <;> rfl
@[simp] theorem Thread.setP_v (r : PReg) (v : Bool) : (t.setP r v).v = t.v := by
  unfold Thread.setP; split <;> rfl
@[simp] theorem Thread.setP_pc (r : PReg) (v : Bool) : (t.setP r v).pc = t.pc := by
  unfold Thread.setP; split <;> rfl
@[simp] theorem Thread.setP_st (r : PReg) (v : Bool) : (t.setP r v).st = t.st := by
  unfold Thread.setP; split <;> rfl
@[simp] theorem Thread.setP_esc (r : PReg) (v : Bool) : (t.setP r v).esc = t.esc := by
  unfold Thread.setP; split <;> rfl
@[simp] theorem Thread.setP_th (r : PReg) (v : Bool) : (t.setP r v).th = t.th := by
  unfold Thread.setP; split <;> rfl
@[simp] theorem Thread.setP_lastFault (r : PReg) (v : Bool) : (t.setP r v).lastFault = t.lastFault := by
  unfold Thread.setP; split <;> rfl
@[simp] theorem Thread.setP_fpflags (r : PReg) (v : Bool) : (t.setP r v).fpflags = t.fpflags := by
  unfold Thread.setP; split <;> rfl
@[simp] theorem Thread.setP_faultEn (r : PReg) (v : Bool) : (t.setP r v).faultEn = t.faultEn := by
  unfold Thread.setP; split <;> rfl
@[simp] theorem Thread.setP_seed (r : PReg) (v : Bool) : (t.setP r v).seed = t.seed := by
  unfold Thread.setP; split <;> rfl
@[simp] theorem Thread.setP_rmode (r : PReg) (v : Bool) : (t.setP r v).rmode = t.rmode := by
  unfold Thread.setP; split <;> rfl
@[simp] theorem Thread.setP_dret (r : PReg) (v : Bool) : (t.setP r v).dret = t.dret := by
  unfold Thread.setP; split <;> rfl
@[simp] theorem Thread.setP_handlers (r : PReg) (v : Bool) : (t.setP r v).handlers = t.handlers := by
  unfold Thread.setP; split <;> rfl
@[simp] theorem Thread.setP_faultGate (r : PReg) (v : Bool) : (t.setP r v).faultGate = t.faultGate := by
  unfold Thread.setP; split <;> rfl
@[simp] theorem Thread.setP_faultGdata (r : PReg) (v : Bool) : (t.setP r v).faultGdata = t.faultGdata := by
  unfold Thread.setP; split <;> rfl
@[simp] theorem Thread.setP_gstack (r : PReg) (v : Bool) : (t.setP r v).gstack = t.gstack := by
  unfold Thread.setP; split <;> rfl
@[simp] theorem Thread.setP_gdepth (r : PReg) (v : Bool) : (t.setP r v).gdepth = t.gdepth := by
  unfold Thread.setP; split <;> rfl
@[simp] theorem Thread.setP_vcvts (r : PReg) (v : Bool) : (t.setP r v).vcvts = t.vcvts := by
  unfold Thread.setP; split <;> rfl
@[simp] theorem Thread.setP_epoch (r : PReg) (v : Bool) : (t.setP r v).epoch = t.epoch := by
  unfold Thread.setP; split <;> rfl
@[simp] theorem Thread.setP_timeShadow (r : PReg) (v : Bool) : (t.setP r v).timeShadow = t.timeShadow := by
  unfold Thread.setP; split <;> rfl
@[simp] theorem Thread.setP_sb (r : PReg) (v : Bool) : (t.setP r v).sb = t.sb := by
  unfold Thread.setP; split <;> rfl
@[simp] theorem Thread.setP_unacked (r : PReg) (v : Bool) : (t.setP r v).unacked = t.unacked := by
  unfold Thread.setP; split <;> rfl
@[simp] theorem Thread.setP_storeSeq (r : PReg) (v : Bool) : (t.setP r v).storeSeq = t.storeSeq := by
  unfold Thread.setP; split <;> rfl
@[simp] theorem Thread.setP_load (r : PReg) (v : Bool) : (t.setP r v).load = t.load := by
  unfold Thread.setP; split <;> rfl
@[simp] theorem Thread.setP_wait (r : PReg) (v : Bool) : (t.setP r v).wait = t.wait := by
  unfold Thread.setP; split <;> rfl
@[simp] theorem Thread.setP_parkedPc (r : PReg) (v : Bool) : (t.setP r v).parkedPc = t.parkedPc := by
  unfold Thread.setP; split <;> rfl
@[simp] theorem Thread.setP_records (r : PReg) (v : Bool) : (t.setP r v).records = t.records := by
  unfold Thread.setP; split <;> rfl
@[simp] theorem Thread.setP_rdPending (r : PReg) (v : Bool) : (t.setP r v).rdPending = t.rdPending := by
  unfold Thread.setP; split <;> rfl
@[simp] theorem Thread.setP_remoteErr (r : PReg) (v : Bool) : (t.setP r v).remoteErr = t.remoteErr := by
  unfold Thread.setP; split <;> rfl
@[simp] theorem Thread.setP_selCh (r : PReg) (v : Bool) : (t.setP r v).selCh = t.selCh := by
  unfold Thread.setP; split <;> rfl
@[simp] theorem Thread.setP_selDenied (r : PReg) (v : Bool) : (t.setP r v).selDenied = t.selDenied := by
  unfold Thread.setP; split <;> rfl
@[simp] theorem Thread.setP_fbuf (r : PReg) (v : Bool) : (t.setP r v).fbuf = t.fbuf := by
  unfold Thread.setP; split <;> rfl
@[simp] theorem Thread.setP_stale (r : PReg) (v : Bool) : (t.setP r v).stale = t.stale := by
  unfold Thread.setP; split <;> rfl
@[simp] theorem Thread.setP_entryWrite (r : PReg) (v : Bool) : (t.setP r v).entryWrite = t.entryWrite := by
  unfold Thread.setP; split <;> rfl
@[simp] theorem Thread.setP_ran (r : PReg) (v : Bool) : (t.setP r v).ran = t.ran := by
  unfold Thread.setP; split <;> rfl
@[simp] theorem Thread.setP_held (r : PReg) (v : Bool) : (t.setP r v).held = t.held := by
  unfold Thread.setP; split <;> rfl
@[simp] theorem Thread.setS_g (r : SReg) (v : Cap) : (t.setS r v).g = t.g := rfl
@[simp] theorem Thread.setS_p (r : SReg) (v : Cap) : (t.setS r v).p = t.p := rfl
@[simp] theorem Thread.setS_v (r : SReg) (v : Cap) : (t.setS r v).v = t.v := rfl
@[simp] theorem Thread.setS_pc (r : SReg) (v : Cap) : (t.setS r v).pc = t.pc := rfl
@[simp] theorem Thread.setS_st (r : SReg) (v : Cap) : (t.setS r v).st = t.st := rfl
@[simp] theorem Thread.setS_esc (r : SReg) (v : Cap) : (t.setS r v).esc = t.esc := rfl
@[simp] theorem Thread.setS_th (r : SReg) (v : Cap) : (t.setS r v).th = t.th := rfl
@[simp] theorem Thread.setS_lastFault (r : SReg) (v : Cap) : (t.setS r v).lastFault = t.lastFault := rfl
@[simp] theorem Thread.setS_fpflags (r : SReg) (v : Cap) : (t.setS r v).fpflags = t.fpflags := rfl
@[simp] theorem Thread.setS_faultEn (r : SReg) (v : Cap) : (t.setS r v).faultEn = t.faultEn := rfl
@[simp] theorem Thread.setS_seed (r : SReg) (v : Cap) : (t.setS r v).seed = t.seed := rfl
@[simp] theorem Thread.setS_rmode (r : SReg) (v : Cap) : (t.setS r v).rmode = t.rmode := rfl
@[simp] theorem Thread.setS_dret (r : SReg) (v : Cap) : (t.setS r v).dret = t.dret := rfl
@[simp] theorem Thread.setS_handlers (r : SReg) (v : Cap) : (t.setS r v).handlers = t.handlers := rfl
@[simp] theorem Thread.setS_faultGate (r : SReg) (v : Cap) : (t.setS r v).faultGate = t.faultGate := rfl
@[simp] theorem Thread.setS_faultGdata (r : SReg) (v : Cap) : (t.setS r v).faultGdata = t.faultGdata := rfl
@[simp] theorem Thread.setS_gstack (r : SReg) (v : Cap) : (t.setS r v).gstack = t.gstack := rfl
@[simp] theorem Thread.setS_gdepth (r : SReg) (v : Cap) : (t.setS r v).gdepth = t.gdepth := rfl
@[simp] theorem Thread.setS_vcvts (r : SReg) (v : Cap) : (t.setS r v).vcvts = t.vcvts := rfl
@[simp] theorem Thread.setS_epoch (r : SReg) (v : Cap) : (t.setS r v).epoch = t.epoch := rfl
@[simp] theorem Thread.setS_timeShadow (r : SReg) (v : Cap) : (t.setS r v).timeShadow = t.timeShadow := rfl
@[simp] theorem Thread.setS_sb (r : SReg) (v : Cap) : (t.setS r v).sb = t.sb := rfl
@[simp] theorem Thread.setS_unacked (r : SReg) (v : Cap) : (t.setS r v).unacked = t.unacked := rfl
@[simp] theorem Thread.setS_storeSeq (r : SReg) (v : Cap) : (t.setS r v).storeSeq = t.storeSeq := rfl
@[simp] theorem Thread.setS_load (r : SReg) (v : Cap) : (t.setS r v).load = t.load := rfl
@[simp] theorem Thread.setS_wait (r : SReg) (v : Cap) : (t.setS r v).wait = t.wait := rfl
@[simp] theorem Thread.setS_parkedPc (r : SReg) (v : Cap) : (t.setS r v).parkedPc = t.parkedPc := rfl
@[simp] theorem Thread.setS_records (r : SReg) (v : Cap) : (t.setS r v).records = t.records := rfl
@[simp] theorem Thread.setS_rdPending (r : SReg) (v : Cap) : (t.setS r v).rdPending = t.rdPending := rfl
@[simp] theorem Thread.setS_remoteErr (r : SReg) (v : Cap) : (t.setS r v).remoteErr = t.remoteErr := rfl
@[simp] theorem Thread.setS_selCh (r : SReg) (v : Cap) : (t.setS r v).selCh = t.selCh := rfl
@[simp] theorem Thread.setS_selDenied (r : SReg) (v : Cap) : (t.setS r v).selDenied = t.selDenied := rfl
@[simp] theorem Thread.setS_fbuf (r : SReg) (v : Cap) : (t.setS r v).fbuf = t.fbuf := rfl
@[simp] theorem Thread.setS_stale (r : SReg) (v : Cap) : (t.setS r v).stale = t.stale := rfl
@[simp] theorem Thread.setS_entryWrite (r : SReg) (v : Cap) : (t.setS r v).entryWrite = t.entryWrite := rfl
@[simp] theorem Thread.setS_ran (r : SReg) (v : Cap) : (t.setS r v).ran = t.ran := rfl
@[simp] theorem Thread.setS_held (r : SReg) (v : Cap) : (t.setS r v).held = t.held := rfl
@[simp] theorem Thread.setV_g (r : VReg) (v : Vec) : (t.setV r v).g = t.g := rfl
@[simp] theorem Thread.setV_p (r : VReg) (v : Vec) : (t.setV r v).p = t.p := rfl
@[simp] theorem Thread.setV_s (r : VReg) (v : Vec) : (t.setV r v).s = t.s := rfl
@[simp] theorem Thread.setV_pc (r : VReg) (v : Vec) : (t.setV r v).pc = t.pc := rfl
@[simp] theorem Thread.setV_st (r : VReg) (v : Vec) : (t.setV r v).st = t.st := rfl
@[simp] theorem Thread.setV_esc (r : VReg) (v : Vec) : (t.setV r v).esc = t.esc := rfl
@[simp] theorem Thread.setV_th (r : VReg) (v : Vec) : (t.setV r v).th = t.th := rfl
@[simp] theorem Thread.setV_lastFault (r : VReg) (v : Vec) : (t.setV r v).lastFault = t.lastFault := rfl
@[simp] theorem Thread.setV_fpflags (r : VReg) (v : Vec) : (t.setV r v).fpflags = t.fpflags := rfl
@[simp] theorem Thread.setV_faultEn (r : VReg) (v : Vec) : (t.setV r v).faultEn = t.faultEn := rfl
@[simp] theorem Thread.setV_seed (r : VReg) (v : Vec) : (t.setV r v).seed = t.seed := rfl
@[simp] theorem Thread.setV_rmode (r : VReg) (v : Vec) : (t.setV r v).rmode = t.rmode := rfl
@[simp] theorem Thread.setV_dret (r : VReg) (v : Vec) : (t.setV r v).dret = t.dret := rfl
@[simp] theorem Thread.setV_handlers (r : VReg) (v : Vec) : (t.setV r v).handlers = t.handlers := rfl
@[simp] theorem Thread.setV_faultGate (r : VReg) (v : Vec) : (t.setV r v).faultGate = t.faultGate := rfl
@[simp] theorem Thread.setV_faultGdata (r : VReg) (v : Vec) : (t.setV r v).faultGdata = t.faultGdata := rfl
@[simp] theorem Thread.setV_gstack (r : VReg) (v : Vec) : (t.setV r v).gstack = t.gstack := rfl
@[simp] theorem Thread.setV_gdepth (r : VReg) (v : Vec) : (t.setV r v).gdepth = t.gdepth := rfl
@[simp] theorem Thread.setV_vcvts (r : VReg) (v : Vec) : (t.setV r v).vcvts = t.vcvts := rfl
@[simp] theorem Thread.setV_epoch (r : VReg) (v : Vec) : (t.setV r v).epoch = t.epoch := rfl
@[simp] theorem Thread.setV_timeShadow (r : VReg) (v : Vec) : (t.setV r v).timeShadow = t.timeShadow := rfl
@[simp] theorem Thread.setV_sb (r : VReg) (v : Vec) : (t.setV r v).sb = t.sb := rfl
@[simp] theorem Thread.setV_unacked (r : VReg) (v : Vec) : (t.setV r v).unacked = t.unacked := rfl
@[simp] theorem Thread.setV_storeSeq (r : VReg) (v : Vec) : (t.setV r v).storeSeq = t.storeSeq := rfl
@[simp] theorem Thread.setV_load (r : VReg) (v : Vec) : (t.setV r v).load = t.load := rfl
@[simp] theorem Thread.setV_wait (r : VReg) (v : Vec) : (t.setV r v).wait = t.wait := rfl
@[simp] theorem Thread.setV_parkedPc (r : VReg) (v : Vec) : (t.setV r v).parkedPc = t.parkedPc := rfl
@[simp] theorem Thread.setV_records (r : VReg) (v : Vec) : (t.setV r v).records = t.records := rfl
@[simp] theorem Thread.setV_rdPending (r : VReg) (v : Vec) : (t.setV r v).rdPending = t.rdPending := rfl
@[simp] theorem Thread.setV_remoteErr (r : VReg) (v : Vec) : (t.setV r v).remoteErr = t.remoteErr := rfl
@[simp] theorem Thread.setV_selCh (r : VReg) (v : Vec) : (t.setV r v).selCh = t.selCh := rfl
@[simp] theorem Thread.setV_selDenied (r : VReg) (v : Vec) : (t.setV r v).selDenied = t.selDenied := rfl
@[simp] theorem Thread.setV_fbuf (r : VReg) (v : Vec) : (t.setV r v).fbuf = t.fbuf := rfl
@[simp] theorem Thread.setV_stale (r : VReg) (v : Vec) : (t.setV r v).stale = t.stale := rfl
@[simp] theorem Thread.setV_entryWrite (r : VReg) (v : Vec) : (t.setV r v).entryWrite = t.entryWrite := rfl
@[simp] theorem Thread.setV_ran (r : VReg) (v : Vec) : (t.setV r v).ran = t.ran := rfl
@[simp] theorem Thread.setV_held (r : VReg) (v : Vec) : (t.setV r v).held = t.held := rfl

@[simp] theorem Thread.getG_zero : t.getG 0 = 0 := by simp [Thread.getG]
@[simp] theorem Thread.setG_zero (v : Word) : t.setG 0 v = t := by simp [Thread.setG]
theorem Thread.setG_of_ne (r : GReg) (v : Word) (h : r ≠ 0) : t.setG r v = { t with g := mapSet 0 t.g r.toNat v } := if_neg h
theorem Thread.getG_of_ne (r : GReg) (h : r ≠ 0) : t.getG r = mapGet 0 t.g r.toNat := if_neg h
theorem Thread.setG_getG (r q : GReg) (v : Word) : (t.setG r v).getG q = if q = r ∧ r ≠ 0 then v else t.getG q := by
  by_cases h : r = 0
  · rw [if_neg (fun e => e.2 h), h, Thread.setG_zero]
  · rw [Thread.setG_of_ne _ _ _ h]
    by_cases hq : q = r
    · rw [if_pos ⟨hq, h⟩, hq, Thread.getG_of_ne _ _ h]; exact mapGet_mapSet_same _ _ _ _
    · rw [if_neg (fun e => hq e.1)]
      have hn : q.toNat ≠ r.toNat := fun e => hq (BitVec.eq_of_toNat_eq e)
      unfold Thread.getG
      split
      · rfl
      · exact mapGet_mapSet_ne _ _ _ _ hn
theorem Thread.setG_getG_same (r : GReg) (v : Word) (h : r ≠ 0) : (t.setG r v).getG r = v := by
  rw [Thread.setG_getG, if_pos ⟨rfl, h⟩]
@[simp] theorem Thread.getP_zero : t.getP 0 = true := by simp [Thread.getP]
@[simp] theorem Thread.setP_zero (v : Bool) : t.setP 0 v = t := by simp [Thread.setP]
theorem Thread.setP_of_ne (r : PReg) (v : Bool) (h : r ≠ 0) : t.setP r v = { t with p := mapSet false t.p r.toNat v } := if_neg h
theorem Thread.getP_of_ne (r : PReg) (h : r ≠ 0) : t.getP r = mapGet false t.p r.toNat := if_neg h
theorem Thread.setP_getP (r q : PReg) (v : Bool) : (t.setP r v).getP q = if q = r ∧ r ≠ 0 then v else t.getP q := by
  by_cases h : r = 0
  · rw [if_neg (fun e => e.2 h), h, Thread.setP_zero]
  · rw [Thread.setP_of_ne _ _ _ h]
    by_cases hq : q = r
    · rw [if_pos ⟨hq, h⟩, hq, Thread.getP_of_ne _ _ h]; exact mapGet_mapSet_same _ _ _ _
    · rw [if_neg (fun e => hq e.1)]
      have hn : q.toNat ≠ r.toNat := fun e => hq (BitVec.eq_of_toNat_eq e)
      unfold Thread.getP
      split
      · rfl
      · exact mapGet_mapSet_ne _ _ _ _ hn
theorem Thread.setS_getS (r q : SReg) (v : Cap) : (t.setS r v).getS q = if q = r then v else t.getS q := by
  by_cases hq : q = r
  · simp [Thread.setS, Thread.getS, hq]
  · have hn : q.toNat ≠ r.toNat := fun e => hq (BitVec.eq_of_toNat_eq e)
    simp [Thread.setS, Thread.getS, hq, mapGet_mapSet_ne _ _ _ _ hn]
theorem Thread.setV_getV (r q : VReg) (v : Vec) : (t.setV r v).getV q = if q = r then v else t.getV q := by
  by_cases hq : q = r
  · simp [Thread.setV, Thread.getV, hq]
  · have hn : q.toNat ≠ r.toNat := fun e => hq (BitVec.eq_of_toNat_eq e)
    simp [Thread.setV, Thread.getV, hq, mapGet_mapSet_ne _ _ _ _ hn]

end Sys2Proof.Machine
end

