-- ==== Sys2Proof/Laws/Issue.lean ====
section
/-! SUPPORT. A Camhar op given as a command: the command is the bundle of its op, and a legal bundle of one op comes to the op's own
outcome. -/

namespace Sys2Proof.Machine

open Sys2Proof

/-- Every op command is the bundle of its op. -/
theorem exec_opOf (i : Instr) (c : OpAt) (o : Op) (h : opOf i = some (c, o)) (s : State) : exec i s = issueOne c o s := by
  cases i <;> simp only [opOf, Option.some.injEq, Prod.mk.injEq, reduceCtorEq] at h <;> (obtain ⟨rfl, rfl⟩ := h; rfl)

/-! ## A bundle of one op -/

section Issued

variable (n : Nat) (k : ThreadNo) (b : Bundle) (s : State)

@[simp] theorem countWaits_thread (m j : Nat) : (countWaits s n k).thread m j = s.thread m j := by
  by_cases h : m = n
  · subst h; simp [countWaits, State.thread, Core.thread]
  · simp [countWaits, State.thread, State.modCore_core, h]

@[simp] theorem countWaits_module : (countWaits s n k).module = s.module := rfl
@[simp] theorem countWaits_courses : (countWaits s n k).courses = s.courses := rfl
@[simp] theorem countWaits_mc : (countWaits s n k).mc = s.mc := rfl
@[simp] theorem countWaits_free : (countWaits s n k).free = s.free := rfl
@[simp] theorem countIssue_module : (countIssue n k b s).module = s.module := rfl
@[simp] theorem countIssue_courses : (countIssue n k b s).courses = s.courses := rfl
@[simp] theorem countIssue_mc : (countIssue n k b s).mc = s.mc := rfl
@[simp] theorem countIssue_free : (countIssue n k b s).free = s.free := rfl

/-- The issuing thread keeps everything but its branch epoch. -/
theorem countIssue_thread (m j : Nat) : (countIssue n k b s).thread m j =
    if m = n ∧ j = k.val then
      { s.thread n k.val with epoch := if (slotOps b).any isBru then (s.thread n k.val).epoch + 1 else (s.thread n k.val).epoch }
    else s.thread m j := by
  have h : ∀ m j, (s.modCore n fun c => { c with ctl := { c.ctl with issueCnt := c.ctl.issueCnt + 1 } }).thread m j = s.thread m j := by
    intro m j
    by_cases h : m = n
    · subst h; simp [State.thread, Core.thread]
    · simp [State.thread, State.modCore_core, h]
  rw [countIssue, State.modThread_thread, h, h]

/-- Of the core, an issue changes its count, the thread's epoch and how long the other threads have waited. -/
theorem countIssue_core : (countIssue n k b s).core n =
    ({ s.core n with ctl := { (s.core n).ctl with issueCnt := (s.core n).ctl.issueCnt + 1 } } : Core).modThread k.val fun t =>
      { t with epoch := if (slotOps b).any isBru then t.epoch + 1 else t.epoch } := by
  simp [countIssue]

theorem countWaits_core : ∃ w, (countWaits s n k).core n = { s.core n with waits := w } := ⟨_, by simp [countWaits]; rfl⟩

end Issued

theorem opIssued_thread (s : State) (c : OpAt) (o : Op) : (opIssued s c o).thread c.node.val c.thread.val =
    { s.thread c.node.val c.thread.val with
      epoch := if (slotOps (opBundle s c o)).any isBru then (s.thread c.node.val c.thread.val).epoch + 1
        else (s.thread c.node.val c.thread.val).epoch } := by
  simp [opIssued, countIssue_thread]

@[simp] theorem opIssued_getP (s : State) (c : OpAt) (o : Op) (r : PReg) :
    ((opIssued s c o).thread c.node.val c.thread.val).getP r = (s.thread c.node.val c.thread.val).getP r := by
  rw [opIssued_thread]; rfl

@[simp] theorem opIssued_pc (s : State) (c : OpAt) (o : Op) :
    ((opIssued s c o).thread c.node.val c.thread.val).pc = (s.thread c.node.val c.thread.val).pc := by
  rw [opIssued_thread]

theorem opIssued_core (s : State) (c : OpAt) (o : Op) : ∃ w, (opIssued s c o).core c.node.val =
    ({ s.core c.node.val with
        ctl := { (s.core c.node.val).ctl with issueCnt := (s.core c.node.val).ctl.issueCnt + 1 }, waits := w } : Core).modThread c.thread.val
      fun t => { t with epoch := if (slotOps (opBundle s c o)).any isBru then t.epoch + 1 else t.epoch } := by
  obtain ⟨w, hw⟩ := countWaits_core c.node.val c.thread s
  exact ⟨w, by rw [opIssued, countIssue_core, hw]⟩

/-- Legality and the deferred faults of a core do not depend on what an issue changes. -/
theorem bundleIllegal_opIssued (s : State) (c : OpAt) (o : Op) (b : Bundle) (e : Bool) :
    bundleIllegal ((opIssued s c o).core c.node.val) c.thread.val b e = bundleIllegal (s.core c.node.val) c.thread.val b e := by
  obtain ⟨w, hw⟩ := opIssued_core s c o
  have h : ∀ p, chanBarred ((opIssued s c o).core c.node.val) c.thread.val p = chanBarred (s.core c.node.val) c.thread.val p := by
    intro p; rw [hw]; cases p <;> rfl
  unfold bundleIllegal
  rw [funext h]

theorem deferredFor_opIssued (s : State) (c : OpAt) (o : Op) (os : List Op) :
    deferredFor ((opIssued s c o).core c.node.val) c.thread os = deferredFor (s.core c.node.val) c.thread os := by
  obtain ⟨w, hw⟩ := opIssued_core s c o
  rw [hw]; rfl

@[simp] theorem slotOps_opBundle (s : State) (c : OpAt) (o : Op) (h : opClass o ≠ 7) : slotOps (opBundle s c o) = [o] := by
  unfold opBundle commandBundle slotOps
  cases c.ext <;> simp [clsExt, h]

theorem opClass_ne_ext (o : Op) : opClass o ≠ 7 := by
  unfold opClass
  split <;> first | decide | (split <;> decide)

/-- The only slot of an op command's bundle. -/
def opSlot (c : OpAt) (o : Op) : Slot := { cls := opClass o, psense := c.psense, psel := c.psel, op := .ok o, ext := 0 }

theorem opBundle_link (s : State) (c : OpAt) (o : Op) :
    (opBundle s c o).link = (s.thread c.node.val c.thread.val).pc + opBytes c := by
  unfold opBundle commandBundle Bundle.link opBytes
  cases c.ext <;> rfl

/-- A legal bundle's op has the extension that the command gives. -/
theorem opBundle_extFor (s : State) (c : OpAt) (o : Op) (k : Core) (j : Nat) (e : Bool)
    (h : (bundleIllegal k j (opBundle s c o) e).isNone = true) : (opBundle s c o).extFor (opSlot c o) = c.ext := by
  have hc := opClass_ne_ext o
  unfold bundleIllegal at h
  unfold Bundle.extFor
  revert h
  unfold opBundle commandBundle Bundle.extended Bundle.extOf opSlot
  cases hx : c.ext with
  | none => simp [clsExt, hc]
  | some x =>
    by_cases ht : takesExt o = true
    · simp [clsExt, hc, ht]
    · simp [clsExt, hc, ht, illegal]
      split_ifs <;> simp

theorem opBundle_ctx (s : State) (c : OpAt) (o : Op) (k : Core) (j : Nat) (e : Bool)
    (h : (bundleIllegal k j (opBundle s c o) e).isNone = true) :
    ctxOf (opIssued s c o) c.node.val c.thread (opBundle s c o) (opSlot c o) = opCtx s c o := by
  unfold ctxOf opCtx
  rw [opBundle_extFor s c o k j e h, opBundle_link]
  rfl

theorem outcomes_opBundle (s : State) (c : OpAt) (o : Op) (h : opIssues s c o = true) :
    outcomes (opIssued s c o) c.node.val c.thread (opBundle s c o) = [(opSlot c o, o, evalOp (opCtx s c o) o)] := by
  simp only [opIssues, Bool.and_eq_true] at h
  obtain ⟨⟨⟨_, hl⟩, _⟩, hp⟩ := h
  have hc := opClass_ne_ext o
  have e : (opBundle s c o).slots = opSlot c o :: (match c.ext with
      | none => []
      | some h => [{ cls := clsExt, psense := false, psel := 0, op := .ok .ifence, ext := h }]) := by
    unfold opBundle commandBundle opSlot; cases c.ext <;> rfl
  have ho : (opSlot c o).op = .ok o := rfl
  have hh : (opSlot c o).holds ((opIssued s c o).thread c.node.val c.thread.val) = true := by
    simpa [Slot.holds, opSlot] using hp
  have hk : (opSlot c o).cls ≠ clsExt := hc
  unfold outcomes
  rw [e]
  have hx := opBundle_ctx s c o _ _ _ hl
  cases c.ext <;> simp [ho, hh, hk, hx]

/-- The course of a bundle of one op that issues: its deferred faults and its legality are settled, and its op's outcome decides. -/
theorem issueOne_run (s : State) (c : OpAt) (o : Op) (h : opIssues s c o = true) :
    issueOne c o s = .next (settle c.node.val
      (match evalOp (opCtx s c o) o with
        | .fault f => takeFault (discard c.node.val c.thread (opBundle s c o) untilWB (opIssued s c o)) c.node.val c.thread f
            (s.thread c.node.val c.thread.val).pc (s.thread c.node.val c.thread.val).pc false
        | .ecc st off => takeFault (discard c.node.val c.thread (opBundle s c o) untilWB ((opIssued s c o).coreEcc c.node.val st off))
            c.node.val c.thread (eccFault st) (s.thread c.node.val c.thread.val).pc (s.thread c.node.val c.thread.val).pc false
        | .withdraw act => act (discard c.node.val c.thread (opBundle s c o) untilE2 ((opIssued s c o).setThread c.node.val c.thread.val
            { (opIssued s c o).thread c.node.val c.thread.val with load := none, held := none }))
        | .done _ _ => completeBundle (opIssued s c o) c.node.val c.thread (opBundle s c o)
            [(opSlot c o, o, evalOp (opCtx s c o) o)])) := by
  have hr := outcomes_opBundle s c o h
  simp only [opIssues, Bool.and_eq_true] at h
  obtain ⟨⟨⟨⟨hn, hb⟩, hl⟩, hd⟩, hp⟩ := h
  have hl' : bundleIllegal ((opIssued s c o).core c.node.val) c.thread.val (opBundle s c o) (opBundle s c o).pastEnd = none := by
    rw [bundleIllegal_opIssued]; exact Option.isNone_iff_eq_none.mp hl
  have hd' : deferredFor ((opIssued s c o).core c.node.val) c.thread [o] = none := by
    rw [deferredFor_opIssued]; exact Option.isNone_iff_eq_none.mp hd
  have hpc : (opBundle s c o).addr = (s.thread c.node.val c.thread.val).pc := rfl
  have hi : issueOne c o s = atCore c.node (if bundleReady s c.node.val c.thread (opBundle s c o) then
      settle c.node.val (runBundle c.node.val c.thread (opBundle s c o) (opBundle s c o).pastEnd (countWaits s c.node.val c.thread))
      else s) := rfl
  have hs : countIssue c.node.val c.thread (opBundle s c o) (countWaits s c.node.val c.thread) = opIssued s c o := rfl
  have hc : (copOps (opBundle s c o)).filter (fun p => ! [o].contains p) = [] := by
    rw [copOps, slotOps_opBundle s c o (opClass_ne_ext o)]
    cases (copOf o).isSome <;> simp_all
  rw [hi]
  simp only [atCore, hn, hb, if_true]
  congr 2
  unfold runBundle
  simp only [hs, hl', hr, List.map_cons, List.map_nil, hd', hc]
  cases he : evalOp (opCtx s c o) o with
  | done w a => simp [firstFault, firstWithdraw, squash]
  | fault f => simp [firstFault, firstWithdraw, hpc]
  | ecc a b => simp [firstFault, firstWithdraw, hpc]
  | withdraw act => simp [firstWithdraw]

theorem opWritten_eq (s : State) (c : OpAt) (o : Op) (w : Thread → Thread) (a : State → State) (x : OpRes) (hx : x = .done w a) :
    ((opIssued s c o).modThread c.node.val c.thread.val fun t =>
      applyWrites { t with pc := (opBundle s c o).link, load := none, held := none } [(opSlot c o, o, x)]) = opWritten s c o w := by
  subst hx
  simp [applyWrites, opWritten, opBundle_link]

/-- An op outside the branch unit, the blocking ops and ifence. -/
theorem issueOne_done (s : State) (c : OpAt) (o : Op) (w : Thread → Thread) (a : State → State) (h : opIssues s c o = true)
    (he : evalOp (opCtx s c o) o = .done w a) (hc : opClass o ≠ 3) (hs : blocking o = false) (hi : o ≠ .ifence) :
    issueOne c o s = .next (afterOp s c o w a) := by
  have ht : redirects o = false := by cases o <;> first | rfl | exact absurd rfl hc
  have hx : o ≠ .exit := by rintro rfl; exact absurd rfl hc
  have hp : popsFault (opIssued s c o) c.node.val c.thread [o] = false := by
    have : o ≠ .retg := by rintro rfl; exact absurd rfl hc
    simp [popsFault, Ne.symm this]
  rw [issueOne_run s c o h, he]
  simp only [completeBundle, List.map_cons, List.map_nil, opWritten_eq s c o w a _ rfl]
  simp [ht, hs, hi, hx, hp, released, applyActs, afterOp]

theorem redirects_safe (o : Op) (hs : (blocking o || decide (o = .ifence)) = true) : redirects o = false := by
  cases o <;> first | rfl | simp [blocking] at hs

/-- A blocking op, or ifence. -/
theorem issueOne_safe (s : State) (c : OpAt) (o : Op) (w : Thread → Thread) (a : State → State) (h : opIssues s c o = true)
    (he : evalOp (opCtx s c o) o = .done w a) (hs : (blocking o || decide (o = .ifence)) = true) :
    issueOne c o s = .next (afterSafe s c o w a) := by
  have ht := redirects_safe o hs
  have hx : o ≠ .exit := by rintro rfl; simp [blocking] at hs
  have hp : popsFault (opIssued s c o) c.node.val c.thread [o] = false := by
    have : o ≠ .retg := by rintro rfl; simp [blocking] at hs
    simp [popsFault, Ne.symm this]
  rw [issueOne_run s c o h, he]
  simp only [completeBundle, List.map_cons, List.map_nil, opWritten_eq s c o w a _ rfl]
  simp [ht, hs, hx, hp, released, applyActs, afterSafe]

/-- No branch flushes at CM. -/
theorem flushAtCM_branch (n : Nat) (k : ThreadNo) (o : Op) (hc : opClass o = 3) (s : State) : flushAtCM n k [o] s = s := by
  cases o <;> first
    | (simp [flushAtCM]; done)
    | exact absurd hc (by simp [opClass])

/-- A branch. -/
theorem issueOne_branch (s : State) (c : OpAt) (o : Op) (w : Thread → Thread) (a : State → State) (h : opIssues s c o = true)
    (he : evalOp (opCtx s c o) o = .done w a) (hc : opClass o = 3) :
    issueOne c o s = .next (afterBranch s c o (redirects o) w a) := by
  have hs : blocking o = false := by cases o <;> first | rfl | exact absurd hc (by simp [opClass])
  have hi : o ≠ .ifence := by rintro rfl; exact absurd hc (by decide)
  have hf := flushAtCM_branch c.node.val c.thread o hc
  have hr : released [(opSlot c o, o, OpRes.done w a)] = [(opSlot c o, o, OpRes.done w a)] := by simp [released, hs]
  have hpc : (opBundle s c o).addr = (s.thread c.node.val c.thread.val).pc := rfl
  rw [issueOne_run s c o h, he]
  simp only [completeBundle, List.map_cons, List.map_nil, opWritten_eq s c o w a _ rfl, hf, hr]
  simp [hs, hi, hpc, applyActs, afterBranch]

/-- An op that faults. -/
theorem issueOne_fault (s : State) (c : OpAt) (o : Op) (f : FaultInfo) (h : opIssues s c o = true)
    (he : evalOp (opCtx s c o) o = .fault f) : issueOne c o s = .next (afterFault s c o f) := by
  rw [issueOne_run s c o h, he]
  rfl

end Sys2Proof.Machine
end

