-- ==== Sys2Proof/Laws/Ops.lean ====
section
/-! SUPPORT. What the shared operations over the whole state can do: the outcome at a unit, folds, sending, events, power, Pegbox and security
updates, and running a started message. -/

namespace Sys2Proof.Machine

open Sys2Proof

/-! ## Outcomes at a unit -/

theorem atCore_next {n : NodeNo} {t : State} (h : isCore n.val = true) : atCore n t = .next t := by simp [atCore, h]
theorem atCore_fault {n : NodeNo} {t : State} (h : isCore n.val = false) : atCore n t = .fault .noSuchUnit := by simp [atCore, h]
theorem atLink_next {n : NodeNo} {t : State} (h : nodeKind n.val = .link) : atLink n t = .next t := by simp [atLink, h]
theorem atMemory_next {n : NodeNo} {t : State} (h : nodeKind n.val = .hbm ∨ nodeKind n.val = .far) : atMemory n t = .next t := by
  simp [atMemory, h]

/-- What `atCore` answers, once and for all. -/
theorem atCore_cases {n : NodeNo} {t u : State} (h : atCore n t = .next u) : isCore n.val = true ∧ u = t := by
  simp only [atCore] at h
  split at h
  · next hc => exact ⟨hc, by cases h; rfl⟩
  · cases h

/-! ## Folds -/

section Folds
variable {α : Type} (f : α → State → State)

@[simp] theorem foldState_nil (s : State) : foldState f [] s = s := rfl
@[simp] theorem foldState_cons (x : α) (xs : List α) (s : State) : foldState f (x :: xs) s = foldState f xs (f x s) := rfl

theorem foldState_append (xs ys : List α) (s : State) : foldState f (xs ++ ys) s = foldState f ys (foldState f xs s) := by
  induction xs generalizing s with
  | nil => rfl
  | cons x xs ih => exact ih (f x s)

/-- A property that each of the folded updates keeps is kept by the fold. -/
theorem foldState_keeps (P : State → Prop) (xs : List α) (s : State) (hf : ∀ x ∈ xs, ∀ t, P t → P (f x t)) (h : P s) : P (foldState f xs s) := by
  induction xs generalizing s with
  | nil => exact h
  | cons x xs ih => exact ih (f x s) (fun y hy => hf y (List.mem_cons_of_mem _ hy)) (hf x (List.mem_cons_self ..) s h)

/-- A reading that no folded update changes is unchanged by the fold. -/
theorem foldState_reads {β : Type} (g : State → β) (xs : List α) (s : State) (hf : ∀ x ∈ xs, ∀ t, g (f x t) = g t) :
    g (foldState f xs s) = g s :=
  foldState_keeps f (fun t => g t = g s) xs s (fun x hx t ht => (hf x hx t).trans ht) rfl

end Folds

/-! ## Sending -/

section Sending
variable (s : State) (p : Packet)

/-- A sent packet changes the local side of its source's node alone. -/
theorem send_eq : ∃ f : NodeIO → NodeIO, s.send p = s.modNode p.h.snode.toNat f := by
  simp only [State.send]
  split
  · exact ⟨_, rfl⟩
  · exact ⟨_, rfl⟩

/-- A packet to another node joins what its source injects. -/
theorem send_out (h : p.h.dnode ≠ p.h.snode) :
    s.send p = s.modNode p.h.snode.toNat fun x => { x with out := x.out ++ [p] } := by simp [State.send, h]

/-- A packet to its own node is delivered there. -/
theorem send_own (h : p.h.dnode = p.h.snode) : s.send p = s.modNode p.h.snode.toNat (·.deliver p) := by simp [State.send, h]

theorem send_reads {β : Type} (g : State → β) (h : ∀ (t : State) n x, g (t.setNode n x) = g t) : g (s.send p) = g s := by
  obtain ⟨f, hf⟩ := send_eq s p
  rw [hf]
  exact h _ _ _

@[simp] theorem send_pending : (s.send p).pending = s.pending := send_reads s p _ fun _ _ _ => rfl
@[simp] theorem send_mc : (s.send p).mc = s.mc := send_reads s p _ fun _ _ _ => rfl
@[simp] theorem send_free : (s.send p).free = s.free := send_reads s p _ fun _ _ _ => rfl
@[simp] theorem send_rdata : (s.send p).rdata = s.rdata := send_reads s p _ fun _ _ _ => rfl
@[simp] theorem send_outbox : (s.send p).outbox = s.outbox := send_reads s p _ fun _ _ _ => rfl
@[simp] theorem send_module : (s.send p).module = s.module := send_reads s p _ fun _ _ _ => rfl
@[simp] theorem send_cores : (s.send p).cores = s.cores := send_reads s p _ fun _ _ _ => rfl
@[simp] theorem send_ctls : (s.send p).ctls = s.ctls := send_reads s p _ fun _ _ _ => rfl
@[simp] theorem send_courses : (s.send p).courses = s.courses := send_reads s p _ fun _ _ _ => rfl
@[simp] theorem send_links : (s.send p).links = s.links := send_reads s p _ fun _ _ _ => rfl
@[simp] theorem send_lnodes : (s.send p).lnodes = s.lnodes := send_reads s p _ fun _ _ _ => rfl
@[simp] theorem send_rail : (s.send p).rail = s.rail := send_reads s p _ fun _ _ _ => rfl
@[simp] theorem send_host : (s.send p).host = s.host := send_reads s p _ fun _ _ _ => rfl
@[simp] theorem send_emu : (s.send p).emu = s.emu := send_reads s p _ fun _ _ _ => rfl
@[simp] theorem send_pb : (s.send p).pb = s.pb := send_reads s p _ fun _ _ _ => rfl
@[simp] theorem send_pwr : (s.send p).pwr = s.pwr := send_reads s p _ fun _ _ _ => rfl
@[simp] theorem send_sec : (s.send p).sec = s.sec := send_reads s p _ fun _ _ _ => rfl
@[simp] theorem send_phys : (s.send p).phys = s.phys := send_reads s p _ fun _ _ _ => rfl
@[simp] theorem send_wide : (s.send p).wide = s.wide := send_reads s p _ fun _ _ _ => rfl
@[simp] theorem send_core (n : Nat) : (s.send p).core n = s.core n := send_reads s p (·.core n) fun _ _ _ => rfl
@[simp] theorem send_thread (n k : Nat) : (s.send p).thread n k = s.thread n k := send_reads s p (·.thread n k) fun _ _ _ => rfl

theorem send_node_ne (n : Nat) (h : n ≠ p.h.snode.toNat) : (s.send p).node n = s.node n := by
  obtain ⟨f, hf⟩ := send_eq s p
  rw [hf]
  exact mapGet_mapSet_ne _ _ _ _ h

end Sending

/-! ## Updates of one part -/

section Parts
variable (s : State)

@[simp] theorem modHost_host (f : HostIf → HostIf) : (modHost f s).host = f s.host := rfl
@[simp] theorem modHost_cores (f : HostIf → HostIf) : (modHost f s).cores = s.cores := rfl
@[simp] theorem modHost_nodes (f : HostIf → HostIf) : (modHost f s).nodes = s.nodes := rfl
@[simp] theorem modHost_courses (f : HostIf → HostIf) : (modHost f s).courses = s.courses := rfl
@[simp] theorem modHost_pb (f : HostIf → HostIf) : (modHost f s).pb = s.pb := rfl
@[simp] theorem modHost_emu (f : HostIf → HostIf) : (modHost f s).emu = s.emu := rfl
@[simp] theorem modPwr_pwr (f : Power → Power) : (modPwr f s).pwr = f s.pwr := rfl
@[simp] theorem modPwr_cores (f : Power → Power) : (modPwr f s).cores = s.cores := rfl
@[simp] theorem modPwr_courses (f : Power → Power) : (modPwr f s).courses = s.courses := rfl
@[simp] theorem modPwr_host (f : Power → Power) : (modPwr f s).host = s.host := rfl
@[simp] theorem modPwr_pb (f : Power → Power) : (modPwr f s).pb = s.pb := rfl
@[simp] theorem modPwr_emu (f : Power → Power) : (modPwr f s).emu = s.emu := rfl
@[simp] theorem modPb_pb (f : Pegbox → Pegbox) : (modPb f s).pb = f s.pb := rfl
@[simp] theorem modPb_cores (f : Pegbox → Pegbox) : (modPb f s).cores = s.cores := rfl
@[simp] theorem modPb_courses (f : Pegbox → Pegbox) : (modPb f s).courses = s.courses := rfl
@[simp] theorem modPb_host (f : Pegbox → Pegbox) : (modPb f s).host = s.host := rfl
@[simp] theorem modPb_pwr (f : Pegbox → Pegbox) : (modPb f s).pwr = s.pwr := rfl
@[simp] theorem modPb_emu (f : Pegbox → Pegbox) : (modPb f s).emu = s.emu := rfl
@[simp] theorem modEmu_emu (f : Emu → Emu) : (modEmu f s).emu = f s.emu := rfl
@[simp] theorem modEmu_cores (f : Emu → Emu) : (modEmu f s).cores = s.cores := rfl
@[simp] theorem modEmu_pwr (f : Emu → Emu) : (modEmu f s).pwr = s.pwr := rfl
@[simp] theorem modEmu_pb (f : Emu → Emu) : (modEmu f s).pb = s.pb := rfl
@[simp] theorem modEmu_sec (f : Emu → Emu) : (modEmu f s).sec = s.sec := rfl
@[simp] theorem modSec_sec (f : Security → Security) : (modSec f s).sec = f s.sec := rfl
@[simp] theorem modSec_cores (f : Security → Security) : (modSec f s).cores = s.cores := rfl
@[simp] theorem modSec_ctls (f : Security → Security) : (modSec f s).ctls = s.ctls := rfl
@[simp] theorem modSec_pb (f : Security → Security) : (modSec f s).pb = s.pb := rfl
@[simp] theorem modSec_emu (f : Security → Security) : (modSec f s).emu = s.emu := rfl

theorem modMaster_same (m : Nat) (f : EmuMaster → EmuMaster) : (modMaster m f s).master m = f (s.master m) := mapGet_mapSet_same _ _ _ _
theorem modMaster_ne {m k : Nat} (f : EmuMaster → EmuMaster) (h : k ≠ m) : (modMaster m f s).master k = s.master k := mapGet_mapSet_ne _ _ _ _ h
theorem modQp_same (fn q : Nat) (f : Qp → Qp) : (modQp fn q f s).qp fn q = f (s.qp fn q) := mapGet_mapSet_same _ _ _ _
theorem modQp_ne {fn q g r : Nat} (f : Qp → Qp) (h : qpKey g r ≠ qpKey fn q) : (modQp fn q f s).qp g r = s.qp g r := mapGet_mapSet_ne _ _ _ _ h
theorem modHostErr_same (fn : Nat) (f : HostErr → HostErr) : (modHostErr fn f s).hostErr fn = f (s.hostErr fn) := mapGet_mapSet_same _ _ _ _
theorem modShell_same (k : Nat) (f : Shell → Shell) : (modShell k f s).shell k = f (s.shell k) := mapGet_mapSet_same _ _ _ _
theorem modDom_same (d : Nat) (f : Dom → Dom) : (modDom d f s).dom d = f (s.dom d) := mapGet_mapSet_same _ _ _ _
theorem modDom_ne {d e : Nat} (f : Dom → Dom) (h : e ≠ d) : (modDom d f s).dom e = s.dom e := mapGet_mapSet_ne _ _ _ _ h

end Parts

/-! ## Messages -/

/-- A message whose turn it is runs; what it does is its meaning's. -/
theorem runMsg_runs {s : State} {id op : Nat} {e : JEntry} (f : JEntry → State → State) (h : MessageRuns s id op e) : runMsg id op f s = f e s := by
  obtain ⟨h2, he, hr, hh, ho, hb, hn, hd⟩ := h
  simp only [runMsg, h2, he, hr, hh, ho, hb]
  by_cases hd' : onceOnly op = true <;> by_cases hm : opNamesRegion e.msg = true <;> simp_all

/-- A completion changes the journal's entry alone. -/
theorem completeMsg_pb (id st d : Nat) (p : List Byte) (s : State) :
    completeMsg id st d p s = { s with pb := { s.pb with journal := s.pb.journal.map fun e =>
      if e.id = id then { e with result := some (completionBytes e.msg st d p), made := some (completionBytes e.msg st d p) } else e } } := rfl

end Sys2Proof.Machine
end

