-- ==== Sys2Proof/Tests/Slice0.lean ====
section
/-! SUPPORT. Tests: ill-formed commands are refused, encodings decode to what they stand for, the manual's worked examples, and one step
of a command on a small state. Expected values come from spec/ or from arithmetic by hand. -/

namespace Sys2Proof.Tests

open Sys2Proof Sys2Proof.Machine

set_option Elab.async false

/-! ## Well-formed and ill-formed commands: one ill-formed term for each check -/

/-- T0 of node 0, the core at (0, 0). -/
def c0 : OpAt := { node := 0, thread := 0 }
/-- Node 42 is at (2, 1), the HBM port node of course 0 (R18). -/
def cHbm : OpAt := { node := 42, thread := 0 }
/-- Node 162 is at (2, 4), the auxiliary port node of course 0, an L course (Table 1.1). -/
def nodeL : NodeNo := 162

theorem test_wf_op : wellFormed (.add c0 1 2 (.imm 3)) = true := by decide +kernel
theorem test_wf_op_off_core : wellFormed (.add cHbm 1 2 (.imm 3)) = false := by decide +kernel
theorem test_wf_odd_pair : wellFormed (.addD c0 3 2 (.imm 3)) = false := by decide +kernel
theorem test_wf_ext_taken : wellFormed (.add { c0 with ext := some 1 } 1 2 (.imm 3)) = true
    ∧ wellFormed (.add { c0 with ext := some 1 } 1 2 (.reg 3)) = false := by decide +kernel
theorem test_wf_ext_of_mma : wellFormed (.mma { c0 with ext := some 1023 } 0 0 0 0 1 false) = true
    ∧ wellFormed (.mma { c0 with ext := some 1024 } 0 0 0 0 1 false) = false := by decide +kernel
theorem test_wf_core_event : wellFormed (.bundleIssue 0) = true ∧ wellFormed (.bundleIssue 42) = false := by decide +kernel
theorem test_wf_lookup : wellFormed (.linkLookup nodeL) = true ∧ wellFormed (.linkLookup 0) = false := by decide +kernel
theorem test_wf_memory : wellFormed (.memRequestServe 42 0 .clean) = true ∧ wellFormed (.memRequestServe 0 0 .clean) = false := by
  decide +kernel
theorem test_wf_refresh : wellFormed (.refresh 42) = true ∧ wellFormed (.refresh nodeL) = false := by decide +kernel
theorem test_wf_queue_pair : wellFormed (.sqDoorbell 1 3 0) = true ∧ wellFormed (.sqDoorbell 1 4 0) = false
    ∧ wellFormed (.cqDoorbell 1 4 0) = false ∧ wellFormed (.qpEnable 1 4 0) = false ∧ wellFormed (.sqDoorbell 0 63 0) = true := by
  decide +kernel

/-- An image of one core with one byte of code, one of scratchpad and one thread. -/
def image (code scratch : Nat) (pc : Word) : Image :=
  { cores := [{ core := 0, shareMode := false, coreSupv := 0, chBind := 0, escVector := none, code := [(code, 0)], scratch := [(scratch, 0)]
                threads := [{ thread := 0, pc := pc, supervisor := true, caps := [] }] }]
    t1Segs := [], t2Segs := [], tier1 := [], lendMode := false, dwell := 20, boost := [], tenantKey := none, digest := 0 }

theorem test_wf_image : wellFormed (.loadImage 0 (image 0x1FFFF 0x1FDFFF 0x1FFFC)) = true := by decide +kernel
theorem test_wf_image_code : wellFormed (.loadImage 0 (image 0x20000 0 0)) = false := by decide +kernel
theorem test_wf_image_scratch : wellFormed (.loadImage 0 (image 0 0x1FE000 0)) = false := by decide +kernel
theorem test_wf_image_pc : wellFormed (.loadImage 0 (image 0 0 2)) = false ∧ wellFormed (.loadImage 0 (image 0 0 0x20000)) = false := by
  decide +kernel

/-! ## Encodings (Table 3.16 and the fields of Tables 3.4 to 3.15) -/

/-- Whether a word decodes to an op, with its stop bit and condition, and breaks no rule. -/
def spells (w : Word) (stop psense : Bool) (psel : PReg) (o : Op) : Bool :=
  let x := slotOf w
  decide (bitOf w 31 = stop ∧ x.psense = psense ∧ x.psel = psel ∧ x.cls = opClass o ∧ x.broken = false)
    && (match x.op with
      | .ok p => decide (p = o)
      | .error _ => false)

theorem test_word_add : spells 0x0000C745 false false 0 (.alu .add 3 3 (.imm 0x45)) = true := by decide +kernel
theorem test_word_load : spells 0x0221CA03 false false 0 (.load .w 7 2 (.imm 3)) = true := by decide +kernel
theorem test_word_load_register : spells 0x0221C890 false false 0 (.load .w 7 2 (.reg 9)) = true := by decide +kernel
theorem test_word_fwait : spells 0x06192440 false false 0 (.fwait 9 4 2) = true := by decide +kernel
theorem test_word_ext : (slotOf 0x87000123).cls = 7 ∧ (slotOf 0x87000123).ext = 0x123 ∧ bitOf (0x87000123 : Word) 31 = true := by decide +kernel
theorem test_word_mma : spells 0x857148D8 true false 0 (.mat (.mma 5 2 3 1 2 false)) = true := by decide +kernel

/-- ALU-B: S 1, PSENSE 1, PSEL 5, class 1, OPC 0x0C (div), RD 4, RA 6, RB 31. -/
theorem test_word_div : spells 0xE9610CF8 true true 5 (.alu .div 4 6 (.reg 31)) = true := by decide +kernel
/-- BRU: class 3, OPC 1 (bl), RL 31, TGT 0x7FFF. -/
theorem test_word_bl : spells 0x031FFFFF false false 0 (.bl 31 0x7FFF) = true := by decide +kernel
/-- VEC: class 4, OPC 0x03 (vfma), FMT 1, VD 15, VA 2, VB 9. -/
theorem test_word_vfma : spells 0x0418F948 false false 0 (.vec .fma 1 15 2 9 0) = true := by decide +kernel
/-- SYN, FR form: OPC 0x01 (finc.i), F 47, N 16; DS form: OPC 0x0C (dma.start.nt), CH 7, CAP 1, GA 2; SD form: OPC 0x05 (send), CAP 3,
GW 8, CNT 4, TAG 0xA. -/
theorem test_words_syn : spells 0x060DF000 false false 0 (.fincI 47 16) = true ∧ spells 0x06671100 false false 0 (.dmaStart true 7 1 2) = true
    ∧ spells 0x0629A250 false false 0 (.send 3 8 4 0xA) = true := by decide +kernel
/-- ALU-B, C form: OPC 0x1C (cfree by bit 10), SD 2, SA 5, SB 7; LSU: OPC 0x1D (amo.fadd.bf16), RT 3, CAP 4, I 1, IMM8 2. -/
theorem test_words_caps : spells 0x01E12DC0 false false 0 (.cfree 2 5 7) = true
    ∧ spells 0x02E8D202 false false 0 (.amo .faddBf16 3 4 (.imm 2)) = true := by decide +kernel
/-- Reserved and unlisted: class 0 OPC 0x1F is no op (detail 0x6); an odd pair and a non-zero must-be-zero bit break a rule (detail 0x7). -/
theorem test_words_illegal : (match (slotOf 0x00F80000).op with | .error 6 => true | _ => false) = true
    ∧ (slotOf 0x0180C000).broken = true ∧ (slotOf 0x02880001).broken = true := by decide +kernel

/-! ## Worked examples of the manual -/

/-- Logical core 9 of a course with its spare at (1, 1) sits at (1, 2), node 341 in course 12 (spec/01). -/
theorem test_logical_core : logicalIndex 6 (posOf 341) = some 9 ∧ courseOf 341 = 12 ∧ scratchAddr 341 = 0x080055400000 := by decide +kernel

/-- Example of R144: 3 × (−1.5) × 2^−3 × 1.5 = −0.84375 = −27 × 2^−5. -/
theorem test_product :
    let v (f : BitVec 4) (x : Nat) := valOf f x
    (convert 0x0 0 0 (valMul (valMul (valMul (v 0x7 0x5) (v 0x7 0xB)).1 (v 0xD 0x7C)).1 (v 0xE 0x3C)).1).1 = 0xBF580000 := by decide +kernel

/-- Table 5.7: 5,000,000 × 2^−20 to e4m3 by RNE, RTZ and SR, and to e2m1. -/
theorem test_conversions :
    let x : Val := .fin false 5000000 (-20)
    convert 0x4 0 0 x = (0x4A, flInexact) ∧ convert 0x4 1 0 x = (0x49, flInexact) ∧ convert 0x4 4 0x7698 x = (0x4A, flInexact)
      ∧ convert 0x4 4 0x7697 x = (0x49, flInexact) ∧ convert 0x7 0 0 x = (0x6, flInexact) ∧ convert 0x7 4 40358 x = (0x7, flInexact) := by
  decide +kernel

/-- The check value of CRC-32C: the digits 1 to 9 give 0xE3069283. -/
theorem test_crc32c : crc32c [0x31, 0x32, 0x33, 0x34, 0x35, 0x36, 0x37, 0x38, 0x39] = 0xE3069283 := by decide +kernel

/-- Table 12.12: tier-1 segments of 8, 2, 1.5 (spillable) and 1 GiB (spillable) against 12 GiB, tier-2 96 GiB against 128. -/
def launchSegs : List T1Seg :=
  [⟨0, 0x200000000, false⟩, ⟨0x200000000, 0x80000000, false⟩, ⟨0x280000000, 0x60000000, true⟩, ⟨0x2E0000000, 0x40000000, true⟩]
theorem test_launch_spills :
    let c := launchCheck launchSegs true 0 0x320000000 0x1800000000 0 0x300000000 0x2000000000 0
    c.status = stDegraded ∧ c.spilled = 0x40000000 ∧ c.dT1 = 0 ∧ c.dT2 = 0 ∧ c.dSp = 0 := by decide +kernel
theorem test_launch_no_spill :
    let c := launchCheck launchSegs false 0 0x320000000 0x1800000000 0 0x300000000 0x2000000000 0
    c.status = stFailResources ∧ c.dT1 = 0x20000000 ∧ c.spilled = 0 := by decide +kernel
theorem test_launch_scratchpad :
    let c := launchCheck launchSegs true 0x240000 0x320000000 0x1800000000 0 0x300000000 0x2000000000 0
    c.status = stFailResources ∧ c.dSp = 0x42000 ∧ c.spilled = 0 ∧ c.dT1 = 0 ∧ c.dT2 = 0 := by decide +kernel

/-! ## Small states -/

/-- The state after an outcome; the reset state if it is no next state. -/
def nextOf (o : Host.Outcome State Fault Refusal) : State :=
  match o with
  | .next t => t
  | _ => {}

/-- After reset, with T0 of node 0 running. -/
def running (t : Thread) : State := State.reset.setThread 0 0 { t with st := .running }
/-- T0 at the last bundle of instruction memory: none of its bundles can have issued after that one, so that timing leaves nothing open
(R48, R59, log 3). -/
def atEnd (s : State) : State := s.modThread 0 0 fun t => { t with pc := 0x1FFFC }
/-- A debug stop is pending for T0. -/
def stopPending (s : State) : State := s.modCore 0 fun c => { c with ctl := { c.ctl with dbgPend := 1 } }
/-- T0 of node 0, after a command. -/
def t0 (o : Host.Outcome State Fault Refusal) : Thread := (nextOf o).thread 0 0
/-- g1, g2 and g3. -/
def regs (x y z : Word) : Thread := ((({} : Thread).setG 1 x).setG 2 y).setG 3 z
/-- The command's op issues. -/
def issues (s : State) (i : Instr) : Bool :=
  match opOf i with
  | some (c, o) => opIssues s c o
  | none => false
/-- A capability of region 0 over bytes of this module, with all permissions but those of a type key. -/
def capOn (base : Addr) (limit : Word) : Cap := mkCap true base limit 0xFFFF 0x1FF 0 0
/-- The scratchpad of node 0 (Table 7.1: node 0 lies at 0x0800_0000_0000). -/
def spad : Cap := capOn 0x080000000000 0x1FFFFF

/-! ## Scalar ops -/

theorem test_add_wraps : (t0 (exec (.add c0 3 1 (.reg 2)) (running (regs 0xFFFFFFFF 6 0)))).getG 3 = 5 := by decide +kernel
theorem test_add_pc : (t0 (exec (.add c0 3 1 (.reg 2)) (running { regs 1 2 0 with pc := 0x100 }))).pc = 0x104
    ∧ (t0 (exec (.add { c0 with ext := some 0x123 } 3 1 (.imm 0x45)) (running (regs 1 0 0)))).getG 3 = 0x12346 := by decide +kernel
theorem test_sra : (t0 (exec (.sra c0 3 1 (.reg 2)) (running (regs 0x80000000 35 0)))).getG 3 = 0xF0000000 := by decide +kernel
theorem test_min_signed : (t0 (exec (.min c0 3 1 (.reg 2)) (running (regs 0xFFFFFFFF 1 0)))).getG 3 = 0xFFFFFFFF
    ∧ (t0 (exec (.minu c0 3 1 (.reg 2)) (running (regs 0xFFFFFFFF 1 0)))).getG 3 = 1 := by decide +kernel
theorem test_clz_zero : (t0 (exec (.clz c0 3 1) (running (regs 0 0 0)))).getG 3 = 32 := by decide +kernel
theorem test_mulh : (t0 (exec (.mulh c0 3 1 (.reg 2)) (running (regs 0xFFFFFFFF 2 0)))).getG 3 = 0xFFFFFFFF
    ∧ (t0 (exec (.mulhu c0 3 1 (.reg 2)) (running (regs 0xFFFFFFFF 2 0)))).getG 3 = 1 := by decide +kernel
theorem test_div_by_zero : (t0 (exec (.div c0 3 1 (.reg 2)) (running (regs 7 0 0)))).getG 3 = 0xFFFFFFFF
    ∧ (t0 (exec (.rem c0 3 1 (.reg 2)) (running (regs 7 0 0)))).getG 3 = 7 := by decide +kernel
theorem test_div_overflow : (t0 (exec (.div c0 3 1 (.reg 2)) (running (regs 0x80000000 0xFFFFFFFF 0)))).getG 3 = 0x80000000
    ∧ (t0 (exec (.rem c0 3 1 (.reg 2)) (running (regs 0x80000000 0xFFFFFFFF 0)))).getG 3 = 0 := by decide +kernel
theorem test_g0 : (t0 (exec (.add c0 0 1 (.reg 2)) (running (regs 1 2 0)))).getG 0 = 0 := by decide +kernel
theorem test_compare : (t0 (exec (.cmpLt c0 1 1 (.reg 2)) (running (regs 0xFFFFFFFF 1 0)))).getP 1 = true
    ∧ (t0 (exec (.cmpLtu c0 1 1 (.reg 2)) (running (regs 0xFFFFFFFF 1 0)))).getP 1 = false := by decide +kernel
theorem test_pair_carry : (t0 (exec (.addD c0 4 2 (.imm 1)) (running (regs 0 0xFFFFFFFF 0)))).getPair 4 = 0x100000000
    ∧ (t0 (exec (.mulwD c0 4 2 3) (running (regs 0 0xFFFFFFFF 2)))).getPair 4 = 0xFFFFFFFFFFFFFFFE := by decide +kernel
/-- FAULT_EN.IOVF with neither handler nor escalation: the thread ends DEAD or parked, g3 is not written. -/
theorem test_add_overflow_traps : (t0 (exec (.addO c0 3 1 (.reg 2)) (atEnd (running { regs 0x7FFFFFFF 1 9 with faultEn := 4 })))).getG 3 = 9
    ∧ (t0 (exec (.addO c0 3 1 (.reg 2)) (atEnd (running { regs 0x7FFFFFFF 1 9 with faultEn := 4 })))).lastFault = 0x08 := by decide +kernel
theorem test_false_condition : (t0 (exec (.add { c0 with psel := 1 } 3 1 (.reg 2)) (running (regs 1 2 9)))).getG 3 = 9
    ∧ (t0 (exec (.add { c0 with psel := 1 } 3 1 (.reg 2)) (running (regs 1 2 9)))).pc = 4 := by decide +kernel

theorem witness_scalar_ops :
    let s := running (regs 0x7FFFFFFF 1 0)
    let e := running { regs 0x7FFFFFFF 1 0 with faultEn := 5 }
    ([.add c0 3 1 (.reg 2), .sub c0 3 1 (.reg 2), .and c0 3 1 (.reg 2), .or c0 3 1 (.reg 2), .xor c0 3 1 (.reg 2), .andn c0 3 1 (.reg 2),
      .sll c0 3 1 (.reg 2), .srl c0 3 1 (.reg 2), .sra c0 3 1 (.reg 2), .min c0 3 1 (.reg 2), .max c0 3 1 (.reg 2), .minu c0 3 1 (.reg 2),
      .maxu c0 3 1 (.reg 2), .clz c0 3 1, .popc c0 3 1, .mul c0 3 1 (.reg 2), .mulh c0 3 1 (.reg 2), .mulhu c0 3 1 (.reg 2),
      .div c0 3 1 (.reg 2), .divu c0 3 1 (.reg 2), .rem c0 3 1 (.reg 2), .remu c0 3 1 (.reg 2), .addO c0 3 1 (.reg 2), .subO c0 3 1 (.reg 2),
      .mulO c0 3 1 (.reg 2)] : List Instr).all (fun i => issues s i && issues e i) = true
    ∧ enIdiv (opThread s c0) = false ∧ enIovf (opThread s c0) = false ∧ enIdiv (opThread e c0) = true ∧ enIovf (opThread e c0) = true
    ∧ ((0x7FFFFFFF : Word).saddOverflow 1) = true ∧ ((0x7FFFFFFF : Word).saddOverflow 0) = false
    ∧ ((0x80000000 : Word).ssubOverflow 1) = true ∧ ((0x7FFFFFFF : Word).smulOverflow 2) = true := by decide +kernel

theorem witness_compares_and_pairs :
    let s := running (regs 1 2 3)
    ([.cmpEq c0 1 1 (.reg 2), .cmpNe c0 1 1 (.reg 2), .cmpLt c0 1 1 (.reg 2), .cmpGe c0 1 1 (.reg 2), .cmpLtu c0 1 1 (.reg 2),
      .cmpGeu c0 1 1 (.reg 2), .pand c0 1 2 3, .por c0 1 2 3, .pxor c0 1 2 3, .pandn c0 1 2 3, .addD c0 4 2 (.reg 6), .subD c0 4 2 (.reg 6),
      .sllD c0 4 2 (.reg 6), .srlD c0 0 2 (.reg 6), .sraD c0 4 2 (.reg 6), .mulwD c0 4 2 6] : List Instr).all (issues s) = true := by
  decide +kernel

/-! ## Special registers and capabilities -/

theorem test_tsw : (t0 (exec (.rsr c0 3 0) (running ({} : Thread)))).getG 3 = 9 := by decide +kernel
theorem test_wsr_fpflags : (t0 (exec (.wsr c0 0 1) (running { regs 0x00010000 0 0 with fpflags := 0x1F }))).fpflags = 0x1E
    ∧ (t0 (exec (.wsr c0 0 1) (running { regs 0x00010000 0 0 with fpflags := 0x1F }))).th = false := by decide +kernel
theorem witness_special_registers :
    let s := running (regs 1 2 3)
    ([.rsr c0 3 0, .rsr c0 3 1, .rsr c0 3 2, .rsr c0 3 3, .rsr c0 3 4, .rsr c0 3 5, .rsr c0 3 6, .rsr c0 3 7, .rsr c0 3 8, .rsr c0 3 0x20,
      .rsr c0 3 0x2F, .wsr c0 0 1, .wsr c0 1 1, .wsr c0 2 1, .wsr c0 3 1, .wsr c0 8 1, .wsr c0 0x20 1, .wsr c0 0x2F 1, .crsr c0 1 0,
      .crsr c0 1 1, .crsr c0 15 2] : List Instr).all (issues s) = true := by decide +kernel

/-- A type key: KEYTYPE and KEYMASK in BASE, with SEAL and UNSEAL (R110). -/
def key (type mask : Byte) : Cap := mkCap true (BitVec.ofNat 48 (type.toNat + 256 * mask.toNat)) 0 0xFFFF ((1 <<< pSeal) ||| (1 <<< pUnseal)) 0 0
def withCaps (a b : Cap) (x y : Word) : State := running (((regs x y 0).setS 1 a).setS 2 b)

/-- The manual's example after Table 4.4: a key for types 0x40 to 0x4F gives one for type 0x43 alone. -/
theorem test_ckey : (t0 (exec (.ckey c0 3 1 1) (withCaps (key 0x40 0x0F) {} 0x43 0))).getS 3 = key 0x43 0 := by decide +kernel
theorem test_csub_bounds :
    ((t0 (exec (.csub c0 3 1 1 2) (withCaps spad {} 0x100000 0xFFFFF))).getS 3).limit = 0xFFFFF
    ∧ (t0 (exec (.csub c0 3 1 1 2) (atEnd (withCaps spad {} 0x100000 0x100000)))).lastFault = 0x03 := by decide +kernel
theorem witness_capability_ops :
    let s := withCaps spad (key 0x10 0) 0x100000 0xFFFFF
    let u := withCaps (spad.withOtype 0x10) (key 0x10 0) 0 0
    let k := withCaps (key 0x10 0x0F) (key 0x10 0) 0x1F 0
    ([.cwsr c0 0 1, .cwsr c0 1 1, .csub c0 3 1 1 2, .cperm c0 3 1 1, .cbind c0 3 1 2, .cmov c0 3 1, .cget c0 3 1 0, .cget c0 3 1 7]
      : List Instr).all (issues s) = true ∧ issues u (.cfree c0 3 1 2) = true ∧ issues k (.ckey c0 3 1 1) = true
    ∧ spad.region = (s.regionOf 0).zeroExtend 6 ∧ (({} : Cap).tag = false)
    ∧ spad.tag = true ∧ spad.resv = 0 ∧ spad.otype = 0 ∧ spad.has pSeal = false ∧ spad.has pUnseal = false ∧ spad.limit = 0x1FFFFF
    ∧ (key 0x10 0).resv = 0 ∧ (key 0x10 0).otype = 0 ∧ (key 0x10 0).has pSeal = true ∧ (key 0x10 0).has pUnseal = true
    ∧ (key 0x10 0).region = (s.regionOf 0).zeroExtend 6 ∧ (key 0x10 0).keyMask = 0 ∧ (key 0x10 0).keyType = 0x10
    ∧ (spad.withOtype 0x10).otype = 0x10 ∧ (0x10 : Byte) &&& ~~~(0 : Byte) = 0x10
    ∧ ((0x1F : Word).truncate 8 &&& ~~~(0x0F : Byte)) = ((0x10 : Byte) &&& ~~~(0x0F : Byte)) ∧ (0x1F : Word) < 0x10000
    ∧ (((0x1F : Word) >>> 8).truncate 8 &&& ~~~(0x0F : Byte)) = 0 := by decide +kernel

/-! ## Loads, stores and atomics -/

/-- T0 running, with bytes in its own scratchpad at 0x40 and s1 over the scratchpad. -/
def withBytes (t : Thread) (bs : List Byte) : State :=
  (running (t.setS 1 spad)).modCore 0 fun c => c.modMem fun m => m.writeScratch 0x40 bs

theorem test_load_little_endian :
    (t0 (exec (.ldW c0 3 1 (.imm 0x10)) (withBytes {} [0x78, 0x56, 0x34, 0x12]))).getG 3 = 0x12345678 := by decide +kernel
theorem test_load_sign : (t0 (exec (.ldB c0 3 1 (.imm 0x40)) (withBytes {} [0x80]))).getG 3 = 0xFFFFFF80
    ∧ (t0 (exec (.ldBu c0 3 1 (.imm 0x40)) (withBytes {} [0x80]))).getG 3 = 0x80 := by decide +kernel
theorem test_load_misaligned : (t0 (exec (.ldW c0 3 1 (.reg 1)) (atEnd (withBytes (regs 0x41 0 0) [])))).lastFault = 0x06 := by decide +kernel
/-- The last word of the segment loads; one byte further faults CAP_BOUNDS. -/
theorem test_load_bounds : (t0 (exec (.ldW c0 3 1 (.reg 1)) (withBytes (regs 0x1FFFFC 0 0) []))).lastFault = 0
    ∧ (t0 (exec (.ldW c0 3 1 (.reg 1)) (atEnd (withBytes (regs 0x200000 0 0) [])))).lastFault = 0x03 := by decide +kernel
theorem test_store_buffered :
    let u := nextOf (exec (.stW c0 1 1 (.imm 0x10)) (withBytes (regs 0x12345678 0 0) []))
    (u.thread 0 0).sb.map (fun e => (e.addr, e.data)) = [(0x080000000040, [0x78, 0x56, 0x34, 0x12])] ∧ (u.core 0).mem.scratch = [] := by
  decide +kernel
/-- A load of the thread takes its own buffered store (R61), and the store drains into the scratchpad. -/
theorem test_store_forwarded :
    let u := nextOf (exec (.stW c0 1 1 (.imm 0x10)) (withBytes (regs 0x12345678 0 0) []))
    (t0 (exec (.ldH c0 3 1 (.imm 0x21)) u)).getG 3 = 0x1234
      ∧ readBytes ((nextOf (exec (.storeDrain 0) u)).core 0).mem.scratch 0x40 4 = [0x78, 0x56, 0x34, 0x12] := by decide +kernel
theorem test_store_to_imem :
    (t0 (exec (.stW c0 1 1 (.imm 0)) (atEnd (running (({} : Thread).setS 1 (capOn 0x0F0000000000 0x1FFFF)))))).lastFault = 0x04 := by decide +kernel
theorem test_amo_add :
    let u := nextOf (exec (.amoAddW c0 2 1 (.imm 0x10)) (withBytes (regs 0 5 0) [0xFF, 0xFF, 0xFF, 0xFF]))
    (u.thread 0 0).getG 2 = 0xFFFFFFFF ∧ readBytes (u.core 0).mem.scratch 0x40 4 = [4, 0, 0, 0] := by decide +kernel
theorem test_amo_cas :
    let u := nextOf (exec (.amoCasW c0 2 1 (.imm 0x10)) (withBytes (regs 0 5 9) [5, 0, 0, 0]))
    let v := nextOf (exec (.amoCasW c0 2 1 (.imm 0x10)) (withBytes (regs 0 5 9) [6, 0, 0, 0]))
    readBytes (u.core 0).mem.scratch 0x40 1 = [9] ∧ readBytes (v.core 0).mem.scratch 0x40 1 = [6] ∧ (v.thread 0 0).getG 2 = 6 := by decide +kernel
/-- A read of a capability granule keeps the tag, and a plain write clears it (R106). -/
theorem test_tags :
    let s := (running (({} : Thread).setS 1 spad)).modCore 0 fun c => c.modMem fun m => m.writeCap 0x40 spad
    (t0 (exec (.ldc c0 3 1 (.imm 4)) s)).getS 3 = spad
      ∧ ((t0 (exec (.ldc c0 3 1 (.imm 4)) (s.modCore 0 fun c => c.modMem fun m => m.writeScratch 0x4F [0]))).getS 3).tag = false := by
  decide +kernel

theorem witness_loads :
    let s := withBytes {} [1]
    ([.ldB c0 3 1 (.imm 0), .ldBu c0 3 1 (.imm 0), .ldH c0 3 1 (.imm 0), .ldHu c0 3 1 (.imm 0), .ldW c0 3 1 (.imm 0), .ldD c0 4 1 (.imm 0),
      .ldv c0 3 1 (.imm 0), .ldc c0 3 1 (.imm 0), .vldW c0 3 1 (.imm 0), .vldD c0 4 1 (.imm 0)] : List Instr).all (issues s) = true
    ∧ ReachesOwn s c0 (.load .w 3 1 (.imm 0)) false 1 [pR] none 0 64 0 ∧ ReachesOwn s c0 (.load .w 3 1 (.imm 0)) false 1 [pR, pLdcap] none 0 16 0
    ∧ ReachesOwn s c0 (.load .w 3 1 (.imm 0)) false 1 [pR, pVolatile] none 0 8 0
    ∧ ReachesOwn s c0 (.load .w 3 1 (.reg 1)) false 1 [pR] none 0x1FFFFF 1 0x1FFFFF := by unfold ReachesOwn; decide +kernel

theorem witness_stores :
    let s := withBytes (regs 1 2 3) []
    let x := opCtx s c0 (.store .w 1 1 (.imm 0))
    ([.stB c0 1 1 (.imm 0), .stH c0 1 1 (.imm 0), .stW c0 1 1 (.imm 0), .stD c0 2 1 (.imm 0), .stv c0 1 1 (.imm 0), .stc c0 1 1 (.imm 0)]
      : List Instr).all (issues s) = true
    ∧ inImem (spad.addrAt 0) = false ∧ checkAccess spad x.dom 1 2 [pW] none 0 64 64 = none ∧ lsuHeld x true 0xFFFF (spad.addrAt 0) 64 = false
    ∧ checkAccess spad x.dom 1 2 [pW, pStcap] none 0 16 16 = none ∧ x.norm spad.module = 0xFFFF
    ∧ (ownScratch 0 (spad.addrAt 0x1FFFF0) 16).isSome = true := by decide +kernel

theorem witness_stores_to_instruction_memory :
    let s := running (({} : Thread).setS 1 (capOn 0x0F0000000000 0x1FFFF))
    let x := opCtx s c0 (.store .w 1 1 (.imm 0))
    let k := x.t.getS 1
    ([.stB c0 1 1 (.imm 0), .stH c0 1 1 (.imm 0), .stW c0 1 1 (.imm 0), .stD c0 2 1 (.imm 0), .stv c0 1 1 (.imm 0), .stc c0 1 1 (.imm 0),
      .amoAddW c0 2 1 (.imm 0), .amoAddD c0 2 1 (.imm 0), .amoMinW c0 2 1 (.imm 0), .amoMinD c0 2 1 (.imm 0), .amoMaxW c0 2 1 (.imm 0),
      .amoMaxD c0 2 1 (.imm 0), .amoSwapW c0 2 1 (.imm 0), .amoSwapD c0 2 1 (.imm 0), .amoCasW c0 2 1 (.imm 0), .amoCasD c0 4 1 (.imm 0),
      .amoFaddF32 c0 2 1 (.imm 0), .amoFaddBf16 c0 2 1 (.imm 0)] : List Instr).all (issues s) = true
    ∧ checkRights k x.dom 1 2 [pW] = none ∧ checkRights k x.dom 1 2 [pW, pStcap] = none ∧ checkRights k x.dom 1 2 [pAtomic] = none
    ∧ inImem (k.addrAt 0) = true ∧ inImem (k.addrAt 0x1FFFF) = true := by decide +kernel

theorem witness_acquires :
    let s := withBytes {} []
    issues s (.acqAll c0) = true ∧ issues s (.acq c0 1) = true ∧ checkRights spad (opCtx s c0 (.acq 1)).dom 1 2 [pR] = none := by decide +kernel

theorem witness_atomics :
    let s := withBytes (regs 1 2 3) []
    ([.amoAddW c0 2 1 (.imm 0), .amoAddD c0 2 1 (.imm 0), .amoMinW c0 2 1 (.imm 0), .amoMinD c0 2 1 (.imm 0), .amoMaxW c0 2 1 (.imm 0),
      .amoMaxD c0 2 1 (.imm 0), .amoSwapW c0 2 1 (.imm 0), .amoSwapD c0 2 1 (.imm 0), .amoCasW c0 2 1 (.imm 0), .amoCasD c0 4 1 (.imm 0),
      .amoFaddF32 c0 2 1 (.imm 0), .amoFaddBf16 c0 2 1 (.imm 0)] : List Instr).all (issues s) = true
    ∧ inImem (spad.addrAt 0) = false ∧ ReachesOwn s c0 (.amo .addW 2 1 (.imm 0)) true 1 [pAtomic] none 0 8 0
    ∧ ReachesOwn s c0 (.amo .addW 2 1 (.imm 0)) true 1 [pAtomic] none 0x1FFFFC 4 0x1FFFFC
    ∧ ReachesOwn s c0 (.amo .addW 2 1 (.imm 0)) true 1 [pAtomic] none 0 2 0 := by unfold ReachesOwn; decide +kernel

/-! ## Branches and gates -/

theorem test_bl : (t0 (exec (.bl c0 3 0x200) (atEnd (running {})))).pc = 0x800
    ∧ (t0 (exec (.bl c0 3 0x200) (atEnd (running {})))).getG 3 = 0x20000 := by decide +kernel
theorem test_jr : (t0 (exec (.jr c0 1) (atEnd (running (regs 0x1FFF8 0 0))))).pc = 0x1FFF8
    ∧ (t0 (exec (.jr c0 1) (atEnd (running (regs 0x20000 0 0))))).lastFault = 0x03
    ∧ (t0 (exec (.jr c0 1) (atEnd (running (regs 2 0 0))))).lastFault = 0x06 := by decide +kernel
theorem test_exit : (t0 (exec (.exit c0) (running { regs 7 0 0 with esc := true }))).st = .idle
    ∧ (t0 (exec (.exit c0) (running { regs 7 0 0 with esc := true }))).esc = false
    ∧ (t0 (exec (.exit c0) (running { regs 7 0 0 with esc := true }))).getG 1 = 7 := by decide +kernel

theorem witness_branches :
    let s := running (regs 0x1FFFC 0x20000 2)
    ([.br c0 0x7FFF, .bl c0 3 0, .jr c0 1, .jrl c0 3 1, .jr c0 2, .jrl c0 3 2, .jr c0 3, .jrl c0 3 3] : List Instr).all (issues s) = true
    ∧ (0x1FFFC : Word) < 0x20000 ∧ (0x1FFFC : Word).toNat % 4 = 0 ∧ (2 : Word).toNat % 4 ≠ 0 := by decide +kernel

/-- A gate: code capability with X and GATE at 0x400 of instruction memory, data capability, both sealed with type 0x20; the BTB holds the
targets of the call at 0x40 and of the return at 0x400. -/
def gateState : State :=
  (fun s => s.modCore 0 fun c => c.modMem fun m => btbUpdate (btbUpdate m 0x40 true 0x400) 0x400 true 0x44) <| running { ((({} : Thread).setS 1 (mkCap true 0x0F0000000400 3 0xFFFF ((1 <<< pX) ||| (1 <<< pGate)) 0x20 0)).setS 2 (spad.withOtype 0x20)).setS 15
    (capOn 0x080000000100 0xFF) with pc := 0x40 }
/-- A call through the gate and the return come back to the next bundle with s15 as it was. -/
theorem test_gate_round_trip :
    let u := nextOf (exec (.callg c0 1 2) gateState)
    let v := t0 (exec (.retg c0) u)
    (u.thread 0 0).pc = 0x400 ∧ (u.thread 0 0).getS 15 = spad ∧ (u.thread 0 0).gdepth = 1
      ∧ v.pc = 0x44 ∧ v.gdepth = 0 ∧ v.getS 15 = capOn 0x080000000100 0xFF := by decide +kernel
theorem witness_gates :
    let u := nextOf (exec (.callg c0 1 2) gateState)
    let x := opCtx gateState c0 (.callg 1 2)
    let t := opThread u c0
    let ret := (u.core 0).mem.readCap (frameAt t 0 0 0)
    issues gateState (.callg c0 1 2) = true ∧ gateCheck (x.t.getS 1) (x.t.getS 2) 1 2 x.dom 0 = none ∧ x.t.esc = false ∧ x.t.gdepth ≠ 16
    ∧ issues u (.retg c0) = true ∧ t.esc = false ∧ t.gdepth ≠ 0 ∧ poisonedAt 8 (u.core 0).mem.poison (frameAt t 0 0 0) 32 = false
    ∧ bitOf ret.limit 0 = false ∧ ((ret.base - blockAddr 0).truncate 32 : Word) = 0x44 ∧ issues gateState (.exit c0) = true := by decide +kernel

/-! ## Vector ops -/

/-- T0 running with v1, v2 and v3 from lanes of w bits. -/
def withVecs (w : Nat) (a b d : List Nat) (t : Thread) : State :=
  running (((t.setV 1 (ofLanes w a)).setV 2 (ofLanes w b)).setV 3 (ofLanes w d))
/-- A lane of v3 after a command. -/
def lane3 (w i : Nat) (o : Host.Outcome State Fault Refusal) : Nat := laneOf w ((t0 o).getV 3) i

/-- i32 lanes wrap; the top lane is lane 15. -/
theorem test_vadd_wraps :
    let s := withVecs 32 (List.replicate 15 1 ++ [0xFFFFFFFF]) (List.replicate 16 2) [] {}
    lane3 32 0 (exec (.vadd c0 0xC 3 1 2) s) = 3 ∧ lane3 32 15 (exec (.vadd c0 0xC 3 1 2) s) = 1 := by decide +kernel
/-- 1.5 + 2.25 = 3.75 in f32; 2 × 2 + 1 = 5 fused. -/
theorem test_vadd_float :
    lane3 32 0 (exec (.vadd c0 0 3 1 2) (withVecs 32 [0x3FC00000] [0x40100000] [] {})) = 0x40700000
    ∧ lane3 32 0 (exec (.vfma c0 0 3 1 2) (withVecs 32 [0x40000000] [0x40000000] [0x3F800000] {})) = 0x40A00000 := by decide +kernel
/-- 1 / 0 is +∞ with the divide-by-zero flag (bit 1), and faults DIV_ZERO where FAULT_EN.VDIV is 1. -/
theorem test_vdiv_zero :
    lane3 32 0 (exec (.vdiv c0 0 3 1 2) (withVecs 32 (List.replicate 16 0x3F800000) (0 :: List.replicate 15 0x3F800000) [] {})) = 0x7F800000
    ∧ (t0 (exec (.vdiv c0 0 3 1 2) (atEnd (withVecs 32 (List.replicate 16 0x3F800000) (0 :: List.replicate 15 0x3F800000) [] { faultEn := 2 })))).lastFault
      = 0x07 := by decide +kernel
/-- MIN of −1 and 1 in i8 is −1; the other operand of a NaN passes. -/
theorem test_vmin :
    lane3 8 0 (exec (.vmin c0 8 3 1 2) (withVecs 8 [0xFF] [1] [] {})) = 0xFF
    ∧ lane3 32 0 (exec (.vmin c0 0 3 1 2) (withVecs 32 [0x7FC00000] [0x3F800000] [] {})) = 0x3F800000 := by decide +kernel
theorem test_vshr :
    lane3 16 0 (exec (.vshr c0 0xB 3 1 2 0) (withVecs 16 [0x8000] [17] [] {})) = 0xC000
    ∧ lane3 16 0 (exec (.vshr c0 0xB 3 1 2 1) (withVecs 16 [0x8000] [17] [] {})) = 0x4000 := by decide +kernel
/-- R93 in i32: the sum of 1 to 16. -/
theorem test_vred_add :
    let s := withVecs 32 [1, 2, 3, 4, 5, 6, 7, 8, 9, 10, 11, 12, 13, 14, 15, 16] [] [] {}
    (t0 (exec (.vredAdd c0 0xC 3 1) s)).getV 3 = 136 ∧ (t0 (exec (.vredMax c0 0xC 3 1) s)).getV 3 = 16 := by decide +kernel
/-- vcvt f32 to bf16, part 1: lanes 16 to 31 are written, the others stay (R92). -/
theorem test_vcvt_part :
    let s := withVecs 32 (List.replicate 16 0x40490FDB) [] [0x11111111] {}
    lane3 16 0 (exec (.vcvt c0 1 0 3 1 1 0) s) = 0x1111 ∧ lane3 16 16 (exec (.vcvt c0 1 0 3 1 1 0) s) = 0x4049
      ∧ (t0 (exec (.vcvt c0 1 0 3 1 1 0) s)).vcvts = 1 := by decide +kernel
theorem test_vext_vins :
    (t0 (exec (.vext c0 8 4 1 63) (withVecs 8 (List.replicate 63 0 ++ [0x80]) [] [] {}))).getG 4 = 0xFFFFFF80
    ∧ lane3 32 15 (exec (.vins c0 0xC 1 3 15) (withVecs 32 [] [] [] (regs 7 0 0))) = 7 := by decide +kernel

theorem witness_vector_arithmetic :
    let s := withVecs 32 (List.replicate 16 0x3F800000) (List.replicate 16 0x3F800000) [] {}
    let z := withVecs 32 (List.replicate 16 0x3F800000) [] [] { faultEn := 2 }
    ([.vadd c0 0xC 3 1 2, .vsub c0 0xB 3 1 2, .vmul c0 8 3 1 2, .vfma c0 0xC 3 1 2, .vmin c0 0xC 3 1 2, .vmax c0 0xC 3 1 2, .vadd c0 0 3 1 2,
      .vsub c0 1 3 1 2, .vmul c0 2 3 1 2, .vfma c0 0xA 3 1 2, .vdiv c0 0 3 1 2, .vsqrt c0 0 3 1, .vmin c0 0 3 1 2, .vmax c0 0 3 1 2]
      : List Instr).all (issues s) = true ∧ issues z (.vdiv c0 0 3 1 2) = true
    ∧ vecFault (opThread s c0) 4 [0, 0] = none ∧ (vecFault (opThread z c0) 4 [flDivZero]).isSome = true
    ∧ isIntFmt 0xC = true ∧ isIntFmt 0 = false := by decide +kernel
theorem witness_vector_moves :
    let s := withVecs 32 [1] [2] [3] {}
    ([.vand c0 3 1 2, .vor c0 3 1 2, .vxor c0 3 1 2, .vsel c0 3 1 2, .vmov c0 3 1, .vshl c0 0xC 3 1 2, .vshr c0 0xC 3 1 2 0, .vshr c0 8 3 1 2 1,
      .vcmp c0 0 3 1 2 4, .vperm c0 0xB 3 1 2, .vbcast c0 0xC 1 3, .vext c0 0xC 1 1 15, .vext c0 0 1 1 0, .vins c0 0xA 1 3 7] : List Instr).all
      (issues s) = true := by decide +kernel
theorem witness_vector_reductions :
    let s := withVecs 32 [1, 2, 3] [] [] {}
    let f := withVecs 32 [0x7F7FFFFF, 0x7F7FFFFF] [] [] { faultEn := 8 }
    issues s (.vredAdd c0 0xC 3 1) = true ∧ issues s (.vredMax c0 0xC 3 1) = true ∧ issues s (.vredAdd c0 0 3 1) = true
    ∧ issues f (.vredAdd c0 0 3 1) = true ∧ issues s (.vredMax c0 0 3 1) = true ∧ vecFmtOk 0xC = true ∧ vecFmtOk 0 = true
    ∧ vecFault (opThread s c0) 4 [0] = none ∧ (vecFault (opThread f c0) 4 [flOverflow]).isSome = true
    ∧ 3 ∈ lanes 32 ((opThread s c0).getV 1) ∧ ∀ l ∈ lanes 32 ((opThread s c0).getV 1), sLane 32 l ≤ sLane 32 3 := by decide +kernel
theorem witness_vector_conversion :
    let s := withVecs 32 [0x3F800000] [] [] {}
    issues s (.vcvt c0 1 1 3 1 0 0) = true ∧ issues s (.vcvt c0 3 0 3 1 8 4) = true ∧ issues s (.vcvt c0 0 0 3 1 0 5) = true
    ∧ fmtWidth 1 ≤ fmtWidth 0 ∧ fmtWidth 8 < fmtWidth 0 ∧ vecFault (opThread s c0) 4 [0] = none := by decide +kernel

/-! ## Matrix, SYN and DMA ops -/

/-- T0 running with s1 over the scratchpad; tile t2 has 8 rows of 64 bytes. -/
def matState (t : Thread) : State :=
  (running (t.setS 1 spad)).modCore 0 fun c => { c with mat := { c.mat with tiles := mapSet {} c.mat.tiles 2 { rows := 7, rlen := 3 } } }

theorem test_tcfg_queued :
    let u := nextOf (exec (.tcfg c0 3 1) (matState (regs 0x0000004F 0 0)))
    (u.core 0).mat.queue.map (fun j => (j.seq, j.work)) = [(0, .tcfg 3 0x4F)] ∧ (u.core 0).relSeq = 1 ∧ (u.core 0).mat.tiles.length = 1 := by
  decide +kernel
/-- tcfg of t3 with ROWS 16, RLEN 32: started and completed, it is in force. -/
theorem test_tcfg_completes :
    let u := nextOf (exec (.matOpStart 0) (nextOf (exec (.tcfg c0 3 1) (matState (regs 0x0000004F 0 0)))))
    (u.core 0).mat.active.map (·.1) = [.converter]
      ∧ ((nextOf (exec (.matOpComplete 0 .converter) u)).core 0).mat.cfg 3 = { rows := 15, rlen := 1 } := by decide +kernel
theorem test_tld :
    let s := (matState {}).modCore 0 fun c => c.modMem fun m => m.writeScratch 0 [1, 2, 3]
    let u := nextOf (exec (.matOpComplete 0 .mover) (nextOf (exec (.matOpStart 0) (nextOf (exec (.tld c0 0 1 0 0) s)))))
    (u.core 0).mat.used 0 = true ∧ ((u.core 0).mat.tileBytes 0).take 4 = [1, 2, 3, 0] := by decide +kernel

theorem witness_matrix_ops :
    let s := matState (regs 0 64 0)
    let x := opCtx s c0 (.mat (.trel 0))
    let passes (i : Instr) : Bool := issues s i && (match opOf i with
      | some (_, .mat m) => (matCheck (s.core 0).mat (s.core 0).relSeq (matWorkOf (opThread s c0) none m) x.dom 0 (matCapReg m).toNat).isNone
      | _ => false)
    ([.tcfg c0 0 1, .tld c0 0 1 1 2, .tldT c0 0 1 1 2, .tst c0 0 1 1 2, .trel c0 0, .tsave c0 1 1, .trestore c0 1 1, .accCfg c0 0 1,
      .mma c0 0 0 1 0 0 false, .accNorm c0 0, .accCvt c0 0 2 0, .accCvtS c0 0 1 1 1, .mseqRun c0 1 1, .mseqRunNt c0 1 1] : List Instr).all
      passes = true := by decide +kernel

/-- T0 running with s1 over the fret page, s2 the channel page and s3 the instruction memory of node 0. -/
def synState (t : Thread) : State :=
  running (((t.setS 1 (capOn 0x0F0000022000 0xFFF)).setS 2 (capOn 0x0F0000023000 0xFFF)).setS 3 (capOn 0x0F0000000000 0x1FFFF))

/-- An increment of the own core, applied at the fret logic (R250). -/
theorem test_finc :
    let u := nextOf (exec (.finc c0 47 1) (synState (regs 5 0 0)))
    ((nextOf (exec (.fretIncrementApply 0) u)).core 0).fret 47 = 5 ∧ (t0 (exec (.finc c0 48 1) (atEnd (synState (regs 5 0 0))))).lastFault = 0x0E := by
  decide +kernel
theorem test_istore :
    readBytes ((nextOf (exec (.istore c0 3 1 2) (atEnd (synState (regs 0x1FFFC 0x87000123 0))))).core 0).mem.imem 0x1FFFC 4 = [0x23, 0x01, 0x00, 0x87] := by
  decide +kernel
theorem test_send_bad_count : (t0 (exec (.send c0 2 1 5 0xA) (atEnd (synState {})))).lastFault = 0x0D := by decide +kernel

theorem witness_syn_ops :
    let s := synState (regs 8 0 0)
    let cap (i : SReg) := (opThread s c0).getS i
    let x := opCtx s c0 (.finc 0 1)
    ([.finc c0 47 1, .finc c0 48 1, .fincI c0 0 0, .fincI c0 63 31, .fread c0 47 3, .fread c0 48 3, .fincR c0 1 1 2, .send c0 2 1 1 0xA,
      .send c0 2 1 4 0xA, .retd c0, .istore c0 3 1 2] : List Instr).all (issues s) = true
    ∧ checkAccess (cap 1) x.dom 1 6 [pW] none 8 4 4 = none ∧ checkAccess ((opThread s c0).getS 2) x.dom 2 6 [pW] none 0 16 16 = none
    ∧ channelOf (cap 2).base = some (0, 0) ∧ (opThread s c0).dret.toNat % 4 = 0
    ∧ issues (synState { dret := 2 }) (.retd c0) = true ∧ x.norm (cap 3).module = 0xFFFF ∧ ownImem 0 ((cap 3).addrAt 8) = some 8
    ∧ checkAccess (cap 3) x.dom 3 6 [pW] none 8 4 4 = none := by decide +kernel

/-- The manual's example after R268: 3 words with tag 0x2 on channel 6 give g28 = 0x362 and g27 = 0 (R100). -/
def withMessage : State :=
  (synState { regs 0x40 0 0 with pc := 0x80, handlers := mapSet 0 [] 6 0x400 }).modCore 0 fun c =>
    { c with syn := { c.syn with msgs := [{ chan := 6, words := [11, 12, 13], tag := 2 }] } }
theorem test_waitd :
    let t := t0 (exec (.waitd c0 1 1) withMessage)
    t.getG 28 = 0x362 ∧ t.getG 24 = 11 ∧ t.getG 27 = 0 ∧ t.pc = 0x400 ∧ t.dret = 0x80 ∧ t.getP 1 = true := by decide +kernel
theorem test_fwait :
    (t0 (exec (.fwait c0 9 1 2) (synState (regs 1 0 0)))).st = .waiting ∧ (t0 (exec (.fwait c0 9 0 2) (synState {}))).getP 2 = true
    ∧ (t0 (exec (.fwait { c0 with ext := some 0 } 9 1 2) (synState (regs 1 0 0)))).st = .running := by decide +kernel

/-- An ifence empties the thread's fetch buffer and forgets what blocks held before (R72). -/
theorem test_ifence :
    let t := t0 (exec (.ifence c0) (atEnd (running { fbuf := [(4095, [1])], stale := [(4095, [2])] })))
    t.fbuf = [] ∧ t.stale = [] ∧ t.pc = 0x20000 := by decide +kernel
theorem witness_waits :
    let s := synState (regs 1 0 0)
    let e : OpAt := { c0 with ext := some 0 }
    issues s (.fwait c0 47 0 1) = true ∧ issues s (.fwait e 47 1 1) = true ∧ issues s (.fwait c0 47 1 1) = true
    ∧ 0 ≤ (mapGet 0 (s.core 0).syn.frets 47 - 0).toInt ∧ ¬ 0 ≤ (mapGet 0 (s.core 0).syn.frets 47 - 1).toInt
    ∧ issues withMessage (.waitd c0 1 1) = true ∧ issues s (.waitd e 1 1) = true ∧ issues s (.waitd c0 1 1) = true ∧ issues s (.ifence c0) = true
    ∧ (∀ i < 15, (s.core 0).boundTo i = 0)
    ∧ findWith (fun m => (0x40 : BitVec 16).getLsbD m.chan.toNat) (withMessage.core 0).syn.msgs = some (0, { chan := 6, words := [11, 12, 13], tag := 2 })
    ∧ (∀ m ∈ (s.core 0).syn.msgs, (1 : BitVec 16).getLsbD m.chan.toNat = false) ∧ bitOf (s.core 0).ctl.dbgPend 0 = false
    ∧ bitOf ((stopPending s).core 0).ctl.dbgPend 0 = true ∧ issues (stopPending s) (.fwait c0 47 1 1) = true
    ∧ issues (stopPending s) (.waitd c0 1 1) = true := by
  decide +kernel

theorem witness_rdb :
    let s := running (({} : Thread).setS 1 (capOn 0x0F0000020000 0x1FFF))
    let e : OpAt := { c0 with ext := some 0 }
    let x := opCtx s c0 (.rdb 3 1 0 1)
    let far := running (({} : Thread).setS 1 (mkCap true 0x0F0000020000 0x1FFF 7 0x1FF 0 0))
    issues s (.rdb c0 3 1 0 1) = true ∧ issues s (.rdb e 3 1 0 1) = true
    ∧ checkAccess ((opThread s c0).getS 1) x.dom 1 6 [pR] none 0 4 4 = none
    ∧ (match s.destOf 0 0xFFFF 0 0x0F0000020000 with | .ok d => decide (d = (0, 0xFFFF)) | .error _ => false) = true
    ∧ (s.core 0).freeTag = some 0 ∧ bitOf (s.core 0).ctl.dbgPend 0 = false
    ∧ bitOf ((stopPending s).core 0).ctl.dbgPend 0 = true ∧ issues (stopPending s) (.rdb c0 3 1 0 1) = true
    ∧ issues far (.rdb c0 3 1 0 1) = true ∧ (match far.destOf 0 7 0 0x0F0000020000 with | .ok _ => false | .error r => decide (r = refUnmapped)) = true := by
  decide +kernel

theorem test_dma_start_pair : (t0 (exec (.dmaStart c0 2 1 0) (atEnd (matState {})))).lastFault = 0x01
    ∧ ((nextOf (exec (.dmaStart c0 1 1 0) (matState {}))).core 0).dma.queue.length = 1 := by decide +kernel
theorem witness_dma_ops :
    let s := matState {}
    let x := opCtx s c0 (.dmaWr 0 1)
    ([.dmaStart c0 0 1 0, .dmaStartNt c0 1 1 0, .dmaWr c0 0 1, .dmaRd c0 3 0, .dmaRd c0 0 0] : List Instr).all (issues s) = true
    ∧ checkAccess spad x.dom 1 6 [pR] none 0 64 64 = none ∧ x.norm spad.module = 0xFFFF ∧ (ownScratch 0 (spad.addrAt 0x1FFFC0) 64).isSome = true := by
  decide +kernel

/-- An op under a condition that does not hold issues, in every class (R42). -/
theorem witness_false_conditions :
    let s := matState {}
    let c : OpAt := { c0 with psel := 1 }
    let ready (i : Instr) : Bool := match opOf i with
      | some (c, o) => bundleReady s 0 0 (opBundle s c o) && (bundleIllegal (s.core 0) 0 (opBundle s c o) false).isNone
        && decide ((s.thread 0 0).getP c.psel = c.psense)
      | none => false
    isCore 0 = true ∧ ([.add c 3 1 (.reg 2), .csub c 3 1 1 2, .ldW c 3 1 (.imm 0), .br c 0, .vadd c 0 3 1 2, .trel c 0, .fwait c 0 1 1,
      .add { c0 with psense := true } 3 1 (.reg 2)] : List Instr).all ready = true := by decide +kernel

theorem witness_encodable : encodable (.alu .popc 31 31 (.reg 0)) = true ∧ encodable (.vec (.cvt 3) 0 15 15 8 5) = true
    ∧ encodable (.mat (.mma 63 15 15 2 2 true)) = true ∧ encodable (.dmaRd 31 31) = true := by decide +kernel

/-! ## Events of a core -/

/-- Course 0 is region 0 of its own. -/
def owned (s : State) : State := s.modCourse 0 fun c => { c with valid := true }
/-- A packet from a node to node 0, of region 0. -/
def packet (kind : BitVec 5) (cls : BitVec 2) (addr : Addr) (snode tag : BitVec 10) (data : List Byte) : Packet :=
  { h := { addr := addr, dnode := 0, snode := snode, cls := cls, kind := kind, tag := tag, len := BitVec.ofNat 8 (data.length / 16) }, data := data }
/-- A packet waits at node 0: a CTRL packet in the control list, another in the receive list. -/
def arrived (p : Packet) (s : State) : State := s.modNode 0 fun x => x.deliver p
def withCore (f : Core → Core) (s : State) : State := s.modCore 0 f

/-- T0 holds a withdrawn load of 4 bytes under TAG 3. -/
def loading (fill dropFill : Bool) (resp : Option Resp) : State :=
  let w : Withdrawn :=
    { tag := some 3, pc := 0, addr := 0x1000, size := 4, module := 0xFFFF, fill := fill, amo := false, dropFill := dropFill, resp := resp, ready := false }
  withCore (fun c => { c with reqs := [(3, .load 0)] }) (running { load := some w })
/-- T0 waits in rdb under TAG 3 for g5 and p1. -/
def rdbWaiting : State :=
  let w : Wait := { kind := .rdb 5 (some 3) 0xFFFF 0 0, start := 0, limit := some 5, pd := 1, next := 0x24 }
  withCore (fun c => { c with reqs := [(3, .rdb 0 0x20)] }) ((running {}).modThread 0 0 fun t => { t with st := .waiting, wait := some w })

/-- A DATA answer ends an rdb with the word and pd true (R273). -/
theorem test_rdb_answer :
    let t := t0 (exec (.rspArrive 0) (arrived (packet kData clsRsp 0 162 3 (leBytes 16 0x1234)) rdbWaiting))
    t.getG 5 = 0x1234 ∧ t.getP 1 = true ∧ t.st = .running ∧ t.pc = 0x24 := by decide +kernel
theorem witness_answers :
    let p := packet kData clsRsp 0 42 3 (leBytes 16 7)
    let e := packet kRspErr clsRsp 0 42 3 (kindPayload 1)
    isCore (0 : NodeNo).val = true
    ∧ ((arrived p (loading false false none)).node 0).rx = [p] ∧ p.h.kind = kData ∧ assocGet 3 ((loading false false none).core 0).reqs = some (.load 0)
    ∧ ((loading false false none).thread 0 0).load.map (fun w => (w.tag, w.resp)) = some (some 3, none)
    ∧ assocGet 3 (rdbWaiting.core 0).reqs = some (.rdb 0 0x20) ∧ (rdbWaiting.thread 0 0).wait.map (·.kind) = some (.rdb 5 (some 3) 0xFFFF 0 0)
    ∧ (rdbWaiting.thread 0 0).wait.map (fun w => (w.start, w.limit)) = some (0, some 5) ∧ rdbWaiting.mc < 16 * (0 + 5 + 1)
    ∧ ((arrived e rdbWaiting).node 0).rx = [e] ∧ e.h.kind = kRspErr ∧ kindOf e ≠ 7
    ∧ ((loading true false (some (.data [1]))).thread 0 0).load.map (fun w => (w.resp, w.ready, w.fill, w.dropFill)) =
      some (some (.data [1]), false, true, false)
    ∧ ((loading true true (some (.data [1]))).thread 0 0).load.map (fun w => (w.ready, w.dropFill)) = some (false, true) := by decide +kernel

/-- T0 has one buffered store of 4 bytes. -/
def buffered (addr : Addr) (module : BitVec 16) (tag : Option Bool) (bytes : List Byte) : State :=
  owned (running { sb := [{ addr := addr, data := bytes, capTag := tag, module := module, region := 0, pc := 0x10, seq := 0 }] })
/-- T0 has a store on its way under TAG 3. -/
def unacked : State :=
  withCore (fun c => { c with reqs := [(3, .store 0 0x10)] })
    (running { unacked := [{ addr := 0, data := [1, 2, 3, 4], module := 0xFFFF, tag := 3, seq := 0 }] })

/-- A store to tier-1 leaves as a WRITE to the HBM port node of course 0 under TAG 0 (R207). -/
theorem test_store_leaves :
    let u := nextOf (exec (.storeDrain 0) (buffered 0x1000 0xFFFF none [1, 2, 3, 4]))
    (u.node 0).out.map (fun p => (p.h.kind, p.h.dnode, p.h.tag, p.data)) = [(kWrite, 42, 0, [1, 2, 3, 4])] ∧ (u.thread 0 0).unacked.length = 1 := by
  decide +kernel
/-- A NACK of kind WINDOW records the refusal in REMOTE_ERR (Table 7.8). -/
theorem test_nack :
    (t0 (exec (.nackArrive 0) (arrived (packet kNack clsCtrl 0 42 3 (kindPayload 1)) unacked))).remoteErr = { err := true, kind := 1, count := 1, pc := 4 }
    := by decide +kernel
theorem witness_store_drain :
    let own := buffered 0x080000000040 0xFFFF none [1, 2, 3, 4]
    let cap := buffered 0x0800001FFFF0 0xFFFF (some true) (List.replicate 16 0)
    let far := buffered 0x1000 0xFFFF none [1, 2, 3, 4]
    let a := packet kAck clsCtrl 0 42 3 []
    (own.thread 0 0).sb.length = 1 ∧ (∀ j : ThreadNo, j ≠ 0 → (own.thread 0 j.val).sb = []) ∧ ownScratch 0 0x080000000040 4 = some 0x40
    ∧ ownScratch 0 0x0800001FFFF0 16 = some 0x1FFFF0 ∧ (cap.thread 0 0).sb.map (·.capTag) = [some true] ∧ ownScratch 0 0x1000 4 = none
    ∧ (match far.destOf 0 0xFFFF 0 0x1000 with | .ok d => decide (d = (42, 0xFFFF)) | .error _ => false) = true ∧ (far.core 0).freeTag = some 0
    ∧ ((arrived a unacked).node 0).ctrl = [a] ∧ assocGet 3 ((arrived a unacked).core 0).reqs = some (.store 0 0x10) ∧ a.h.kind = kAck
    ∧ (packet kNack clsCtrl 0 42 3 [1]).h.kind = kNack := by decide +kernel

/-- T0 waits for f9 to reach 1, with a limit of 5 ticks of 10 ns: to the end of the tick of time 5, mesh cycle 96. -/
def fretWaiting (mc : Nat) : State :=
  let w : Wait := { kind := .fret 9 1, start := 0, limit := some 5, pd := 1, next := 0x24 }
  { (running {}).modThread 0 0 (fun t => { t with st := .waiting, wait := some w }) with mc := mc }
theorem test_fret_wakes :
    (t0 (exec (.fretIncrementApply 0) (addIncOwn 0 { f := 9, v := 1 } (fretWaiting 0)))).st = .running
    ∧ (t0 (exec (.fretIncrementApply 0) (addIncOwn 0 { f := 9, v := 1 } (fretWaiting 0)))).getP 1 = true
    ∧ (t0 (exec (.fretIncrementApply 0) (addIncOwn 0 { f := 9, v := 1 } (fretWaiting 96)))).st = .waiting
    ∧ (t0 (exec (.waitTimeout 0 0) (fretWaiting 95))).st = .waiting ∧ (t0 (exec (.waitTimeout 0 0) (fretWaiting 96))).st = .running := by
  decide +kernel
/-- An increment of f7 from another core of the region; one of another region is refused WINDOW (R204). -/
theorem test_finc_arrives :
    let p := packet kFinc clsCtrl 0x0F000002201C 1 3 (padTo 16 (leBytes 4 2))
    ((nextOf (exec (.fincArrive 0) (arrived p (owned (running {}))))).core 0).syn.incNet = [{ f := 7, v := 2 }]
    ∧ ((nextOf (exec (.fincArrive 0) (arrived p (running {})))).core 0).ctl.winRefused = 1 := by decide +kernel
theorem witness_frets :
    let w : Wait := { kind := .fret 9 1, start := 0, limit := some 5, pd := 1, next := 0x24 }
    let p := packet kFinc clsCtrl 0x0F000002201C 1 3 (padTo 16 (leBytes 4 2))
    let s := arrived p (owned (running {}))
    ((fretWaiting 95).thread 0 0).st = .waiting ∧ ((fretWaiting 95).thread 0 0).wait = some w ∧ 95 < 16 * (w.start + 5 + 1) ∧ 16 * (w.start + 5 + 1) ≤ 96
    ∧ (s.node 0).ctrl = [p] ∧ p.h.kind = kFinc ∧ (s.core 0).lost = none ∧ s.exposed 0 = true ∧ (s.course (courseOf 0)).valid = true
    ∧ p.h.region = (s.regionOf 0).zeroExtend 6 ∧ fretOf p.h.addr = some (0, 7) ∧ fretOf 0x0F00000220BC = some (0, 47)
    ∧ ((arrived p (running {})).course (courseOf 0)).valid = false := by decide +kernel

/-- A message of two words with tag 2 for channel 6 of node 0. -/
def message : Packet := packet kMsg clsCtrl 0x0F0000023060 1 3 (padTo 16 [0x22] ++ leBytes 4 11 ++ leBytes 4 12)
theorem test_message_queued :
    ((nextOf (exec (.msgArrive 0) (arrived message (owned (running {}))))).core 0).syn.msgs = [{ chan := 6, words := [11, 12], tag := 2 }]
    ∧ ((nextOf (exec (.msgArrive 0) (arrived message (owned (running {}))))).node 0).out.map (·.h.kind) = [kAck] := by decide +kernel
/-- STATIC: the 56 plain entries of the supervisor's quota are taken (R35, R263). -/
def fullQueue : State :=
  withCore (fun c => { c with syn := { c.syn with msgs := List.replicate 56 { chan := 6, words := [], tag := 0 } } }) (owned (running {}))
theorem test_message_full :
    ((nextOf (exec (.msgArrive 0) (arrived message fullQueue))).core 0).ctl.chFull = 1
    ∧ ((nextOf (exec (.msgArrive 0) (arrived message fullQueue))).node 0).out.map (fun p => (p.h.kind, p.data.take 1)) = [(kNack, [5])] := by
  decide +kernel
/-- A SYN entry that a FULL refusal made wait until mesh cycle 32. -/
def backedOff : SynEntry := { thread := 0, epoch := 0, own := false, pc := 0, after := 0, work := .send 0xFFFF 0 0x0F0000123060 [1] 0xA, stage := .backoff, due := 32, delay := 32 }
theorem witness_messages :
    let s := arrived message (owned (running {}))
    let h := withCore (fun c => { c with ctl := { c.ctl with halted := true } }) s
    let b := withCore (fun c => { c with syn := { c.syn with queue := [backedOff] } }) (running {})
    (s.node 0).ctrl = [message] ∧ message.h.kind = kMsg ∧ msgRefusal s 0 message = none ∧ channelOf message.h.addr = some (0, 6)
    ∧ isThreadCtl message = false ∧ (h.core 0).ctl.halted = true ∧ msgRefusal h 0 message = none ∧ (s.core 0).msgRoom 6 = true
    ∧ ((arrived message fullQueue).core 0).msgRoom 6 = false ∧ msgRefusal (arrived message fullQueue) 0 message = none
    ∧ (b.core 0).syn.queue = [] ++ backedOff :: [] ∧ backedOff.stage = .backoff ∧ backedOff.due ≤ ({ b with mc := 32 } : State).mc := by decide +kernel

/-- THREAD_CTL to node 0 for T1: an op and a word (R130). -/
def control (op w1 : Word) : Packet := packet kMsg clsCtrl 0x0F00000230F0 1 3 (padTo 16 [0x2F] ++ leBytes 4 (op ||| 0x10).toNat ++ leBytes 4 w1.toNat)
theorem test_thread_start :
    let u := nextOf (exec (.threadCtl 0) (arrived (control 1 0x1FFFC) (owned (running {}))))
    (u.thread 0 1).st = .running ∧ (u.thread 0 1).pc = 0x1FFFC ∧ (u.thread 0 0).pc = 0 := by decide +kernel
/-- T1 is PARKED_FAULT at 0x80 with a fault record; T0 supervises. -/
def parked : State := (owned (running {})).modThread 0 1 fun t => { t with st := .parkedFault, parkedPc := 0x80, records := [⟨0, 1, 2, 3, 4⟩] }
theorem test_fault_record :
    ((nextOf (exec (.faultRecordSend 0) parked)).core 0).syn.msgs = [{ chan := 15, words := [1, 2, 3, 4], tag := 0 }] := by decide +kernel
theorem witness_thread_control :
    let s := arrived (control 1 0x1FFFC) (owned (running {}))
    let r := arrived (control 2 0xFFFFFFFF) parked
    (s.node 0).ctrl = [control 1 0x1FFFC] ∧ msgRefusal s 0 (control 1 0x1FFFC) = none ∧ isThreadCtl (control 1 0x1FFFC) = true
    ∧ msgWords (control 1 0x1FFFC) = [0x11, 0x1FFFC] ∧ (0x11 : Word) < 0x40 ∧ isCore (control 1 0).h.snode.toNat = true
    ∧ (0x11 : Word) &&& 15 = 1 ∧ (s.thread 0 ((0x11 : Word).extractLsb' 4 2).toFin.val).st = .idle
    ∧ msgRefusal r 0 (control 2 0xFFFFFFFF) = none ∧ msgWords (control 2 0xFFFFFFFF) = [0x12, 0xFFFFFFFF] ∧ (r.thread 0 1).st = .parkedFault
    ∧ (parked.thread 0 1).records = [⟨0, 1, 2, 3, 4⟩] ∧ (∀ j : ThreadNo, j < 1 → (parked.thread 0 j.val).records = [])
    ∧ (parked.core 0).ctl.supv ≠ 1 ∧ (parked.core 0).supvThread.st = .running ∧ (parked.core 0).ctl.halted = false
    ∧ ((parked.core 0).syn.msgs.filter fun m => decide (m.chan = 15)).length < 8 := by decide +kernel

/-- T0 and T1 run an add of g1 to g2 in g3 at 0x400, ended by a stop bit; T1 has waited a number of issues. -/
def twoThreads (esc : Bool) (waited : Nat) : State :=
  let t : Thread := { regs 1 2 0 with pc := 0x400, st := .running }
  ((State.reset.setThread 0 0 t).setThread 0 1 { t with esc := esc }).modCore 0 fun c =>
    { c.modMem (·.writeImem 0x400 (leBytes 4 0x8000C210)) with waits := mapSet 0 [] 1 waited }
/-- T1 in escalation issues before T0; else the one that waited longer, else T0. -/
theorem test_bundle_issue :
    (nextOf (exec (.bundleIssue 0) (twoThreads true 0))).thread 0 1 |>.getG 3 |> (· = 3) := by decide +kernel
theorem test_bundle_order :
    ((nextOf (exec (.bundleIssue 0) (twoThreads false 0))).thread 0 0).getG 3 = 3 ∧ ((nextOf (exec (.bundleIssue 0) (twoThreads false 1))).thread 0 0).getG 3 = 0
    := by decide +kernel
theorem test_core_halt :
    let u := nextOf (exec (.coreHalt (.pb 1) 0 1) (running {}))
    (u.thread 0 0).st = .idle ∧ (u.core 0).ctl.halted = true ∧ (t0 (exec (.coreHalt .bmc 0 1) (running {}))).st = .running := by decide +kernel
theorem witness_bundle_issue :
    (∀ k : ThreadNo, threadReady (fetchAhead 0 8 State.reset) 0 k = false) ∧ threadReady (fetchAhead 0 8 (twoThreads true 0)) 0 0 = true
    ∧ threadReady (fetchAhead 0 8 (twoThreads true 0)) 0 1 = true ∧ ((twoThreads true 0).thread 0 1).esc = true
    ∧ (∀ i : ThreadNo, threadReady (fetchAhead 0 8 (twoThreads false 1)) 0 i = true → ((twoThreads false 1).thread 0 i.val).esc = false)
    ∧ (1 : Word).getLsbD 0 = true ∧ isPb (.security) = false := by decide +kernel

/-! ## Events of the matrix unit and Plectrum -/

def job (seq : Nat) (work : MatWork) : MatJob :=
  { seq := seq, thread := 0, epoch := 0, pc := 0x40, seed := 0, rmode := 0, accr := false, after := 0, work := work, reg := 1, fromSeq := false, step := 0 }
def withMat (f : Matrix → Matrix) (s : State) : State := s.modCore 0 fun c => { c with mat := f c.mat }
def waitingJob (w : MatWork) : State := withMat (fun m => { m with queue := [job 0 w] }) (matState {})
def activeJob (e : Engine) (w : MatWork) : State := withMat (fun m => { m with active := [(e, job 0 w)], inUse := 4 }) (matState {})

theorem witness_matrix_events :
    let ok (e : Engine) (w : MatWork) : Bool := decide (mayStart ((waitingJob w).core 0) 0 [] (job 0 w) = true ∧ engineOf w = some e
      ∧ startFault (waitingJob w) 0 (job 0 w) = none ∧ ((waitingJob w).core 0).mat.waiting = [job 0 w]
      ∧ ((activeJob e w).core 0).mat.active = [(e, job 0 w)])
    let bad := job 0 (.tst 2 (capOn 0x080000000000 0x1FE) 0 64)
    let ended := (waitingJob bad.work).modThread 0 0 fun t => { t with st := .dead }
    let halted := withCore (fun c => { c with ctl := { c.ctl with halted := true } }) (waitingJob bad.work)
    ([(.converter, .trel 2), (.converter, .tcfg 3 0x4F), (.mover, .tld 2 spad 0 64 false), (.mover, .tst 2 spad 0 64),
      (.converter, .accCfg 0 0)] : List (Engine × MatWork)).all (fun x => ok x.1 x.2) = true
    ∧ (startFault (waitingJob bad.work) 0 bad).isSome = true ∧ mayStart ((waitingJob bad.work).core 0) 0 [] bad = true ∧ engineOf bad.work = some .mover
    ∧ ((waitingJob bad.work).core 0).ctl.halted = false ∧ ((waitingJob bad.work).thread 0 0).st = .running ∧ (ended.thread 0 0).st = .dead
    ∧ (ended.core 0).ctl.halted = false ∧ (startFault ended 0 bad).isSome = true ∧ mayStart (ended.core 0) 0 [] bad = true
    ∧ (halted.core 0).ctl.halted = true ∧ (startFault halted 0 bad).isSome = true ∧ mayStart (halted.core 0) 0 [] bad = true
    ∧ (∀ a ∈ (State.reset.core 0).mat.active, a.1 ≠ .mover) := by decide +kernel

/-- A table at 0x100 of two steps: FINC of f5 by 3, and LOOP of two iterations back to step 0. -/
def tableBytes : List Byte :=
  ([0x10, 1, 2, 3, 4, 5, 6, 7, 2, 0, 0, 0, 0, 0, 0, 0, 7, 0x305, 0, 0, 9, 0x200, 1, 2] : List Word).flatMap fun w => leBytes 4 w.toNat
def tableJob : MatJob := job 0 (.mseqRun true spad 0x100)
def tableState : State :=
  withMat (fun m => { m with queue := [tableJob] }) ((matState {}).modCore 0 fun c => c.modMem fun m => m.writeScratch 0x100 tableBytes)
/-- A running table of the given steps, at step 0. -/
def tableRun (steps : List SeqStep) : SeqRun :=
  { job := tableJob, cap := spad, nt := true, steps := steps, a := [(1, 0x200)], step := 0, loops := [], fincs := [], finished := false }
def running7 (r : SeqRun) : State := withMat (fun m => { m with seq := some r }) (matState {})

theorem test_table_runs :
    let u := nextOf (exec (.seqTableStart 0) tableState)
    let v := nextOf (exec (.seqStep 0) (nextOf (exec (.seqStep 0) u)))
    (u.core 0).mat.seq.map (fun r => (r.steps.length, mapGet (0 : Word) r.a 3, r.step)) = some (2, 3, 0)
    ∧ (v.core 0).mat.seq.map (fun r => (r.step, mapGet 0 r.loops 1, r.fincs)) = some (0, 1, [(0, 5, 3)])
    ∧ ((nextOf (exec (.seqFinc 0) v)).core 0).syn.incOwn = [{ f := 5, v := 3 }] := by decide +kernel
theorem witness_tables_run :
    let k := tableState.core 0
    let lo := scratchOff 0 spad 0x100
    let loop1 : SeqStep := ⟨9, 0x100, 1, 2⟩
    let tld : SeqStep := ⟨0x211, 64, 8, 0⟩
    k.mat.queue = [tableJob] ∧ k.holds .mat 0 = false ∧ lo = 0x100 ∧ (wordAt (k.mem.readScratch lo 64) 8).toNat % 128 = 2
    ∧ tableMayStart k 0 tableJob true (segOf tableState spad) lo = true ∧ tableFault tableState 0 tableJob spad 0x100 = none
    ∧ ((running7 (tableRun [loop1])).core 0).mat.seq = some (tableRun [loop1])
    ∧ (loop1.w0 &&& 15).toNat = 9 ∧ loop1.w1 >>> 8 = 1 ∧ ((9 : Word) &&& 15).toNat = 9 ∧ (0x200 : Word) >>> 8 = 2
    ∧ ((7 : Word) &&& 15).toNat = 7 ∧ (0x32F : Word) &&& 63 < 48
    ∧ stepWork (tableRun [tld]) tld (firstIteration (tableRun [tld])) = some (.tld 2 spad 0x200 64 false)
    ∧ genFault (running7 (tableRun [tld])) 0 tableJob (.tld 2 spad 0x200 64 false) = none
    ∧ ((8 : Word) &&& 15).toNat = 8 ∧ 0 ≤ (mapGet (0 : Word) ((running7 (tableRun [tld])).core 0).syn.frets 5 - mapGet 0 (tableRun []).a 0).toInt
    ∧ (∀ x ∈ generated ((running7 { tableRun [] with fincs := [(0, 5, 3)] }).core 0).mat, 0 ≤ x.seq) := by decide +kernel
theorem witness_tables_end :
    generated ((running7 (tableRun [])).core 0).mat = [] ∧ (tableRun []).steps.length ≤ (tableRun []).step ∧ (tableRun []).fincs = []
    ∧ (tableRun [⟨7, 0, 0, 0⟩]).step < (tableRun [⟨7, 0, 0, 0⟩]).steps.length ∧ (tableRun [⟨7, 0, 0, 0⟩]).finished = false
    ∧ ({ tableRun [] with finished := true } : SeqRun).finished = true ∧ (State.reset.core 0).mat.seq = none := by decide +kernel

/-- A descriptor of 16 bytes from offset 0x100 to 0x200 of capability s1. -/
def descWords : List Word := [0x11, 0x100, 0x200, 0, 16, 0, 0, 0, 0, 0, 0, 0, 0, 0, 0, 0]
def startJob : DmaJob := { seq := 0, thread := 0, epoch := 0, pc := 0, after := 0, work := .start true 5 spad 0x40 [spad, spad] none }
def withDma (f : Plectrum → Plectrum) (s : State) : State := s.modCore 0 fun c => { c with dma := f c.dma }
def chain : ChainRun :=
  { thread := 0, pc := 0x20, nt := true, s := spad, caps := [spad, spad, spad], descs := [], fetching := none, prefetched := none, bursts := [], nextBurst := 0
    err := none, aborting := false, msgs := [], finished := false }
def chained (ch : Nat) (f : DmaChan → DmaChan) (r : ChainRun) : State :=
  withDma (fun p => { p with chans := mapSet {} p.chans ch (f { state := 1, run := some r }) }) (owned (running {}))

theorem test_dma_start :
    let u := nextOf (exec (.dmaQueueDepart 0) (withDma (fun p => { p with queue := [startJob] }) (owned (running {}))))
    (u.core 0).dma.queue = [] ∧ ((u.core 0).chan 5).run.map (·.fetching) = some (some 0x40) := by decide +kernel
theorem witness_dma_begins :
    let tracked : DmaJob := { startJob with work := .start false 0 spad 0x40 [spad] none }
    let rd : DmaJob := { startJob with work := .rd 31 10 }
    let s := withDma (fun p => { p with queue := [tracked] }) (running {})
    let r := { chain with fetching := some 0x40, prefetched := some (.data (List.replicate 64 1)) }
    ((withDma (fun p => { p with queue := [startJob] }) (running {})).core 0).dma.queue = [startJob] ∧ ((running {}).core 0 |>.chan 5).state = 0
    ∧ startHeld s 0 tracked = false ∧ (s.core 0).dma.queue = [tracked] ∧ ((withDma (fun p => { p with queue := [rd] }) s).core 0).dma.queue = [rd]
    ∧ (((chained 7 id r).core 0).chan 7).run = some r ∧ (chained 7 id r).normModule spad.module = 0xFFFF
    ∧ (ownScratch 0 (spad.addrAt 0x40) 64).isSome = true
    ∧ checkAccess spad { module := (chained 7 id r).module, region := (chained 7 id r).regionOf 0 } 0 0 [pR] none 0x40 64 64 = none := by decide +kernel

/-- A burst of 16 bytes that has been read. -/
def readBurst0 (red : BitVec 2) : Burst :=
  { id := 0, desc := 0, dcap := 1, at_ := 0, dst := 0x200, len := 16, data := [(0, 7)], got := 16, tail := false, red := red, stage := .read }
def described (ws : List Word) : ChainRun := { chain with descs := [{ off := 0, words := ws, started := 0, completed := false }] }
def burstState (red : BitVec 2) : State :=
  withDma (fun p => { p with ready := [(2, 0)] }) (chained 2 id { described descWords with bursts := [readBurst0 red] })
theorem witness_dma_bursts :
    let s := chained 7 id (described descWords)
    (∀ i < 7, (planBurst s 0 i).isNone = true) ∧ ((s.core 0).chan 7).run = some (described descWords)
    ∧ (match planBurst s 0 7 with | some (.start 0 _ 0 16) => true | _ => false) = true
    ∧ (match planBurst (chained 7 id (described (List.replicate 16 0xFFFFFFFF))) 0 7 with | some (.fail ..) => true | _ => false) = true
    ∧ ([0, 1, 2] : List (BitVec 2)).all (fun red => let c := (burstState red).core 0
      decide (c.dma.ready.find? (mayWrite c) = some (2, 0) ∧ (c.chan 2).run.map (·.bursts) = some [readBurst0 red] ∧ c.freeTag = some 0)) = true
    ∧ (∀ i < 8, (planBurst State.reset 0 i).isNone = true) ∧ ((State.reset.core 0).dma.ready.find? (mayWrite (State.reset.core 0))).isNone = true
    ∧ piecesOf spad.base ((List.range 16).map ((0x200 : Nat) + ·)) = [(0, 0x200, 16)] ∧ ((burstState 0).core 0).reqs.length < 1024
    ∧ (match (burstState 0).destOf 0 ((burstState 0).normModule spad.module) spad.region (spad.addrAt 0x200) with
      | .ok d => decide (d.1 = 0) | .error _ => false) = true := by decide +kernel

/-- The bursts that start, fail their capability check or wait for room (R235, R236, R248). -/
theorem witness_burst_reads :
    let r := described descWords
    let s := chained 7 id r
    let d : Desc := ⟨descWords⟩
    let past := { r with caps := [spad, capOn 0x080000000000 0x10F, spad] }
    let held (red : BitVec 2) : ChainRun := { r with bursts := List.replicate 4 { readBurst0 red with len := 0x10000 } }
    let full := chained 7 id (held 0)
    let started := { r with descs := [{ off := 0, words := descWords, started := 0, completed := false }, { off := 64, words := descWords, started := 0, completed := false }] }
    r.err = none ∧ r.aborting = false ∧ r.finished = false ∧ r.msgs = [] ∧ (descBad s r d d).isNone = true ∧ d.total = 16 ∧ d.burstLen 0 = 16
    ∧ (descBad s r d ⟨List.replicate 16 0xFFFFFFFF⟩).isSome = true ∧ (burstCheck s 0 r d 0 16).isNone = true
    ∧ (burstCheck (chained 7 id past) 0 past d 0 16).isSome = true ∧ burstRoom (s.core 0) ((s.core 0).chan 7) d 16 = true
    ∧ burstRoom (full.core 0) ((full.core 0).chan 7) d 16 = false ∧ (burstCheck full 0 (held 0) d 0 16).isNone = true
    ∧ (d.readReqs (r.caps.getD d.scap {}).base 0 16).map (·.off) = [0x100]
    ∧ (match s.destOf 0 0xFFFF spad.region (spad.addrAt 0x100) with | .ok x => decide (x.1 = 0) | .error _ => false) = true
    ∧ (s.core 0).freeTag = some 0 ∧ started.descs.length = 2 := by decide +kernel
theorem test_dma_credit :
    let s := chained 3 (fun c => { c with level := 4 }) chain
    let via : DmaVia := .page
    let t := withDma (fun p => { p with pageCh := 3 }) s
    (((nextOf (exec (.dmaCredit 0 via 4) t)).core 0).chan 3).level = 0 ∧ (((nextOf (exec (.dmaCredit 0 via 4) t)).core 0).chan 3).creditErr = false
    ∧ (((nextOf (exec (.dmaCredit 0 via 5) t)).core 0).chan 3).creditErr = true := by decide +kernel
theorem witness_dma_ends :
    let m : DmaMsg := { chan := 15, tag := 1, w0 := 2, w1 := 3 }
    let e := { chain with err := some { code := 4, detail := 1, desc := 0, at_ := 0, mc := 7 } }
    let a := { chain with aborting := true }
    let g := { chain with msgs := [m], finished := true }
    let h := withCore (fun c => { c with ctl := { c.ctl with halted := true } }) (chained 0 (fun c => { c with wmsg := some m }) chain)
    (((chained 7 id e).core 0).chan 7).run = some e ∧ chanReqs ((chained 7 id e).core 0) 7 = false ∧ (((chained 0 id a).core 0).chan 0).run = some a
    ∧ ((h.core 0).chan 0).wmsg = some m ∧ (h.core 0).ctl.halted = true ∧ ((chained 0 (fun c => { c with wmsg := some m }) chain).core 0).msgRoom 15 = true
    ∧ (((chained 0 id g).core 0).chan 0).run = some g ∧ (((chained 0 id g).core 0).chan 0).wmsg = none ∧ ((chained 0 id g).core 0).msgRoom 15 = true
    ∧ viaSel ((chained 0 id chain).core 0) (.thread 0) = (0, false) ∧ dmaBarred ((chained 0 id chain).core 0) (.thread 0) 0 = false
    ∧ (described descWords).more 5 = true := by decide +kernel

/-! ## Node ports, the mesh and the memory controllers -/

/-- Node 0 of region 0 with window 0 over its first 64 bytes for reads and writes of region 0 from the mesh. -/
def windowed : State :=
  (owned State.reset).modCore 0 fun c => { c with ctl := { c.ctl with windows := [(0, { off := 0, len := 64, src := 0x86800000 })] } }

/-- The payload of a gathering read of `count` bytes in elements of `esize`, `stride` apart, without a wrap (R202, log 8). -/
def gather (esize stride count : Nat) : List Byte :=
  leBytes 1 esize ++ leBytes 1 0 ++ leBytes 2 0 ++ leBytes 4 stride ++ leBytes 2 count ++ leBytes 2 0 ++ leBytes 4 0
/-- Elements of 2 bytes 4 apart, and the first column of 8 rows 16 apart, then the first two of the second (R202, R234). -/
theorem test_gathering_reads :
    let s := windowed.modCore 0 fun c => c.modMem (·.writeScratch 0 ((List.range 128).map (BitVec.ofNat 8)))
    let reads (k : BitVec 5) (d : List Byte) : List (List Byte) :=
      ((nextOf (exec (.networkPortAccess 0) (arrived (packet k clsReq 0x080000000000 (BitVec.ofNat 10 pegboxNode) 3 d) s))).node 0).out.map fun p => p.data.take 10
    reads kReadStrided (gather 2 4 10) = [[0, 1, 4, 5, 8, 9, 12, 13, 16, 17]]
    ∧ reads kReadTransposed (gather 1 16 10) = [[0, 16, 32, 48, 64, 80, 96, 112, 1, 17]] := by decide +kernel
/-- The last byte of the window is reached, one past it is refused (R203). -/
theorem test_window_edges :
    let w (a : Addr) := nextOf (exec (.networkPortAccess 0) (arrived (packet kWrite clsReq a 1 3 [9]) windowed))
    ((w 0x08000000003F).core 0).mem.readScratch 63 1 = [9] ∧ ((w 0x08000000003F).node 0).out.map (·.h.kind) = [kAck]
    ∧ ((w 0x080000000040).core 0).ctl.winRefused = 1 ∧ ((w 0x080000000040).node 0).out.map (·.h.kind) = [kNack] := by decide +kernel
theorem witness_scratchpad_ports :
    let at_ (p : Packet) (off : Nat) : Bool := decide (((arrived p windowed).node 0).rx = [p] ∧ isAnswer p = false ∧ p.h.kind ≠ kRdb
      ∧ placeOfAddr p.h.addr = .scratch 0 off ∧ (spanOf p off).1 + (spanOf p off).2 ≤ 0x200000)
    let byWindow (p : Packet) (off : Nat) : Bool := winAdmits (winOf (windowed.core 0) 0) (fromLink p) p.h.region
      && winGrants (winOf (windowed.core 0) 0) p && winCovers (winOf (windowed.core 0) 0) (spanOf p off).1 (spanOf p off).2
    let wr := packet kWrite clsReq 0x08000000003F 1 3 [9]
    let rd := packet kRead clsReq 0x080000000000 1 3 (readPayload 64)
    let amo := packet kAtomic clsReq 0x080000000000 1 3 [0, 1, 0, 0, 0]
    let top := packet kWrite clsReq 0x0800001FFFFF (BitVec.ofNat 10 pegboxNode) 3 [9]
    let own := packet kWrite clsReq 0x0800001FDFFF 0 3 [9]
    let no := packet kWrite clsReq 0x0800001FE000 0 3 [9]
    let strided := packet kReadStrided clsReq 0x080000000000 1 3 (gather 2 4 8)
    let turned := packet kReadTransposed clsReq 0x080000000000 1 3 (gather 1 8 16)
    let freed := windowed.modCourse (courseOf 0) fun c => { c with valid := false }
    (windowed.core 0).lost = none ∧ windowed.exposed 0 = true ∧ (windowed.core 0).portOwn = false ∧ (wr.h.region ≠ 0x3F)
    ∧ (freed.course (courseOf 0)).valid = false ∧ freed.exposed 0 = true ∧ (at_ strided 0 && byWindow strided 0 && at_ turned 0 && byWindow turned 0) = true
    ∧ (∀ o ∈ readOffsets strided 0 ++ readOffsets turned 0, poisonedAt 8 (windowed.core 0).mem.poison o 1 = false)
    ∧ (at_ wr 63 && byWindow wr 63 && at_ rd 0 && byWindow rd 0 && at_ amo 0 && byWindow amo 0 && at_ top 0x1FFFFF && at_ own 0x1FDFFF
      && at_ no 0x1FE000) = true
    ∧ top.h.snode.toNat = pegboxNode ∧ (amoOf amo).isSome = true ∧ poisonedAt 8 (windowed.core 0).mem.poison 0 64 = false
    ∧ byWindow (packet kWrite clsReq 0x080000000040 1 3 [9]) 64 = false ∧ no.h.snode.toNat ≠ pegboxNode := by decide +kernel

def arrivedAt (n : Nat) (p : Packet) (s : State) : State := s.modNode n fun x => x.deliver { p with h := { p.h with dnode := BitVec.ofNat 10 n } }
def toNode (n : Nat) (p : Packet) : Packet := { p with h := { p.h with dnode := BitVec.ofNat 10 n } }
/-- An address in the block of the L node of course 0. -/
def linkBlock (off : Nat) : Addr := BitVec.ofNat 48 (0x0F0000000000 + 162 * 0x100000 + off)

theorem test_rdb_of_link_events :
    let p := packet kRdb clsReq (linkBlock 0x24) (BitVec.ofNat 10 pegboxNode) 3 []
    let s := nextOf (exec (.networkPortAccess nodeL) (arrivedAt 162 p State.reset))
    (s.node 162).rdbs.length = 1 ∧ (s.node 162).out = []
    ∧ ((nextOf (exec (.rdbConditionMet nodeL) (modLnode 162 (fun x => { x with evt := 2 }) s))).node 162).out.map (fun q => (q.h.kind, q.data.take 4))
      = [(kData, [2, 0, 0, 0])] := by decide +kernel
/-- A lookup of an older generation is under way at the L node of course 0. -/
def linkedDrain : State :=
  { (modLnode 162 (fun x => { x with handoffs := [(5, 1, (packet kMsg clsCtrl 0 1 5 []).h)] }) State.reset) with rail := { State.reset.rail with gen := 2 } }
theorem witness_register_ports :
    let peg : BitVec 10 := BitVec.ofNat 10 pegboxNode
    let page (k : BitVec 5) (src : BitVec 10) (d : List Byte) : Packet := packet k clsReq 0x0F0000020000 src 3 d
    let link (k : BitVec 5) (src : BitVec 10) (off : Nat) (d : List Byte) : Packet := toNode 162 (packet k clsReq (linkBlock off) src 3 d)
    let evt := link kRdb peg 0x24 []
    let met := modLnode 162 (fun x => { x with evt := 1 }) (State.reset.modNode 162 fun x => { x with rdbs := [evt] })
    let cancel := toNode 162 { (packet kCancel clsCtrl 0 peg 3 []) with data := [] }
    placeOfAddr 0x0F0000020000 = .block 0 0x20000 ∧ placeOfAddr 0x0F0000021FFC = .block 0 0x21FFC ∧ placeOfAddr (linkBlock 0x50) = .block 162 0x50
    ∧ ((arrived (page kWrite peg (leBytes 4 1)) State.reset).node 0).rx = [page kWrite peg (leBytes 4 1)]
    ∧ readCount (page kRead peg (readPayload 4)) = 4 ∧ isAnswer (page kRead peg (readPayload 4)) = false
    ∧ (State.reset.core 0).lost = none ∧ State.reset.exposed 0 = true ∧ ((owned State.reset).course (courseOf 0)).valid = true
    ∧ (page kRead 1 []).h.region = ((owned State.reset).regionOf 0).zeroExtend 6 ∧ (State.reset.course (courseOf 0)).valid = false
    ∧ nodeKind 162 = .link ∧ ((arrivedAt 162 evt State.reset).node 162).rx = [evt] ∧ ((arrivedAt 162 evt State.reset).node 162).ctrl = []
    ∧ evt.h.module = 0xFFFF ∧ (link kRdb peg 0x50 []).h.kind = kRdb ∧ (link kWrite 1 0 []).h.snode.toNat ≠ pegboxNode
    ∧ (met.node 162).rdbs = [evt] ∧ rdbOff evt = 0x24 ∧ (met.lnode 162).evt ≠ 0 ∧ (State.reset.lnode 162).evt = 0
    ∧ ((met.modNode 162 fun x => { x with ctrl := [cancel] }).node 162).ctrl = [cancel] ∧ cancel.h.snode = evt.h.snode ∧ cancel.h.tag = evt.h.tag
    ∧ (State.reset.node 162).rdbs ++ (State.reset.node 162).rx = [] ∧ placesReg 162 0x50 = true ∧ placesReg 162 0x54 = false
    ∧ asksOnce evt = false ∧ asksOnce (link kRdb peg 0x24 onceMark) = true ∧ State.reset.allDrained = true
    ∧ (linkedDrain.allDrained = false) ∧ cancelEarly (State.reset.modNode 162 fun x => { x with ctrl := [cancel] }) cancel = false
    ∧ cancelEarly ((State.reset.modNode pegboxNode fun x => { x with out := [evt] }).modNode 162 fun x => { x with ctrl := [cancel] }) cancel = true := by
  decide +kernel

/-- A flit of a one-flit packet from node 0 to a node. -/
def flitTo (d : Nat) (kind : BitVec 5) (cls : BitVec 2) : Flit :=
  { head := some { addr := 0, dnode := BitVec.ofNat 10 d, snode := 0, cls := cls, kind := kind }, data := [], last := true }
/-- Node 0 with a flit at its local input on the virtual channel that its class enters. -/
def waitingFlit (f : Flit) (vc : Nat) : State := modRouter 0 (fun r => { r with inq := [(32 + vc, [f])] }) State.reset

/-- A REQ packet to the east neighbour leaves through the east port with sequence number 0 (R280, R289). -/
theorem test_flit_east :
    let u := nextOf (exec (.flitForward 0 .east) (waitingFlit (flitTo 1 kRead clsReq) 2))
    (mapGet ({} : LinkTx) (u.node 0).router.tx 1).wire.map (fun t => (t.seq, t.vc)) = [(0, 2)] ∧ (u.node 0).router.queue 34 = [] := by decide +kernel
theorem test_ctrl_held :
    let s := { waitingFlit (flitTo 0 kAck clsCtrl) 1 with mc := 5 }
    let u := nextOf (exec (.flitForward 0 .localPort) s)
    (u.node 0).held.map (fun h => (h.due, h.arrived)) = [(12, 5)] ∧ ((nextOf (exec (.ctrlRelease 0) u)).node 0).ctrl = []
    ∧ ((nextOf (exec (.ctrlRelease 0) { u with mc := 12 })).node 0).ctrl.length = 1 := by decide +kernel
theorem witness_flits :
    let s := waitingFlit (flitTo 1 kRead clsReq) 2
    let dark := modDom 32 (fun _ => { target := 4, state := 4 }) s
    let c := waitingFlit (flitTo 41 kAck clsCtrl) 1
    let l := waitingFlit (flitTo 0 kAck clsCtrl) 1
    let o (s : State) : OutPort := (mapGet ({} : OutPort) (s.node 0).router.outs 1).refill s.mc
    s.meshUp 0 = true ∧ dark.meshUp 0 = false ∧ (s.node 0).out = [] ∧ (s.node 0).inj = [] ∧ (choices s 0 1).map (fun d => (d.key, d.vc, d.esc)) = [(34, 2, false)]
    ∧ (choices s 0 0).map (·.key) = [] ∧ (choices c 0 1).map (fun d => (d.key, d.vc)) = [(33, 1)] ∧ 0 < (o c).tok
    ∧ (chooseFlit (o s) (choices s 0 1)).map (fun x => (x.1.key, x.1.esc)) = some (34, false) ∧ (s.node 0).router.queue 34 = [flitTo 1 kRead clsReq]
    ∧ (choices l 0 4).map (fun d => (d.key, d.vc)) = [(33, 1)] ∧ (flitTo 0 kAck clsCtrl).last = true ∧ mapGet [] (l.node 0).asm 1 = []
    ∧ mapGet 0 (c.node 0).router.route 33 = 0 ∧ (State.reset.node 0).held = [] := by decide +kernel

/-- A flit under way from node 0 to node 1; `retries` of it have failed. -/
def onWire (f : Flit) (retries : Nat) : State :=
  let t : TxFlit := { seq := 0, vc := 2, flit := f }
  modRouter 1 (fun r => { r with rx := mapSet {} r.rx 3 { retries := retries } })
    (modRouter 0 (fun r => { r with tx := [(1, { buf := [t], seq := 1, wire := [t] })] }) State.reset)
theorem test_mesh_link_fails :
    let u := nextOf (exec (.meshLinkResync 1 .west false) (onWire (flitTo 1 kRead clsReq) 8))
    (mapGet {} u.pb.repair 0).withheld = true ∧ (u.course 0).failSeen = true ∧ (u.core 1).lost = some 3 ∧ (u.core 0).lost = some 3 := by decide +kernel
/-- The CRC-8 of zero bits is zero, so no error is undetected and an error in the CRC alone is detected. -/
theorem crc8_zero (n : Nat) : crc8 n 0 = 0 := by
  simp only [crc8, Nat.zero_testBit]
  generalize List.range n = l
  induction l with
  | nil => rfl
  | cons _ _ h => exact h
theorem witness_flit_errors : undetected 0 = true ∧ undetected (1 <<< 1029) = false := by
  constructor
  · have h : (0 : BitVec 1037).toNat % 2 ^ 1029 = 0 := by decide +kernel
    rw [undetected, h, crc8_zero]
    decide +kernel
  · have h : (1 <<< 1029 : BitVec 1037).toNat % 2 ^ 1029 = 0 := by decide +kernel
    rw [undetected, h, crc8_zero]
    decide +kernel
theorem witness_mesh_links :
    let s := onWire (flitTo 1 kRead clsReq) 0
    let bad := { (flitTo 1 kRead clsReq) with head := some { dnode := 960, kind := kRead, cls := clsReq } }
    s.meshUp 1 = true ∧ (modDom 32 (fun _ => { target := 4, state := 4 }) s).meshUp 1 = false ∧ neighbour 1 3 = some 0 ∧ (mapGet ({} : LinkTx) (s.node 0).router.tx 1).wire.map (·.seq) = [(mapGet ({} : LinkRx) (s.node 1).router.rx 3).expected]
    ∧ (mapGet ({} : LinkRx) (s.node 1).router.rx 3).failed = false
    ∧ (mapGet ({} : LinkRx) ((onWire bad 7).node 1).router.rx 3).retries = 7 ∧ (bad.head.map malformed) = some true
    ∧ ((flitTo 1 kRead clsReq).head.map malformed) = some false
    ∧ 8 ≤ (mapGet ({} : LinkRx) ((onWire bad 8).node 1).router.rx 3).retries := by decide +kernel

/-- A request to tier-1 offset 0x40 of region 0, whose only course is 0. -/
def tierPacket (kind : BitVec 5) (data : List Byte) : Packet := toNode 42 (packet kind clsReq 0x40 0 3 data)
def queuedReqs (rs : List MemReq) : State := (owned State.reset).modCtl 0 fun c => { c with queue := rs }
def req (kind : BitVec 5) (data : List Byte) : MemReq := { pkt := tierPacket kind data, off := 0x40, arrived := 0 }

/-- A younger read of the same byte waits for the write (R449). -/
theorem test_memory_order :
    let s := queuedReqs [req kWrite [7, 8], req kRead (readPayload 2)]
    let u := nextOf (exec (.memRequestServe 42 0 .clean) s)
    ((nextOf (exec (.memRequestServe 42 1 .clean) s)).ctl 0).queue.length = 2 ∧ readBytes (u.ctl 0).mem 0x40 2 = [7, 8]
    ∧ ((nextOf (exec (.memRequestServe 42 0 .clean) u)).node 42).out.map (fun p => (p.h.kind, p.data.take 2)) = [(kData, [7, 8])] := by decide +kernel
theorem witness_controllers :
    let w := req kWrite [7, 8]
    let r := req kRead (readPayload 2)
    let s := queuedReqs [w, r]
    let a := arrivedAt 42 (packet kWrite clsReq 0x40 0 3 [7]) (owned State.reset)
    nodeKind 42 = .hbm ∧ nodeKind 162 ≠ .far ∧ (s.node 42).rx = [] ∧ pickReq s (ctlsOf 42) 1 = some (0, 1) ∧ (s.ctl 0).queue[1]? = some r
    ∧ rangesMeet w.span.1 w.span.2 r.span.1 r.span.2 = true ∧ pickReq s (ctlsOf 42) 0 = some (0, 0) ∧ r.pkt.h.kind = kRead
    ∧ readCount r.pkt ≠ 128 ∧ r.pkt.h.snode.toNat ≠ 42 ∧ pickReq s (ctlsOf 42) 2 = none
    ∧ (wordsOf 32 0x40 2).all (fun x => !mapGet false (s.ctl 0).poison x) = true ∧ s.mc < w.arrived + 1600
    ∧ (a.node 42).rx = [tierPacket kWrite [7]] ∧ ctlPlace a 42 (tierPacket kWrite [7]) = some (0, 0x40) ∧ isAnswer (tierPacket kWrite [7]) = false
    ∧ (a.ctl 0).failed = false := by decide +kernel

theorem test_scrub :
    let u := nextOf (exec (.patrolScrub (.scratchpad 0 0x1FFFFF) .uncorrectable) State.reset)
    let l := nextOf (exec (.patrolScrub (.linkBuffer 0) .uncorrectable)
      (State.reset.modLink 0 fun k => { k with state := .up, egress := [{ dmodule := 7, dnode := 0, snode := 0, tag := 0, kind := kWrite, cls := 1, addr := 0
                                                                          region := 0, sregion := 0, tail := false, rflex := false, gen := none, data := [] }] }))
    mapGet false (u.core 0).mem.poison 0x3FFFF = true ∧ (u.core 0).ctl.eccUncorr = 1 ∧ u.emu.healthCnt = 1
    ∧ (l.link 0).state = .train ∧ (l.link 0).cause = 2 ∧ (l.link 0).egress = [] ∧ (l.link 0).ownEpoch = 1 := by decide +kernel
theorem witness_errors :
    let b := withCore (fun c => { c with syn := { c.syn with queue := [backedOff] } }) (running {})
    mapGet false (State.reset.core 0).mem.poison (0x1FFFFF / 8) = false ∧ mapGet false (State.reset.ctl 31).poison (0x2FFFFFFFF / 32) = false
    ∧ (State.reset.core 0).lost = none ∧ State.reset.exposed 0 = true ∧ coprocBusy (b.core 0) = true ∧ coprocBusy (State.reset.core 0) = false
    ∧ (∃ n : NodeNo, isCore n.val = true ∧ State.reset.exposed n.val = false)
    ∧ (withMessage.core 0).syn.msgs.length = 1 ∧ (modPb (fun b => { b with run := 4 }) State.reset).pbRuns 2 = true
    ∧ entryAt ((withCore (fun c => c.modMem (·.install 0x80 [1])) State.reset).core 0).mem.cache 4 = some { addr := 0x80, data := [1] } := by decide +kernel

/-! ## Links -/

def withLink (f : Link → Link) (s : State) : State := s.modLink 0 f
/-- Link 0, at the L node of course 0, serves region 0 and is in a state; rails to module 7 are this link alone. -/
def linked (st : LinkState) : State :=
  let s := withLink (fun k => { k with en := true, admits := true, state := st, lanes := 0xF }) (owned State.reset)
  { s with rail := { s.rail with table := [(7, { valid := true, rails := 1, gen := 2 })] } }
/-- A read of module 7 from node 1 of region 0. -/
def outward (cls : BitVec 2) : Packet :=
  { h := { module := 7, addr := 0x1000, dnode := 162, snode := 1, cls := cls, kind := kRead, tag := 5, len := 1 }, data := readPayload 4 }
def handedOut (p : Packet) (s : State) : State := s.modNode 162 fun x => x.deliver p
def linkPkt (dmodule : BitVec 16) (region : BitVec 5) : LinkPkt :=
  { dmodule := dmodule, dnode := 1, snode := 9, tag := 4, kind := kWrite, cls := clsReq, addr := 0x080000100040, region := region, sregion := 3
    tail := false, rflex := false, gen := none, data := List.replicate 16 7 }

theorem test_lookup :
    let u (st : LinkState) : State := nextOf (exec (.linkLookup nodeL) (handedOut (outward clsReq) (linked st)))
    ((u .up).link 0).egress.map (fun q => (q.dmodule, q.tag, q.gen)) = [(7, 0, some 2)] ∧ ((u .hold).link 0).egress.length = 1
    ∧ ((u .train).node 162).out.map (fun p => (p.h.kind, p.data.take 1)) = [(kRspErr, [4])] := by decide +kernel
theorem witness_lookups :
    let p := outward clsReq
    let c := outward clsCtrl
    let s := handedOut p (linked .up)
    let h := handedOut { c with h := { c.h with kind := kMsg } } (linked .up)
    let held := { h with rail := { h.rail with hold := true } }
    let t : Txn := { kind := kRead, addr := 0x080000100040, module := 7, snode := 9, tag := 4, region := 3, link := 0, node := 1, dead := false }
    let a : Packet := { h := { addr := 0x080000100040, dnode := 162, snode := 1, cls := clsRsp, kind := kData, tag := 6, len := 1 }, data := List.replicate 16 1 }
    let back := modLnode 162 (fun x => { x with itxn := [(6, t)] }) (handedOut a (linked .up))
    let bulk := { s with rail := { s.rail with table := [(7, { valid := true, rails := 1, flex := true })] } }
    linkNode 0 = 162 ∧ nodeKind 162 = .link ∧ (s.node 162).ctrl = [] ∧ (s.node 162).rx = [p] ∧ p.h.snode.toNat < 960
    ∧ (s.course (courseOf 162)).valid = true ∧ (s.course (courseOf 1)).valid = true ∧ s.regionOf 1 = s.regionOf 162 ∧ nodeKind 1 ≠ .link
    ∧ (mapGet ({} : RailEntry) State.reset.rail.table 7).valid = false
    ∧ (List.range 40).filter (fun l => (mapGet ({} : RailEntry) s.rail.table 7).rails.getLsbD l && decide (s.linkRegion l = some (s.regionOf 162))
      && (s.link l).admits) = [0]
    ∧ (s.link 0).state = .up ∧ ((linked .train).link 0).state = .train ∧ freeEntry (fun t => (entryAt (s.link 0).etxn t).isSome) = some 0
    ∧ (mapGet ({} : RailEntry) bulk.rail.table 7).flex = true ∧ (s.link 0).egressRoom (linkPkt 7 0) = true
    ∧ linkNode 2 ≠ 162 ∧ (s.lnode 162).handoffs = []
    ∧ isAnswerKind a.h.kind = true ∧ (answeredEntry back 162 a).map (·.1) = some 6 ∧ (back.link 0).ingress = []
    ∧ (held.node 162).ctrl = [{ c with h := { c.h with kind := kMsg } }] ∧ held.rail.hold = true
    ∧ assocGet (.pb 2, WideReg.rail.key) [((Accessor.pb 2, WideReg.rail.key), (9 : Word))] = some 9
    ∧ (modPb (fun b => { b with run := 8 }) s).pbRuns 3 = true ∧ s.pbRuns 3 = false := by decide +kernel
/-- A link of another L node of the region: the packet is handed off to it. -/
theorem test_handoff :
    let s := (handedOut (outward clsReq) (linked .up)).modCourse (courseOf (linkNode 2)) fun c => { c with valid := true }
    let t := s.modLink 2 fun k => { k with admits := true, state := .up }
    let u := nextOf (exec (.linkLookup nodeL) { t with rail := { t.rail with table := [(7, { valid := true, rails := 4 })] } })
    (u.node 162).out.map (fun p => p.h.dnode.toNat) = [linkNode 2] ∧ (u.lnode 162).handoffs.length = 1 := by decide +kernel

theorem test_rail_gen :
    let r := (nextOf (exec (.railGenWrite 0x80000105) (modPb (fun b => { b with run := 8 }) State.reset))).rail
    r.hold = true ∧ r.gen = 5 ∧ (nextOf (exec (.railGenWrite 0x80000105) State.reset)).rail = State.reset.rail := by decide +kernel
theorem test_frame_sent :
    let u := nextOf (exec (.frameSend 0) (withLink (fun k => { k with egress := [linkPkt 7 0] }) (linked .up)))
    (u.link 0).txNext = 1 ∧ (u.link 0).replay.map (·.1) = [0] ∧ mapGet 0 (u.link 0).charged 1 = 1 ∧ u.outbox.length = 1 := by decide +kernel
theorem witness_frames_sent :
    let q := linkPkt 7 0
    let e := withLink (fun k => { k with egress := [q] }) (linked .up)
    let c := { q with cls := clsCtrl, kind := kAck }
    ((linked .up).link 0).resend = [] ∧ ((linked .up).link 0).egress = [] ∧ (e.link 0).state = .up ∧ (e.link 0).nakDue = false
    ∧ (e.link 0).sendRoom q = true ∧ (e.link 0).sendRoom c = true ∧ (e.link 0).ctrlRoom e.mc c = true ∧ q.cls ≠ clsCtrl
    ∧ ((withLink (fun k => { k with resend := [(0, q)] }) e).link 0).resend = [(0, q)]
    ∧ ((withLink (fun k => { k with ackDue := true, nakSent := true, replay := [(0, q)], stale := 8 }) e).link 0).replay ≠ []
    ∧ ((linked .train).link 0).lanes = 0xF ∧ (State.reset.link 0).state = .off ∧ (e.link 0).stale < 8 ∧ 8 ≤ (withLink (fun k => { k with stale := 8 }) e |>.link 0).stale ∧ (e.link 0).credDue = [] := by decide +kernel

/-- A frame as received: DATA with a sequence number of a packet from module 7. -/
def dataBytes (seq : BitVec 12) (q : LinkPkt) : List Byte := ({ dataFrame seq false q with smodule := 7, ack := 0xFFF } : Frame).bytes
def trainBytes (epoch last : Byte) : List Byte :=
  ({ emptyFrame 2 false ([7, 0, 3, 0, epoch, 0, 0, 0, last, 0, 0, 0, 0, 0, 0, 0]) with ack := 0xFFF } : Frame).bytes
/-- Module 0xFFFF is this module's number at reset. -/
theorem test_frame_received :
    let u := nextOf (exec (.frameReceive 0 (dataBytes 0 (linkPkt 0xFFFF 0))) (linked .up))
    (u.node 162).out.map (fun p => (p.h.kind, p.h.dnode, p.h.tag)) = [(kWrite, 1, 0)] ∧ (u.link 0).rxLast = 0 ∧ (u.link 0).ackDue = true := by
  decide +kernel
theorem test_frame_gap :
    let u := nextOf (exec (.frameReceive 0 (dataBytes 1 (linkPkt 0xFFFF 0))) (linked .up))
    (u.link 0).nakDue = true ∧ (u.link 0).rxLast = 0xFFF ∧ (u.node 162).out = [] := by decide +kernel
theorem witness_frames_received :
    let ok (bs : List Byte) (p : Frame → Bool) : Bool := match checkFrame true bs with
      | .good f => p f
      | _ => false
    checkFrame true [] = .badLength ∧ checkFrame true (List.replicate 24 0) = .badCrc
    ∧ ok (dataBytes 0 (linkPkt 0xFFFF 0)) (fun f => decide (f.ftype = 0 ∧ f.seq = ((linked .up).link 0).rxLast + 1 ∧ f.dmodule = (linked .up).module
      ∧ (linked .up).linkRegion 0 = some f.region ∧ isAnswerKind f.packet.kind = false ∧ f.packet.dnode.toNat ≠ 162)) = true
    ∧ ok (dataBytes 0xFFF (linkPkt 0xFFFF 0)) (fun f => decide ((((linked .up).link 0).rxLast - f.seq).toNat < 1024)) = true
    ∧ ok (dataBytes 1 (linkPkt 0xFFFF 0)) (fun f => decide (1024 ≤ (((linked .up).link 0).rxLast - f.seq).toNat)) = true
    ∧ ok (dataBytes 0 (linkPkt 0xFFFF 1)) (fun f => decide ((linked .up).linkRegion 0 ≠ some f.region)) = true
    ∧ ok (dataBytes 0 (linkPkt 8 0)) (fun f => decide (f.dmodule ≠ (linked .up).module)) = true
    ∧ ok (emptyFrame 1 true []).bytes (fun f => decide (f.ftype = 1 ∧ f.nak = true)) = true
    ∧ ingressTag ((linked .up).lnode 162) 0 1 = some 0 ∧ ((linked .up).link 0).lanes = 0xF ∧ (State.reset.link 0).state = .off := by decide +kernel
theorem test_link_trains :
    let u := nextOf (exec (.frameReceive 0 (trainBytes 5 0xFF)) (linked .train))
    (u.link 0).state = .up ∧ (u.link 0).peerModule = 7 ∧ (u.link 0).peerLink = 3 ∧ (u.link 0).peerEpoch = 5 ∧ u.host.readyLink = 1 := by decide +kernel
theorem witness_links_train :
    let up := modDom 46 (fun _ => { target := 0, state := 0 }) (modEmu (fun e => { e with moduleIdWritten := true }) State.reset)
    let f := match checkFrame false (trainBytes 5 0xFF) with
      | .good f => f
      | _ => emptyFrame 0 false []
    let held := withLink (fun k => { k with peerModule := 7, peerLink := 3, peerEpoch := 5, holdAt := 0, holdIn := 500 }) (linked .hold)
    checkFrame false (trainBytes 5 0xFF) = .good f ∧ f.ftype = 2 ∧ f.nak = false ∧ (wordAt f.payload 0).toNat % 65536 = (held.link 0).peerModule.toNat
    ∧ (wordAt f.payload 0).toNat / 65536 % 64 = (held.link 0).peerLink.toNat ∧ (wordAt f.payload 1).toNat % 65536 = (held.link 0).peerEpoch.toNat
    ∧ (held.link 0).ownEpoch = (held.link 0).epochAtUp ∧ f.ack = (held.link 0).txAcked ∧ held.mc < 0 + 500 * 1600
    ∧ (wordAt f.payload 1).toNat % 65536 ≠ ((linked .hold).link 0).peerEpoch.toNat ∧ (held.link 0).state = .hold
    ∧ (State.reset.link 0).en = false ∧ State.reset.emu.moduleIdWritten = false ∧ (held.link 0).en = true
    ∧ (0 - (held.link 0).txAcked : BitVec 12).toNat = 1 ∧ 0 + 500 * 1600 ≤ ({ held with mc := 800000 } : State).mc
    ∧ (up.dom 46).state ≤ 1 ∧ up.emu.moduleIdWritten = true ∧ (up.link 0).en = false ∧ 1 < (State.reset.dom 46).state := by decide +kernel
theorem witness_frame_packets : (linkPkt 0xFFFF 0).kind.toNat < 15 ∧ (linkPkt 0xFFFF 0).data.length ≤ 2032 := by decide +kernel

/-! ## Queue pairs -/

/-- Pair 0 of the PF is enabled with its rings at 0x10000 and 0x20000; PB2 runs and the endpoint is ready. -/
def mailbox (x : Qp) : State :=
  let s := modHost (fun h => { h with readyEp := true }) (modQp 0 0 (fun _ => { x with sqBase := 0x10000, cqBase := 0x20000 }) (owned State.reset))
  modPb (fun b => { b with run := 0xF }) s
/-- A message header with 48 bytes of payload (Table 12.8). -/
def message64 (op : Byte) (region : Nat) (payload : List Byte) : List Byte :=
  padTo 64 ([0x12, op] ++ leBytes 2 64 ++ leBytes 4 0x99 ++ leBytes 2 region ++ [0, 0, 0, 0, 0, 0] ++ payload)
def entryOf (op : Byte) (region : Nat) (payload : List Byte) : JEntry :=
  { id := 3, fn := 0, qp := 0, msg := message64 op region payload, handed := false, discarded := false, result := none }
def journaled (e : JEntry) : State := modPb (fun b => { b with journal := [e], nextId := 4 }) (mailbox { en := true })

theorem test_doorbell_edges :
    let s := mailbox { en := true, sqLog := 7 }
    ((nextOf (exec (.sqDoorbell 0 0 127) s)).qp 0 0).sqTail = 127 ∧ ((nextOf (exec (.sqDoorbell 0 0 128) s)).hostErr 0).dbBad = true := by decide +kernel
theorem test_message_taken :
    let s := (mailbox { en := true, sqTail := 1 }).writeHost 0x10000 (message64 1 0xFFFF [])
    let u := nextOf (exec .messageTake s)
    let v := nextOf (exec (.completionWrite 0) (nextOf (exec (.hello 0) u)))
    u.pb.journal.map (fun e => (e.id, e.msg.length, e.result)) = [(0, 64, none)] ∧ (u.qp 0 0).sqHead = 1
    ∧ v.hostBytes 0x20000 12 = [0x12, 1, 64, 0, 0x99, 0, 0, 0, 0xFF, 0xFF, 0, 0x80] ∧ (v.qp 0 0).cqTail = 1 ∧ v.pb.journal = [] := by decide +kernel
theorem witness_queue_pairs :
    let s := mailbox { en := true }
    let t := (mailbox { en := true, sqTail := 1 }).writeHost 0x10000 (message64 1 0xFFFF [])
    let done := { entryOf 1 0xFFFF [] with result := some (completionBytes (message64 1 0xFFFF []) 0 0 []) }
    let ev : HEvent := { code := 4, record := [], region := none }
    let h := modPb (fun b => { b with events := [ev] }) s
    let off := modQp 0 0 (fun x => { x with en := false }) h
    fnUnits 1 ≤ (4 : BitVec 6).toNat ∧ (63 : BitVec 6).toNat < fnUnits 0 ∧ (s.qp 0 0).sqSize = 128 ∧ (s.qp 0 0).cqSize = 128
    ∧ (7 ≤ fieldOf (0x80070700 : Word) 19 16 ∧ fieldOf (0x800C0C3F : Word) 19 16 ≤ 12 ∧ (0x800C0C3F : Word).toNat % 64 < fnUnits 0) ∧ (State.reset.qp 0 0).en = false
    ∧ fieldOf (0x80060700 : Word) 19 16 < 7 ∧ (s.qp 0 0).en = true ∧ State.reset.pbRuns 2 = false ∧ t.pbRuns 2 = true ∧ t.host.readyEp = true
    ∧ ((qpOrder t.host.qpRr).findSome? fun k => (nextMsg t (t.qp (k / 64) (k % 64))).map fun r => (k, r)).map (fun r => (r.1, r.2.2)) = some (0, 1)
    ∧ (journaled done).entry 3 = some done ∧ done.result.map (·.length) = some 64 ∧ ({ done with discarded := true } : JEntry).discarded = true
    ∧ h.pb.events = [ev] ∧ (off.qp 0 0).en = false ∧ (off.ring 0).events.length < 256 ∧ 1 ≤ (h.qp 0 0).room
    ∧ (healthBytes ev 0).length = 64 ∧ (h.host.rings = []) := by decide +kernel
theorem witness_message_runs : MessageRuns (journaled (entryOf 1 0xFFFF [])) 3 1 (entryOf 1 0xFFFF []) := by
  unfold MessageRuns
  decide +kernel

/-! ## Regions -/

/-- A journaled message for region 0, whose only course is 0. -/
def msgState (op : Byte) (payload : List Byte) : State := journaled (entryOf op 0 payload)
/-- No region owns course 0, whose PHYs are up. -/
def createState (rect : List Byte) (ready : BitVec 32) : State :=
  modHost (fun h => { h with readyCourse := ready }) <| foldState (fun d s => modDom d (fun _ => { target := 0, state := 0 }) s) (portDoms 0)
    ((msgState 2 rect).modCourse 0 fun c => { c with valid := false })
def status (s : State) : List (Option Nat) := s.pb.journal.map fun e => e.result.map fun bs => leNat ((bs.drop 12).take 2)

theorem test_region_create :
    let u := nextOf (exec (.regionCreate 3) (createState [0, 0, 0, 0] 1))
    status u = [some 0] ∧ (u.course 0).valid = true ∧ (u.course 1).valid = false ∧ (u.core 0).ctl.gwNode = 162 ∧ (u.core 0).ctl.escPage = some 0x1FF
    ∧ status (nextOf (exec (.regionCreate 3) (createState [0, 0, 1, 0] 1))) = [some stNotReady]
    ∧ status (nextOf (exec (.regionCreate 3) (createState [0, 0, 8, 0] 1))) = [some stBadArgument] := by decide +kernel
theorem test_region_destroy :
    let u := nextOf (exec (.regionDestroy 3) ((msgState 3 []).modCtl 0 fun c => { c with mem := [(5, 1)] }))
    status u = [some 0] ∧ (u.course 0).valid = false ∧ (u.ctl 0).mem = [] ∧ (u.dom 0).target = 2 := by decide +kernel
def launchBytes : List Byte := leBytes 4 0 ++ leBytes 8 0 ++ leBytes 8 0 ++ leBytes 2 0 ++ leBytes 2 1
def launchState (segs : List T1Seg) : State :=
  modPb (fun b => { b with images := [(1, { region := 0, image := { (image 0x1FFFF 0x1FDFFF 0x1FFFC) with t1Segs := segs } })] })
    (journaled (entryOf 5 0 launchBytes))
theorem test_launch :
    let u := nextOf (exec (.launch 3) (launchState []))
    status u = [some 0] ∧ (u.thread 0 0).st = .running ∧ (u.thread 0 0).pc = 0x1FFFC ∧ (u.thread 0 1).st = .idle ∧ (u.core 0).ctl.lock = true
    ∧ (u.program 0).map (·.running) = some true := by decide +kernel
def signalBytes : List Byte := [0, 0, 14, 4, 15, 0, 0, 0, 1, 0, 0, 0]
theorem test_signal :
    let u := nextOf (exec (.signal 3) (msgState 6 signalBytes))
    status u = [some 0] ∧ (u.core 0).syn.msgs = [{ chan := 14, words := [1, 0, 0, 0], tag := 15 }] := by decide +kernel

theorem witness_region_creation :
    let e := entryOf 2 0 [0, 0, 0, 0]
    let s := createState [0, 0, 0, 0] 1
    let late := modPb (fun b => { b with run := 4 }) s
    let f (o n : Nat) : Nat := msgField e.msg o n
    s.pbRuns 1 = true ∧ MessageRuns late 3 2 e ∧ late.pbRuns 1 = false ∧ asleep late 0 ≠ [] ∧ MessageRuns s 3 2 e ∧ s.held = false ∧ ({ s with phys := { s.phys with stby := true } } : State).held = true
    ∧ rectBad 0 0 8 0 = some 18 ∧ rectBad 7 3 7 3 = none ∧ rectBad (f 16 1) (f 17 1) (f 18 1) (f 19 1) = none
    ∧ rectCourses (f 16 1) (f 17 1) (f 18 1) (f 19 1) = [0] ∧ rectCourses 7 3 7 3 = [31] ∧ s.courseReady 0 = true ∧ s.courseReady 31 = false
    ∧ (s.course 0).valid = false ∧ s.regionCourses 0 = [] ∧ ((msgState 2 [0, 0, 0, 0]).course 0).valid = true ∧ s.exposed 0 = true := by
  unfold MessageRuns
  decide +kernel
theorem witness_region_end :
    let s := msgState 3 []
    let busy := s.modCtl 0 fun c => { c with queue := [req kWrite [1]] }
    MessageRuns s 3 3 (entryOf 3 0 []) ∧ MessageRuns busy 3 3 (entryOf 3 0 []) ∧ (haltRegion 0 s).regionCourses 0 = [0]
    ∧ courseRunning (haltRegion 0 s) 0 = false ∧ courseRunning (haltRegion 0 busy) 0 = true := by
  unfold MessageRuns
  decide +kernel
theorem witness_launch :
    let e := entryOf 5 0 launchBytes
    let s := launchState []
    let f (o n : Nat) : Nat := msgField e.msg o n
    let li : LoadedImage := { region := 0, image := image 0x1FFFF 0x1FDFFF 0x1FFFC }
    let ck := launchCheck [] (decide (msgFlags e.msg % 2 = 1)) (f 16 4) (f 20 8) (f 28 8) (f 36 2) (t1Share s 0) (t2Share s 0) (regionLinks s 0)
    MessageRuns s 3 5 e ∧ MessageRuns (msgState 4 []) 3 4 (entryOf 4 0 []) ∧ (msgState 4 []).pb.nextHandle ≤ 0xFFFF ∧ s.held = false ∧ s.runs 0 = false
    ∧ entryAt s.pb.images (f 38 2) = some li ∧ li.region.toNat = 0 ∧ (journaled (entryOf 5 0 launchBytes)).pb.images = []
    ∧ ck.status = stOk ∧ (launchCheck [] false 0x1FE001 0 0 0 0 0 0).status = stFailResources ∧ (launchCheck [] false 0x1FE000 0 0 0 0 0 0).status = stOk
    ∧ (placeImage s 0 li.image ck.chosen).map (fun pl => imageGood s 0 li.image pl) = some true ∧ (s.regionCores 0).all (chansIdle s) = true
    ∧ 0 ∈ s.regionCores 0 ∧ 27 * s.rankOf (courseOf 0) + s.logical 0 = 0 ∧ (declOf li.image 0).map (·.threads.length) = some 1
    ∧ (declOf li.image 1).isNone = true ∧ (nextOf (exec (.launch 3) s)).runs 0 = true := by
  unfold MessageRuns
  decide +kernel
theorem witness_program_end_and_messages :
    let p : Program := { handle := 1, running := true, digest := 0, tenantKey := none }
    let s := modPb (fun b => { b with programs := [(0, p)] }) (owned State.reset)
    let g := msgState 6 signalBytes
    let full := g.modCore 0 fun c => { c with syn := { c.syn with msgs := List.replicate 56 { chan := 6, words := [], tag := 0 } } }
    s.program 0 = some p ∧ (s.regionCores 0).all (fun n => coreEnded (s.core n)) = true ∧ coreEnded ((running {}).core 0) = false
    ∧ MessageRuns g 3 6 (entryOf 6 0 signalBytes) ∧ g.regionCore 0 0 = some 0 ∧ g.regionCore 0 27 = none ∧ (g.core 0).msgRoom 14 = true
    ∧ (full.core 0).msgRoom 14 = false ∧ (entryOf 6 0 signalBytes).due ≤ g.mc ∧ (g.core 0).lost = none ∧ (g.core 0).ctl.halted = false ∧ MessageRuns (msgState 7 [2]) 3 7 (entryOf 7 0 [2]) ∧ MessageRuns (msgState 7 [0]) 3 7 (entryOf 7 0 [0])
    ∧ MessageRuns (msgState 7 [3]) 3 7 (entryOf 7 0 [3]) := by
  unfold MessageRuns
  decide +kernel

/-! ## Storage, apertures and emulated registers -/

/-- CHECKPOINT or RESTORE of a range of region 0's memory with port 0, namespace 1, LBA 1 (Table 13.3). -/
def storageBytes (addr len : Nat) : List Byte := leBytes 2 1 ++ [0, 0] ++ leBytes 4 1 ++ leBytes 8 1 ++ leBytes 8 addr ++ leBytes 8 len
/-- An NVMe error leaves 2 bytes moved. -/
theorem test_checkpoint :
    let s := (msgState 9 (storageBytes 0x1000 0x1000)).modCtl 0 fun c => { c with mem := [(0x1000, 7), (0x1001, 8), (0x1002, 9)] }
    let u := nextOf (exec (.checkpoint 3 (some { status := 5, moved := 2 })) s)
    status u = [some stDeviceError] ∧ u.host.storage = [(2 ^ 80 + 512, 7), (2 ^ 80 + 513, 8)] := by decide +kernel
theorem test_restore :
    let s := modHost (fun h => { h with storage := [(2 ^ 80 + 512, 7)] }) (msgState 10 (storageBytes 0x1000 0x1000))
    ((nextOf (exec (.restore 3 (some { status := 5, moved := 2 })) s)).ctl 0).mem = [(0x1000, 7)] := by decide +kernel
/-- The PF's aperture at scratchpad 0 of region 0: the window of R203 is asked for (R341). -/
theorem test_aperture :
    let s := modHost (fun h => { h with apertures := [(0, { base := 0x0800000, region := 0 })] }) windowed
    let u := nextOf (exec (.apertureAccess 0 0x3F (.write [9])) s)
    ((nextOf (exec (.apertureAccess 0 0x40 (.write [9])) s)).hostErr 0).apCount = 1 ∧ (u.core 0).mem.readScratch 63 1 = [9]
    ∧ (nextOf (exec (.apertureAccess 0 0x3F (.read 1)) u)).rdata = 9 := by decide +kernel
theorem witness_storage :
    let m := (entryOf 9 0 (storageBytes 0x1000 0x1000)).msg
    let s := msgState 9 (storageBytes 0x1000 0x1000)
    MessageRuns s 3 9 (entryOf 9 0 (storageBytes 0x1000 0x1000))
    ∧ MessageRuns (msgState 10 (storageBytes 0x1000 0x1000)) 3 10 (entryOf 10 0 (storageBytes 0x1000 0x1000))
    ∧ rangesBad s 0 m = none ∧ rangesOf m = [(0x1000, 0x1000)] ∧ rangesBad s 0 (entryOf 9 0 (storageBytes 0x1008 0x1000)).msg = some 32
    ∧ rangesBad s 0 (entryOf 9 0 (storageBytes 0x2FFFFF000 0x1000)).msg = none ∧ rangesBad s 0 (entryOf 9 0 (storageBytes 0x300000000 0x1000)).msg = some 32 := by
  unfold MessageRuns
  decide +kernel
theorem witness_aperture :
    let s := modHost (fun h => { h with apertures := [(0, { base := 0x0800000, region := 0 })] }) windowed
    let a := ((s.aperture 0).base.toNat * 2 ^ 20 + 0x3F) % 2 ^ 48
    let poisoned := s.modCore 0 fun c => c.modMem fun m => { m with poison := [(7, true)] }
    apPoisoned poisoned 0 a 1 = true ∧ apGood poisoned 0 a (.read 1) = true ∧ a = 0x08000000003F ∧ apGood s 0 a (.read 1) = true ∧ apPoisoned s 0 a 1 = false ∧ apGood s 0 a (.write [9]) = true ∧ apGood s 0 (a + 1) (.write [9]) = false
    ∧ apGood s 0 0x2FFFFFFFF (.read 1) = true ∧ apGood s 0 0x300000000 (.read 1) = false ∧ apRegion s 32 = 31 ∧ apGood s 31 a (.read 1) = false := by decide +kernel

theorem test_shadow_range :
    let u (w : Word) : State := nextOf (exec .emuShadowApply (modPb (fun b => { b with run := 4 }) (nextOf (exec (.powerCapWrite .bmc w) State.reset))))
    ((u 399).master 33).reject = true ∧ (u 399).pwr.reqs = [] ∧ (u 400).pwr.reqs = [.cap 33 400] ∧ (u 0).pwr.reqs = [.cap 33 0] := by decide +kernel
theorem test_doors :
    let up := modPb (fun b => { b with run := 1 }) State.reset
    let late := nextOf (exec (.dbgDoorWrite 16) State.reset)
    (nextOf (exec (.dbgDoorWrite 16) up)).emu.dbgBusy = true ∧ ((nextOf (exec (.dbgDoorWrite 15) up)).master 33).reject = true
    ∧ late.emu.dbgBusy = false ∧ emuRead late 33 4 = 0x80000000 ∧ emuRead late 33 0x2C = 16
    ∧ ((nextOf (exec (.emuRegisterWrite (.fn 1) 0x014 500) State.reset)).master 1).denied = true := by decide +kernel
/-- A boost at 2,000 W - 23 W, none 1 W above; the newest goes where the cap is exceeded (R386 to R388). -/
theorem test_power_tick :
    let s := { State.reset with pwr := { State.reset.pwr with pool := 23, boostEn := 2 }, pb := { State.reset.pb with run := 2 } }
    let u := nextOf (exec (.powerTick 1977) s)
    u.pwr.boosted = [1] ∧ u.divOf 1 = 3 ∧ (nextOf (exec (.powerTick 1978) s)).pwr.boosted = [] ∧ (nextOf (exec (.powerTick 2001) u)).pwr.boosted = [] := by
  decide +kernel
theorem witness_emulated_registers :
    let w (off : BitVec 12) (v : Word) : ShadowWrite := { master := 0, off := off, inst := 0, value := v }
    let s (x : ShadowWrite) : State := modPb (fun b => { b with run := 6 }) (modEmu (fun e => { e with writes := [x] }) State.reset)
    let locked := modSec (fun y => { y with emuLock := true }) (s (w 0x024 1))
    let running := withLink (fun k => { k with en := true }) (s (w 0x010 5))
    let tick (rs : List PowerReq) : State := modPwr (fun p => { p with reqs := rs }) (modPb (fun b => { b with run := 6 }) State.reset)
    masterIx (.fn 0) = 0 ∧ masterIx .bmc = 33 ∧ ¬(masterIx (.fn 32) = 0 ∨ masterIx (.fn 32) = 33) ∧ State.reset.selInst 0 = some (0, 0)
    ∧ (modMaster 0 (fun m => { m with kind := 9 }) State.reset).selInst 0 = none ∧ State.reset.emu.dbgBusy = false ∧ State.reset.pbRuns 2 = false
    ∧ State.reset.pbRuns 0 = false ∧ (modPb (fun b => { b with run := 1 }) State.reset).pbRuns 0 = true
    ∧ (s (w 0x014 400)).pbRuns 2 = true ∧ (s (w 0x014 400)).emu.writes = [w 0x014 400] ∧ (s (w 0x014 400)).sec.emuLock = false
    ∧ (400 : Word).toNat % 65536 = 400 ∧ locked.sec.emuLock = true ∧ (1 : Word).toNat % 64 ≠ locked.emu.rpCfg.toNat
    ∧ running.emu.writes = [w 0x010 5] ∧ (5 : Word).toNat % 65536 ≠ running.emu.moduleId.toNat ∧ (running.link 0).en = true
    ∧ MessageRuns (msgState 11 (leBytes 2 400)) 3 11 (entryOf 11 0 (leBytes 2 400)) ∧ (msgState 11 []).pwr.reqs = []
    ∧ MessageRuns (msgState 11 (leBytes 2 399)) 3 11 (entryOf 11 0 (leBytes 2 399)) ∧ State.reset.pbRuns 1 = false
    ∧ (s (w 0x014 400)).emu.verdicts = [] ∧ (∀ l < 40, ((s (w 0x010 5)).link l).en = false) ∧ (s (w 0x010 5)).pbRuns 3 = false
    ∧ (modPb (fun b => { b with run := 0xF }) (s (w 0x010 5))).pbRuns 3 = true
    ∧ (tick [.cap 0 400]).pwr.reqs = [.cap 0 400] ∧ (tick []).pbRuns 2 = true
    ∧ (tick [.cap 0 400, .moduleState .bmc]).pwr.reqs = [.cap 0 400, .moduleState .bmc] ∧ (tick []).pbRuns 1 = true ∧ (tick []).pwr.hot = []
    ∧ (tick []).effCap.1 = 2000 := by
  unfold MessageRuns
  decide +kernel

/-! ## Power, heat and Pegbox -/

def withPb (run : BitVec 4) (s : State) : State := modPb (fun b => { b with run := run }) s

theorem test_shell :
    let s := { State.reset with pwr := { State.reset.pwr with sels := [(1, 31)] } }
    let u := nextOf (exec (.shellSetpointWrite (.pb 1) 499) s)
    (u.shell 31).setpoint = 500 ∧ ((nextOf (exec (.shellCalibrate (.pb 1)) u)).shell 31).busy = true
    ∧ ((nextOf (exec (.shellFault { kind := 0, index := 31 }) State.reset)).core (nodeOfPos 31 0)).lost = some 4 := by decide +kernel
theorem test_dom_target :
    let s := withPb 2 ((owned State.reset).modCourse 1 fun c => { c with valid := false })
    let raised := modDom 0 (fun _ => { target := 0, state := 0 }) s
    (nextOf (exec (.domTargetWrite 1) (withPb 0 raised))).pb.waiting = [.target 0 1] ∧ ((nextOf (exec (.domTargetWrite 4) raised)).dom 0).refused = true ∧ ((nextOf (exec (.domTargetWrite 1) raised)).dom 0).state = 1
    ∧ ((nextOf (exec (.domTargetWrite 0) s)).dom 0).state = 4 ∧ ((nextOf (exec (.domTargetWrite 0) s)).dom 0).target = 0 := by decide +kernel
/-- Sensor 0's threshold is 95 °C, 380 quarters; it is released at 90 °C (Table 14.7). -/
theorem test_thermal_edges :
    let u (v : BitVec 16) : State := nextOf (exec (.thermalCrossing 0 .setpoint true v) State.reset)
    mapGet false (u 380).pwr.hot 0 = true ∧ mapGet false (u 379).pwr.hot 0 = false ∧ (u 380).host.alertCause = 1
    ∧ mapGet false (nextOf (exec (.thermalCrossing 0 .setpoint false 360) (u 380))).pwr.hot 0 = false
    ∧ mapGet false (nextOf (exec (.thermalCrossing 0 .setpoint false 361) (u 380))).pwr.hot 0 = true := by decide +kernel
theorem test_lending :
    let s := { (State.reset.modCourse 3 fun c => { c with lend := true, wstate := .dwell, dwell := 1 }) with mc := 1600 }
    let u := nextOf (exec (.dwellExpire 3) s)
    u.pwr.pool = 30 ∧ (u.course 3).div = 8 ∧ (nextOf (exec (.dwellExpire 3) { s with mc := 1599 })).pwr.pool = 0
    ∧ ((nextOf (exec (.reclaimGrant 3) (withPb 2 (u.modCourse 3 fun c => { c with wstate := .reclaim })))).course 3).wstate = .dwell
    ∧ ((nextOf (exec (.reclaimGrant 3) (withPb 2 (u.modCourse 3 fun c => { c with wstate := .reclaim, lend := false })))).course 3).wstate = .awake := by
  decide +kernel
theorem witness_power :
    let s := { State.reset with pwr := { State.reset.pwr with sels := [(0, 0x100)] } }
    let locked := modShell 256 (fun x => { x with lock := true }) s
    let d := (State.reset.modCourse 31 fun c => { c with lend := true, wstate := .dwell, dwell := 0 })
    State.reset.selected (.pb 0) = some 0 ∧ s.selected (.pb 0) = some 256 ∧ (locked.shell 256).lock = true ∧ clampSet 1 1 ≠ (locked.shell 256).setpoint
    ∧ ({ s with pwr := { s.pwr with sels := [(0, 0x101)] } } : State).selected (.pb 0) = none ∧ shellOf { kind := 5, index := 39 } = some 1319
    ∧ ((modShell 1319 (fun x => { x with busy := true }) s).shell 1319).busy = true
    ∧ ({ s with pwr := { s.pwr with domSel := 58 } } : State).pwr.domSel.toNat = 58 ∧ (1 : BitVec 3) ≠ (s.dom 0).target ∧ (s.dom 0).state = (s.dom 0).target
    ∧ (withPb 2 s).pbRuns 1 = true ∧ s.pbRuns 1 = false ∧ (withPb 2 s).pwr.domSel.toNat < 58 ∧ targetRefused (withPb 2 s) 0 1 = false
    ∧ clampSet 0 500 ≠ (s.shell 31).setpoint ∧ (((withPb 2 d).modCourse 0 fun c => { c with wstate := .reclaim, lend := true }).course 0).lend = true
    ∧ (∀ n ∈ d.courseCores 0, (d.core n).gated = true) ∧ (modDom 0 (fun _ => { target := 0, state := 4 }) s).dom 0 = { target := 0, state := 4 }
    ∧ targetRefused s 0 1 = false ∧ targetRefused s 57 5 = true ∧ targetRefused s 32 4 = true
    ∧ (modDom 0 (fun x => { x with target := 0 }) (modHost (fun h => { h with readyHbm := 1 }) s)).host.readyHbm.getLsbD (stackOf 0) = true
    ∧ ((modDom 57 (fun x => { x with target := 0 }) s).dom 57).state ≠ ((modDom 57 (fun x => { x with target := 0 }) s).dom 57).target
    ∧ (d.course 31).dwellAt + max 1 (d.course 31).dwell.toNat * 1600 = 1600 ∧ ((d.modCourse 0 fun c => { c with wstate := .reclaim }).course 0).wstate = .reclaim
    ∧ (withPb 2 d).pbRuns 1 = true ∧ s.divOf 0 = 4 ∧ (s.modCourse 0 fun c => { c with throttled := 1 }).divOf 0 = 5
    ∧ { s with pwr := { s.pwr with boosted := [0] } }.divOf 0 = 3 ∧ mapGet false s.pwr.hot 103 = false ∧ thermLimit s 39 .hard = 95 ∧ thermLimit s 31 .hard = 105
    ∧ (460 : BitVec 16).toInt = 460 ∧ (459 : BitVec 16).toInt < 460 := by decide +kernel

theorem test_thermal_trip :
    let u := nextOf (exec (.thermalTrip 39 460) (owned State.reset))
    u.pwr.trip = true ∧ u.phys.thermtrip = true ∧ (u.course 0).valid = false ∧ (nextOf (exec (.thermalTrip 39 459) (owned State.reset))).pwr.trip = false := by
  decide +kernel

/-- PB1 missed its deadline of MS = 0, which acts as 1 ms. -/
def lateWatchdog (mc : Nat) : State := { (modPb (fun b => { b with wdogMs := 0 }) (withPb 2 State.reset)) with mc := mc }
theorem test_watchdog :
    (nextOf (exec (.watchdogExpire 1) (lateWatchdog 1600000))).pb.wdog = 2 ∧ (nextOf (exec (.watchdogExpire 1) (lateWatchdog 1599999))).pb.wdog = 0 := by
  decide +kernel
def stageBytes (off total : Nat) : List Byte := leBytes 4 off ++ leBytes 4 total ++ leBytes 8 0 ++ [1, 2, 3]
theorem test_fw_stage :
    let u := nextOf (exec (.fwStage 3) (msgState 12 (stageBytes 0 2)))
    status u = [some 0] ∧ u.pb.flashB = [(0, 1), (1, 2)] ∧ u.pb.flashA = [] := by decide +kernel
/-- With every image slot revoked no image verifies, whatever the flash holds. -/
def revoked (s : State) : State := modSec (fun x => { x with keyRev := 0xF }) s
theorem revoked_not_verified (s : State) (b : Bool) (n : Nat) : imageVerifies (revoked s) b n = false := by
  have h : ∀ i : BitVec 2, bitOf (0xF : BitVec 4) i.toNat = true := by decide
  have k : bitOf (revoked s).sec.keyRev ((revoked s).pbImage b n).slot.toNat = true := h _
  simp [imageVerifies, k]
/-- An image of slot 0 with a good signature verifies where the fuses hold its key's hash. -/
theorem witness_image_verifies (n : Nat) (h : (Config.pbImage [] n).signatureGood = true ∧ (Config.pbImage [] n).slot = 0) :
    imageVerifies (modSec (fun x => { x with keyHash := [(0, (Config.pbImage [] n).keyHash)] }) State.reset) false n = true := by
  have k : (State.reset.sec).svnCount = 0 := by decide
  have k' : (modSec (fun x => { x with keyHash := [(0, (Config.pbImage [] n).keyHash)] }) State.reset).sec.svnCount = 0 := k
  simp only [imageVerifies, k']
  simp [State.pbImage, State.flash, State.reset, modSec, h.1, h.2, mapGet, bitOf, lifeField, lifeReturn, lifeBlank]
theorem witness_pegbox :
    let off := { State.reset with phys := { State.reset.phys with pwrEn := false, pwrgd := false } }
    let r := modPb (fun b => { b with restarting := 8 }) State.reset
    State.reset.phys.pwrgd = true ∧ State.reset.phys.vin = true ∧ (nextOf (exec (.inputDisconnect false) State.reset)).phys.vin = false
    ∧ (nextOf (exec (.inputDisconnect true) State.reset)).phys.vin = true ∧ State.reset.phys.pwrEn = true ∧ off.phys.pwrgd = false ∧ off.phys.pwrEn = false ∧ Accessor.bmc ≠ .pb 0
    ∧ (lateWatchdog 1600000).pbRuns 1 = true ∧ (lateWatchdog 1600000).pb.act = none
    ∧ mapGet 0 (lateWatchdog 0).pb.kickAt 1 + max 1 (lateWatchdog 0).pb.wdogMs.toNat * 1600000 = 1600000
    ∧ r.pb.restarting.getLsbD 3 = true ∧ r.pb.restarting.getLsbD 0 = false ∧ r.pb.act = none
    ∧ (withPb 0 r).pbRuns 0 = false ∧ (withPb 1 r).pbRuns 0 = true ∧ r.pb.waiting = [] ∧ r.sec.waiting = [] := by decide +kernel
theorem witness_firmware :
    let stage := msgState 12 (stageBytes 0 2)
    let busy := modPb (fun b => { b with act := some { id := 9, bank := true, moved := [], current := some 3 } }) stage
    MessageRuns stage 3 12 (entryOf 12 0 (stageBytes 0 2)) ∧ stageBad (entryOf 12 0 (stageBytes 0 2)).msg = none ∧ stage.pb.act = none
    ∧ stageBad (entryOf 12 0 (stageBytes 16 16)).msg = some 16 ∧ MessageRuns busy 3 12 (entryOf 12 0 (stageBytes 0 2)) ∧ busy.pb.act ≠ none
    ∧ MessageRuns (msgState 13 []) 3 13 (entryOf 13 0 []) ∧ (msgState 13 []).pbRuns 0 = true ∧ (withPb 4 (msgState 13 [])).pbRuns 0 = false
    ∧ MessageRuns (withPb 4 (msgState 13 [])) 3 13 (entryOf 13 0 []) := by
  unfold MessageRuns
  decide +kernel

/-- A quiesce of the latch with its regions gone: the grace ends, links and domains go down, and the return follows the close. -/
theorem test_quiesce :
    let s := withPb 0xF (nextOf (exec .latchOpen State.reset))
    let u := nextOf (exec .quiesceComplete (nextOf (exec .quiesceGraceExpire s)))
    s.phys.quiesce.isSome = true ∧ (nextOf (exec .quiesceGraceExpire s)).phys.quiesce.map (·.graceOver) = some true
    ∧ (nextOf (exec .buttonShortPress s)).emu.blink = true ∧ (u.dom 0).target = 4 := by decide +kernel
theorem witness_quiesce :
    let q (b g f : Bool) : State := withPb 0xF { State.reset with phys := { State.reset.phys with quiesce := some { button := b, graceOver := g, safe := f } } }
    let down := foldState (fun d s => modDom d (fun _ => { target := BitVec.ofNat 3 (quiesceState s d), state := BitVec.ofNat 3 (quiesceState s d) }) s)
      (List.range 58) (q false true false)
    (modPhys (fun p => { p with thermtrip := true }) (q false false true)).phys.thermtrip = true ∧ (q false true false).pbRuns 3 = true
    ∧ State.reset.phys.quiesce = none ∧ State.reset.phys.thermtrip = false ∧ State.reset.phys.pwrgd = true
    ∧ (q false false true).phys.quiesce = some { button := false, graceOver := false, safe := true } ∧ (q false false true).pbRuns 1 = true
    ∧ (q true false true).phys.latchOpen = false ∧ (q true false true).phys.stby = false ∧ (q true true false).phys.quiesce.map (·.safe) = some false
    ∧ liveRegions (q false false false) = [] ∧ quiesced (q false true false) = false ∧ quiesced down = true
    ∧ down.phys.quiesce.map (·.graceOver) = some true ∧ State.reset.pbRuns 2 = false
    ∧ liveRegions (owned (q false false false)) ≠ [] ∧ (owned (q false false false)).mc < 48000000000 := by decide +kernel

/-! ## Debug and lifecycle -/

/-- PB0 runs; the PF has a session over DOE on region 0 (level 2) or everywhere (level 3). -/
def debugged (level : BitVec 2) (s : State) : State :=
  withPb 1 (modSec (fun x => { x with sessions := [{ id := 0, path := .doe 0, level := level, region := some 0, ends := some 1600000000, parked := [] }]
                                      level := level, nextSession := 1, life := lifeDevelop, lifeFuse := lifeDevelop })
    (modDom 0 (fun _ => { target := 0, state := 0 }) s))
def awake : State := debugged 2 ((owned (running {})).modThread 0 1 fun t => { t with st := .parkedDebug })

theorem test_debug_stop :
    let u := nextOf (exec (.dbgStop (.doe 0) 0 1) awake)
    u.sec.resps = [{ path := .doe 0, status := 0, data := [] }] ∧ (u.core 0).ctl.dbgPend = 1
    ∧ ((nextOf (exec (.dbgRelease (.doe 0) 0 2) awake)).thread 0 1).st = .running ∧ (nextOf (exec (.dbgStop .bmc 0 1) awake)).sec.resps = [] := by decide +kernel
theorem test_debug_registers :
    let u := nextOf (exec (.dbgWrite (.doe 0) (.threadReg 0 1 31) (leBytes 4 0x80000001)) awake)
    (u.thread 0 1).getG 31 = 0x80000001 ∧ (nextOf (exec (.dbgRead (.doe 0) (.threadReg 0 1 31) 4) u)).sec.resps.map (·.data) = [[], [1, 0, 0, 0x80]] := by
  decide +kernel
theorem test_open_levels :
    let s := withPb 1 State.reset
    let r (p : DbgPath) (l : BitVec 2) (s : State) : List Nat := (nextOf (exec (.dbgOpen p l []) s)).sec.resps.map (·.status)
    r (.doe 0) 1 s = [0] ∧ r (.doe 1) 1 s = [1] ∧ r (.doe 0) 3 s = [1] ∧ r (.doe 0) 2 s = [2] ∧ r (.doe 0) 0 s = [5]
    ∧ r (.doe 0) 3 (debugged 2 State.reset) = [0] := by decide +kernel
theorem test_session_ends :
    (nextOf (exec (.sessionExpire 0) awake)).sec.sessions.length = 1 ∧ (nextOf (exec (.sessionExpire 0) { awake with mc := 1600000000 })).sec.sessions = []
    := by decide +kernel
theorem witness_debug_paths :
    let issued := modSec (fun x => { x with nonces := [{ path := .doe 0, nonce := 9 }] }) awake
    let tap := modSec (fun x => { x with dbgacc := [1] }) awake
    RequestServed tap .tap ∧ awake.sec.dbgacc = [] ∧ doorRung awake = false ∧ (withPb 0 tap).pbRuns 0 = false ∧ (withPb 0 tap).sec.dbgacc ≠ []
    ∧ nonceOf issued (.doe 0) = some 9 ∧ (nextOf (exec (.nonceLapse (.doe 0)) { issued with mc := 96000000000 })).sec.nonces = []
    ∧ nonceOf { issued with mc := 96000000000 } (.doe 0) = none := by
  unfold RequestServed
  decide +kernel
theorem witness_debug :
    let door := modEmu (fun e => { e with dbgBusy := true }) awake
    let issued := modSec (fun x => { x with nonces := [{ path := .doe 0, nonce := 9 }] }) awake
    (∀ r ∈ issued.sec.nonces, requester r.path = requester (.doe 0) ∧ issued.mc < r.issued + 96000000000)
    ∧
    hasFull awake (.doe 0) = false ∧ hasFull (debugged 3 State.reset) (.doe 0) = true
    ∧ (observed (.bar0 0 0x2000) && observes awake (.doe 0)) = false ∧ RequestServed (debugged 3 State.reset) (.doe 0) ∧
    State.reset.pbRuns 0 = false ∧ awake.pbRuns 0 = true ∧ RequestServed awake (.doe 0) ∧ RequestServed door .bmc ∧ requester .tap = 0
    ∧ sessionsOf awake (.doe 0) ≠ [] ∧ sessionsOf awake (.doe 1) = [] ∧ awake.sec.life = lifeDevelop ∧ State.reset.sec.life = lifeField
    ∧ tokenGood awake (.doe 0) [] = false ∧ reachesCore awake (.doe 0) 0 = true ∧ reachesCore awake (.doe 0) 959 = false ∧ awake.exposed 0 = true
    ∧ awake.domState (courseOf 0) < 2 ∧ (awake.core 0).lost = none ∧ (awake.thread 0 0).st = .running ∧ (awake.thread 0 1).st = .parkedDebug
    ∧ (∃ n : NodeNo, reachesCore (debugged 3 State.reset) (.doe 0) n.val = true ∧ (debugged 3 State.reset).exposed n.val = false)
    ∧ 2 ≤ (modDom 0 (fun _ => { target := 2, state := 2 }) awake).domState (courseOf 0) := by
  unfold RequestServed
  decide +kernel
theorem witness_debug_reach :
    let tr : State := modSec (fun x => { x with traceEn := true, traceLen := 0x1000, traceDest := true }) awake
    let r : TraceRec := { fault := false, node := 0, thread := 0, addr := 0x10, time := 0 }
    let due : State := modSec (fun x => { x with traceDue := [{ r with thread := 1 }, r] }) tr
    let lanes : State := modHost (fun h => { h with traceLanes := true }) (modSec (fun x => { x with traceDest := false }) tr)
    let poisoned := awake.modCtl 0 fun c => { c with poison := [(2, true)] }
    reaches awake (.doe 0) 0 = true ∧ reaches awake (.doe 0) 1 = false ∧ imemRange awake 0 0x40 32 = none ∧ rangeMapped awake 0 0x40 32 = true
    ∧ rangeUp (modDom 34 (fun _ => { target := 0, state := 0 }) awake) 0 0x40 32 = true ∧ rangeGood awake 0 0x40 32 = true
    ∧ regionPoisoned poisoned 0 0x40 32 = true ∧ regionPoisoned awake 0 0x40 32 = false
    ∧ (0 : DWord).toNat + (0x1000 : Word).toNat ≤ t1Share awake 0 ∧ awake.sec.traceEn = false ∧ reaches awake (.doe 0) (fieldOf (0x80000001 : Word) 12 8) = true
    ∧ due.sec.traceDue = [{ r with thread := 1 }] ++ r :: [] ∧ traced due 0 = true ∧ (nextOf (exec (.traceRecord 0 0 false) due)).sec.traceLost = 1
    ∧ traced awake 0 = false ∧ traced tr 0 = true ∧ tr.sec.traceLen ≠ 0 ∧ lanes.host.traceLanes = true ∧ lanes.sec.traceDest = false
    ∧ traced lanes 0 = true := by decide +kernel
/-- A good token: the manual's layout with a nonce, a lifetime of 1 s and a signature that verifies (Table 15.5). -/
theorem witness_token (t : List Byte)
    (h : t = leBytes 2 0xFFFF ++ [0, 2] ++ leBytes 8 9 ++ leBytes 4 1 ++ List.replicate 96 0)
    (v : Config.ecdsaVerifies [] (Config.sha384 (t.take 16)) (t.drop 16) = true) :
    tokenGood (modPb (fun b => { b with programs := [(0, { handle := 1, running := true, digest := 0, tenantKey := some [] })] })
      (modSec (fun x => { x with nonces := [{ path := .doe 0, nonce := 9 }] }) State.reset)) (.doe 0) t = true := by
  subst h
  simp only [tokenGood, Bool.and_eq_true]
  exact ⟨⟨by decide +kernel, by decide +kernel⟩, v⟩

theorem test_lifecycle :
    let u (t : BitVec 3) : State := nextOf (exec (.lifecycleTransition (.doe 0) t []) awake)
    (u lifeField).sec.lifeFuse = lifeField ∧ (u lifeField).sec.keyRev = 8 ∧ (u lifeField).sec.life = lifeDevelop
    ∧ (u lifeReturn).sec.resps.map (·.status) = [2] ∧ (u lifeDevelop).sec.resps.map (·.status) = [4] := by decide +kernel
theorem test_tap :
    let s := State.reset
    tapReg (nextOf (exec .extest s)) = .bypass ∧ tapReg (nextOf (exec .extest awake)) = .boundary ∧ tapReg (nextOf (exec .idcode s)) = .idcode := by
  decide +kernel
theorem witness_lifecycle :
    let life (l : BitVec 3) : State := modSec (fun x => { x with lifeFuse := l }) awake
    RequestServed (life lifeBlank) (.doe 0) ∧ RequestServed (modSec (fun x => { x with dbgacc := [0] }) (life lifeReturn)) .tap ∧ requester (.doe 1) ≠ 0 ∧ (life lifeField).sec.lifeFuse = lifeField
    ∧ (2 : BitVec 3) ≠ lifeDevelop ∧ (2 : BitVec 3) ≠ lifeField ∧ (2 : BitVec 3) ≠ lifeReturn ∧ returnTokenGood awake (.doe 0) [] = false
    ∧ (life lifeBlank).pbRuns 0 = true ∧ (measure awake 0 1).isSome = true ∧ (measure awake 0 200).isSome = false := by
  unfold RequestServed
  decide +kernel

/-! ## Registers and the machine -/

theorem test_wide_write :
    let u := nextOf (exec (.wideHighWrite (.fn 0) (.bar0 0 0x2004) 1) (nextOf (exec (.wideLowWrite (.fn 0) (.bar0 0 0x2000) 0x1000) State.reset)))
    (u.qp 0 0).sqBase = 0x100001000 := by decide +kernel
theorem witness_registers :
    let lo : Accessor × RegAddr → Word × Bool := fun k => (match assocGet k (nextOf (exec (.wideLowWrite k.1 k.2 7) State.reset)).wide.hold with
      | some w => (w, true)
      | none => (0, false))
    AccessSize.byte ≠ .word ∧ mayReach State.reset (.fn 1) (.bar0 0 0x1020) = false ∧ mayReach State.reset (.fn 32) (.bar0 32 0x1020) = true
    ∧ nodeKind 42 = .hbm ∧ nodeKind 162 = .link ∧ wideNamed State.reset (.pb 2) (.block nodeL 0x44) false = some .rail
    ∧ wideNamed State.reset (.pb 2) (.block nodeL 0x48) true = some .rail
    ∧ wideNamed State.reset (.fn 0) (.bar0 0 0x2000) false = some (.sqBase 0 0) ∧ wideNamed State.reset (.fn 0) (.bar0 0 0x2004) true = some (.sqBase 0 0)
    ∧ wideNamed State.reset (.fn 0) (.bar0 0 0x200C) true = some (.cqBase 0 0) ∧ (State.reset.qp 0 0).en = false
    ∧ wideNamed State.reset (.fn 32) (.bar0 32 0x1044) true = some (.aperture 32) ∧ lo (.fn 0, .bar0 0 0x2000) = (7, true) := by decide +kernel

theorem test_step :
    let u := nextOf (step { State.reset with pending := [.fastcap, .latchOpen] })
    u.pending.length = 1 ∧ u.pwr.fastcap = true ∧ u.phys.latchOpen = false ∧ (nextOf (step u)).phys.latchOpen = true ∧ (nextOf (step State.reset)).mc = 1 := by decide +kernel
theorem test_no_unit : (match exec (.bundleIssue 42) State.reset with | .fault .noSuchUnit => true | _ => false) = true := by decide +kernel
theorem witness_machine :
    unitExists (.bundleIssue 0) = true ∧ unitExists (.bundleIssue 42) = false ∧ wellFormed (.bundleIssue 0) = true ∧ State.reset.canonical = true
    ∧ State.reset.memoriesWf = true ∧ State.reset.pending = [] := by decide +kernel

end Sys2Proof.Tests
end

/-! The statements of spec/00: a step and the reset state (O55, O60), special registers (O3), registers by their address (O52) and the ports
that serve them (O33). -/

namespace Sys2Proof.Machine

open Sys2Proof

/-! ## The machine: a step, and what State.reset holds -/

/-- Settles O55: both equations are the cases of step's match on the queue. -/
theorem stepRunsTheFrontCommand : Obligations.StepRunsTheFrontCommand := by
  refine ⟨fun s c rest hq => ?front, fun s hq => ?empty⟩
  case front => simp only [step, hq]
  case empty => simp only [step, hq, tick]

@[simp] theorem State.reset_course (c : Nat) : State.reset.course c = {} := rfl
@[simp] theorem State.reset_qp (f q : Nat) : State.reset.qp f q = {} := rfl
@[simp] theorem State.reset_dom (d : Nat) : State.reset.dom d = domReset d := rfl

/-- No cycle has passed at reset, so a domain that is up shows the state it has reached. -/
theorem State.reset_domState (d : Nat) : State.reset.domState d = (domReset d).state.toNat := by
  have hmc : State.reset.mc = 0 := rfl
  simp [State.domState, hmc]

theorem domReset_target (d : Nat) : (domReset d).target.toNat = if d = 32 ∨ d = 33 ∨ d = 56 then 0 else 4 := by
  unfold domReset
  split <;> rfl

/-- At reset every domain is in the state that it is ordered to. -/
theorem domReset_state (d : Nat) : (domReset d).state = (domReset d).target := by
  unfold domReset
  split <;> rfl

/-- At reset every core's page reads as core 0's. -/
theorem corePageRead_reset (n off : Nat) : corePageRead State.reset n off = corePageRead State.reset 0 off := rfl

/-- PB2, which keeps INST_STATE, has not run at reset (log 30). -/
theorem instState_reset (m : Nat) : instRead State.reset m 0x100 = 0 := by
  unfold instRead
  cases State.reset.selInst m with
  | none => rfl
  | some p => rfl

theorem qpConfig_reset (f q : Nat) : qpRead State.reset f q 0x10 = 0x00070700 := by
  simp only [qpRead, State.reset_qp]
  rfl

/-- The registers of core 0's control page at reset (Tables 2.17, 6.9, 7.4, 9.4, 11.15, 15.12, 16.2). -/
theorem controlPage_reset :
    let r (o : Nat) : Word := corePageRead State.reset 0 (0x20000 + o)
    r 0x0 = 0 ∧ r 0x4 = 0x20000000 ∧ r 0x8 = 0 ∧ r 0x20 = 0 ∧ r 0x24 = 0 ∧ r 0x28 = 0 ∧ r 0x2C = 0 ∧ r 0x100 = 0 ∧ r 0x300 = 0 ∧ r 0x400 = 0
      ∧ r 0x500 = 0 ∧ r 0x600 = 0 ∧ (∀ k < 4, r (0x10 + 4 * k) = BitVec.ofNat 32 (32 * k + 8)) ∧ (∀ k < 32, r (0x200 + 4 * k) = 0)
      ∧ r 0x304 = 20 ∧ r 0x308 = 0x400 := by decide

/-- The registers of an L node at reset, which of its links LINK_SEL selects making no difference (Table 11.10). -/
theorem linkPage_reset (n : Nat) : linkPageRead State.reset n 0x004 = 0 ∧ linkPageRead State.reset n 0x008 = 0
    ∧ linkPageRead State.reset n 0x00C = 500 ∧ linkPageRead State.reset n 0x018 = 0x0FFF0FFF ∧ linkPageRead State.reset n 0x04C = 0 := by
  show ({} : Link).ctlWord = 0 ∧ ({} : Link).statWord = 0 ∧ ({} : Link).holdUs.zeroExtend 32 = (500 : Word) ∧ ({} : Link).seqWord = 0x0FFF0FFF
    ∧ packWord [(bn ({} : Rail).hold, 31), (({} : Rail).gen.toNat, 0)] = 0
  decide

/-- Settles O60: no map of State.reset lists anything, so one unit of each kind stands for all, and its registers are evaluated. -/
theorem resetLeavesTheStatedValues : Obligations.ResetLeavesTheStatedValues := by
  unfold Obligations.ResetLeavesTheStatedValues
  obtain ⟨h0, h4, h8, h20, h24, h28, h2c, h100, h300, h400, h500, h600, hTsw, hWin, h304, h308⟩ := controlPage_reset
  refine ⟨fun n _ => ?core, fun c => ?course, fun n => linkPage_reset n.val, rfl, rfl, fun d _ => ?dom, ?_⟩
  case core =>
    simp only [corePageRead_reset n.val]
    exact ⟨h0, h4, h8, h20, h24, h28, h2c, h100, h300, h400, h500, h600, hTsw, hWin, h304, h308,
      fun _ => rfl, rfl, rfl, rfl, rfl, rfl, fun _ => rfl⟩
  case course =>
    simp only [meshPageRead, State.reset_course]
    decide
  case dom =>
    rw [State.reset_domState, State.reset_dom, domReset_state]
    exact ⟨domReset_target d, rfl⟩
  exact ⟨rfl, rfl, rfl, rfl, by decide, rfl, rfl, fun fn q => qpConfig_reset fn.val q.toNat, instState_reset, rfl, rfl, rfl, rfl⟩

/-! ## Special registers -/

/-- An op that is no branch, no blocking op and no ifence gives what its evaluation says. -/
theorem opGives_of_eval {s : State} {i : Instr} {c : OpAt} {o : Op} {w : Thread → Thread} {a : State → State} (ho : opOf i = some (c, o))
    (hc : opClass o ≠ 3) (hb : blocking o = false) (hf : o ≠ .ifence) (he : evalOp (opCtx s c o) o = .done w a) : OpGives s i w a := by
  intro c' o' ho' hi
  obtain ⟨rfl, rfl⟩ : c = c' ∧ o = o' := by simpa [ho] using ho'
  rw [exec_opOf i c o ho]
  exact issueOne_done s c o w a hi he hc hb hf

/-- An op outside the branch unit reads its thread as the command finds it. -/
theorem opCtx_t (s : State) (c : OpAt) (o : Op) (hc : opClass o ≠ 3) : (opCtx s c o).t = opThread s c := by
  have ho := slotOps_opBundle s c o (opClass_ne_ext o)
  simp [opCtx, opIssued_thread, ho, isBru, hc, opThread]

/-! ### RSR, WSR and CRSR -/

section SpecialRegisters

variable (s : State) (c : OpAt) (rd ra : GReg) (sd : SReg) (n : Byte)

@[simp] theorem opCtx_rsr_t : (opCtx s c (.rsr rd n)).t = opThread s c := opCtx_t s c _ (show 1 ≠ 3 by decide)
@[simp] theorem opCtx_wsr_t : (opCtx s c (.wsr n ra)).t = opThread s c := opCtx_t s c _ (show 1 ≠ 3 by decide)
@[simp] theorem opCtx_crsr_t (m : GReg) : (opCtx s c (.crsr sd m)).t = opThread s c := opCtx_t s c _ (show 1 ≠ 3 by decide)

/-- RSR of a register other than the two of the timestamp writes rd alone. -/
theorem rsr_gives {v : Word} (hv : srRead (opCtx s c (.rsr rd n)) n = v) (h4 : n ≠ 0x04) (h5 : n ≠ 0x05) :
    OpGives s (.rsr c rd n) (fun u => u.setG rd v) id :=
  opGives_of_eval rfl (show 1 ≠ 3 by decide) rfl nofun (by simp only [evalOp, evalRsr, hv, if_neg h4, if_neg h5, OpRes.write])

/-- The upper word of the timestamp, as TIME_LO's read captures it. -/
theorem time_upper_eq : s.time.extractLsb' 32 32 = ((BitVec.ofNat 64 (s.mc / 16) >>> 32).truncate 32 : Word) := by
  apply BitVec.eq_of_toNat_eq
  simp [State.time]

theorem timeLo_eq_truncate : s.timeLo = ((BitVec.ofNat 64 (s.mc / 16) : DWord).truncate 32 : Word) := by
  unfold State.timeLo
  bv_omega

theorem rsr_timeLo : OpGives s (.rsr c rd 0x04)
    (fun u => { u.setG rd s.timeLo with timeShadow := some (s.time.extractLsb' 32 32) }) id :=
  opGives_of_eval rfl (show 1 ≠ 3 by decide) rfl nofun rfl

theorem rsr_timeHi : OpGives s (.rsr c rd 0x05)
    (fun u => { u.setG rd ((opThread s c).timeShadow.getD (s.time.extractLsb' 32 32)) with timeShadow := none }) id :=
  opGives_of_eval rfl (show 1 ≠ 3 by decide) rfl nofun (by
    rw [← opCtx_rsr_t s c rd 0x05]
    rfl)

/-- The numbers from 0x20 on are the handlers'. -/
theorem srRead_handler (x : Ctx) (h : 0x20 ≤ n) : srRead x n = mapGet 0 x.t.handlers (n.toNat - 0x20) := by
  have h' : 32 ≤ n.toNat := h
  unfold srRead
  split
  case h_10 => rfl
  all_goals omega

theorem srWrite_handler (t : Thread) (v : Word) (h : 0x20 ≤ n) :
    srWrite t n v = { t with handlers := mapSet 0 t.handlers (n.toNat - 0x20) v } := by
  have h' : 32 ≤ n.toNat := h
  unfold srWrite
  split
  case h_6 => rfl
  all_goals omega

theorem srWrite_tsw (t : Thread) (v : Word) : srWrite t 0x00 v = t.writeTsw v := rfl

theorem wsr_gives : OpGives s (.wsr c n ra) (fun u => srWrite u n ((opThread s c).getG ra)) id :=
  opGives_of_eval rfl (show 1 ≠ 3 by decide) rfl nofun (by simp only [evalOp, evalWsr, opCtx_wsr_t, OpRes.write])

/-- WSR TSW clears flags by ones and writes TH, which ESC holds (Table 2.5, R126). -/
theorem writeTsw_eq (u : Thread) (v : Word) :
    u.writeTsw v = { u with fpflags := u.fpflags &&& ~~~(v.extractLsb' 16 5), th := if u.esc then u.th else v.getLsbD 3 } := by
  have hf : BitVec.ofNat 5 (fieldOf v 20 16) = v.extractLsb' 16 5 := by
    apply BitVec.eq_of_toNat_eq
    simp [fieldOf, Nat.shiftRight_eq_div_pow]
  rw [Thread.writeTsw, hf]
  rfl

theorem crsr_gives (m : GReg) {k : Cap} (hk : evalCrsr (opCtx s c (.crsr sd m)) sd m = .write fun u => u.setS sd k) :
    OpGives s (.crsr c sd m) (fun u => u.setS sd k) id :=
  opGives_of_eval rfl (show 1 ≠ 3 by decide) rfl nofun hk

/-- WHO packs the logical core, course, region and thread. -/
theorem whoWord_eq (x : Ctx) : whoWord x = BitVec.ofNat 32 (x.logical + 2 ^ 5 * courseOf x.n + 2 ^ 10 * x.region.toNat + 2 ^ 15 * x.k.val) := by
  simp only [whoWord, packWord, List.foldl_cons, List.foldl_nil]
  congr 1
  ring

end SpecialRegisters

/-- Settles O3: every register access is an op that only writes its thread, so it gives what the read (write) of its number evaluates to. -/
theorem specialRegistersReadAndWrite : Obligations.SpecialRegistersReadAndWrite := by
  unfold Obligations.SpecialRegistersReadAndWrite
  intro s c rd ra sd n
  have hr := rsr_gives s c rd
  have hw := wsr_gives s c ra
  have hlo := rsr_timeLo s c rd
  have hhi := rsr_timeHi s c rd
  have hTsw := hw 0x00
  have hs := crsr_gives s c sd
  have ht := opCtx_rsr_t s c rd
  rw [time_upper_eq] at hlo hhi
  rw [timeLo_eq_truncate] at hlo
  simp only [srWrite_tsw, writeTsw_eq] at hTsw
  refine ⟨hr 0x00 (congrArg (·.tsw c.thread.val) (ht 0x00)) (by decide) (by decide),
    hr 0x01 (congrArg (·.faultEn.zeroExtend 32) (ht 0x01)) (by decide) (by decide), hr 0x02 (congrArg (·.seed) (ht 0x02)) (by decide) (by decide),
    hr 0x03 (congrArg (·.rmode.zeroExtend 32) (ht 0x03)) (by decide) (by decide), hlo, hhi, hr 0x06 (whoWord_eq _) (by decide) (by decide),
    hr 0x07 rfl (by decide) (by decide), hr 0x08 (congrArg (·.dret) (ht 0x08)) (by decide) (by decide), fun hn _ => ⟨?handlerRead, ?handlerWrite⟩,
    hTsw, hw 0x01, hw 0x02, hw 0x03, hw 0x08, hs 0 (by simp [evalCrsr]), hs 1 (by simp [evalCrsr]), hs 2 (by simp [evalCrsr])⟩
  case handlerRead =>
    refine hr n ?_ ?_ ?_
    · rw [srRead_handler n _ hn, ht]
    · rintro rfl; exact absurd hn (by decide)
    · rintro rfl; exact absurd hn (by decide)
  case handlerWrite => simpa only [srWrite_handler n _ _ hn] using hw n

/-! ## Registers by their address -/

/-! ### Association lists -/

section Assoc
variable {α κ : Type} [DecidableEq κ]

@[simp] theorem assocGet_assocSet_same (k : κ) (v : α) (m : List (κ × α)) : assocGet k (assocSet k v m) = some v := if_pos rfl

@[simp] theorem assocGet_assocDel_same (k : κ) (m : List (κ × α)) : assocGet k (assocDel k m) = none := by
  induction m with
  | nil => rfl
  | cons e m ih =>
    obtain ⟨j, v⟩ := e
    by_cases h : j = k
    · simpa [assocDel, h] using ih
    · simpa [assocDel, assocGet, h] using ih

end Assoc

/-! ### Word writes -/

/-- A word write from one who reaches the register is written. -/
theorem exec_registerWrite {s : State} {who : Accessor} {reg : RegAddr} (v : Word) (h : mayReach s who reg = true) :
    exec (.registerWrite who reg .word v) s = .next (regWrite who reg v s) := by
  show Host.Outcome.next (registerWrite who reg .word v s) = _
  rw [registerWrite, if_pos ⟨rfl, h⟩]

/-- A narrower write, or one from another, has no effect. -/
theorem exec_registerWrite_none {s : State} {who : Accessor} {reg : RegAddr} {size : AccessSize} (v : Word)
    (h : size ≠ .word ∨ mayReach s who reg = false) : exec (.registerWrite who reg size v) s = .next s := by
  show Host.Outcome.next (registerWrite who reg size v s) = _
  rw [registerWrite, if_neg]
  rintro ⟨hw, hr⟩
  cases h with
  | inl h => exact h hw
  | inr h => rw [h] at hr; cases hr

/-- Pegbox reaches the block of every node that is no core. -/
theorem mayReach_pb (s : State) (b : PbNo) (n : NodeNo) (off : BitVec 20) (h : isCore n.val = false) :
    mayReach s (.pb b) (.block n off) = true := by
  simp [mayReach, h, reachesNode, isPb]

theorem securityNode_service : nodeKind securityNode = .service := by decide

/-- A write of a node block that is a word of no 64-bit value goes to its page. -/
theorem regWrite_block (who : Accessor) (n : NodeNo) (off : BitVec 20) (v : Word) (s : State) (hw : wideOf (.block n off) = none)
    (ha : off.toNat % 4 = 0) : regWrite who (.block n off) v s = blockWrite n.val off.toNat who v s := by
  simp only [regWrite, hw, ha, if_true]

theorem regWrite_bar (who : Accessor) (f : FnNo) (off : BitVec 16) (v : Word) (s : State) (hw : wideOf (.bar0 f off) = none)
    (ha : off.toNat % 4 = 0) : regWrite who (.bar0 f off) v s = barWrite f who off.toNat v s := by
  simp only [regWrite, hw, ha, if_true]

/-- A memory node's block holds no 64-bit value. -/
theorem wideOf_hbm (n : NodeNo) (off : BitVec 20) (h : nodeKind n.val = .hbm) : wideOf (.block n off) = none := by
  have hs : n.val ≠ securityNode := by
    intro e; rw [e, securityNode_service] at h; cases h
  simp [wideOf, h, hs]

/-- A 64-bit value's words at an L node are at offsets 0x044 and 0x048. -/
theorem wideOf_link (n : NodeNo) (off : BitVec 20) (h : nodeKind n.val = .link) (hl : off.toNat ≠ 0x044) (hh : off.toNat ≠ 0x048) :
    wideOf (.block n off) = none := by
  simp [wideOf, h, hl, hh]

theorem write_crcRetry (s : State) (b : PbNo) (node : NodeNo) (v : Word) (h : nodeKind node.val = .hbm) :
    exec (.registerWrite (.pb b) (.block node 0x80020) .word v) s = .next (s.modCourse (courseOf node.val) fun x => { x with crcRetry := v }) := by
  rw [exec_registerWrite v (mayReach_pb s b node _ (by simp [isCore, h])), regWrite_block _ _ _ _ _ (wideOf_hbm node _ h) (by decide)]
  simp [blockWrite, h, meshPageWrite]

theorem write_holdUs (s : State) (b : PbNo) (node : NodeNo) (v : Word) (h : nodeKind node.val = .link) :
    exec (.registerWrite (.pb b) (.block node 0x0000C) .word v) s
      = .next (s.modLink (s.selLink node.val) fun k => { k with holdUs := v.truncate 16 }) := by
  rw [exec_registerWrite v (mayReach_pb s b node _ (by simp [isCore, h])),
    regWrite_block _ _ _ _ _ (wideOf_link node _ h (by decide) (by decide)) (by decide)]
  simp [blockWrite, h, linkPageWrite]

theorem write_wdog (s : State) (b : PbNo) (v : Word) :
    exec (.registerWrite (.pb b) (.block (Fin.ofNat 960 pegboxNode) 0x00008) .word v) s = .next (modPb (fun p => { p with wdogMs := v.truncate 16 }) s) := by
  rw [exec_registerWrite v (mayReach_pb s b _ _ (by decide)), regWrite_block _ _ _ _ _ (by decide) (by decide)]
  rfl

theorem write_hostErr (s : State) (f : FnNo) (v : Word) :
    exec (.registerWrite (.fn f) (.bar0 f 0x1020) .word v) s = .next (modHostErr f.val (·.clear v) s) := by
  have hr : mayReach s (.fn f) (.bar0 f 0x1020) = true := by simp [mayReach, reachesBar]
  rw [exec_registerWrite v hr]
  have hp : qpPlace f.val 0x1020 = none := by simp [qpPlace]
  have hw : wideOf (.bar0 f 0x1020) = none := by simp [wideOf, hp]
  have hi : inWindow f.val 0x1020 = false := by
    unfold inWindow; split <;> decide
  rw [regWrite_bar _ _ _ _ _ hw (by decide)]
  simp [barWrite, hi, hp, statusWrite]

/-! ### 64-bit values (R3) -/

@[simp] theorem wideValue_modWide (s : State) (f : WideRegs → WideRegs) (r : WideReg) : wideValue (modWide f s) r = wideValue s r := by
  cases r <;> rfl

@[simp] theorem railAdvance_wide (s : State) : (railAdvance s).wide = s.wide := by
  unfold railAdvance; split <;> rfl

theorem pbDoes_wide (n : Nat) (w : PbWork) (act : State → State) (s : State) (h : (act s).wide = s.wide) : (pbDoes n w act s).wide = s.wide := by
  unfold pbDoes; split
  · exact h
  · rfl

theorem writeTraceBase_wide (v : DWord) (s : State) : (writeTraceBase v s).wide = s.wide := by
  unfold writeTraceBase; split <;> rfl

/-- Taking both words of a value touches neither the holding registers nor the shadows. -/
@[simp] theorem wideTake_wide (r : WideReg) (lo hi : Word) (s : State) : (wideTake r lo hi s).wide = s.wide := by
  cases r with
  | rail => exact (railAdvance_wide _).trans (pbDoes_wide _ _ _ _ rfl)
  | traceBase => exact writeTraceBase_wide _ _
  | aperture f => rfl
  | sqBase f q => rfl
  | cqBase f q => rfl

section Fields
variable {α : Type} [DecidableEq α] (old new : α)

/-- A quiesce field takes its value while its block is stopped (R11). -/
theorem fieldWrite_stopped : (fieldWrite false false old new).1 = new := by
  unfold fieldWrite
  split
  · next h => exact h.symm
  · rfl

/-- A quiesce field holds while its block runs (R11). -/
theorem fieldWrite_running : (fieldWrite false true old new).1 = old := by
  unfold fieldWrite
  split <;> rfl

end Fields

theorem Qp.writeBase_sq (x : Qp) (v : DWord) (h : x.en = false) : (x.writeBase false v).sqBase = v := by
  show (fieldWrite false x.en x.sqBase v).1 = v
  rw [h, fieldWrite_stopped]

theorem Qp.writeBase_cq_held (x : Qp) (v : DWord) (h : x.en = true) : (x.writeBase true v).cqBase = x.cqBase := by
  show (fieldWrite false x.en x.cqBase v).1 = x.cqBase
  rw [h, fieldWrite_running]

section Named
variable {s : State} {who : Accessor} {reg : RegAddr} {r : WideReg}

theorem exec_wideLowWrite (v : Word) (h : wideNamed s who reg false = some r) :
    exec (.wideLowWrite who reg v) s = .next (wideLowWrite who r v s) :=
  show execWideLowWrite who reg v s = _ by simp only [execWideLowWrite, h]

theorem exec_wideLowRead (h : wideNamed s who reg false = some r) :
    exec (.wideLowRead who reg) s = .next (returned (wideLowRead who r s)) :=
  show execWideLowRead who reg s = _ by simp only [execWideLowRead, h]

theorem exec_wideHighRead (h : wideNamed s who reg true = some r) :
    exec (.wideHighRead who reg) s = .next (returned (wideHighRead who r s)) :=
  show execWideHighRead who reg s = _ by simp only [execWideHighRead, h]

/-- A write of the upper word takes the low word that the accessor's holding register holds. -/
theorem exec_wideHighWrite (v : Word) {lo : Word} (h : wideNamed s who reg true = some r) (hlo : assocGet (who, r.key) s.wide.hold = some lo) :
    exec (.wideHighWrite who reg v) s
      = .next (wideTake r lo v (modWide (fun w => { w with hold := assocDel (who, r.key) w.hold }) s)) := by
  show execWideHighWrite who reg v s = _
  simp only [execWideHighWrite, h, wideHighWrite, heldLow, hlo, Option.getD_some]

/-- The upper word's read uses the accessor's shadow up. -/
theorem wideHighRead_shadow : assocGet (who, r.key) (wideHighRead who r s).2.wide.shadow = none := by
  unfold wideHighRead
  split
  · rw [railAdvance_wide]; exact assocGet_assocDel_same _ _
  · exact assocGet_assocDel_same _ _

end Named

theorem wideTake_sqBase (f : FnNo) (q : Nat) (lo hi : Word) (s : State) (h : (s.qp f.val q).en = false) :
    ((wideTake (.sqBase f q) lo hi s).qp f.val q).sqBase = hi ++ lo := by
  rw [wideTake, modQp_same]
  exact Qp.writeBase_sq _ _ h

/-- A completion ring's base holds while its pair is enabled (R346). -/
theorem wideTake_cqBase_held (f : FnNo) (q : Nat) (lo hi : Word) (s : State) (h : (s.qp f.val q).en = true) :
    ((wideTake (.cqBase f q) lo hi s).qp f.val q).cqBase = (s.qp f.val q).cqBase := by
  rw [wideTake, modQp_same]
  exact Qp.writeBase_cq_held _ _ h

/-- APERTURE_BASE.BASE is bits 47:20 of the value. -/
theorem wideTake_aperture (f : FnNo) (lo hi : Word) (s : State) :
    ((wideTake (.aperture f) lo hi s).aperture f.val).base.toNat = (hi ++ lo : DWord).toNat / 2 ^ 20 % 2 ^ 28 := by
  have h : (wideTake (.aperture f) lo hi s).aperture f.val = _ := mapGet_mapSet_same _ _ _ _
  rw [h, BitVec.toNat_ofNat]

/-- TRACE_BASE is a multiple of 4,096. -/
theorem wideTake_traceBase (lo hi : Word) (s : State) (h : s.sec.traceEn = false) :
    (wideTake .traceBase lo hi s).sec.traceBase.toNat = (hi ++ lo : DWord).toNat / 4096 * 4096 := by
  have hlt : (hi ++ lo : DWord).toNat / 4096 * 4096 < 2 ^ 64 := by omega
  simp only [wideTake, writeTraceBase, h]
  exact Nat.mod_eq_of_lt hlt

/-- Settles O52: a word write is the write of its page's register, and the 64-bit values go through their accessor's holding register and
shadow, which taking a value leaves alone. -/
theorem registersAreReadAndWritten : Obligations.RegistersAreReadAndWritten := by
  unfold Obligations.RegistersAreReadAndWritten
  intro s who reg v
  refine ⟨fun size h => exec_registerWrite_none v h,
    fun node b h => ⟨_, write_crcRetry s b node v h, by rw [State.modCourse_course_same], rfl⟩,
    fun node b h => ⟨_, write_holdUs s b node v h, by rw [State.modLink_link_same], by rw [State.modLink_link_same], rfl⟩,
    fun b => ⟨_, write_wdog s b v, rfl⟩, fun f => ⟨_, write_hostErr s f v, modHostErr_same s f.val _⟩, fun r h => ⟨?lowWrite, ?lowRead⟩,
    fun r h => ⟨?highRead, fun lo hlo => ?highWrite⟩⟩
  case lowWrite => exact ⟨_, exec_wideLowWrite v h, assocGet_assocSet_same _ _ _, wideValue_modWide s _ r⟩
  case lowRead => exact ⟨_, exec_wideLowRead h, rfl, assocGet_assocSet_same _ _ _⟩
  case highRead => exact ⟨_, exec_wideHighRead h, wideHighRead_shadow, rfl⟩
  case highWrite =>
    refine ⟨_, exec_wideHighWrite v h hlo, ?_, ?_, ?_, ?_, ?_⟩
    · rw [wideTake_wide]; exact assocGet_assocDel_same _ _
    · rintro f q rfl; exact wideTake_sqBase f q lo v _
    · rintro f q rfl; exact wideTake_cqBase_held f q lo v _
    · rintro f rfl; exact wideTake_aperture f lo v _
    · rintro rfl ht; exact wideTake_traceBase lo v _ ht

/-! ## Packets at a node's port -/

/-! ### Taking a packet -/

section Take
variable {α : Type}

theorem findWith_head (f : α → Bool) (x : α) (xs : List α) (h : f x = true) : findWith f (x :: xs) = some (0, x) := by simp [findWith, h]

theorem findWith_none (f : α → Bool) (xs : List α) (h : ∀ x ∈ xs, f x = false) : findWith f xs = none := by
  induction xs with
  | nil => rfl
  | cons x xs ih =>
    have hx : f x = false := h x List.mem_cons_self
    have hxs : findWith f xs = none := ih fun y hy => h y (List.mem_cons_of_mem _ hy)
    simp [findWith, hx, hxs]

theorem removeFirst_head (f : α → Bool) (x : α) (xs : List α) (h : f x = true) : removeFirst f (x :: xs) = xs := by simp [removeFirst, h]

variable {s : State} {n : Nat} {p : Packet} {rest : List Packet} {want : Packet → Bool}

theorem takeRx_head (hrx : (s.node n).rx = p :: rest) (hw : want p = true) :
    takeRx n want s = some (p, s.modNode n fun x => { x with rx := rest }) := by
  simp [takeRx, takeFirst, hrx, findWith_head want p rest hw]

theorem takeRx_none (h : ∀ q ∈ (s.node n).rx, want q = false) : takeRx n want s = none := by
  simp [takeRx, takeFirst, findWith_none want _ h]

theorem takeCtrl_head (hc : (s.node n).ctrl = p :: rest) (hw : want p = true) :
    takeCtrl n want s = some (p, s.modNode n fun x => { x with ctrl := rest }) := by
  simp [takeCtrl, takeInOrder, hc, hw]

theorem takeCtrl_nil (hc : (s.node n).ctrl = []) : takeCtrl n want s = none := by
  simp [takeCtrl, takeInOrder, hc]

theorem takeCtrl_single (hc : (s.node n).ctrl = [p]) (hw : want p = false) : takeCtrl n want s = none := by
  simp [takeCtrl, takeInOrder, hc, hw]

/-- The port serves the oldest request where its kind, the core's own or others', has its turn or the other kind waits for nothing (R200). -/
theorem nextRequest_head (hrx : (s.node n).rx = p :: rest) (ha : isAnswer p = false)
    (turn : fromSelf n p = (s.core n).portOwn → ∀ q ∈ rest, isAnswer q = false → fromSelf n q = fromSelf n p) :
    nextRequest n s = some (p, s.modNode n fun x => { x with rx := rest }) := by
  have hHead (want : Packet → Bool) (hw : want p = true) := takeRx_head hrx hw
  have hNone (want : Packet → Bool) (hp : want p = false) (hq : ∀ q ∈ rest, want q = false) : takeRx n want s = none :=
    takeRx_none (by rw [hrx]; simpa [hp] using hq)
  unfold nextRequest
  cases hs : fromSelf n p <;> cases ho : (s.core n).portOwn
  · have hq : ∀ q ∈ rest, (! isAnswer q && fromSelf n q) = false := fun q hq => by
      cases h : isAnswer q with
      | true => rfl
      | false => rw [turn (by rw [hs, ho]) q hq h, hs]; rfl
    rw [hNone _ (by simp [hs]) hq, hHead _ (by simp [ha, hs])]
    rfl
  · rw [hHead (fun q => ! isAnswer q && ! fromSelf n q) (by simp [ha, hs])]
    rfl
  · rw [hHead _ (by simp [ha, hs])]
    rfl
  · have hq : ∀ q ∈ rest, (! isAnswer q && ! fromSelf n q) = false := fun q hq => by
      cases h : isAnswer q with
      | true => rfl
      | false => rw [turn (by rw [hs, ho]) q hq h, hs]; rfl
    rw [hHead (fun q => ! isAnswer q && fromSelf n q) (by simp [ha, hs]), hNone _ (by simp [hs]) hq]
    rfl

end Take

/-! ### A core's control page -/

@[simp] theorem padTo_leBytes (k x : Nat) : padTo k (leBytes k x) = leBytes k x := by
  have hl : (leBytes k x).length = k := by
    induction k generalizing x with
    | zero => rfl
    | succ k ih => simp [leBytes, ih]
  simp [padTo, hl]

/-- One aligned word. -/
theorem pageWords_four {off : Nat} (h : off % 4 = 0) : pageWords off 4 = [off] := by simp [pageWords, h]

section Page
variable {s : State} {n : Nat} {p : Packet} {off : Nat}

theorem portRefusal_none (hl : (s.core n).lost = none) (he : s.exposed n = true)
    (hv : (s.course (courseOf n)).valid = true ∨ p.h.region = 0x3F) : portRefusal s n p = none := by
  have hc : coreRefusal s n = none := by simp [coreRefusal, hl, he]
  cases hv with
  | inl hv => simp [portRefusal, hc, hv]
  | inr hr => simp [portRefusal, hc, hr]

theorem corePort_block (hr : portRefusal s n p = none) (hp : placeOfAddr p.h.addr = .block n off) :
    corePort n p s = blockAccess n p off s := by
  simp [corePort, hr, hp]

/-- The control page and the Plectrum page are open to the core's own region and Pegbox (log 25). -/
theorem blockAccess_page (hlo : 0x20000 ≤ off) (hhi : off < 0x22000) :
    blockAccess n p off s = if ownRegion s n p = true ∨ fromPegbox p = true then pageAccess n p off s else refuse n p refWindow s := by
  have h1 : ¬ 0x22000 ≤ off := by omega
  have h2 : ¬ 0x23000 ≤ off := by omega
  have h3 : ¬ off < 0x20000 := by omega
  cases ho : ownRegion s n p <;> cases hp : fromPegbox p <;> simp [blockAccess, hhi, h1, h2, h3, ho, hp]

theorem pageAccess_write (ha : off % 4 = 0) (hk : p.h.kind = kWrite) (hl : p.data.length = 4) :
    pageAccess n p off s = (corePageWrite (packetWho p) n off (wordAt p.data 0) s).send (ackOf n p) := by
  have h1 : kWrite ≠ kRdb := by decide
  have h2 : kWrite ≠ kRead := by decide
  simp [pageAccess, hk, h1, h2, hl, pageWords_four ha]

theorem pageAccess_read (ha : off % 4 = 0) (hk : p.h.kind = kRead) (hl : readCount p = 4) :
    pageAccess n p off s = s.send (dataOf n p (leBytes 4 (corePageRead s n off).toNat)) := by
  have h1 : kRead ≠ kRdb := by decide
  simp [pageAccess, hk, h1, hl, pageWords_four ha]

end Page

/-- The next request at a core is served at its port. -/
theorem exec_corePort {s : State} {node : NodeNo} {p : Packet} {s1 : State} (hc : isCore node.val = true)
    (hn : nextRequest node.val s = some (p, s1)) : exec (.networkPortAccess node) s =
      .next (settle node.val (corePort node.val p (s1.modCore node.val fun c => { c with portOwn := fromSelf node.val p }))) := by
  show Host.Outcome.next (networkPort node.val s) = _
  rw [networkPort, if_pos hc, corePortAccess, hn]

/-! ### A node that is no core -/

section Node
variable {s : State} {n : Nat} {p : Packet} {off : Nat}

/-- A node that is no core's serves the oldest request for its block. -/
theorem otherPort_link {rest : List Packet} (hk : nodeKind n = .link) (hc : (s.node n).ctrl = []) (hrx : (s.node n).rx = p :: rest)
    (ha : isAnswer p = false) (hm : p.h.module = 0xFFFF) :
    otherPort n s = (nodeAccess n p (s.modNode n fun x => { x with rx := rest })).getD s := by
  have ht := takeRx_head (want := fun p => decide (p.h.module = 0xFFFF) && ! isAnswer p && true) hrx (by simp [ha, hm])
  simp only [otherPort, strayCtrl, takeCtrl_nil hc, Option.map_none, hk, blockPort, ht, takeThen, Option.bind_some]

theorem blockMaps_four (ha : off % 4 = 0) : blockMaps n off 4 = placesReg n off := by
  have hd : (off + 3) / 4 - off / 4 = 0 := by omega
  have hm : 4 * (off / 4) = off := by omega
  simp [blockMaps, wordsOf, hd, hm]

/-- An L node's block is open to Pegbox alone. -/
theorem nodeAccess_stranger (hk : nodeKind n = .link) (hp : placeOfAddr p.h.addr = .block n off) (hs : fromPegbox p = false) :
    nodeAccess n p s = some (s.send (refusalOf n p refUnmapped)) := by
  have hn : n ≠ pegboxNode := by
    rintro rfl
    exact absurd hk (by decide)
  have hr : reachesNode n (packetWho p) = false := by
    unfold packetWho
    split
    · simp_all
    · split <;> simp [reachesNode, isPb, hn]
  simp [nodeAccess, hp, hr]

theorem packetWho_pegbox (hs : fromPegbox p = true) : packetWho p = .pb 2 := by simp [packetWho, hs]

/-- An access of Pegbox for bytes that no register holds is refused. -/
theorem nodeAccess_unplaced (hp : placeOfAddr p.h.addr = .block n off) (hs : blockMaps n off (blockLen p) = false) :
    nodeAccess n p s = some (s.send (refusalOf n p refUnmapped)) := by
  simp [nodeAccess, hp, hs]

theorem nodeAccess_write {node : NodeNo} (hp : placeOfAddr p.h.addr = .block node.val off) (hs : fromPegbox p = true)
    (hr : placesReg node.val off = true) (ha : off % 4 = 0) (hk : p.h.kind = kWrite) (hl : p.data.length = 4) :
    nodeAccess node.val p s = some ((regWrite (.pb 2) (.block node (BitVec.ofNat 20 off)) (wordAt p.data 0) s).send (ackOf node.val p)) := by
  have h1 : kWrite ≠ kRdb := by decide
  have h2 : kWrite ≠ kRead := by decide
  have hb : blockMaps node.val off (blockLen p) = true := by simp [blockLen, hk, h1, h2, hl, blockMaps_four ha, hr]
  simp [nodeAccess, hp, packetWho_pegbox hs, hs, hb, reachesNode, isPb, hk, h1, h2, hl, pageWords_four ha, writeWords, List.range_succ]

theorem nodeAccess_read {node : NodeNo} (hp : placeOfAddr p.h.addr = .block node.val off) (hs : fromPegbox p = true)
    (hr : placesReg node.val off = true) (ha : off % 4 = 0) (hk : p.h.kind = kRead) (hl : readCount p = 4) :
    nodeAccess node.val p s = some ((regRead (.pb 2) (.block node (BitVec.ofNat 20 off)) s).2.send
      (dataOf node.val p (leBytes 4 (regRead (.pb 2) (.block node (BitVec.ofNat 20 off)) s).1.toNat))) := by
  have h1 : kRead ≠ kRdb := by decide
  have hb : blockMaps node.val off (blockLen p) = true := by simp [blockLen, hk, h1, hl, blockMaps_four ha, hr]
  simp [nodeAccess, hp, packetWho_pegbox hs, hs, hb, reachesNode, isPb, hk, h1, hl, pageWords_four ha, readWords]

theorem nodeAccess_rdb (hp : placeOfAddr p.h.addr = .block n off) (hs : fromPegbox p = true) (hr : placesReg n off = true)
    (ha : off % 4 = 0) (hk : p.h.kind = kRdb) : nodeAccess n p s = rdbAt n off p s := by
  have hb : blockMaps n off (blockLen p) = true := by simp [blockLen, hk, blockMaps_four ha, hr]
  simp [nodeAccess, hp, packetWho_pegbox hs, hs, hb, reachesNode, isPb, hk]

theorem rdbAt_held (hc : (rdbCondition s n off).isSome = true) (ho : asksOnce p = false) (hl : (s.node n).rdbs.length < rdbRoom) :
    rdbAt n off p s = some (s.modNode n fun x => { x with rdbs := x.rdbs ++ [p] }) := by
  obtain ⟨met, hmet⟩ := Option.isSome_iff_exists.mp hc
  simp [rdbAt, hmet, ho, hl]

theorem rdbAt_once (hc : rdbCondition s n off = some false) (ho : asksOnce p = true) :
    rdbAt n off p s = some (s.send (rspErrOf n p 0)) := by
  simp [rdbAt, hc, ho]

end Node

/-! ### Held rdbs and their cancels (R273) -/

section Held
variable {s : State} {n : Nat}

/-- LINK_EVT's blocking condition (R333). -/
theorem rdbCondition_evt (s : State) (hk : nodeKind n = .link) : rdbCondition s n 0x24 = some (decide ((s.lnode n).evt ≠ 0)) := by
  rw [rdbCondition, if_pos hk, if_pos rfl]

/-- RAIL_GEN_DRAIN's blocking condition (R333). -/
theorem rdbCondition_drain (s : State) (hk : nodeKind n = .link) : rdbCondition s n 0x50 = some s.allDrained := by
  rw [rdbCondition, if_pos hk, if_neg (by decide), if_pos rfl]

/-- No other register of an L node has one. -/
theorem rdbCondition_none (s : State) {off : Nat} (h1 : off ≠ 0x24) (h2 : off ≠ 0x50) : rdbCondition s n off = none := by
  rw [rdbCondition, if_neg h1, if_neg h2, ite_self]

/-- When an L node answers a held rdb. -/
theorem rdbCondition_met (off : Nat) (hk : nodeKind n = .link) :
    rdbCondition s n off = some true ↔ (off = 0x24 ∧ (s.lnode n).evt ≠ 0) ∨ (off = 0x50 ∧ s.allDrained = true) := by
  by_cases h1 : off = 0x24
  · simp [h1, rdbCondition_evt s hk]
  · by_cases h2 : off = 0x50
    · simp [h2, rdbCondition_drain s hk]
    · simp [h1, h2, rdbCondition_none s h1 h2]

theorem rdbMet_none (h : ∀ q ∈ (s.node n).rdbs, rdbCondition s n (rdbOff q) ≠ some true) : rdbMet n s = s := by
  have hf : findWith (fun p => decide (rdbCondition s n (rdbOff p) = some true)) (s.node n).rdbs = none :=
    findWith_none _ _ (by simpa using h)
  rw [rdbMet, hf]

theorem rdbMet_head {node : NodeNo} {p : Packet} {rest : List Packet} (hr : (s.node node.val).rdbs = p :: rest)
    (hm : rdbCondition s node.val (rdbOff p) = some true) (hs : fromPegbox p = true) :
    let v := s.modNode node.val fun x => { x with rdbs := rest }
    let r := regRead (.pb 2) (.block node (BitVec.ofNat 20 (rdbOff p))) v
    rdbMet node.val s = r.2.send (dataOf node.val p (padTo 16 (leBytes 4 r.1.toNat))) := by
  have hf : findWith (fun p => decide (rdbCondition s node.val (rdbOff p) = some true)) (s.node node.val).rdbs = some (0, p) := by
    rw [hr]; exact findWith_head _ _ _ (by simp [hm])
  have hv : (s.modNode node.val fun x => { x with rdbs := x.rdbs.eraseIdx 0 }) = s.modNode node.val fun x => { x with rdbs := rest } := by
    simp only [State.modNode, hr, List.eraseIdx_cons_zero]
  have hn : Fin.ofNat 960 node.val = node := by simp
  simp only [rdbMet, hf, hv, readWords, packetWho_pegbox hs, List.append_nil, hn]

variable {c p : Packet} {cs rest : List Packet}

/-- A CANCEL alone at its node that has overtaken its request waits. -/
theorem cancelArrive_early (hc : (s.node n).ctrl = [c]) (he : cancelEarly s c = true) : cancelArrive n s = s := by
  rw [cancelArrive, takeCtrl_single hc (by simp [he])]

/-- A CANCEL first at its node that has overtaken nothing is taken. -/
theorem takeCtrl_cancel (hc : (s.node n).ctrl = c :: cs) (hm : c.h.module = 0xFFFF) (hk : c.h.kind = kCancel) (he : cancelEarly s c = false) :
    takeCtrl n (fun p => decide (p.h.module = 0xFFFF ∧ p.h.kind = kCancel) && ! cancelEarly s p) s
      = some (c, s.modNode n fun x => { x with ctrl := cs }) :=
  takeCtrl_head hc (by simp [hm, hk, he])

/-- A CANCEL drops the held request that it names and acknowledges it. -/
theorem cancelArrive_held (hc : (s.node n).ctrl = c :: cs) (hm : c.h.module = 0xFFFF) (hk : c.h.kind = kCancel) (he : cancelEarly s c = false)
    (hr : (s.node n).rdbs = p :: rest) (hp : cancels c p = true) :
    cancelArrive n s = ((s.modNode n fun x => { x with ctrl := cs }).modNode n fun x => { x with rdbs := rest }).send (ackOf n c) := by
  have ha : (((s.modNode n fun x => { x with ctrl := cs }).node n).rdbs.any (cancels c)) = true := by simp [hr, hp]
  simp only [cancelArrive, takeCtrl_cancel hc hm hk he, ha, if_true]
  simp only [State.modNode, State.setNode_node_same, hr, removeFirst_head _ _ _ hp]

/-- A CANCEL of a request that is no longer there changes nothing else. -/
theorem cancelArrive_absent (hc : (s.node n).ctrl = c :: cs) (hm : c.h.module = 0xFFFF) (hk : c.h.kind = kCancel) (he : cancelEarly s c = false)
    (h : ∀ q ∈ (s.node n).rdbs ++ (s.node n).rx, cancels c q = false) :
    cancelArrive n s = s.modNode n fun x => { x with ctrl := cs } := by
  have ha : ¬ ((s.modNode n fun x => { x with ctrl := cs }).node n).rdbs.any (cancels c) = true := by
    simpa using fun q hq => h q (List.mem_append_left _ hq)
  have hx : takeRx n (cancels c) (s.modNode n fun x => { x with ctrl := cs }) = none :=
    takeRx_none (by simpa using fun q hq => h q (List.mem_append_right _ hq))
  simp only [cancelArrive, takeCtrl_cancel hc hm hk he, if_neg ha, hx]

end Held

/-! ### What the port of a core and of an L node answers -/

/-- A request for the control page or the Plectrum page of a core that is exposed and not lost (R200, R204, R300). -/
theorem exec_controlPage {s : State} {node : NodeNo} {p : Packet} {rest : List Packet} {off : Nat} (hc : isCore node.val = true)
    (hrx : (s.node node.val).rx = p :: rest) (ha : isAnswer p = false)
    (turn : fromSelf node.val p = (s.core node.val).portOwn → ∀ q ∈ rest, isAnswer q = false → fromSelf node.val q = fromSelf node.val p)
    (hl : (s.core node.val).lost = none) (he : s.exposed node.val = true)
    (hv : (s.course (courseOf node.val)).valid = true ∨ p.h.region = 0x3F)
    (hp : placeOfAddr p.h.addr = .block node.val off) (hlo : 0x20000 ≤ off) (hhi : off < 0x22000) :
    let v := (s.modNode node.val fun x => { x with rx := rest }).modCore node.val fun c => { c with portOwn := fromSelf node.val p }
    exec (.networkPortAccess node) s = .next (settle node.val
      (if ownRegion s node.val p = true ∨ fromPegbox p = true then pageAccess node.val p off v else refuse node.val p refWindow v)) := by
  intro v
  have hr : portRefusal v node.val p = none := portRefusal_none (by simp [v, hl]) he hv
  rw [exec_corePort hc (nextRequest_head hrx ha turn), corePort_block hr hp, blockAccess_page hlo hhi]
  rfl

theorem ownRegion_or_fromPegbox_iff (s : State) (n : Nat) (p : Packet) : (ownRegion s n p = true ∨ fromPegbox p = true)
    ↔ (p.h.snode.toNat = pegboxNode ∨ (s.course (courseOf n)).valid = true ∧ p.h.region = (s.regionOf n).zeroExtend 6) := by
  simp only [ownRegion, fromPegbox, Bool.and_eq_true, decide_eq_true_eq]
  exact or_comm

/-- A request at an L node's port whose target's answer is known. -/
theorem exec_linkPort {s t : State} {node : NodeNo} {p : Packet} {rest : List Packet} (hk : nodeKind node.val = .link)
    (hc : (s.node node.val).ctrl = []) (hrx : (s.node node.val).rx = p :: rest) (ha : isAnswer p = false) (hm : p.h.module = 0xFFFF)
    (ht : nodeAccess node.val p (s.modNode node.val fun x => { x with rx := rest }) = some t) : exec (.networkPortAccess node) s = .next t := by
  have hn : isCore node.val = false := by simp [isCore, hk]
  show Host.Outcome.next (networkPort node.val s) = _
  rw [networkPort, hn, if_neg (by decide), otherPort_link hk hc hrx ha hm, ht, Option.getD_some]

theorem placesReg_condition {n off : Nat} (hk : nodeKind n = .link) (ho : off = 0x24 ∨ off = 0x50) : placesReg n off = true := by
  rcases ho with rfl | rfl <;> simp [placesReg, hk]

theorem rdbCondition_false {s : State} {n off : Nat} (hk : nodeKind n = .link) (ho : off = 0x24 ∨ off = 0x50)
    (he : off = 0x24 → (s.lnode n).evt = 0) (hd : off = 0x50 → s.allDrained = false) : rdbCondition s n off = some false := by
  rcases ho with rfl | rfl
  · rw [rdbCondition_evt s hk, he rfl]; rfl
  · rw [rdbCondition_drain s hk, hd rfl]

/-- Taking a packet that is no hand-off leaves every L node as drained as it was (R322). -/
theorem allDrained_takeRx {s : State} {n : Nat} {p : Packet} {rest : List Packet} (hrx : (s.node n).rx = p :: rest)
    (hp : isHandoff p = false) : (s.modNode n fun x => { x with rx := rest }).allDrained = s.allDrained := by
  have hd (m : Nat) : (s.modNode n fun x => { x with rx := rest }).drained m = s.drained m := by
    by_cases hm : m = n
    · subst hm
      simp only [State.drained, State.modNode_node_same, hrx, List.cons_append, List.all_cons, hp, Bool.false_and, Bool.not_false,
        Bool.true_and]
      rfl
    · simp only [State.drained, State.modNode_node_ne _ _ _ _ hm]
      rfl
  simp only [State.allDrained, funext hd]

/-- Settles O33: the request at the head of the port is the one served, what its node does with it is the page's (register's) access, and the
held requests answer and are dropped by the conditions that two registers of an L node have. -/
theorem portsServeRegistersAndHoldRdbs : Obligations.PortsServeRegistersAndHoldRdbs := by
  unfold Obligations.PortsServeRegistersAndHoldRdbs
  intro s node p rest off n at_ hp ha
  refine ⟨fun hrx hans => ⟨fun hc hl he hv hlo hhi turn => ?core, fun hk hctrl hm => ?linkPort⟩, fun hk => ?heldRdbs,
    fun c cs hc hm hk => ?cancel⟩
  case core =>
    intro v
    have hserve : exec (.networkPortAccess node) s = .next (settle n
        (if ownRegion s n p = true ∨ fromPegbox p = true then pageAccess n p off v else refuse n p refWindow v)) :=
      exec_controlPage hc hrx hans turn hl he hv hp hlo hhi
    rw [hserve]
    refine ⟨fun ho hkind hlen => ?_, fun ho hkind hlen => ?_, fun ho => ?_⟩
    · rw [if_pos ((ownRegion_or_fromPegbox_iff s n p).mpr ho), pageAccess_write ha hkind hlen]
    · rw [if_pos ((ownRegion_or_fromPegbox_iff s n p).mpr ho), pageAccess_read ha hkind hlen]
    · rw [if_neg (mt (ownRegion_or_fromPegbox_iff s n p).mp ho)]
      rfl
  case linkPort =>
    have hserve (t : State) := exec_linkPort (t := t) hk hctrl hrx hans hm
    have hpb (h : p.h.snode.toNat = pegboxNode) : fromPegbox p = true := decide_eq_true h
    have hrdb (hs : p.h.snode.toNat = pegboxNode) (hkind : p.h.kind = kRdb) (ho : off = 0x24 ∨ off = 0x50) :
        nodeAccess n p (s.modNode n fun x => { x with rx := rest }) = rdbAt n off p (s.modNode n fun x => { x with rx := rest }) :=
      nodeAccess_rdb hp (hpb hs) (placesReg_condition hk ho) ha hkind
    refine ⟨fun hr => ⟨fun hs hkind hlen => ?_, fun hs hkind hlen => ?_⟩, fun hs hkind ho => ⟨fun hask hroom => ?_, fun hask he hd => ?_⟩,
      fun hr hs hkind => ?_, fun hs => ?_⟩
    · exact hserve _ (nodeAccess_write hp (hpb hs) hr ha hkind hlen)
    · exact hserve _ (nodeAccess_read hp (hpb hs) hr ha hkind hlen)
    · have hcond : (rdbCondition (s.modNode n fun x => { x with rx := rest }) n off).isSome = true := by
        rcases ho with rfl | rfl
        · rw [rdbCondition_evt _ hk, Option.isSome_some]
        · rw [rdbCondition_drain _ hk, Option.isSome_some]
      exact hserve _ ((hrdb hs hkind ho).trans (rdbAt_held hcond hask (by simpa [rdbRoom] using hroom)))
    · have hdrain := allDrained_takeRx hrx (by simp [isHandoff, hm])
      exact hserve _ ((hrdb hs hkind ho).trans (rdbAt_once (rdbCondition_false hk ho he fun h => hdrain.trans (hd h)) hask))
    · have hlen : blockLen p = 4 := by
        rcases hkind with ⟨hk, hl⟩ | ⟨hk, hl⟩ <;> simp [blockLen, hk, hl, kWrite, kRead, kRdb]
      exact hserve _ (nodeAccess_unplaced hp (by rw [hlen, blockMaps_four ha, hr]))
    · exact hserve _ (nodeAccess_stranger hk hp (decide_eq_false hs))
  case heldRdbs =>
    refine ⟨fun h => ?_, fun hr hmet hs => ?_⟩
    · exact congrArg Host.Outcome.next (rdbMet_none fun q hq hc => h q hq ((rdbCondition_met _ hk).mp hc))
    · have hoff : rdbOff p = off := by simp [rdbOff, hp]
      have h := rdbMet_head hr ((rdbCondition_met _ hk).mpr hmet) (decide_eq_true hs)
      rw [hoff] at h
      exact congrArg Host.Outcome.next h
  case cancel =>
    refine ⟨fun he hcs => ?_, fun he => ⟨fun hr hn => ?_, fun h => ?_⟩⟩
    · exact congrArg Host.Outcome.next (cancelArrive_early (hcs ▸ hc) he)
    · exact congrArg Host.Outcome.next (cancelArrive_held hc hm hk he hr (decide_eq_true hn))
    · exact congrArg Host.Outcome.next (cancelArrive_absent hc hm hk he fun q hq => decide_eq_false (h q hq))

end Sys2Proof.Machine

/-! The statements of spec/02: words of ops (O54). -/

namespace Sys2Proof.Machine

open Sys2Proof

/-! ## Words packed from fields -/

section Words

/-- Fields given from the top down lie below bit `top` and do not overlap. -/
def FieldsFit : Nat → List (Nat × Nat) → Prop
  | _, [] => True
  | top, (v, l) :: fs => l ≤ top ∧ v < 2 ^ (top - l) ∧ FieldsFit l fs

/-- What bits hi:lo of a word packed from fields hold, field by field from the top. -/
@[simp] def readFields : List (Nat × Nat) → Nat → Nat → Nat
  | [], _, _ => 0
  | (v, l) :: fs, hi, lo =>
    if hi < l then readFields fs hi lo
    else if l ≤ lo then v / 2 ^ (lo - l) % 2 ^ (hi + 1 - lo)
    else v % 2 ^ (hi + 1 - l) * 2 ^ (l - lo) + readFields fs (l - 1) lo

/-- The number that fields add up to. -/
def fieldSum (fs : List (Nat × Nat)) : Nat := (fs.map fun f => f.1 * 2 ^ f.2).sum

theorem packWord_eq (fs : List (Nat × Nat)) : packWord fs = BitVec.ofNat 32 (fieldSum fs) := by
  rw [packWord, fieldSum, List.sum_eq_foldl, List.foldl_map]

theorem fieldSum_lt {top : Nat} {fs : List (Nat × Nat)} (h : FieldsFit top fs) : fieldSum fs < 2 ^ top := by
  induction fs generalizing top with
  | nil => exact Nat.two_pow_pos top
  | cons f fs ih =>
    obtain ⟨hl, hv, hr⟩ := h
    have hs := ih hr
    calc fieldSum (f :: fs) = f.1 * 2 ^ f.2 + fieldSum fs := by simp [fieldSum]
      _ < (f.1 + 1) * 2 ^ f.2 := by rw [Nat.add_mul, Nat.one_mul]; omega
      _ ≤ 2 ^ (top - f.2) * 2 ^ f.2 := Nat.mul_le_mul_right _ hv
      _ = 2 ^ top := by rw [← Nat.pow_add, Nat.sub_add_cancel hl]

/-! The head field v * 2 ^ l lies above the bits read, below them, or has its lowest bit among them. -/

theorem head_above {v l r hi lo : Nat} (h : hi < l) (hlo : lo ≤ hi) :
    (v * 2 ^ l + r) / 2 ^ lo % 2 ^ (hi + 1 - lo) = r / 2 ^ lo % 2 ^ (hi + 1 - lo) := by
  have e : v * 2 ^ l = 2 ^ lo * (2 ^ (hi + 1 - lo) * (2 ^ (l - (hi + 1)) * v)) := by
    rw [← Nat.mul_assoc, ← Nat.mul_assoc, ← Nat.pow_add, ← Nat.pow_add, Nat.mul_comm]; congr 2; omega
  rw [e, Nat.mul_add_div (Nat.two_pow_pos lo), Nat.mul_add_mod]

theorem head_below {v l r lo : Nat} (h : l ≤ lo) (hr : r < 2 ^ l) : (v * 2 ^ l + r) / 2 ^ lo = v / 2 ^ (lo - l) := by
  have e : 2 ^ lo = 2 ^ l * 2 ^ (lo - l) := by rw [← Nat.pow_add]; congr 1; omega
  rw [e, ← Nat.div_div_eq_div_mul, Nat.mul_comm v, Nat.mul_add_div (Nat.two_pow_pos l), Nat.div_eq_of_lt hr, Nat.add_zero]

theorem head_among {v l r hi lo : Nat} (hl : lo < l) (hh : l ≤ hi) (hr : r < 2 ^ l) : (v * 2 ^ l + r) / 2 ^ lo % 2 ^ (hi + 1 - lo) =
    v % 2 ^ (hi + 1 - l) * 2 ^ (l - lo) + r / 2 ^ lo % 2 ^ (l - lo) := by
  have e : v * 2 ^ l = 2 ^ lo * (2 ^ (l - lo) * v) := by
    rw [← Nat.mul_assoc, ← Nat.pow_add, Nat.mul_comm]; congr 2; omega
  have hm : 2 ^ (hi + 1 - lo) = 2 ^ (l - lo) * 2 ^ (hi + 1 - l) := by rw [← Nat.pow_add]; congr 1; omega
  have hrest : r / 2 ^ lo < 2 ^ (l - lo) := by
    rw [Nat.div_lt_iff_lt_mul (Nat.two_pow_pos lo), ← Nat.pow_add, Nat.sub_add_cancel hl.le]; exact hr
  rw [e, Nat.mul_add_div (Nat.two_pow_pos lo), hm, Nat.mod_mul, Nat.mul_add_mod, Nat.mul_add_div (Nat.two_pow_pos _),
    Nat.div_eq_of_lt hrest, Nat.add_zero, Nat.add_comm, Nat.mul_comm (2 ^ (l - lo))]

theorem readFields_eq {top : Nat} {fs : List (Nat × Nat)} (h : FieldsFit top fs) {hi lo : Nat} (hlo : lo ≤ hi) :
    fieldSum fs / 2 ^ lo % 2 ^ (hi + 1 - lo) = readFields fs hi lo := by
  induction fs generalizing top hi with
  | nil => simp [fieldSum]
  | cons f fs ih =>
    obtain ⟨v, l⟩ := f
    obtain ⟨hl, hv, hr⟩ := h
    have hs := fieldSum_lt hr
    have e : fieldSum ((v, l) :: fs) = v * 2 ^ l + fieldSum fs := by simp [fieldSum]
    rw [e, readFields]
    split
    · next hlt => rw [head_above hlt hlo, ih hr hlo]
    · split
      · next hge hle => rw [head_below hle hs]
      · next hge hgt => rw [head_among (by omega) (by omega) hs, ← ih hr (by omega : lo ≤ l - 1), Nat.sub_add_cancel (by omega)]

/-- A field of a packed word. -/
theorem fieldOf_packWord {fs : List (Nat × Nat)} (h : FieldsFit 32 fs) {hi lo : Nat} (hlo : lo ≤ hi) :
    fieldOf (packWord fs) hi lo = readFields fs hi lo := by
  rw [packWord_eq, fieldOf, BitVec.toNat_ofNat, Nat.mod_eq_of_lt (fieldSum_lt h), readFields_eq h hlo]

theorem bitOf_eq_fieldOf {w : Nat} (x : BitVec w) (i : Nat) : bitOf x i = decide (fieldOf x i i = 1) := by
  rw [bitOf, fieldOf, Nat.add_sub_cancel_left, Nat.pow_one, BitVec.getLsbD, Nat.testBit_eq_decide_div_mod_eq]

end Words

@[simp] theorem ofNat_toNat_mod {w : Nat} (x : BitVec w) {m : Nat} (h : m = 2 ^ w) : BitVec.ofNat w (x.toNat % m) = x := by
  subst h; simp

@[simp] theorem toNat_div_eq_zero {w : Nat} (x : BitVec w) {m : Nat} (h : 2 ^ w ≤ m) : x.toNat / m = 0 :=
  Nat.div_eq_of_lt (x.isLt.trans_le h)

/-! ## The word of an op -/

theorem bn_lt (b : Bool) : bn b < 2 := by cases b <;> decide

theorem encSrc2_fits (b : Src2) : FieldsFit 9 (encSrc2 b) := by
  cases b with
  | reg r => exact ⟨by omega, r.isLt.trans_le (by decide), trivial⟩
  | imm i => exact ⟨by omega, by decide, by omega, i.isLt, trivial⟩

theorem encOff_fits (o : LsOff) : FieldsFit 10 (encOff o) := by
  cases o with
  | reg r => exact ⟨by omega, r.isLt.trans_le (by decide), trivial⟩
  | imm i => exact ⟨by omega, by decide, by omega, i.isLt.trans_le (by decide), trivial⟩

theorem codeOf_lt {α : Type} [DecidableEq α] (x : α) (xs : List α) (h : xs ≠ []) : codeOf x xs < xs.length := by
  have hp : ∀ (ys : List α) i, codeOf.placeIn x ys = some i → i < ys.length := by
    intro ys
    induction ys with
    | nil => simp [codeOf.placeIn]
    | cons y ys ih =>
      intro i
      simp only [codeOf.placeIn]
      split
      · rintro ⟨⟩
        exact Nat.succ_pos _
      · simp only [Option.map_eq_some_iff, List.length_cons]
        rintro ⟨j, hj, rfl⟩
        exact Nat.succ_lt_succ (ih j hj)
  rw [codeOf]
  cases hc : codeOf.placeIn x xs with
  | none => exact List.length_pos_iff.mpr h
  | some i => exact hp xs i hc

theorem vecCode_lt (f : VecFn) : vecCode f < 32 := by
  cases f with
  | cvt q => decide +revert
  | _ => decide

/-- An opcode and the two fields behind it, as in the R, I and LS forms. -/
theorem form_fits {c d a l : Nat} {fs : List (Nat × Nat)} (hc : c < 32) (hd : d < 32) (hl : l ≤ 14) (ha : a < 2 ^ (14 - l)) (hr : FieldsFit l fs) :
    FieldsFit 24 ((c, 19) :: (d, 14) :: (a, l) :: fs) :=
  ⟨by omega, hc, by omega, hd, hl, ha, hr⟩

theorem encAlu_fits (f : AluFn) (rd ra : GReg) (b : Src2) : FieldsFit 24 (encAlu f rd ra b) := by
  have hb := encSrc2_fits b
  have hd := rd.isLt
  have ha := ra.isLt
  cases f <;> simp [encAlu, FieldsFit, hb, hd, ha] <;> decide

theorem encMat_fits (m : MatOp) : FieldsFit 24 (encMat m) := by
  cases m <;> simp [encMat, FieldsFit]
  case tld x => have := bn_lt x; omega
  case mma rn => have := bn_lt rn; omega
  case mseqRun nt c a => cases nt <;> simp <;> omega
  all_goals omega

theorem encFields_fit (o : Op) : FieldsFit 24 (encFields o) := by
  cases o with
  | alu f rd ra b => exact encAlu_fits f rd ra b
  | mat m => exact encMat_fits m
  | cmp f pd ra b =>
    have hf : codeOf f cmpFns < 6 := codeOf_lt f cmpFns (by decide)
    exact form_fits (by omega) (by omega) (by decide) ra.isLt (encSrc2_fits b)
  | pred f =>
    have hf : codeOf f predFns < 4 := codeOf_lt f predFns (by decide)
    simp [encFields, FieldsFit]; omega
  | pair f rd ra b =>
    have hf : codeOf f pairFns < 5 := codeOf_lt f pairFns (by decide)
    exact form_fits (by omega) (by omega) (by decide) ra.isLt (encSrc2_fits b)
  | load f rt c o => exact form_fits (by cases f <;> decide) rt.isLt (by decide) c.isLt (encOff_fits o)
  | store f rt c o =>
    have hf : codeOf f stFns < 6 := codeOf_lt f stFns (by decide)
    exact form_fits (by omega) rt.isLt (by decide) c.isLt (encOff_fits o)
  | amo f rt c o =>
    have hf : codeOf f amoFns < 12 := codeOf_lt f amoFns (by decide)
    exact form_fits (by omega) rt.isLt (by decide) c.isLt (encOff_fits o)
  | vec f =>
    have hf := vecCode_lt f
    simp [encFields, FieldsFit]; omega
  | dmaStart nt => cases nt <;> simp [encFields, FieldsFit] <;> omega
  | _ => simp [encFields, encC, FieldsFit] <;> omega

theorem opClass_lt (o : Op) : opClass o < 7 := by
  cases o with
  | alu f => cases f <;> simp [opClass]
  | _ => simp [opClass]

section Encoded
variable (stop psense : Bool) (psel : PReg) (o : Op)

/-- The fields of an op's whole word. -/
def wordFields : List (Nat × Nat) := (bn stop, 31) :: (bn psense, 30) :: (psel.toNat, 27) :: (opClass o, 24) :: encFields o

theorem fieldOf_encodeOp {hi lo : Nat} (h : lo ≤ hi) :
    fieldOf (encodeOp stop psense psel o) hi lo = readFields (wordFields stop psense psel o) hi lo := by
  have hs := bn_lt stop
  have hp := bn_lt psense
  have hc := opClass_lt o
  have hf : FieldsFit 32 (wordFields stop psense psel o) :=
    ⟨by omega, by omega, by omega, by omega, by omega, by omega, by omega, by omega, encFields_fit o⟩
  exact fieldOf_packWord hf h

/-- Table 2.6: the stop bit, the condition and the class of an op's word. -/
theorem encodeOp_header : bitOf (encodeOp stop psense psel o) 31 = stop ∧ bitOf (encodeOp stop psense psel o) 30 = psense
    ∧ fld 3 (encodeOp stop psense psel o) 29 27 = psel ∧ fieldOf (encodeOp stop psense psel o) 26 24 = opClass o := by
  have hc := opClass_lt o
  refine ⟨?_, ?_, ?_, ?_⟩
  · rw [bitOf_eq_fieldOf, fieldOf_encodeOp _ _ _ _ (le_refl _)]
    cases stop <;> simp [wordFields, bn]
  · rw [bitOf_eq_fieldOf, fieldOf_encodeOp _ _ _ _ (le_refl _)]
    cases psense <;> simp [wordFields, bn]
  · rw [fld, fieldOf_encodeOp _ _ _ _ (by decide)]
    simp [wordFields]
  · rw [fieldOf_encodeOp _ _ _ _ (by decide)]
    simp [wordFields]
    omega

end Encoded

theorem vecFns_vecCode (f : VecFn) (hm : f ≠ .mov) (hp : f ≠ .perm) : vecFns[vecCode f]? = some f := by
  cases f with
  | cvt q => decide +revert
  | mov => exact absurd rfl hm
  | perm => exact absurd rfl hp
  | _ => rfl

theorem vecCode_lt_vecFns (f : VecFn) (hm : f ≠ .mov) (hp : f ≠ .perm) : vecCode f < 0x15 :=
  (List.getElem?_eq_some_iff.mp (vecFns_vecCode f hm hp)).1

@[simp] theorem decide_bn_mod (b : Bool) : decide (bn b % 2 = 1) = b := by cases b <;> rfl

/-- Bits 23:0 of a word spell an op. -/
def Spells (x : Word) (o : Op) : Prop := ∀ hi lo, lo ≤ hi → hi < 24 → fieldOf x hi lo = readFields (encFields o) hi lo

theorem encodeOp_spells (stop psense : Bool) (psel : PReg) (o : Op) : Spells (encodeOp stop psense psel o) o := by
  intro hi lo h h24
  rw [fieldOf_encodeOp _ _ _ _ h, wordFields, readFields, if_pos (by omega), readFields, if_pos (by omega), readFields, if_pos (by omega),
    readFields, if_pos h24]

section Reading
variable {x : Word} {o : Op} (h : Spells x o)
include h

theorem Spells.fld_eq (w : Nat) {hi lo : Nat} (hl : lo ≤ hi) (hh : hi < 24) :
    fld w x hi lo = BitVec.ofNat w (readFields (encFields o) hi lo) := by
  rw [fld, h hi lo hl hh]

theorem Spells.isZ_eq {hi lo : Nat} (hl : lo ≤ hi) (hh : hi < 24) :
    isZ x hi lo = decide (readFields (encFields o) hi lo = 0) := by
  rw [isZ, h hi lo hl hh]

theorem Spells.bitOf_eq {i : Nat} (hh : i < 24) : bitOf x i = decide (readFields (encFields o) i i = 1) := by
  rw [bitOf_eq_fieldOf, h i i (le_refl i) hh]

theorem Spells.opcOf_eq : opcOf x = readFields (encFields o) 23 19 := h 23 19 (by decide) (by decide)

end Reading

/-! ## Each class's decoder reads the fields of its ops back -/

section Spelled
variable {x : Word} {o : Op} (h : Spells x o)
include h

theorem Spells.decSrc2_eq {b : Src2} (ho : ∃ c d a, encFields o = (c, 19) :: (d, 14) :: (a, 9) :: encSrc2 b) : decSrc2 x = (true, b) := by
  obtain ⟨c, d, a, ho⟩ := ho
  cases b <;> simp [decSrc2, h.bitOf_eq, h.isZ_eq, h.fld_eq, ho, encSrc2]

theorem Spells.decOff_eq {f : LsOff} (ho : ∃ c t a, encFields o = (c, 19) :: (t, 14) :: (a, 10) :: encOff f) :
    (if bitOf x 9 then LsOff.imm (fld 8 x 7 0) else .reg (fld 5 x 8 4)) = f ∧ (if bitOf x 9 then isZ x 8 8 else isZ x 3 0) = true := by
  obtain ⟨c, t, a, ho⟩ := ho
  cases f <;> simp [h.bitOf_eq, h.isZ_eq, h.fld_eq, ho, encOff]

theorem decAluA_spells (hc : opClass o = 0) (he : encodable o = true) : decAluA x = .ok (o, true) := by
  cases o with
  | cmp f pd ra b =>
    have hb := h.decSrc2_eq ⟨_, _, _, rfl⟩
    cases f <;> simp [decAluA, h.fld_eq, h.isZ_eq, h.opcOf_eq, encFields, codeOf, codeOf.placeIn, cmpFns, zeroes, hb]
  | pred f pd pa pb =>
    cases f <;> simp [decAluA, h.fld_eq, h.isZ_eq, h.opcOf_eq, encFields, codeOf, codeOf.placeIn, predFns, zeroes]
  | alu f rd ra b =>
    cases f
    case clz | popc =>
      have hb : b = .reg 0 := by simpa [encodable, opLegal] using he
      simp [decAluA, h.fld_eq, h.isZ_eq, h.opcOf_eq, encFields, encAlu, zeroes, hb]
    all_goals simp [opClass] at hc
    all_goals
      have hb := h.decSrc2_eq ⟨_, _, _, rfl⟩
      simp [decAluA, h.fld_eq, h.opcOf_eq, encFields, encAlu, codeOf, codeOf.placeIn, aluA, zeroes, hb]
  | _ => simp [opClass] at hc

theorem decAluB_spells (hc : opClass o = 1) (he : encodable o = true) : decAluB x = .ok (o, true) := by
  cases o with
  | alu f rd ra b =>
    cases f
    all_goals simp [opClass] at hc
    all_goals
      have hb := h.decSrc2_eq ⟨_, _, _, rfl⟩
      simp [decAluB, h.fld_eq, h.opcOf_eq, encFields, encAlu, codeOf, codeOf.placeIn, aluA, aluB, zeroes, hb]
  | pair f rd ra b =>
    have hl : (even rd = true ∧ even ra = true) ∧ srcEven f b = true := by simpa [encodable, opLegal] using he
    have hb := h.decSrc2_eq ⟨_, _, _, rfl⟩
    cases f <;> simp [decAluB, h.fld_eq, h.opcOf_eq, encFields, codeOf, codeOf.placeIn, pairFns, zeroes, hb, hl]
  | mulwD | rsr | wsr | crsr | cwsr | csub | cperm | cbind | cfree | ckey | cget | cmov =>
    have hl := (Bool.and_eq_true _ _).mp he |>.1
    simp [opLegal] at hl
    simp [decAluB, h.fld_eq, h.isZ_eq, h.bitOf_eq, h.opcOf_eq, encFields, encC, zeroes, hl]
  | _ => simp [opClass] at hc

theorem decLsu_spells (hc : opClass o = 2) (he : encodable o = true) : decLsu x = .ok (o, true) := by
  cases o with
  | load f rt c off =>
    obtain ⟨ho, hz⟩ := h.decOff_eq ⟨_, _, _, rfl⟩
    have hl : ldRtOk f rt = true := by simpa [encodable, opLegal] using he
    simp only [decLsu, ho, hz]
    cases f
    all_goals simp [h.fld_eq, h.opcOf_eq, encFields, codeOf, codeOf.placeIn, ldFns, zeroes, hl]
    all_goals exact hl
  | store f rt c off =>
    obtain ⟨ho, hz⟩ := h.decOff_eq ⟨_, _, _, rfl⟩
    have hl : stRtOk f rt = true := by simpa [encodable, opLegal] using he
    simp only [decLsu, ho, hz]
    cases f <;> simp [h.fld_eq, h.opcOf_eq, encFields, codeOf, codeOf.placeIn, stFns, zeroes, hl]
  | amo f rt c off =>
    obtain ⟨ho, hz⟩ := h.decOff_eq ⟨_, _, _, rfl⟩
    have hl : amoRtOk f rt = true := by simpa [encodable, opLegal] using he
    simp only [decLsu, ho, hz]
    cases f <;> simp [h.fld_eq, h.opcOf_eq, encFields, codeOf, codeOf.placeIn, amoFns, zeroes, hl]
  | acq | acqAll => simp [decLsu, h.fld_eq, h.isZ_eq, h.opcOf_eq, encFields, zeroes]
  | alu f => cases f <;> simp [opClass] at hc
  | _ => simp [opClass] at hc

theorem decBru_spells (hc : opClass o = 3) : decBru x = .ok (o, true) := by
  have hop := h 23 20 (by decide) (by decide)
  cases o with
  | br | bl | jr | jrl | callg | retg | exit => simp [decBru, hop, h.fld_eq, h.isZ_eq, encFields, zeroes]
  | alu f => cases f <;> simp [opClass] at hc
  | _ => simp [opClass] at hc

theorem decVec_spells (hc : opClass o = 4) (he : encodable o = true) : decVec x = .ok (o, true) := by
  cases o with
  | vec f fmt vd va vb md =>
    have hl : vecOk f fmt vb md = true := by simpa [encodable, opLegal] using he
    have hop : opcOf x = vecCode f := by
      have hf := vecCode_lt f
      simp [h.opcOf_eq, encFields]
      omega
    by_cases hmov : f = .mov
    · subst hmov
      simp [decVec, hop, vecCode, h.fld_eq, encFields, zeroes, hl]
    by_cases hperm : f = .perm
    · subst hperm
      simp [decVec, hop, vecCode, h.fld_eq, encFields, zeroes, hl]
    simp [decVec, hop, vecCode_lt_vecFns f hmov hperm, vecFns_vecCode f hmov hperm, h.fld_eq, encFields, zeroes, hl]
  | vbcast | vext | vins =>
    have hl := (Bool.and_eq_true _ _).mp he |>.1
    simp only [opLegal] at hl
    simp [decVec, h.fld_eq, h.opcOf_eq, encFields, zeroes, hl]
  | alu f => cases f <;> simp [opClass] at hc
  | _ => simp [opClass] at hc

theorem decMat_spells (hc : opClass o = 5) (he : encodable o = true) : decMat x = .ok (o, true) := by
  have hop := h 23 20 (by decide) (by decide)
  cases o with
  | mat m =>
    cases m with
    | mma acc ta tb g z rn =>
      have hl : g.toNat ≠ 3 ∧ z.toNat ≠ 3 := by simpa [encodable, opLegal, BitVec.toNat_eq] using he
      have hgz : fieldOf x 5 4 = g.toNat ∧ fieldOf x 3 2 = z.toNat := by
        rw [h 5 4 (by decide) (by decide), h 3 2 (by decide) (by decide)]
        simp [encFields, encMat]
        omega
      simp [decMat, hop, h.fld_eq, h.isZ_eq, h.bitOf_eq, encFields, encMat, zeroes, hl, hgz]
    | accCvt acc t rm =>
      have hl : rm.toNat ≤ 5 := by simpa [encodable, opLegal, BitVec.le_def] using he
      have hrm : fieldOf x 9 7 = rm.toNat := by
        rw [h 9 7 (by decide) (by decide)]
        simp [encFields, encMat]
        omega
      simp [decMat, hop, h.fld_eq, h.isZ_eq, encFields, encMat, zeroes, hrm, hl]
    | mseqRun nt => cases nt <;> simp [decMat, hop, h.fld_eq, h.isZ_eq, encFields, encMat, zeroes]
    | _ => simp [decMat, hop, h.fld_eq, h.isZ_eq, h.bitOf_eq, encFields, encMat, zeroes]
  | alu f => cases f <;> simp [opClass] at hc
  | _ => simp [opClass] at hc

theorem decSyn_spells (hc : opClass o = 6) : decSyn x = .ok (o, true) := by
  cases o with
  | dmaStart nt => cases nt <;> simp [decSyn, h.fld_eq, h.isZ_eq, h.opcOf_eq, encFields, zeroes]
  | finc | fincI | fincR | fwait | fread | send | waitd | retd | rdb | istore | ifence | dmaWr | dmaRd =>
    simp [decSyn, h.fld_eq, h.isZ_eq, h.opcOf_eq, encFields, zeroes]
  | alu f => cases f <;> simp [opClass] at hc
  | _ => simp [opClass] at hc

/-- The bits of an op are read back as that op, and keep its rules. -/
theorem decodeOp_spells (he : encodable o = true) : decodeOp (opClass o) x = .ok (o, true) := by
  have hlt := opClass_lt o
  rw [decodeOp.eq_def]
  split
  next hc => exact decAluA_spells h hc he
  next hc => exact decAluB_spells h hc he
  next hc => exact decLsu_spells h hc he
  next hc => exact decBru_spells h hc
  next hc => exact decVec_spells h hc he
  next hc => exact decMat_spells h hc he
  next hc => exact decSyn_spells h hc
  next h0 h1 h2 h3 h4 h5 h6 => simp only [imp_false] at *; omega

end Spelled

/-- Settles O54: the fields of an op's word are apart from one another, so that each field of the decoder reads what the encoder put there
(R78: and zero elsewhere); the header's fields are read alike. -/
theorem opWordsDecodeToTheirOps : Obligations.OpWordsDecodeToTheirOps := by
  intro stop psense psel o he w x
  obtain ⟨hstop, hsense, hsel, hcls⟩ := encodeOp_header stop psense psel o
  have hdec := decodeOp_spells (encodeOp_spells stop psense psel o) he
  exact ⟨hstop, hcls, hsense, hsel, by simp only [x, w, slotOf, hcls, hdec]; rfl, by simp only [x, w, slotOf, hcls, hdec]; rfl⟩

end Sys2Proof.Machine

/-! Conditions and stores of spec/02 (O53, O6), and what an op command's evaluation comes to. -/

namespace Sys2Proof.Machine

open Sys2Proof

/-! ## An op whose condition is false (R42) -/

/-- No slot of an op's bundle executes where the op's condition is false. -/
theorem outcomes_false {s : State} {c : OpAt} {o : Op} (h : (s.thread c.node.val c.thread.val).getP c.psel = c.psense) :
    outcomes (opIssued s c o) c.node.val c.thread (opBundle s c o) = [] := by
  have hh : (opSlot c o).holds ((opIssued s c o).thread c.node.val c.thread.val) = false := by
    simp [Slot.holds, opSlot, h]
  have ho : (opSlot c o).op = .ok o := rfl
  unfold outcomes opBundle commandBundle
  change List.filterMap _ (match c.ext with
    | none => [opSlot c o]
    | some x => [opSlot c o, { cls := clsExt, psense := false, psel := 0, op := .ok .ifence, ext := x }]) = []
  cases c.ext <;> simp [ho, hh]

/-- A bundle none of whose ops executes completes: it writes nothing and goes on behind itself. -/
theorem completeBundle_nil (s : State) (n : Nat) (k : ThreadNo) (b : Bundle) : completeBundle s n k b [] =
    resolve n k b false false (s.modThread n k.val fun t => { t with pc := b.link, load := none, held := none }) := by
  simp [completeBundle, popsFault, flushAtCM, released, applyActs, applyWrites]

theorem issueOne_false {s : State} {c : OpAt} {o : Op} (hn : isCore c.node.val = true)
    (hb : bundleReady s c.node.val c.thread (opBundle s c o) = true)
    (hl : bundleIllegal (s.core c.node.val) c.thread.val (opBundle s c o) (opBundle s c o).pastEnd = none)
    (hp : (s.thread c.node.val c.thread.val).getP c.psel = c.psense) : issueOne c o s = .next (afterFalse s c o) := by
  have hl' := (bundleIllegal_opIssued s c o (opBundle s c o) (opBundle s c o).pastEnd).trans hl
  have hs : countIssue c.node.val c.thread (opBundle s c o) (countWaits s c.node.val c.thread) = opIssued s c o := rfl
  have hd : deferredFor ((opIssued s c o).core c.node.val) c.thread [] = none := by simp [deferredFor]
  have hf : (copOps (opBundle s c o)).filter (fun p => ! ([] : List Op).contains p) = copOps (opBundle s c o) := by simp
  have hrun : runBundle c.node.val c.thread (opBundle s c o) (opBundle s c o).pastEnd (countWaits s c.node.val c.thread) =
      completeBundle (squash c.node.val (copOps (opBundle s c o)) (opIssued s c o)) c.node.val c.thread (opBundle s c o) [] := by
    unfold runBundle
    simp only [hs, hl', outcomes_false hp, List.map_nil, hd, hf, firstWithdraw, firstFault]
  have hi : issueOne c o s = atCore c.node (if bundleReady s c.node.val c.thread (opBundle s c o) then
      settle c.node.val (runBundle c.node.val c.thread (opBundle s c o) (opBundle s c o).pastEnd (countWaits s c.node.val c.thread))
      else s) := rfl
  rw [hi, if_pos hb, atCore_next hn, hrun, completeBundle_nil, opBundle_link]
  rfl

/-- Settles O53: no slot of the bundle executes, so that it completes with nothing to write and nothing to release. -/
theorem falseConditionsHaveNoEffect : Obligations.FalseConditionsHaveNoEffect := by
  refine ⟨fun t => by rw [Thread.getP_zero]; exact ⟨rfl, rfl⟩, fun s i c o ho hn hb hl hp => ?_⟩
  rw [exec_opOf i c o ho]
  exact issueOne_false hn hb hl hp

/-! ## What an op that issues reads, and what it comes to -/

/-- An op that faults traps. -/
theorem opTraps_of_eval {s : State} {i : Instr} {c : OpAt} {o : Op} {f : FaultInfo} (ho : opOf i = some (c, o))
    (he : evalOp (opCtx s c o) o = .fault f) : OpTraps s i f := by
  intro c' o' ho' hi
  obtain ⟨rfl, rfl⟩ : c = c' ∧ o = o' := by simpa [ho] using ho'
  rw [exec_opOf i c o ho]
  exact issueOne_fault s c o f hi he

/-- Ops of one class outside the branch unit read the same. -/
theorem opCtx_congr (s : State) (c : OpAt) {o p : Op} (ho : opClass o ≠ 3) (h : opClass o = opClass p) : opCtx s c o = opCtx s c p := by
  have hi : opIssued s c o = opIssued s c p := by
    have e (q : Op) (hq : opClass q ≠ 3) : (slotOps (opBundle s c q)).any isBru = false := by
      simp [slotOps_opBundle s c q (opClass_ne_ext q), isBru, hq]
    simp only [opIssued, countIssue, e o ho, e p (h ▸ ho)]
  unfold opCtx
  rw [hi, h]

/-! ## Stores (R61, R68, R86) -/

/-- The permissions that a store needs. -/
def stNeeds (f : StFn) : List Nat := if f = .c then [pW, pStcap] else [pW]

section Stores
variable {s : State} {c : OpAt} {i : Instr} {f : StFn} {rt : GReg} {cap : SReg} {o : LsOff} {x : Ctx} {k : Cap} {a : Addr}
  (hx : x = opCtx s c (.store .w rt cap o)) (hk : k = (opThread s c).getS cap)

include hx in
theorem opCtx_store : opCtx s c (.store f rt cap o) = x := by
  rw [hx]
  exact opCtx_congr s c (o := .store f rt cap o) (p := .store .w rt cap o) (show 2 ≠ 3 by decide) rfl

include hx in
theorem opCtx_store_t : x.t = opThread s c := by rw [hx]; exact opCtx_t s c _ (show 2 ≠ 3 by decide)

variable (hi : opOf i = some (c, .store f rt cap o))
include hx hk hi

/-- A store whose checks pass and which nothing holds enters the store buffer. -/
theorem store_gives (ha : a = k.addrAt (lsOffset (opThread s c) c.ext f.size o))
    (hc : storeCause x k (lsOffset (opThread s c) c.ext f.size o) (decide (f = .c)) = none)
    (hr : checkAccess k x.dom cap.toNat 2 (stNeeds f) none (lsOffset (opThread s c) c.ext f.size o) f.size f.size = none)
    (hf : lsuHeld x true (x.norm k.module) a f.size = false) :
    OpGives s i (pushStore { addr := a, data := storeData (opThread s c) f rt
                             capTag := if f = .c then some ((opThread s c).getS (rt.truncate 4)).tag else none
                             module := x.norm k.module, region := k.region, pc := (opThread s c).pc, seq := 0 }) id := by
  refine opGives_of_eval hi (show 2 ≠ 3 by decide) rfl nofun ?_
  have he : x.ext = c.ext := by rw [hx]; rfl
  have hcls : x.cls = 2 := by rw [hx]; rfl
  have hpc : x.pc = (opThread s c).pc := by rw [hx]; rfl
  simp only [evalOp, evalStore, opCtx_store hx, opCtx_store_t hx, he, hcls, hpc, ← hk, hc, ← ha, hf]
  rw [show (if f = .c then [pW, pStcap] else [pW]) = stNeeds f from rfl, hr]
  rfl

/-- A store into instruction memory faults at step 6 (R68). -/
theorem store_traps (hr : checkRights k x.dom cap.toNat 2 (stNeeds f) = none)
    (hm : inImem (k.addrAt (lsOffset (opThread s c) c.ext f.size o)) = true) : OpTraps s i (capFault 0x04 cap.toNat 2 13) := by
  refine opTraps_of_eval hi ?_
  have he : x.ext = c.ext := by rw [hx]; rfl
  have hcls : x.cls = 2 := by rw [hx]; rfl
  simp only [evalOp, evalStore, opCtx_store hx, opCtx_store_t hx, he, hcls, ← hk, storeCause, hm, if_true]
  rw [show (if f = .c then [pW, pStcap] else [pW]) = stNeeds f from rfl, checkAccess, hr]
  rfl

end Stores

/-- The own scratchpad is no instruction memory. -/
theorem inImem_of_ownScratch {n : Nat} {a : Addr} {size : Nat} (h : (ownScratch n a size).isSome = true) : inImem a = false := by
  unfold ownScratch at h
  unfold inImem
  split at h
  · next hp => rw [hp]
  · simp at h

/-- An atomic in instruction memory faults at step 6 (R68). -/
theorem amo_traps {s : State} {c : OpAt} {i : Instr} {f : AmoFn} {rt : GReg} {cap : SReg} {o : LsOff} {x : Ctx}
    (hx : x = opCtx s c (.store .w rt cap o)) (hi : opOf i = some (c, .amo f rt cap o))
    (hr : checkRights (x.t.getS cap) x.dom cap.toNat 2 [pAtomic] = none)
    (hm : inImem ((x.t.getS cap).addrAt (lsOffset x.t c.ext f.size o)) = true) : OpTraps s i (capFault 0x04 cap.toNat 2 13) := by
  refine opTraps_of_eval hi ?_
  have ho : opCtx s c (.amo f rt cap o) = x := by
    rw [hx]
    exact opCtx_congr s c (o := .amo f rt cap o) (p := .store .w rt cap o) (show 2 ≠ 3 by decide) rfl
  have he : x.ext = c.ext := by rw [hx]; rfl
  have hcls : x.cls = 2 := by rw [hx]; rfl
  simp only [evalOp, evalAmo, ho, he, hcls, storeCause, hm, if_true, checkAccess, hr]
  rfl

/-- Settles O6: a store's evaluation checks its access in Table 4.3's order, of which instruction memory is step 6, and then writes the
store buffer alone. -/
theorem storesEnterTheStoreBuffer : Obligations.StoresEnterTheStoreBuffer := by
  refine ⟨fun s c rt cap o => ?buffered, fun s c rt cap o => ?imem⟩
  case buffered =>
    intro x t k addr free allowed plain gives
    have plainGives {f : StFn} {i : Instr} (hi : opOf i = some (c, .store f rt cap o)) (hf : f ≠ .c) (h : plain f.size) :
        gives i f.size (storeData t f rt) none := by
      obtain ⟨hm, hr, hh⟩ := h
      have hs := store_gives (a := addr f.size) (x := x) (k := k) rfl rfl hi rfl (by simp [storeCause, hf]; exact hm) (by rwa [stNeeds, if_neg hf]) hh
      rwa [if_neg hf] at hs
    refine ⟨plainGives (f := .b) rfl nofun, plainGives (f := .h) rfl nofun, plainGives (f := .w) rfl nofun, plainGives (f := .d) rfl nofun,
      plainGives (f := .v) rfl nofun, fun hown hs h => ?_⟩
    obtain ⟨hr, hh⟩ := h
    have hc : storeCause x k (lsOffset t c.ext 16 o) true = none := by
      have hm : inImem (addr 16) = false := inImem_of_ownScratch hs
      have hown : ownCause x k (lsOffset t c.ext 16 o) 16 = none := if_pos ⟨hown, hs⟩
      simp only [storeCause, hown, if_true]
      exact if_neg (by rw [hm]; exact Bool.false_ne_true)
    exact store_gives (f := .c) (a := addr 16) (x := x) (k := k) rfl rfl rfl rfl hc hr hh
  case imem =>
    intro x k traps
    have ht : x.t = opThread s c := opCtx_store_t rfl
    have storeTraps {f : StFn} {i : Instr} (hi : opOf i = some (c, .store f rt cap o)) : traps i f.size (stNeeds f) := fun hr hm =>
      store_traps (x := x) (k := k) rfl (by rw [← ht]) hi hr (by rw [← ht]; exact hm)
    have amoTraps {f : AmoFn} {i : Instr} (hi : opOf i = some (c, .amo f rt cap o)) : traps i f.size [pAtomic] := fun hr hm =>
      amo_traps (x := x) rfl hi hr hm
    exact ⟨storeTraps (f := .b) rfl, storeTraps (f := .h) rfl, storeTraps (f := .w) rfl, storeTraps (f := .d) rfl, storeTraps (f := .v) rfl,
      storeTraps (f := .c) rfl, amoTraps (f := .addW) rfl, amoTraps (f := .addD) rfl, amoTraps (f := .minW) rfl, amoTraps (f := .minD) rfl,
      amoTraps (f := .maxW) rfl, amoTraps (f := .maxD) rfl, amoTraps (f := .swapW) rfl, amoTraps (f := .swapD) rfl, amoTraps (f := .casW) rfl,
      amoTraps (f := .casD) rfl, amoTraps (f := .faddF32) rfl, amoTraps (f := .faddBf16) rfl⟩

end Sys2Proof.Machine

/-! What issue leaves unchanged, and the coprocessor ops of spec/02: MAT ops (O15), SYN ops (O16, O17) and DMA ops (O19). -/

namespace Sys2Proof.Machine

open Sys2Proof

/-! ## What an issue leaves as it is

From the issue of a bundle to the release of its ops, a core changes in its counts of issues and cycles, its BTB, how long its threads have
waited, and each thread's place in the program. -/

def CoreMem.still (m : CoreMem) : CoreMem := { m with btb := [] }

/-- A core but for what an issue changes of it, its threads apart. -/
def Core.still (c : Core) : Core :=
  { c with threads := [], waits := [], ctl := { c.ctl with issueCnt := 0, squashCyc := 0 }, mat := { c.mat with busyCyc := 0 }
           mem := c.mem.still }

/-- A thread but for what an issue changes of it. -/
def Thread.still (t : Thread) : Thread := { t with pc := 0, load := none, held := none, epoch := 0, fbuf := [] }

/-- What an issue at a core leaves as it is. -/
structure Still where
  module : BitVec 16
  mc : Nat
  core : Core
  thread : Nat → Thread

def State.still (s : State) (n : Nat) : Still :=
  { module := s.module, mc := s.mc, core := (s.core n).still, thread := fun j => (s.thread n j).still }

section Still

variable (n : Nat) (k : ThreadNo) (b : Bundle) (s : State)

theorem modCore_still (f : Core → Core) (hc : ∀ c, (f c).still = c.still) (ht : ∀ c, (f c).threads = c.threads) :
    (s.modCore n f).still n = s.still n := by
  have hthread (j : Nat) : (s.modCore n f).thread n j = s.thread n j := by
    simp only [State.thread, State.modCore_core_same, Core.thread, ht]
  simp [State.still, hc, hthread]

theorem modThread_still (j : Nat) (f : Thread → Thread) (h : ∀ t, (f t).still = t.still) : (s.modThread n j f).still n = s.still n := by
  have hthread (i : Nat) : ((s.modThread n j f).thread n i).still = (s.thread n i).still := by
    rw [State.modThread_thread]
    split
    · next hi => rw [h, hi.2]
    · rfl
  have hcore : ((s.core n).modThread j f).still = (s.core n).still := rfl
  simp [State.still, hcore, hthread]

theorem drawUpTo_still (m : Nat) : (s.drawUpTo m).2.still n = s.still n := by
  unfold State.drawUpTo
  split <;> rfl

theorem squash_still (os : List Op) : (squash n os s).still n = s.still n := by
  induction os generalizing s with
  | nil => rfl
  | cons o os ih =>
    rw [squash, ih, modCore_still, drawUpTo_still]
    · intro c
      cases isMma o <;> rfl
    · intro c
      rfl

theorem countIssue_still : (countIssue n k b s).still n = s.still n := by
  rw [countIssue, modThread_still, modCore_still]
  all_goals
    intro _
    rfl

theorem countWaits_still : (countWaits s n k).still n = s.still n := modCore_still _ _ _ (fun _ => rfl) fun _ => rfl

theorem flushYounger_still (m br : Nat) (a : Word) : (flushYounger n k m br a s).still n = s.still n := by
  induction m generalizing br a s with
  | zero => rfl
  | succ m ih =>
    unfold flushYounger
    dsimp only
    split
    · rw [ih, squash_still, countIssue_still]
      rfl
    · rfl

theorem traceEvent_still (f : Bool) (m : Nat) (a : Word) : (traceEvent f m k a s).still n = s.still n := by
  unfold traceEvent
  split <;> rfl

theorem btbUpdate_still (m : CoreMem) (a : Word) (taken : Bool) (t : Word) : (btbUpdate m a taken t).still = m.still := by
  unfold btbUpdate
  dsimp only
  split_ifs <;> rfl

theorem modBtb_still (a : Word) (taken : Bool) (t : Word) :
    (s.modCore n fun c => c.modMem fun m => btbUpdate m a taken t).still n = s.still n :=
  modCore_still n s _ (fun c => by simp only [Core.still, Core.modMem, btbUpdate_still]) fun c => rfl

theorem resolve_still (taken always : Bool) : (resolve n k b taken always s).still n = s.still n := by
  have hfbuf (u : State) : (u.modThread n k.val fun t => { t with fbuf := [] }).still n = u.still n :=
    modThread_still n u k.val _ fun t => rfl
  unfold resolve
  dsimp only
  split_ifs
  all_goals simp only [hfbuf, modBtb_still, flushAfter, flushYounger_still, traceEvent_still]

end Still

section Released

variable {s : State} {c : OpAt} {o : Op} {w : Thread → Thread} {a a' : State → State}

theorem opIssued_still (s : State) (c : OpAt) (o : Op) : (opIssued s c o).still c.node.val = s.still c.node.val := by
  rw [opIssued, countIssue_still, countWaits_still]

/-- The state in which an op's work after release finds its core, where the op writes nothing that such work reads. -/
theorem resolved_still (hw : ∀ t, (w t).still = t.still) (taken always : Bool) :
    (resolve c.node.val c.thread (opBundle s c o) taken always (opWritten s c o w)).still c.node.val = s.still c.node.val := by
  rw [resolve_still, opWritten, modThread_still, opIssued_still]
  exact fun t => hw _

/-- An op gives any description of its work after release that agrees where issue leaves the core as it is. -/
theorem opGives_of_act {i : Instr} (ho : opOf i = some (c, o)) (hc : opClass o ≠ 3) (hb : blocking o = false) (hf : o ≠ .ifence)
    (he : evalOp (opCtx s c o) o = .done id a) (ha : ∀ u, u.still c.node.val = s.still c.node.val → a u = a' u) : OpGives s i id a' := by
  have h := opGives_of_eval ho hc hb hf he
  intro c' o' ho' hi
  obtain ⟨rfl, rfl⟩ : c = c' ∧ o = o' := by simpa [ho] using ho'
  rw [h c o ho hi, afterOp, afterOp, ha _ (resolved_still (w := id) (fun _ => rfl) false false)]

/-- As opGives_of_act, for a blocking op or ifence. -/
theorem safepointGives_of_act {i : Instr} (ho : opOf i = some (c, o)) (hs : (blocking o || decide (o = .ifence)) = true)
    (he : evalOp (opCtx s c o) o = .done id a) (ha : ∀ u, u.still c.node.val = s.still c.node.val → a u = a' u) :
    SafepointGives s i id a' := by
  intro c' o' ho' hi
  obtain ⟨rfl, rfl⟩ : c = c' ∧ o = o' := by simpa [ho] using ho'
  rw [exec_opOf i c o ho, issueOne_safe s c o id a hi he hs, afterSafe, afterSafe, ha _ (resolved_still (w := id) (fun _ => rfl) false false)]

end Released

/-! ## MAT ops (R53, R94, R186) -/

section Context

variable (s : State) (c : OpAt) (o : Op)

@[simp] theorem opCtx_mat : (opCtx s c o).c.mat = (s.core c.node.val).mat := by
  obtain ⟨w, hw⟩ := opIssued_core s c o
  have h := congrArg Core.mat hw
  exact h

@[simp] theorem opCtx_syn : (opCtx s c o).c.syn = (s.core c.node.val).syn := by
  obtain ⟨w, hw⟩ := opIssued_core s c o
  have h := congrArg Core.syn hw
  exact h

@[simp] theorem opCtx_relSeq : (opCtx s c o).c.relSeq = (s.core c.node.val).relSeq := by
  obtain ⟨w, hw⟩ := opIssued_core s c o
  have h := congrArg Core.relSeq hw
  exact h

@[simp] theorem opCtx_boundTo (i : Nat) : (opCtx s c o).c.boundTo i = (s.core c.node.val).boundTo i := by
  obtain ⟨w, hw⟩ := opIssued_core s c o
  have h := congrArg (·.boundTo i) hw
  exact h

end Context

/-- The segment of a capability, of the module before the op. -/
theorem segOf_eq {s u : State} (h : u.module = s.module) (k : Cap) :
    segOf u k = { module := if k.module = s.module then 0xFFFF else k.module, base := k.base, limit := k.limit } := by
  rw [segOf, State.normModule, h]

/-- Settles O15: the act of a MAT op appends its snapshot to the queue, and issue before it changes nothing that the snapshot reads. -/
theorem matrixOpsEnterTheQueue : Obligations.MatrixOpsEnterTheQueue := by
  intro s c m n t w x unit hcheck i hi
  have ht : x.t = t := opCtx_t s c _ (show 5 ≠ 3 by decide)
  have hw : matWorkOf x.t x.ext m = w := by rw [ht]; rfl
  have hm : x.c.mat = unit := opCtx_mat s c _
  have hq : x.c.relSeq = (s.core n).relSeq := opCtx_relSeq s c _
  refine opGives_of_act hi (show 5 ≠ 3 by decide) rfl nofun (a := releaseMat x (matCapReg m) w) ?_ fun u hu => ?_
  · have hn : x.n = n := rfl
    simp only [evalOp, evalMat, show opCtx s c (.mat m) = x from rfl, hw, hm, hq, hn, hcheck]
  · have hseg := segOf_eq (congrArg Still.module hu : u.module = s.module)
    unfold releaseMat
    simp only [hseg, ht]
    clear_value w
    cases w with
    | mseqRun nt cap off =>
      cases nt with
      | false => rfl
      | true => rw [List.append_nil]; rfl
    | _ => rw [List.append_nil]; rfl

/-! ## SYN ops (R69, R97, R101, R250, R261) -/

section AllThreads

variable (g : Thread → Thread) (c : Core)

/-- A core whose first m threads change alike. -/
theorem foldl_modThread_thread (m j : Nat) :
    ((List.range m).foldl (fun c k => c.modThread k g) c).thread j = if j < m then g (c.thread j) else c.thread j := by
  induction m with
  | zero => rfl
  | succ m ih =>
    rw [List.range_succ, List.foldl_append, List.foldl_cons, List.foldl_nil, Core.modThread_thread]
    by_cases h : j = m
    · subst h
      simp [ih]
    · simp only [h, if_false, ih, show j < m + 1 ↔ j < m by omega]

/-- Nothing of the core but its threads changes. -/
theorem foldl_modThread_rest (m : Nat) :
    { (List.range m).foldl (fun c k => c.modThread k g) c with threads := c.threads } = c := by
  have hmod (k : Core) (j : Nat) : { k.modThread j g with threads := c.threads } = { k with threads := c.threads } := rfl
  induction m with
  | zero => rfl
  | succ m ih => rw [List.range_succ, List.foldl_append, List.foldl_cons, List.foldl_nil, hmod, ih]

end AllThreads

theorem istore_mem (k : Core) (p : Nat) (bs : List Byte) : (k.istore p bs).mem = k.mem.writeImem p bs := by
  have h := congrArg Core.mem (foldl_modThread_rest (·.afterIstore p bs) k 4)
  exact congrArg (fun m => CoreMem.writeImem m p bs) h

theorem istore_thread (k : Core) (p : Nat) (bs : List Byte) (j : ThreadNo) : (k.istore p bs).thread j.val = (k.thread j.val).afterIstore p bs := by
  have h := foldl_modThread_thread (·.afterIstore p bs) k 4 j.val
  rw [if_pos j.isLt] at h
  exact h

theorem fretFault_eq (f : BitVec 6) : fretFault f.toNat = ⟨0x0E, f.zeroExtend 32⟩ := by
  have h : packWord [(f.toNat, 0)] = f.zeroExtend 32 := by
    apply BitVec.eq_of_toNat_eq
    simp [packWord]
  rw [fretFault, h]
  rfl

section Syn

variable {s : State} {c : OpAt} {i : Instr} {o p : Op} (hi : opOf i = some (c, o)) (hc : opClass o = 6) (hp : opClass p = 6)
include hc hp

/-- SYN ops read the same. -/
theorem opCtx_synOp : opCtx s c o = opCtx s c p := opCtx_congr s c (by rw [hc]; decide) (hc.trans hp.symm)

include hi

/-- A SYN op that neither blocks nor fences gives what its evaluation says. -/
theorem synOp_gives {w : Thread → Thread} {a : State → State} (hb : blocking o = false) (hf : o ≠ .ifence)
    (he : evalOp (opCtx s c p) o = .done w a) : OpGives s i w a :=
  opGives_of_eval hi (by rw [hc]; decide) hb hf ((congrArg (evalOp · o) (opCtx_synOp hc hp)).trans he)

theorem synOp_traps {f : FaultInfo} (he : evalOp (opCtx s c p) o = .fault f) : OpTraps s i f :=
  opTraps_of_eval hi ((congrArg (evalOp · o) (opCtx_synOp hc hp)).trans he)

end Syn

/-- Settles O16: each SYN op's act is written once as a function of the state that issue leaves. -/
theorem synOpsAct : Obligations.SynOpsAct := by
  intro s c f cap ga gb gd imm cnt tag n t x k off m releases
  have hxt : x.t = t := opCtx_t s c _ (show 6 ≠ 3 by decide)
  have hx : opClass (.finc f ga) = 6 := rfl
  refine ⟨fun hf => ⟨?finc, ?fincI, ?fread⟩, fun hf => ⟨?fincT, ?fincIT, ?freadT⟩, fun h => ?fincR, fun h h0 h4 o ch hch ht9 => ?send,
    fun h => ?retd, fun h => ?retdT, fun hm p hp h => ⟨?istore, fun k => ⟨istore_mem k p _, fun j => ?_⟩⟩⟩
  case finc | fincI =>
    refine synOp_gives rfl rfl hx rfl nofun (show evalOp x _ = _ from ?_)
    simp only [evalOp, evalFinc, if_neg (BitVec.not_le.mpr hf), fincImm, hxt]
    rfl
  case fread =>
    refine synOp_gives rfl rfl hx rfl nofun (show evalOp x _ = _ from ?_)
    simp only [evalOp, evalFread, if_neg (BitVec.not_le.mpr hf), Core.fret, show x.c.syn = (s.core n).syn from opCtx_syn s c _]
    rfl
  case fincT | fincIT | freadT =>
    refine synOp_traps rfl rfl hx ?_
    simp only [evalOp, evalFinc, evalFread, if_pos (show f ≥ 48 from hf), fretFault_eq]
  case fincR =>
    refine synOp_gives rfl rfl hx rfl nofun (show evalOp x _ = _ from ?_)
    simp only [evalOp, evalFincR, hxt, show x.cls = 6 from rfl]
    rw [h]
    rfl
  case send =>
    refine synOp_gives rfl rfl hx rfl nofun (show evalOp x _ = _ from ?_)
    simp only [evalOp, evalSend, hxt, show x.cls = 6 from rfl]
    rw [h]
    simp only [show channelOf (t.getS cap).base = some (o, ch) from hch]
    rw [if_neg (by bv_omega), if_neg (by bv_omega), if_neg nofun]
    rfl
  case retd =>
    refine synOp_gives rfl rfl hx rfl nofun (show evalOp x _ = _ from ?_)
    simp only [evalOp, evalRetd, hxt]
    rw [if_neg (not_not.mpr h)]
    rfl
  case retdT =>
    refine synOp_traps rfl rfl hx (show evalOp x _ = _ from ?_)
    simp only [evalOp, evalRetd, hxt]
    rw [if_pos h]
    rfl
  case istore =>
    refine synOp_gives rfl rfl hx rfl nofun (show evalOp x _ = _ from ?_)
    simp only [evalOp, evalIstore, hxt, show x.cls = 6 from rfl, show x.norm (t.getS cap).module = 0xFFFF from hm, if_true,
      show ownImem x.n ((t.getS cap).addrAt (t.getG ga).toNat) = some p from hp, reduceCtorEq, if_false]
    rw [h]
    rfl
  · have hj := istore_thread k p (leBytes 4 (t.getG gb).toNat) j
    exact ⟨by rw [hj]; rfl, by rw [hj]; rfl⟩

end Sys2Proof.Machine

/-! Blocking ops and ifence (O17) and DMA ops (O19) of spec/02. -/

namespace Sys2Proof.Machine

open Sys2Proof

/-! ## Waits (R98 to R100, R251, R271) -/

section StillReads

variable {s u : State} {n : Nat} (h : u.still n = s.still n)
include h

theorem still_mc : u.mc = s.mc := congrArg Still.mc h

theorem still_syn : (u.core n).syn = (s.core n).syn := by
  have h' := congrArg (fun x => x.core.syn) h
  exact h'

theorem still_dbgPend : (u.core n).ctl.dbgPend = (s.core n).ctl.dbgPend := by
  have h' := congrArg (fun x => x.core.ctl.dbgPend) h
  exact h'

end StillReads

/-- A blocking op or ifence gives any description of its work after release that agrees where issue leaves the core as it is. -/
theorem synOp_safe {s : State} {c : OpAt} {i : Instr} {o p : Op} {a a' : State → State} (hi : opOf i = some (c, o)) (hc : opClass o = 6)
    (hp : opClass p = 6) (hs : (blocking o || decide (o = .ifence)) = true) (he : evalOp (opCtx s c p) o = .done id a)
    (ha : ∀ u, u.still c.node.val = s.still c.node.val → a u = a' u) : SafepointGives s i id a' :=
  safepointGives_of_act hi hs ((congrArg (evalOp · o) (opCtx_synOp hc hp)).trans he) ha

theorem extLimit_zero {x : Ctx} : extLimit x = some 0 ↔ x.ext = some 0 := by
  cases h : x.ext with
  | none => simp [extLimit, h]
  | some e => simp [extLimit, h, BitVec.toNat_eq]

/-- What an fwait of an existing fret does after release (R99, R251). -/
theorem evalFwait_act (x : Ctx) {f : BitVec 6} (ga : GReg) (pd : PReg) (hf : f < 48) : ∃ a, evalFwait x f ga pd = .done id a ∧ ∀ u : State,
    let ok := reached ((u.core x.n).fret f.toNat) (x.t.getG ga)
    (ok = true → a u = u.modThread x.n x.k.val (·.setP pd true))
    ∧ (ok = false → extLimit x = some 0 → a u = u.modThread x.n x.k.val (·.setP pd false))
    ∧ (ok = false → extLimit x ≠ some 0 → a u = beginWait x.n x.k.val x.pc
        { kind := .fret f (x.t.getG ga), start := u.mc / 16, limit := extLimit x, pd := pd, next := (u.thread x.n x.k.val).pc } u) := by
  refine ⟨_, if_neg (BitVec.not_le.mpr hf), fun u => ⟨fun hr => if_pos hr, fun hr hx => ?_, fun hr hx => ?_⟩⟩
  · exact (if_neg (Bool.eq_false_iff.mp hr)).trans (if_pos hx)
  · exact (if_neg (Bool.eq_false_iff.mp hr)).trans (if_neg hx)

/-- No channel of a mask is another thread's. -/
theorem unboundIn_none {c : Core} {k : Nat} {mask : BitVec 16} (h : ∀ i < 16, mask.getLsbD i = true → c.boundTo i = k) :
    unboundIn c k mask = none := by
  simp only [unboundIn, List.find?_eq_none, List.mem_range, Bool.and_eq_true, decide_eq_true_eq, not_and, not_not]
  exact h

/-- What a waitd of channels of its thread does after release (R100). -/
theorem evalWaitd_act (x : Ctx) (ga : GReg) (pd : PReg) {mask : BitVec 16} (hmask : mask = (x.t.getG ga).truncate 16)
    (hb : ∀ i < 16, mask.getLsbD i = true → x.c.boundTo i = x.k.val) (hm : mask ≠ 0 ∨ x.ext ≠ none) :
    ∃ a, evalWaitd x ga pd = .done id a ∧ ∀ u : State,
      (∀ j m, oldestMsg (u.core x.n) mask = some (j, m) → a u = dispatchMsg x.n x.k x.pc pd j m u)
      ∧ (oldestMsg (u.core x.n) mask = none → extLimit x = some 0 → a u = u.modThread x.n x.k.val (·.setP pd false))
      ∧ (oldestMsg (u.core x.n) mask = none → extLimit x ≠ some 0 → a u = beginWait x.n x.k.val x.pc
          { kind := .msg mask, start := u.mc / 16, limit := extLimit x, pd := pd, next := (u.thread x.n x.k.val).pc } u) := by
  subst hmask
  have hz : ¬ ((x.t.getG ga).truncate 16 = (0 : BitVec 16) ∧ x.ext = none) := fun h => hm.elim (· h.1) (· h.2)
  simp only [evalWaitd, unboundIn_none hb]
  rw [if_neg hz]
  refine ⟨_, rfl, fun u => ⟨fun j m h => ?_, fun h hx => ?_, fun h hx => ?_⟩⟩
  · simp only [h]
  · simp only [h, hx, if_true]
  · simp only [h, if_neg hx]

/-- A version that fetch picks is what memory holds or one of the older ones, and picking changes no thread. -/
theorem pickVersion_cases (now : List Byte) (old : List (List Byte)) (s : State) :
    ((pickVersion now old s).1 = now ∨ (pickVersion now old s).1 ∈ old) ∧ (pickVersion now old s).2.cores = s.cores := by
  induction old generalizing s with
  | nil => exact ⟨.inl rfl, rfl⟩
  | cons v old ih =>
    unfold pickVersion
    dsimp only
    split
    · exact ⟨.inr (List.mem_cons_self ..), rfl⟩
    · obtain ⟨hv, hs⟩ := ih s.drawChoice.2
      exact ⟨hv.imp_right (List.mem_cons_of_mem v), hs⟩

/-- A fetched block is what instruction memory holds, or an older one that the thread has not fenced (R44, R72). -/
theorem fetchBlock_fbuf (s : State) (n : Nat) (k : ThreadNo) (b : Nat) :
    ∃ bs, ((fetchBlock n k b s).thread n k.val).fbuf = (s.thread n k.val).buffered ++ [(b, bs)]
      ∧ (bs = (s.core n).mem.imemBlock b ∨ (b, bs) ∈ (s.thread n k.val).stale) := by
  obtain ⟨hv, hs⟩ := pickVersion_cases ((s.core n).mem.imemBlock b)
    (((s.thread n k.val).stale.filter fun e => decide (e.1 = b)).map (·.2)) s
  refine ⟨_, ?fetched, hv.imp_right fun hm => ?old⟩
  case fetched =>
    have ht (u : State) (hu : u.cores = s.cores) : u.thread n k.val = s.thread n k.val := by
      simp only [State.thread, State.core, hu]
    rw [fetchBlock, State.modThread_thread_same, ht _ hs]
  case old =>
    obtain ⟨e, he, hb⟩ := List.mem_map.mp hm
    obtain ⟨hmem, heb⟩ := List.mem_filter.mp he
    rw [← hb, ← of_decide_eq_true heb]
    exact hmem

/-- Settles O17: each wait is a safe-point op of the SYN unit, whose act reads only what issue before it leaves as it was. -/
theorem waitsTestOrBlock : Obligations.WaitsTestOrBlock := by
  refine ⟨fun s c f ga pd => ?_, fun s n k b => fetchBlock_fbuf s n k b⟩
  intro n k t target mask put waits blocks now bound
  have hxt : (opCtx s c (.fwait f ga pd)).t = t := opCtx_t s c _ (show 6 ≠ 3 by decide)
  have hx : opClass (.fwait f ga pd) = 6 := rfl
  have blocksOf {i : Instr} {o : Op} (hi : opOf i = some (c, o)) (hc : opClass o = 6) (hs : blocking o = true) (kind : WaitKind) {a : State → State}
      (he : evalOp (opCtx s c (.fwait f ga pd)) o = .done id a)
      (ha : ∀ u, u.still n = s.still n → a u = beginWait n k t.pc { kind := kind, start := u.mc / 16, limit := c.ext.map (·.toNat), pd := pd
                                                                    next := (u.thread n k).pc } u) : blocks i kind := by
    refine ⟨fun hd => ?_, fun hd => ?_⟩
    · refine synOp_safe hi hc hx (by rw [hs]; rfl) he fun u hu => ?_
      rw [ha u hu, beginWait, still_dbgPend hu, hd, still_mc hu]
      rfl
    · refine synOp_safe hi hc hx (by rw [hs]; rfl) he fun u hu => ?_
      rw [ha u hu, beginWait, still_dbgPend hu, hd, still_mc hu]
      rfl
  have reach (u : State) (hu : u.still n = s.still n) : reached ((u.core n).fret f.toNat) target = decide now := by
    rw [Core.fret, still_syn hu]
    rfl
  have msgs (u : State) (hu : u.still n = s.still n) : oldestMsg (u.core n) mask = oldestMsg (s.core n) mask := by
    rw [oldestMsg, still_syn hu]
    rfl
  refine ⟨fun hf => ?fwait, fun hf => ?badFret, fun hb hm => ?waitd, ?ifence⟩
  case fwait =>
    obtain ⟨a, he, ha⟩ := evalFwait_act (opCtx s c (.fwait f ga pd)) ga pd hf
    rw [hxt] at ha
    refine ⟨fun hnow => ?_, fun hnow hext => ?_, fun hnow hext => ?_⟩
    · exact synOp_safe rfl rfl hx rfl he fun u hu => (ha u).1 ((reach u hu).trans (decide_eq_true hnow))
    · exact synOp_safe rfl rfl hx rfl he fun u hu => (ha u).2.1 ((reach u hu).trans (decide_eq_false hnow)) (extLimit_zero.mpr hext)
    · exact blocksOf (o := .fwait f ga pd) rfl rfl rfl _ he fun u hu =>
        (ha u).2.2 ((reach u hu).trans (decide_eq_false hnow)) (mt extLimit_zero.mp hext)
  case badFret =>
    exact synOp_traps (o := .fwait f ga pd) rfl rfl hx ((if_pos hf).trans (congrArg OpRes.fault (fretFault_eq f)))
  case waitd =>
    obtain ⟨a, he, ha⟩ := evalWaitd_act (opCtx s c (.fwait f ga pd)) ga pd (mask := mask) (by rw [hxt])
      (fun i hi hs => (opCtx_boundTo s c _ i).trans (hb i hi hs)) hm
    have none_ (h : ∀ m ∈ (s.core n).syn.msgs, mask.getLsbD m.chan.toNat = false) (u : State) (hu : u.still n = s.still n) :
        oldestMsg (u.core n) mask = none := (msgs u hu).trans (findWith_none _ _ h)
    refine ⟨fun j m hj => ?_, fun hno => ⟨fun hext => ?_, fun hext => ?_⟩⟩
    · exact synOp_safe rfl rfl hx rfl he fun u hu => (ha u).1 j m ((msgs u hu).trans hj)
    · exact synOp_safe rfl rfl hx rfl he fun u hu => (ha u).2.1 (none_ hno u hu) (extLimit_zero.mpr hext)
    · exact blocksOf (o := .waitd ga pd) rfl rfl rfl _ he fun u hu => (ha u).2.2 (none_ hno u hu) (mt extLimit_zero.mp hext)
  case ifence => exact synOp_safe rfl rfl hx rfl rfl fun u hu => rfl

/-! ## DMA ops (R63, R228 to R233, R246) -/

/-- The memory that a list of stores leaves, its BTB apart, depends on no BTB. -/
theorem foldl_still {α : Type} (f : CoreMem → α → CoreMem) (hf : ∀ m e, (f m e).still = f m.still e) (l : List α) (m : CoreMem) :
    (l.foldl f m).still = l.foldl f m.still := by
  induction l generalizing m with
  | nil => rfl
  | cons e l ih => rw [List.foldl_cons, List.foldl_cons, ih, hf]

/-- A descriptor read finds the same where issue leaves the core as it is. -/
theorem readDesc_drained_still {s u : State} {n : Nat} (h : u.still n = s.still n) (k off : Nat) :
    readDesc (drained u n k) off = readDesc (drained s n k) off := by
  have hmem : (u.core n).mem.still = (s.core n).mem.still := by
    have h' := congrArg (fun x => x.core.mem) h
    exact h'
  have hsb : (u.thread n k).sb = (s.thread n k).sb := by
    have h' := congrArg (fun x => (x.thread k).sb) h
    exact h'
  have hdrain (v : State) : (drained v n k).still = ((v.thread n k).sb.filter fun e => decide (e.module = 0xFFFF)).foldl
      (fun m e => match ownScratch n e.addr e.data.length with
        | some off => m.writeScratch off e.data
        | none => m) (v.core n).mem.still := by
    refine foldl_still _ (fun m e => ?_) _ _
    cases ownScratch n e.addr e.data.length <;> rfl
  have hread (m : CoreMem) : readDesc m.still off = readDesc m off := rfl
  rw [← hread, hdrain u, hmem, hsb, ← hdrain s, hread]

theorem descScap_eq (w : Word) : descScap w = (w &&& 15).toNat := by
  simp [descScap, fieldOf, Nat.and_two_pow_sub_one_eq_mod w.toNat 4]

theorem descDcap_eq (w : Word) : descDcap w = ((w >>> 4) &&& 15).toNat := by
  simp [descDcap, fieldOf, Nat.shiftRight_eq_div_pow, Nat.and_two_pow_sub_one_eq_mod _ 4]

/-- Settles O19: each DMA op's act appends its job, with the operands that the bundle read, and issue before it changes nothing of them. -/
theorem dmaOpsEnterTheQueue : Obligations.DmaOpsEnterTheQueue := by
  intro s c ch cap ga reg g n t x k off queued caps seg ok d named
  have hxt : x.t = t := opCtx_t s c _ (show 6 ≠ 3 by decide)
  have hx : opClass (.dmaWr reg g) = 6 := rfl
  have starts (nt : Bool) {i : Instr} (hi : opOf i = some (c, .dmaStart nt ch cap ga)) (hok : ok) {ranges : State → List RangeEntry}
      (hr : ∀ u, u.module = s.module → ranges u = if nt then [] else
        [{ thread := c.thread, seq := (u.core n).relSeq, ch := some ch, src := named fun w => (w &&& 15).toNat
           dst := named fun w => ((w >>> 4) &&& 15).toNat }]) :
      OpGives s i id fun u => queued u (.start nt ch k (t.getG ga) caps (some d)) (ranges u) := by
    obtain ⟨hc, hm, hs⟩ := hok
    have hown : ownCause x k off 64 = none := if_pos ⟨hm, hs⟩
    have he : evalOp x (.dmaStart nt ch cap ga) = .done id (releaseStart x nt ch k (t.getG ga)) := by
      simp only [evalOp, evalDmaStart, hxt, show x.cls = 6 from rfl]
      rw [hown, hc]
    refine opGives_of_act hi (show 6 ≠ 3 by decide) rfl nofun ((congrArg (evalOp · _) (opCtx_synOp rfl hx)).trans he) fun u hu => ?_
    have hmod : u.module = s.module := congrArg Still.module hu
    have hd : readDesc (drained u x.n x.k.val) (scratchOff x.n k off) = d := readDesc_drained_still hu _ _
    rw [hr u hmod, releaseStart, hd]
    simp only [hxt, segOf_eq hmod, descScap_eq, descDcap_eq]
    clear_value d
    cases nt with
    | false => cases d <;> rfl
    | true =>
      simp only [queued, if_true, List.append_nil]
      rfl
  have releases {i : Instr} {o : Op} (hi : opOf i = some (c, o)) (hc : opClass o = 6) (hb : blocking o = false) (hf : o ≠ .ifence)
      {w : Thread → Thread} {v : DmaWork} (he : evalOp x o = .done w (releaseDma x v)) : OpGives s i w fun u => queued u v [] := by
    refine synOp_gives hi hc hx hb hf (he.trans (congrArg (OpRes.done w) (funext fun u => ?_)))
    simp only [releaseDma, queued, List.append_nil, hxt]
    rfl
  refine ⟨fun hok => ⟨starts false rfl hok fun u _ => rfl, starts true rfl hok fun u _ => rfl⟩, ?_, fun hg => ?_, fun hg => ?_⟩
  · exact releases (o := .dmaWr reg g) rfl rfl rfl nofun (by simp only [evalOp, evalDmaWr, hxt])
  · exact releases (o := .dmaRd g reg) rfl rfl rfl nofun (by simp only [evalOp, evalDmaRd, if_neg hg])
  · exact releases (o := .dmaRd g reg) rfl rfl rfl nofun (by simp only [evalOp, evalDmaRd, if_pos hg]; rfl)

end Sys2Proof.Machine

/-! The statements of spec/02 about a core's events: answers (O20), stores that drain (O21), messages (O23), thread control and fault
records (O24). -/

namespace Sys2Proof.Machine

open Sys2Proof

/-! ## What an event changes of a thread -/

/-- A change of a thread counts by what it makes of the thread that stands there. -/
theorem modThread_congr {s : State} {n k : Nat} {f g : Thread → Thread} (h : f (s.thread n k) = g (s.thread n k)) :
    s.modThread n k f = s.modThread n k g := congrArg (s.setThread n k) h

/-- An event that a core settles. -/
theorem atCore_settle {n : NodeNo} (hn : isCore n.val = true) {v w : State} (h : v = w) :
    atCore n (settle n.val v) = .next (settle n.val w) := by rw [h, atCore_next hn]

/-! ## Answers (R50, R205, R273) -/

section Answers
variable {s : State} {n : Nat} {k : ThreadNo} {tag : BitVec 10}

theorem takeReq_some {kind : ReqKind} (h : assocGet tag (s.core n).reqs = some kind) :
    takeReq n tag s = some (kind, s.modCore n fun c => { c with reqs := assocDel tag c.reqs }) := by
  rw [takeReq, h]
  rfl

/-- The answer at the head of the node's packets is taken, and the request that it answers with it. -/
theorem rspArrive_head {p : Packet} {rest : List Packet} {kind : ReqKind} (hrx : (s.node n).rx = p :: rest)
    (hk : p.h.kind = kData ∨ p.h.kind = kRspErr) (hreq : assocGet p.h.tag (s.core n).reqs = some kind) :
    let u := (s.modNode n fun x => { x with rx := rest }).modCore n fun c => { c with reqs := assocDel p.h.tag c.reqs }
    (kind = .load k → rspArrive n s = answerLoad n k p.h.tag (respOf p) u)
    ∧ ∀ pc, kind = .rdb k pc → rspArrive n s = answerRdb n k pc p.h.tag (respOf p) u := by
  have hrx' := takeRx_head hrx (want := isAnswer) (decide_eq_true hk)
  have hreq' : takeReq n p.h.tag (s.modNode n fun x => { x with rx := rest }) = _ := takeReq_some (kind := kind) hreq
  constructor
  · rintro rfl
    simp only [rspArrive, hrx', hreq']
  · rintro pc rfl
    simp only [rspArrive, hrx', hreq']

/-- A withdrawn load that waits under the TAG keeps the answer. -/
theorem answerLoad_kept {w : Withdrawn} (r : Resp) (hl : (s.thread n k.val).load = some w) (ht : w.tag = some tag) (hr : w.resp = none) :
    answerLoad n k tag r s = s.modThread n k.val fun t => { t with load := some { w with resp := some r } } := by
  refine modThread_congr ?_
  simp only [hl, ht, hr, and_self, if_true]

variable {w : Wait} {gd : GReg} {m : BitVec 16} {rg : BitVec 6} {a : Addr}

theorem Wait.over_iff (w : Wait) (s : State) : w.over s = true ↔ ∃ l, w.limit = some l ∧ 16 * (w.start + l + 1) ≤ s.mc := by
  unfold Wait.over
  cases w.limit with
  | none => simp
  | some l => simp

/-- What the answer to an rdb does to the thread that waits under its TAG. -/
theorem answerRdb_waiting (pc : Word) (hw : (s.thread n k.val).wait = some w) (hk : w.kind = .rdb gd (some tag) m rg a) :
    (w.over s = true → ∀ r, answerRdb n k pc tag r s =
      s.modThread n k.val fun t => { t with wait := some { w with kind := .rdb gd none m rg a } })
    ∧ (w.over s = false → ∀ bs, answerRdb n k pc tag (.data bs) s = endWait n k.val w true (s.modThread n k.val (·.setG gd (wordAt bs 0))))
    ∧ (w.over s = false → ∀ x, answerRdb n k pc tag (.refused x) s = endWait n k.val w false (if x = 0 then s else noteRefusal n k.val x pc s))
    ∧ (w.over s = false → ∀ x, answerRdb n k pc tag (.poisoned x) s = endWait n k.val w false s) := by
  unfold answerRdb
  simp only [hw, hk, ne_eq, not_true_eq_false, if_false]
  refine ⟨fun h r => ?late, fun h bs => ?data, fun h x => ?refused, fun h x => ?poisoned⟩
  case late => rw [if_pos h]
  all_goals rw [if_neg (ne_true_of_eq_false h)]

end Answers

/-- The state of a thread whose withdrawn load may issue again with the bytes `d` (R50). -/
def readied (n : Nat) (k : ThreadNo) (w : Withdrawn) (s : State) (d : List Byte) : State :=
  s.modThread n k.val fun t => { t with load := some { w with ready := true, resp := some (.data d) } }

/-- What LOAD_DATA_RETURN makes of bytes that came back: a filled line is installed unless an acquire met the fill, an atomic drops its own
line (R210, R212, R214). -/
theorem loadReturn_data {s : State} {n : Nat} {k : ThreadNo} {w : Withdrawn} {bs : List Byte} (hl : (s.thread n k.val).load = some w)
    (hr : w.resp = some (.data bs)) (hready : w.ready = false) :
    loadReturn n k s =
      if w.fill then
        if w.dropFill then readied n k w s (mergeStores w.addr w.merge bs)
        else (readied n k w s (mergeStores w.addr w.merge bs)).modCore n fun c => c.modMem (·.install w.addr (mergeStores w.addr w.merge bs))
      else if w.amo && decide (w.module = 0xFFFF) then acquire (fun l => decide (l = lineAddr w.addr)) n (readied n k w s bs)
      else readied n k w s bs := by
  simp only [loadReturn, hl, hr, hready, Bool.false_eq_true, if_false]
  rfl

/-- Settles O20: the answer and its request are taken from the head, and what follows is the act of the load or the rdb that asked. -/
theorem answersReachTheirRequests : Obligations.AnswersReachTheirRequests := by
  intro s node k hn n
  refine ⟨fun p rest kind hrx hk hreq => ?answer, fun w bs hl hr hready => ?returns⟩
  case answer =>
    intro u
    obtain ⟨load, rdb⟩ := rspArrive_head (k := k) hrx hk hreq
    have ht : u.thread n k.val = s.thread n k.val := (congrArg (Core.thread · k.val) (State.modCore_core_same ..)).trans rfl
    refine ⟨fun hkind w hw htag hresp => atCore_settle hn ?load, fun pc w gd m r a hkind hw hwk => ?rdb⟩
    case load => exact (load hkind).trans (answerLoad_kept _ (ht ▸ hw) htag hresp)
    case rdb =>
      have hdo := rdb pc hkind
      obtain ⟨late, data, refused, poisoned⟩ := answerRdb_waiting pc (ht ▸ hw) hwk
      have hover := Wait.over_iff w u
      intro fails isLate
      have onTime (h : ¬ isLate) : w.over u = false := Bool.eq_false_iff.mpr (mt hover.mp h)
      have hne : p.h.kind = kRspErr → p.h.kind ≠ kData := fun h => h ▸ by decide
      refine ⟨fun hd h => atCore_settle hn ?_, fun he h h7 h0 => atCore_settle hn ?_, fun he h h70 => atCore_settle hn ?_,
        fun h => atCore_settle hn ?_⟩
      · rw [hdo, respOf, if_pos hd, data (onTime h)]
        rfl
      · rw [hdo, respOf, if_neg (hne he), if_neg h7, refused (onTime h), if_neg h0]
        rfl
      · rw [hdo, respOf, if_neg (hne he)]
        obtain h7 | h0 := h70
        · rw [if_pos h7, poisoned (onTime h)]
          rfl
        · rw [if_neg (by rw [h0]; decide), refused (onTime h), if_pos h0]
          rfl
      · rw [hdo, late (hover.mpr h)]
  case returns =>
    intro put line
    have hdo := loadReturn_data hl hr hready
    refine ⟨fun hf hd => atCore_settle hn ?_, fun hf hd => atCore_settle hn ?_, fun hf ha hm => atCore_settle hn ?_,
      fun hf h => atCore_settle hn ?_⟩
    · rw [hdo, if_pos hf, if_neg (ne_true_of_eq_false hd)]
      rfl
    · rw [hdo, if_pos hf, if_pos hd]
      rfl
    · rw [hdo, if_neg (ne_true_of_eq_false hf), if_pos (by simp [ha, hm])]
      rfl
    · rw [hdo, if_neg (ne_true_of_eq_false hf), if_neg (by simpa [imp_iff_not_or] using h)]
      rfl

/-! ## Stores that drain and are acknowledged (R61, R62, R205, R217) -/

theorem find?_eq_some_of_unique {α : Type} {p : α → Bool} {l : List α} {a : α} (hm : a ∈ l) (ha : p a = true)
    (hu : ∀ b, p b = true → b = a) : l.find? p = some a := by
  cases hf : l.find? p with
  | none => exact absurd ha (List.find?_eq_none.mp hf a hm)
  | some b => rw [hu b (List.find?_some hf)]

/-- A thread without buffered stores is not held under R61. -/
theorem heldBySb_nil {t : Thread} (h : t.sb = []) : heldBySb t = false := by
  unfold heldBySb
  cases t.held with
  | none => rfl
  | some b => simp [sbOverlap, h]

/-- A round robin meets every thread. -/
theorem mem_roundRobin : ∀ rr k : ThreadNo, k ∈ (List.range 4).map fun i => (Fin.ofNat 4 (rr.val + i) : ThreadNo) := by decide

/-- The one thread with buffered stores drains, in every turn of the round robin. -/
theorem drainThread_only {c : Core} {k : ThreadNo} {e : SbEntry} {rest : List SbEntry} (hk : (c.thread k.val).sb = e :: rest)
    (hj : ∀ j : ThreadNo, j ≠ k → (c.thread j.val).sb = []) : drainThread c = some k := by
  have hfull : ∀ j : ThreadNo, (! (c.thread j.val).sb.isEmpty) = true → j = k := fun j h =>
    by_contra fun hne => by simp [hj j hne] at h
  unfold drainThread
  dsimp only
  split
  case h_1 j hf =>
    refine congrArg some (by_contra fun hne => ?_)
    exact absurd (List.find?_some hf) (by simp [heldBySb_nil (hj j hne)])
  case h_2 => exact find?_eq_some_of_unique (mem_roundRobin _ _) (by simp [hk]) hfull

/-- An ACK or NACK at the head of the node's CTRL packets finds the store that it answers. -/
theorem storeAnswered {s : State} {n : Nat} {k : ThreadNo} {p : Packet} {rest : List Packet} {pc : Word} (hc : (s.node n).ctrl = p :: rest)
    (hreq : assocGet p.h.tag (s.core n).reqs = some (.store k pc)) :
    let u := (s.modNode n fun x => { x with ctrl := rest }).modCore n fun c => { c with reqs := assocDel p.h.tag c.reqs }
    (p.h.kind = kAck → ackArrive n s = storeDone n k p.h.tag u)
    ∧ (p.h.kind = kNack → nackArrive n s = noteRefusal n k.val (kindOf p) pc (storeDone n k p.h.tag u)) := by
  have hreq' : takeReq n p.h.tag (s.modNode n fun x => { x with ctrl := rest }) = _ := takeReq_some (kind := .store k pc) hreq
  refine ⟨fun hk => ?_, fun hk => ?_⟩
  · simp only [ackArrive, takeCtrl_head hc (want := fun q => decide (q.h.kind = kAck)) (decide_eq_true hk), hreq']
  · simp only [nackArrive, takeCtrl_head hc (want := fun q => decide (q.h.kind = kNack)) (decide_eq_true hk), hreq']

/-- Settles O21: the round robin finds the one thread with buffered stores, and its oldest store leaves in one of three ways. -/
theorem storesDrainAndAreAcknowledged : Obligations.StoresDrainAndAreAcknowledged := by
  intro s node k hn n
  refine ⟨fun e rest hsb hj => ?drains, fun p rest pc hc hreq => ?answered⟩
  case drains =>
    intro u
    have hdrain : storeDrain n s = drainEntry n k e s := by
      rw [storeDrain, drainThread_only (c := s.core n) hsb hj]
      simp only [hsb]
    have hpop : (s.modThread n k.val fun t => { t with sb := t.sb.tail ++ t.entryWrite.toList, entryWrite := none })
        = s.modThread n k.val fun t => { t with sb := rest ++ t.entryWrite.toList, entryWrite := none } :=
      modThread_congr (by simp only [hsb, List.tail_cons])
    refine ⟨fun off hm ho ht => atCore_settle hn (hdrain.trans ?_), fun off tag hm ho ht => atCore_settle hn (hdrain.trans ?_),
      fun dst tag hno hdst htag => atCore_settle hn (hdrain.trans ?_)⟩
    · simp only [drainEntry, hpop, if_pos hm, ho, ht]
      rfl
    · simp only [drainEntry, hpop, if_pos hm, ho, ht]
      rfl
    · have hown : (if e.module = 0xFFFF then ownScratch n e.addr e.data.length else none) = none := by
        split
        case isTrue h => exact hno.resolve_left (not_not_intro h)
        case isFalse => rfl
      simp only [drainEntry, hpop, hown, hdst, htag]
      rfl
  case answered =>
    intro u
    obtain ⟨acked, refused⟩ := storeAnswered hc hreq
    exact ⟨fun hk => atCore_settle hn (acked hk), fun hk => atCore_settle hn (refused hk)⟩

/-! ## Messages (R76, R263, R264, R265) -/

/-- The first element that satisfies f, where none before it does. -/
theorem findWith_append {α : Type} {f : α → Bool} {pre : List α} {x : α} (post : List α) (hpre : ∀ y ∈ pre, f y = false)
    (hx : f x = true) :
    findWith f (pre ++ x :: post) = some (pre.length, x) := by
  induction pre with
  | nil => exact findWith_head f x post hx
  | cons y pre ih =>
    rw [List.cons_append, findWith, hpre y List.mem_cons_self, ih fun z hz => hpre z (List.mem_cons_of_mem y hz)]
    rfl

theorem modifyAt_append {α : Type} (f : α → α) (pre : List α) (x : α) (post : List α) :
    modifyAt f pre.length (pre ++ x :: post) = pre ++ f x :: post := by
  induction pre with
  | nil => rfl
  | cons y pre ih => exact congrArg (y :: ·) ih

/-- An admitted message that is no THREAD_CTL goes to its channel's queue. -/
theorem msgArrive_admitted {s : State} {n : Nat} {p : Packet} {rest : List Packet} (hc : (s.node n).ctrl = p :: rest) (hk : p.h.kind = kMsg)
    (hm : msgRefusal s n p = none) (ht : isThreadCtl p = false) :
    msgArrive n s = queueMsg n p (s.modNode n fun x => { x with ctrl := rest }) := by
  have hw : (isMsg p && ! admittedCtl s n p) = true := by simp [isMsg, hk, admittedCtl, ht]
  simp only [msgArrive, takeCtrl_head hc (want := fun p => isMsg p && ! admittedCtl s n p) hw, hm]

/-- What the queue of channel ch does with a message (R76, R263, R264). -/
theorem queueMsg_channel {s : State} {n ch : Nat} {p : Packet} (hch : channelOf p.h.addr = some (n, ch)) :
    queueMsg n p s =
      if (s.core n).ctl.halted then s.send (ackOf n p)
      else if (s.core n).msgRoom ch then
        (acceptMsg n { chan := BitVec.ofNat 4 ch, words := msgWords p, tag := msgTag p } s).send (ackOf n p)
      else (modCtlPage n (fun x => { x with chFull := x.chFull + 1 }) s).send (nackOf n p refFull) := by
  rw [queueMsg, hch]

/-- MSG_RETRY lets the oldest refused message go whose delay has passed (R265). -/
theorem msgRetry_oldest {s : State} {n : Nat} {pre post : List SynEntry} {e : SynEntry} (hq : (s.core n).syn.queue = pre ++ e :: post)
    (hpre : ∀ x ∈ pre, x.stage ≠ .backoff ∨ ¬ x.due ≤ s.mc) (hst : e.stage = .backoff) (hdue : e.due ≤ s.mc) :
    msgRetry n s = s.modCore n fun c => { c with syn := { c.syn with queue := pre ++ { e with stage := .queued } :: post } } := by
  have hfind : findWith (fun e : SynEntry => decide (e.stage = .backoff ∧ e.due ≤ s.mc)) (s.core n).syn.queue = some (pre.length, e) := by
    rw [hq]
    exact findWith_append post (fun x hx => decide_eq_false fun h => (hpre x hx).elim (· h.1) (· h.2)) (decide_eq_true ⟨hst, hdue⟩)
  rw [msgRetry, State.modCore, State.modCore]
  simp only [hfind]
  rw [hq, modifyAt_append]

/-- Settles O23: the message at the head reaches its channel's queue, and the first refused message that is due goes back to its own. -/
theorem messagesQueueOrAreRefused : Obligations.MessagesQueueOrAreRefused := by
  intro s node hn n
  refine ⟨fun p rest ch hc hk hm hch ht => ?arrives, fun pre e post hq hpre hst hdue => atCore_settle hn ?retry⟩
  case arrives =>
    intro u m
    have hdo : msgArrive n s = _ := (msgArrive_admitted hc hk hm ht).trans (queueMsg_channel hch)
    refine ⟨fun hh => atCore_settle hn (hdo.trans ?_), fun hh hr => atCore_settle hn (hdo.trans ?_), fun hh hr => atCore_settle hn (hdo.trans ?_)⟩
    · exact if_pos hh
    · exact (if_neg (ne_true_of_eq_false hh)).trans (if_pos hr)
    · exact (if_neg (ne_true_of_eq_false hh)).trans (if_neg (ne_true_of_eq_false hr))
  case retry => exact msgRetry_oldest hq (fun x hx => (hpre x hx).imp_right Nat.not_le.mpr) hst hdue

/-! ## Thread control and fault records (R55, R76, R128 to R131) -/

section Twice
variable {α : Type} (m : Map α) (i : Nat)

theorem mapDel_mapPut (x : α) : mapDel (mapPut m i x) i = mapDel m i := by
  induction m with
  | nil => simp [mapPut, mapDel]
  | cons e m ih =>
    obtain ⟨k, v⟩ := e
    by_cases hlt : i < k
    · simp [mapPut, hlt, mapDel]
    · by_cases hk : k = i <;> simp [mapPut, hlt, mapDel, hk, ih]

theorem mapPut_mapPut (x y : α) : mapPut (mapPut m i x) i y = mapPut m i y := by
  induction m with
  | nil => simp [mapPut]
  | cons e m ih =>
    obtain ⟨k, v⟩ := e
    by_cases hlt : i < k
    · simp [mapPut, hlt]
    · by_cases hk : k = i <;> simp [mapPut, hlt, hk, ih]

/-- Of two writes of a key that the first one lists, the second counts. -/
theorem mapSet_mapSet [DecidableEq α] {d x : α} (hx : x ≠ d) (y : α) : mapSet d (mapSet d m i x) i y = mapSet d m i y := by
  simp only [mapSet, if_neg hx, mapDel_mapPut, mapPut_mapPut]

end Twice

/-- Two changes of a core, of which the first leaves one of its threads out of IDLE, are one. -/
theorem modCore_modCore {s : State} {n : Nat} {f g : Core → Core} (k : Nat) (h : ((f (s.core n)).thread k).st ≠ .idle) :
    (s.modCore n f).modCore n g = s.modCore n fun c => g (f c) := by
  have hne : f (s.core n) ≠ {} := fun he => h (by rw [he]; rfl)
  have hcore : (s.modCore n f).core n = f (s.core n) := State.modCore_core_same ..
  rw [State.modCore, hcore, State.setCore, State.modCore, State.setCore, mapSet_mapSet _ _ hne]
  rfl

/-! ### THREAD_CTL (R128, R130, R131) -/

/-- Word 0 of a THREAD_CTL that names thread k and op `op` alone (Table 4.14). -/
theorem ctlWord_fields {w : Word} (h : w < 0x40) :
    w >>> 6 = 0 ∧ fieldOf w 3 0 = (w &&& 15).toNat ∧ (Fin.ofNat 4 (fieldOf w 5 4) : ThreadNo) = (w.extractLsb' 4 2).toFin := by
  have hlt : w.toNat < 64 := h
  refine ⟨?_, ?_, ?_⟩
  · refine BitVec.eq_of_toNat_eq ?_
    rw [BitVec.toNat_ushiftRight, Nat.shiftRight_eq_div_pow]
    exact Nat.div_eq_of_lt hlt
  · rw [fieldOf, BitVec.toNat_and]
    exact (congrArg (· % 16) (Nat.div_one _)).trans (Nat.and_two_pow_sub_one_eq_mod _ 4).symm
  · refine Fin.ext ?_
    simp [fieldOf, Nat.shiftRight_eq_div_pow]

theorem badPc_false {w : Word} (ha : w.toNat % 4 = 0) (hlt : w < 0x20000) : badPc w = false := by
  have hlt' : w.toNat < 0x20000 := hlt
  simp [badPc, ha, hlt']

/-- The status and the effect of a START and a RESUME that are carried out (Table 4.14). -/
theorem threadOp_done {s : State} {n : Nat} {w0 w1 : Word} (h : w0 < 0x40) :
    let k : ThreadNo := (w0.extractLsb' 4 2).toFin
    (w0 &&& 15 = 1 → w1.toNat % 4 = 0 → w1 < 0x20000 → (s.thread n k.val).st = .idle → threadOp n [w0, w1] s = (0, startThread n k w1 s))
    ∧ (w0 &&& 15 = 2 → w1 = 0xFFFFFFFF ∨ w1.toNat % 4 = 0 ∧ w1 < 0x20000 → (s.thread n k.val).st = .parkedFault → threadOp n [w0, w1] s =
      (0, s.modThread n k.val fun t => { t with pc := if w1 = 0xFFFFFFFF then t.parkedPc else w1, st := .running, fbuf := [] })) := by
  intro k
  obtain ⟨hz, hop, hk⟩ := ctlWord_fields h
  refine ⟨fun ho ha hlt hst => ?start, fun ho hpc hst => ?resume⟩
  case start =>
    simp only [threadOp, List.getD_cons_zero, List.getD_cons_succ, hz, hk, hop, ho]
    rw [if_neg (by simp)]
    show (if badPc w1 = true then _ else if (s.thread n k.val).st ≠ .idle then _ else _) = _
    rw [if_neg (ne_true_of_eq_false (badPc_false ha hlt)), if_neg (not_not_intro hst)]
  case resume =>
    have hpc' : ¬ (w1 ≠ 0xFFFFFFFF ∧ badPc w1 = true) := fun h => by
      obtain ⟨ha, hlt⟩ := hpc.resolve_left h.1
      exact ne_true_of_eq_false (badPc_false ha hlt) h.2
    simp only [threadOp, List.getD_cons_zero, List.getD_cons_succ, hz, hk, hop, ho]
    rw [if_neg (by simp)]
    show (if w1 ≠ 0xFFFFFFFF ∧ badPc w1 = true then _ else if (s.thread n k.val).st ≠ .parkedFault then _ else _) = _
    rw [if_neg hpc', if_neg (not_not_intro hst)]

/-- An admitted THREAD_CTL is carried out, acknowledged and answered (R130, R131). -/
theorem threadCtl_admitted {s : State} {n : Nat} {p : Packet} {rest : List Packet} (hc : (s.node n).ctrl = p :: rest) (hk : p.h.kind = kMsg)
    (hm : msgRefusal s n p = none) (ht : isThreadCtl p = true) :
    let r := threadOp n (msgWords p) (s.modNode n fun x => { x with ctrl := rest })
    threadCtl n s = answerCtl n p ((msgWords p).getD 0 0) r.1 (r.2.send (ackOf n p)) := by
  have hw : (isMsg p && admittedCtl s n p) = true := by simp [isMsg, hk, admittedCtl, ht, hm]
  simp only [threadCtl, takeCtrl_head hc (want := fun p => isMsg p && admittedCtl s n p) hw]

/-- START changes the thread, ends the halt and lets the thread's held coprocessor ops go (R55, R76, R130). -/
theorem startThread_eq (n : Nat) (k : ThreadNo) (pc : Word) (s : State) : startThread n k pc s =
    (s.modThread n k.val fun t =>
      { t with pc := pc, th := true, gdepth := 0, seed := 0, vcvts := 0, st := .running, ran := true, fbuf := [] }).modCore n fun c =>
    { c with ctl := { c.ctl with halted := false }, afterDrop := c.afterDrop.filter fun e => decide (e.2 ≠ k) } := by
  refine modCore_modCore k.val (f := fun c => { c with afterDrop := c.afterDrop.filter fun e => decide (e.2 ≠ k) })
    (g := fun c => { c with ctl := { c.ctl with halted := false } }) ?_
  simp only [State.modThread_core_same, Core.thread, Core.modThread, Core.setThread, mapGet_mapSet_same]
  decide

/-! ### Fault records (R128, R129) -/

/-- The lowest thread of which p holds. -/
theorem allThreads_find? {p : ThreadNo → Bool} {k : ThreadNo} (hk : p k = true) (hj : ∀ j < k, p j = false) : allThreads.find? p = some k := by
  have hsplit : ∀ k : ThreadNo, allThreads = allThreads.take k.val ++ k :: allThreads.drop (k.val + 1)
      ∧ ∀ j ∈ allThreads.take k.val, j < k := by
    decide
  obtain ⟨he, hlt⟩ := hsplit k
  exact List.find?_eq_some_iff_append.mpr ⟨hk, _, _, he, fun j h => by rw [hj j (hlt j h)]; rfl⟩

/-- The oldest record of the lowest thread that has one leaves where it may. -/
theorem recordSend_oldest {s u : State} {n : Nat} {k : ThreadNo} {r : FaultRecord} {rest : List FaultRecord}
    (hk : allThreads.find? (fun k => ! (s.thread n k.val).records.isEmpty) = some k) (hr : (s.thread n k.val).records = r :: rest)
    (hu : sendRecord n k r s = some u) : recordSend n s = u.modThread n k.val fun t => { t with records := rest } := by
  simp only [recordSend, hk, hr, hu]

/-- A record goes to the core's own channel 15 where another thread supervises and can take it (R128, R129). -/
theorem sendRecord_own {s : State} {n : Nat} {k : ThreadNo} (r : FaultRecord) (hne : (s.core n).ctl.supv ≠ k)
    (hrun : (s.core n).supvThread.st = .running) (hh : (s.core n).ctl.halted = false)
    (hroom : ((s.core n).syn.msgs.filter fun m => decide (m.chan = 15)).length < 8) :
    sendRecord n k r s = some (acceptMsg n (recordMsg r) s) := by
  have hrec : noRecords ((s.core n).thread (s.core n).ctl.supv.val) = false := by
    have hst : ((s.core n).thread (s.core n).ctl.supv.val).st = .running := hrun
    simp [noRecords, hst]
  have hroom' : recordRoom (s.core n) = true := decide_eq_true hroom
  simp only [sendRecord, hrec, hroom', recordLocal, hh]
  simp [hne]

/-- Settles O24: the status of a START or a RESUME that meets its conditions is 0, and a record with room goes to channel 15. -/
theorem threadsAreControlled : Obligations.ThreadsAreControlled := by
  intro s node hn n
  refine ⟨fun p rest w0 w1 hc hk hm ht hw hlt hcore => ?ctl, fun k r rest hr hj hne hrun hh hroom => atCore_settle hn ?record⟩
  case ctl =>
    intro k u answers
    obtain ⟨start, resume⟩ := threadOp_done (s := u) (n := n) (w1 := w1) hlt
    have answersOf {v : State} (hdo : threadOp n [w0, w1] u = (0, v)) (hs : (v.core n).ctl.supv = (s.core n).ctl.supv) : answers v := by
      refine atCore_settle hn ((threadCtl_admitted hc hk hm ht).trans ?_)
      rw [hw, hdo, answerCtl, if_pos hcore, send_core, hs]
      rfl
    refine ⟨fun ho ha hpc hst => ?_, fun ho hpc hst => ?_⟩
    · refine answersOf ((start ho ha hpc hst).trans (congrArg _ (startThread_eq ..))) ?_
      simp only [State.modCore_core_same, State.modThread_core_same, Core.modThread_ctl]
      rfl
    · refine answersOf (resume ho hpc hst) ?_
      simp only [State.modThread_core_same, Core.modThread_ctl]
      rfl
  case record =>
    have hfind : allThreads.find? (fun k => ! (s.thread n k.val).records.isEmpty) = some k :=
      allThreads_find? (by simp [hr]) fun j h => by simp [hj j h]
    exact recordSend_oldest hfind hr (sendRecord_own r hne hrun hh hroom)

end Sys2Proof.Machine

/-! The statements of spec/02 about issue and core halt (O25), with what the settling of an event leaves of its core as it is. -/

namespace Sys2Proof.Machine

open Sys2Proof

/-! ## What settling keeps -/

/-- What of a core no settling changes: all but the requests and refusals of its threads, its SYN queue and what waits for a TAG. -/
def Core.unsettled (c : Core) : Core × (Nat → TState) :=
  ({ c with threads := [], reqs := [], tagQueue := [], syn := { c.syn with queue := [], incOwn := [] } }, fun k => (c.thread k).st)

theorem Core.unsettled_modThread {f : Thread → Thread} (hf : ∀ t, (f t).st = t.st) (c : Core) (k : Nat) :
    (c.modThread k f).unsettled = c.unsettled := by
  refine Prod.ext rfl (funext fun j => ?_)
  show ((c.modThread k f).thread j).st = (c.thread j).st
  rw [Core.modThread_thread]
  split
  case isTrue h => rw [hf, h]
  case isFalse => rfl

theorem Thread.tagged_st (t : Thread) (tag : BitVec 10) (kind : ReqKind) : (t.tagged tag kind).st = t.st := by
  cases kind <;> rfl

section Settling
variable (n : Nat)

theorem sendTagged_unsettled (s : State) (kind : ReqKind) (tag : BitVec 10) (p : Packet) :
    ((s.sendTagged n kind tag p).core n).unsettled = (s.core n).unsettled := by
  rw [State.sendTagged, send_core, State.modCore_core_same]
  cases kind.waiter with
  | none => rfl
  | some k => exact Core.unsettled_modThread (f := (·.tagged tag kind)) (fun t => Thread.tagged_st t tag kind) (s.core n) k.val

theorem pumpTags_unsettled (m : Nat) (s : State) : ((pumpTags n m s).core n).unsettled = (s.core n).unsettled := by
  induction m generalizing s with
  | zero => rfl
  | succ m ih =>
    unfold pumpTags
    split
    · rw [ih, sendTagged_unsettled, State.modCore_core_same]
      rfl
    · rfl

theorem noteRefusal_unsettled (s : State) (k : Nat) (kind : BitVec 3) (pc : Word) :
    ((noteRefusal n k kind pc s).core n).unsettled = (s.core n).unsettled := by
  rw [noteRefusal, State.modThread_core_same, Core.unsettled_modThread]
  exact fun _ => rfl

theorem sendSyn_unsettled (e : SynEntry) (i : Nat) (module : BitVec 16) (region : BitVec 6) (a : Addr) (kind : BitVec 5) (payload : List Byte)
    (s : State) : ((sendSyn n e i module region a kind payload s).core n).unsettled = (s.core n).unsettled := by
  unfold sendSyn
  dsimp only
  split
  · rw [noteRefusal_unsettled, State.modCore_core_same]
    rfl
  · rw [send_core, State.modCore_core_same]
    rfl
  · rfl

theorem actSyn_unsettled (i : Nat) (e : SynEntry) (s : State) : ((actSyn n i e s).core n).unsettled = (s.core n).unsettled := by
  have own (inc : FretInc) (q : List SynEntry) :
      ((addIncOwn n inc (s.modCore n fun c => { c with syn := { c.syn with queue := q } })).core n).unsettled = (s.core n).unsettled := by
    rw [addIncOwn, State.modCore_core_same, State.modCore_core_same]
    rfl
  unfold actSyn
  split
  · exact own _ _
  · split
    · split
      · exact own _ _
      · exact sendSyn_unsettled ..
    · exact sendSyn_unsettled ..
  · exact sendSyn_unsettled ..

theorem synPass_unsettled (fuel i : Nat) (s : State) : ((synPass n fuel i s).core n).unsettled = (s.core n).unsettled := by
  induction fuel generalizing i s with
  | zero => rfl
  | succ fuel ih =>
    unfold synPass
    dsimp only
    split
    · rfl
    · split
      · rw [ih, actSyn_unsettled]
      · rw [ih]

theorem courseSync_core (cn : Nat) (s : State) (m : Nat) : (courseSync cn s).core m = s.core m := by
  unfold courseSync
  dsimp only
  split <;> split <;> rfl

/-- Settling lets requests and SYN ops leave and the course follow its cores; of the core that is settled nothing else changes. -/
theorem settle_unsettled (s : State) : ((settle n s).core n).unsettled = (s.core n).unsettled := by
  rw [settle, courseSync_core, synPump, synPass_unsettled, pumpTags_unsettled]

theorem settle_mat (s : State) : ((settle n s).core n).mat = (s.core n).mat := congrArg (·.1.mat) (settle_unsettled n s)
theorem settle_mem (s : State) : ((settle n s).core n).mem = (s.core n).mem := congrArg (·.1.mem) (settle_unsettled n s)
theorem settle_ctl (s : State) : ((settle n s).core n).ctl = (s.core n).ctl := congrArg (·.1.ctl) (settle_unsettled n s)
theorem settle_ranges (s : State) : ((settle n s).core n).ranges = (s.core n).ranges := congrArg (·.1.ranges) (settle_unsettled n s)
theorem settle_deferred (s : State) : ((settle n s).core n).deferred = (s.core n).deferred := congrArg (·.1.deferred) (settle_unsettled n s)
theorem settle_msgs (s : State) : ((settle n s).core n).syn.msgs = (s.core n).syn.msgs := congrArg (·.1.syn.msgs) (settle_unsettled n s)
theorem settle_holds (s : State) (cop : Cop) (k : ThreadNo) : ((settle n s).core n).holds cop k = (s.core n).holds cop k :=
  congrArg (·.1.holds cop k) (settle_unsettled n s)
theorem settle_st (s : State) (k : Nat) : ((settle n s).thread n k).st = (s.thread n k).st := congrArg (·.2 k) (settle_unsettled n s)

end Settling

/-! ## Fetch (R44) -/

/-- v is s with the fetch buffers of core n's threads filled further. -/
def FetchedFrom (n : Nat) (s v : State) : Prop :=
  { v.core n with threads := (s.core n).threads } = s.core n
  ∧ ∀ k : Nat, { v.thread n k with fbuf := (s.thread n k).fbuf } = s.thread n k

theorem FetchedFrom.refl (n : Nat) (s : State) : FetchedFrom n s s := ⟨rfl, fun _ => rfl⟩

theorem FetchedFrom.trans {n : Nat} {s u v : State} (hu : FetchedFrom n s u) (hv : FetchedFrom n u v) : FetchedFrom n s v := by
  obtain ⟨hcu, htu⟩ := hu
  obtain ⟨hcv, htv⟩ := hv
  exact ⟨(congrArg (fun c => { c with threads := (s.core n).threads }) hcv).trans hcu,
    fun k => (congrArg (fun t => { t with fbuf := (s.thread n k).fbuf }) (htv k)).trans (htu k)⟩

theorem fetchBlock_fetched (n : Nat) (k : ThreadNo) (b : Nat) (s : State) : FetchedFrom n s (fetchBlock n k b s) := by
  obtain ⟨_, hcores⟩ := pickVersion_cases ((s.core n).mem.imemBlock b) (((s.thread n k.val).stale.filter fun e => decide (e.1 = b)).map (·.2)) s
  unfold fetchBlock
  dsimp only
  generalize pickVersion _ _ s = v at hcores ⊢
  have hcore : v.2.core n = s.core n := by simp only [State.core, hcores]
  refine ⟨?_, fun j => ?_⟩
  · rw [State.modThread_core_same, hcore]
    rfl
  · have ht (j : Nat) : v.2.thread n j = s.thread n j := by rw [State.thread, hcore, State.thread]
    rw [State.modThread_thread]
    by_cases hj : n = n ∧ j = k.val
    · rw [if_pos hj, ht, hj.2]
    · rw [if_neg hj, ht]

theorem fetchAhead_fetched (n m : Nat) (s : State) : FetchedFrom n s (fetchAhead n m s) := by
  induction m generalizing s with
  | zero => exact .refl n s
  | succ m ih =>
    unfold fetchAhead
    split
    · exact .refl n s
    · split
      · exact (fetchBlock_fetched ..).trans (ih _)
      · exact .refl n s

/-! ## Selection (R46) -/

/-- The thread kept of one kept before and another: the one that has waited longer. -/
def longerWait (waited : ThreadNo → Nat) : Option ThreadNo → ThreadNo → Option ThreadNo
  | none, k => some k
  | some j, k => if waited k > waited j then some k else some j

/-- Of threads in rising order, the one kept is one that has waited longest, the lowest of those. -/
theorem foldl_longerWait (waited : ThreadNo → Nat) (a : ThreadNo) (l : List ThreadNo) (h : (a :: l).Pairwise (· < ·)) :
    ∃ j ∈ a :: l, l.foldl (longerWait waited) (some a) = some j
      ∧ ∀ k ∈ a :: l, waited k ≤ waited j ∧ (waited k = waited j → j ≤ k) := by
  induction l generalizing a with
  | nil => exact ⟨a, List.mem_singleton_self a, rfl, fun k hk => by simp [List.mem_singleton.mp hk]⟩
  | cons b l ih =>
    have hab : a < b := List.rel_of_pairwise_cons h List.mem_cons_self
    rw [List.foldl_cons, longerWait]
    split
    case isTrue hlt =>
      obtain ⟨j, hj, hfold, hmax⟩ := ih b h.tail
      refine ⟨j, List.mem_cons_of_mem a hj, hfold, fun k hk => ?_⟩
      obtain rfl | hk := List.mem_cons.mp hk
      · have hb := (hmax b List.mem_cons_self).1
        exact ⟨by omega, by omega⟩
      · exact hmax k hk
    case isFalse hle =>
      obtain ⟨j, hj, hfold, hmax⟩ := ih a (h.sublist ((List.sublist_cons_self b l).cons_cons a))
      refine ⟨j, List.cons_subset_cons a (List.subset_cons_self b l) hj, hfold, fun k hk => ?_⟩
      obtain ⟨ha, hja⟩ := hmax a List.mem_cons_self
      have hcase : k = b ∨ k ∈ a :: l := by
        simp only [List.mem_cons] at hk ⊢
        tauto
      obtain rfl | hk := hcase
      · exact ⟨by omega, fun he => (hja (by omega)).trans hab.le⟩
      · exact hmax k hk

/-- A thread in escalation goes first, else one that has waited longest. -/
theorem pickThread_eq (v : State) (n : Nat) : pickThread v n =
    ((allThreads.filter (threadReady v n)).find? fun k => (v.thread n k.val).esc).or
      ((allThreads.filter (threadReady v n)).foldl (longerWait fun k => mapGet 0 (v.core n).waits k.val) none) := by
  unfold pickThread
  dsimp only
  split
  case h_1 j hj => rw [hj, Option.some_or]
  case h_2 hnone =>
    rw [hnone, Option.none_or]
    congr 1
    funext a k
    cases a <;> rfl

/-- A ready thread lets a thread be picked that goes before it under R46. -/
theorem pickThread_ready {v : State} {n : Nat} {k : ThreadNo} (hk : threadReady v n k = true) :
    let waited (k : ThreadNo) : Nat := mapGet 0 (v.core n).waits k.val
    ∃ j, threadReady v n j = true ∧ pickThread v n = some j ∧ ((v.thread n k.val).esc = true → (v.thread n j.val).esc = true)
      ∧ ((∀ i : ThreadNo, threadReady v n i = true → (v.thread n i.val).esc = false) →
        waited k ≤ waited j ∧ (waited k = waited j → j ≤ k)) := by
  intro waited
  have hmem (i : ThreadNo) : i ∈ allThreads.filter (threadReady v n) ↔ threadReady v n i = true := by
    have hi : i ∈ allThreads := by revert i; decide
    simp [hi]
  have hsorted : (allThreads.filter (threadReady v n)).Pairwise (· < ·) := List.Pairwise.filter _ (by decide)
  rw [pickThread_eq]
  generalize allThreads.filter (threadReady v n) = l at hmem hsorted ⊢
  cases hesc : l.find? fun k => (v.thread n k.val).esc with
  | some j =>
    have hr := (hmem j).mp (List.mem_of_find?_eq_some hesc)
    have he := List.find?_some hesc
    exact ⟨j, hr, Option.some_or, fun _ => he, fun h => absurd he (ne_true_of_eq_false (h j hr))⟩
  | none =>
    cases l with
    | nil => exact absurd ((hmem k).mpr hk) List.not_mem_nil
    | cons a l =>
      obtain ⟨j, hj, hfold, hmax⟩ := foldl_longerWait waited a l hsorted
      refine ⟨j, (hmem j).mp hj, Option.none_or.trans hfold, fun he => ?_, fun _ => hmax k ((hmem k).mpr hk)⟩
      exact absurd he (List.find?_eq_none.mp hesc k ((hmem k).mpr hk))

theorem pickThread_none {v : State} {n : Nat} (h : ∀ k, threadReady v n k = false) : pickThread v n = none := by
  have hnil : allThreads.filter (threadReady v n) = [] := List.filter_eq_nil_iff.mpr fun k _ => ne_true_of_eq_false (h k)
  rw [pickThread_eq, hnil]
  rfl

/-! ## Core halt (R76) -/

/-- A change of a core that leaves its threads. -/
theorem modCore_thread_of {s : State} {n : Nat} {f : Core → Core} (hf : (f (s.core n)).threads = (s.core n).threads) (j : Nat) :
    (s.modCore n f).thread n j = s.thread n j := by
  rw [State.thread, State.modCore_core_same, Core.thread, hf]
  rfl

theorem dropUntagged_thread (n : Nat) (k : ThreadNo) (s : State) (j : Nat) : (dropUntagged n k s).thread n j = s.thread n j :=
  modCore_thread_of rfl j

theorem cancelWait_thread (n : Nat) (k : ThreadNo) (s : State) (j : Nat) : (cancelWait n k s).thread n j = s.thread n j := by
  unfold cancelWait cancelRdb
  split
  · split
    · split
      · exact send_thread ..
      · rfl
    · exact dropUntagged_thread ..
    · rfl
  · rfl

theorem haltThread_st (n : Nat) (k j : ThreadNo) (s : State) :
    ((haltThread n k s).thread n j.val).st = if j = k then .idle else (s.thread n j.val).st := by
  rw [haltThread, State.modThread_thread]
  by_cases h : j = k
  · rw [if_pos ⟨rfl, congrArg _ h⟩, if_pos h]
    rfl
  · rw [if_neg fun hj => h (Fin.ext hj.2), if_neg h, dropUntagged_thread, cancelWait_thread]

/-- Halting threads leaves them IDLE, and those that were. -/
theorem foldState_haltThread (n : Nat) (l : List ThreadNo) (k : ThreadNo) (s : State) (h : k ∈ l ∨ (s.thread n k.val).st = .idle) :
    ((foldState (haltThread n) l s).thread n k.val).st = .idle := by
  induction l generalizing s with
  | nil => exact h.resolve_left List.not_mem_nil
  | cons a l ih =>
    refine ih _ ?_
    rw [haltThread_st]
    by_cases ha : k = a
    · exact .inr (if_pos ha)
    · rw [if_neg ha]
      exact h.imp_left fun hm => (List.mem_cons.mp hm).resolve_left ha

theorem abortTable_thread (n : Nat) (s : State) (k : Nat) : (abortTable n s).thread n k = s.thread n k :=
  modCore_thread_of rfl k

theorem abortChan_thread (n ch : Nat) (s : State) (k : Nat) : (abortChan n ch s).thread n k = s.thread n k := by
  have run (f : ChainRun → ChainRun) (u : State) : (modRun n ch f u).thread n k = u.thread n k :=
    modCore_thread_of rfl k
  have segs (u : State) : (freeReadSeg n ch u).thread n k = u.thread n k := by
    unfold freeReadSeg
    dsimp only
    split
    · rfl
    · split
      · rfl
      · exact modCore_thread_of rfl k
  unfold abortChan
  dsimp only
  split
  · split
    · rfl
    · rw [segs, run]
  · rfl

/-- A halted core's threads are IDLE; it holds no deferred fault and no message. -/
theorem haltCore_halted (n : Nat) (s : State) :
    (∀ k : ThreadNo, ((haltCore n s).thread n k.val).st = .idle) ∧ ((haltCore n s).core n).deferred = []
    ∧ ((haltCore n s).core n).syn.msgs = [] ∧ ((haltCore n s).core n).ctl.halted = true := by
  have hst (k : ThreadNo) :
      ((foldState (fun ch s => abortChan n ch s) (List.range 8) (abortTable n (foldState (haltThread n) allThreads s))).thread n k.val).st
        = .idle := by
    have hall : k ∈ allThreads := by revert k; decide
    rw [foldState_reads (fun ch s => abortChan n ch s) (·.thread n k.val) _ _ fun ch _ u => abortChan_thread n ch u k.val, abortTable_thread]
    exact foldState_haltThread n allThreads k s (.inl hall)
  unfold haltCore
  dsimp only
  generalize foldState (fun ch s => abortChan n ch s) _ _ = u at hst ⊢
  refine ⟨fun k => ?_, ?_⟩
  · rw [modCore_thread_of rfl]
    exact hst k
  · rw [State.modCore_core_same]
    exact ⟨rfl, rfl, rfl⟩

theorem settle_haltCore (n : Nat) (s : State) :
    (∀ k : ThreadNo, ((settle n (haltCore n s)).thread n k.val).st = .idle) ∧ ((settle n (haltCore n s)).core n).deferred = []
    ∧ ((settle n (haltCore n s)).core n).syn.msgs = [] ∧ ((settle n (haltCore n s)).core n).ctl.halted = true := by
  rw [settle_deferred, settle_msgs, settle_ctl]
  simp only [settle_st]
  exact haltCore_halted n s

/-- A write of CORE_HALT (R76). -/
theorem corePageWrite_halt (who : Accessor) (n : Nat) (v : Word) (s : State) :
    corePageWrite who n 0x20008 v s = writeHalt n (.block (Fin.ofNat 960 n) (BitVec.ofNat 20 0x20008)) who v s := rfl

theorem execBundleIssue_eq {node : NodeNo} (hn : isCore node.val = true) (s : State) :
    let v := fetchAhead node.val 8 s
    exec (.bundleIssue node) s = .next ((pickThread v node.val).elim v fun k => settle node.val (issueThread v node.val k)) := by
  show execBundleIssue node s = _
  unfold execBundleIssue
  dsimp only
  rw [atCore_next hn]
  generalize fetchAhead node.val 8 s = v
  cases pickThread v node.val with
  | none => rw [Option.elim_none]
  | some k => rw [Option.elim_some]

theorem exec_coreHalt (who : Accessor) {node : NodeNo} (w : Word) (s : State) (hn : isCore node.val = true) :
    ∃ reg, exec (.coreHalt who node w) s = .next (settle node.val (writeHalt node.val reg who w s)) :=
  ⟨_, atCore_settle hn (corePageWrite_halt ..)⟩

theorem writeHalt_pb (n : Nat) (reg : RegAddr) (i : PbNo) {w : Word} (s : State) (hw : w.getLsbD 0 = true) :
    writeHalt n reg (.pb i) w s = haltCore n s := (if_pos rfl).trans (if_pos hw)

theorem writeHalt_other (n : Nat) (reg : RegAddr) {who : Accessor} (w : Word) (s : State) (h : isPb who = false) :
    writeHalt n reg who w s = coreViol n reg who true s := if_neg (ne_true_of_eq_false h)

/-- A refused write sets LOCK_VIOL and changes no thread. -/
theorem settle_coreViol (n : Nat) (reg : RegAddr) (who : Accessor) (s : State) :
    ((settle n (coreViol n reg who true s)).core n).ctl.lockViol = true
    ∧ ∀ k : ThreadNo, ((settle n (coreViol n reg who true s)).thread n k.val).st = (s.thread n k.val).st := by
  have hcore : (coreViol n reg who true s).core n = (modCtlPage n (fun c => { c with lockViol := true }) s).core n := rfl
  refine ⟨?_, fun k => ?_⟩
  · rw [settle_ctl, hcore, modCtlPage, State.modCore_core_same]
  · rw [settle_st, State.thread, hcore]
    exact congrArg Thread.st (modCore_thread_of rfl k.val)

/-- Settles O25: fetch changes fetch buffers alone, and the picked thread is the first by escalation, waiting time and number. -/
theorem bundlesIssueAndCoresHalt : Obligations.BundlesIssueAndCoresHalt := by
  intro s node hn n v waited
  obtain ⟨hcore, hthread⟩ : FetchedFrom n s v := fetchAhead_fetched n 8 s
  have hwaits : (v.core n).waits = (s.core n).waits := (congrArg Core.waits hcore :)
  have hesc (k : ThreadNo) : (v.thread n k.val).esc = (s.thread n k.val).esc := (congrArg Thread.esc (hthread k.val) :)
  refine ⟨⟨hcore, fun k => hthread k.val⟩, fun hno => ?none, fun k hk => ?issues, fun i w hw => ?halts, fun who w hwho => ?refused⟩
  case none => rw [execBundleIssue_eq hn, pickThread_none hno, Option.elim_none]
  case issues =>
    obtain ⟨hholds, hready⟩ := Bool.and_eq_true_iff.mp hk
    obtain ⟨j, hj, hpick, hfirst, hlongest⟩ := pickThread_ready hk
    simp only [hwaits, hesc] at hfirst hlongest
    exact ⟨hholds, hready, j, hj, by rw [execBundleIssue_eq hn, hpick, Option.elim_some], hfirst, hlongest⟩
  case halts =>
    obtain ⟨reg, hdo⟩ := exec_coreHalt (.pb i) w s hn
    rw [writeHalt_pb _ _ _ _ hw] at hdo
    simp only [n]
    exact ⟨_, hdo, settle_haltCore node.val s⟩
  case refused =>
    obtain ⟨reg, hdo⟩ := exec_coreHalt who w s hn
    rw [writeHalt_other _ _ _ _ hwho] at hdo
    simp only [n]
    exact ⟨_, hdo, settle_coreViol node.val reg who s⟩

end Sys2Proof.Machine

/-! The statements of spec/02 about the matrix unit's steps: ops that start and complete (O26), tables that end (O28). -/

namespace Sys2Proof.Machine

open Sys2Proof

/-! ## The sequencer's end (R66, R190, R193) -/

section Sequencer
variable {s : State} {n : Nat} {r : SeqRun}

/-- A table is over once it generates no more and what it generated has completed (R190). -/
def tableOver (m : Matrix) (r : SeqRun) : Prop := (r.finished = true ∨ r.steps.length ≤ r.step) ∧ r.fincs = [] ∧ generated m = []

theorem endTable_over (hr : (s.core n).mat.seq = some r) (h : tableOver (s.core n).mat r) :
    ((endTable n s).core n).mat.seq = none
    ∧ ((endTable n s).core n).ranges = (s.core n).ranges.filter (fun e => !decide (e.ch = none ∧ e.seq = r.job.seq))
    ∧ ((endTable n s).core n).mat.seqStep = if r.finished = true then (s.core n).mat.seqStep else BitVec.ofNat 6 (r.steps.length - 1) := by
  simp only [endTable, hr]
  unfold tableOver at h
  rw [if_pos h, State.modCore_core_same, modMat, State.modCore_core_same]
  exact ⟨rfl, rfl, rfl⟩

theorem endTable_running (hr : (s.core n).mat.seq = some r) (h : ¬ tableOver (s.core n).mat r) : endTable n s = s := by
  simp only [endTable, hr]
  exact if_neg h

theorem abortTable_running (hr : (s.core n).mat.seq = some r) (hf : r.finished = false) (hs : r.step < r.steps.length) :
    ((abortTable n s).core n).mat =
      { (s.core n).mat with seq := some { r with finished := true }, seqAborted := true, seqStep := BitVec.ofNat 6 r.step } := by
  have hgo : ¬ (r.finished = true ∨ r.steps.length ≤ r.step) := by simp [hf, hs]
  rw [abortTable, modMat, State.modCore_core_same]
  simp only [hr, if_neg hgo]

theorem abortTable_none (hr : (s.core n).mat.seq = none) (m : Nat) : (abortTable n s).core m = s.core m := by
  rw [abortTable, modMat, State.modCore_core]
  split
  case isTrue h => simp only [hr, h]
  case isFalse => rfl

end Sequencer

/-- Settles O28: whether a table is over decides what SEQ_TABLE_END does, and whether it still generates what an abort does. -/
theorem sequencerTablesEnd : Obligations.SequencerTablesEnd := by
  intro s node hn
  refine ⟨fun r hr hgo hf hg => ?ended, fun r hr h => atCore_settle hn (endTable_running hr ?running), fun r hr hf hs => ?aborts, fun hr => ?idle⟩
  case ended =>
    refine ⟨_, atCore_settle hn rfl, ?_⟩
    rw [settle_mat, settle_ranges]
    exact endTable_over hr ⟨hgo, hf, hg⟩
  case running =>
    rintro ⟨hgo, hf, hg⟩
    obtain ⟨hnf, hlt⟩ | hf' | hg' := h
    · exact hgo.elim (ne_true_of_eq_false hnf) (Nat.not_le.mpr hlt)
    · exact hf' hf
    · exact hg' hg
  case aborts =>
    refine ⟨_, atCore_next hn, ?_⟩
    rw [abortTable_running hr hf hs]
    exact ⟨rfl, rfl, rfl⟩
  case idle => exact ⟨_, atCore_next hn, abortTable_none hr⟩

/-! ## A deferred fault (R54, R55, R424) -/

theorem health_core (s : State) (e : HEvent) (m : Nat) : (s.health e).core m = s.core m := by
  unfold State.health
  dsimp only
  split <;> rfl

/-- An uncorrectable word changes the error counts of its core alone. -/
theorem coreEcc_core (s : State) (n a b : Nat) :
    ∃ ctl, ctl.halted = (s.core n).ctl.halted ∧ (s.coreEcc n a b).core n = { s.core n with ctl := ctl } := by
  refine ⟨{ (s.core n).ctl with eccLast := BitVec.ofNat 4 a, eccUncorr := satAdd (s.core n).ctl.eccUncorr 1 }, rfl, ?_⟩
  have hcore := State.modCore_core_same s n fun c =>
    { c with ctl := { c.ctl with eccLast := BitVec.ofNat 4 a, eccUncorr := satAdd c.ctl.eccUncorr 1 } }
  rw [State.coreEcc, health_core]
  exact hcore

/-- A record joins those of its thread. -/
theorem pushRecord_core (s : State) (n : Nat) (k : ThreadNo) (tag : BitVec 4) (code : Byte) (a d : Word) :
    ∃ f, (pushRecord s n k tag code a d).core n = (s.core n).modThread k.val f := by
  have htrace : (traceEvent true n k a s).core n = s.core n := by
    unfold traceEvent
    split <;> rfl
  rw [pushRecord, State.modThread_core_same, htrace]
  exact ⟨_, rfl⟩

/-- A thread that has ended holds no fault (R55). -/
def hasEnded (t : Thread) : Prop := t.st = .idle ∨ t.st = .dead

section Defer
variable (s : State) (n : Nat) (cop : Cop) (k : ThreadNo) (f : FaultInfo) (pc : Word)

/-- A deferred fault is held, or, against an ended thread or in a halted core, discarded (R54, R55, R76; log 42). -/
theorem deferFault_core :
    let c := s.core n
    (c.ctl.halted = true → (deferFault s n cop k f pc).core n = c)
    ∧ (c.ctl.halted = false → hasEnded (s.thread n k.val) →
      ∃ g, (deferFault s n cop k f pc).core n = ({ c with afterDrop := c.afterDrop ++ [(cop, k)] } : Core).modThread k.val g)
    ∧ (c.ctl.halted = false → ¬ hasEnded (s.thread n k.val) → (deferFault s n cop k f pc).core n = { c with deferred := c.deferred ++
        [{ cop := cop, thread := k, code := f.code, detail := f.detail ||| 0x80000000, pc := pc }] }) := by
  intro c
  unfold hasEnded
  refine ⟨fun hh => ?halted, fun hh he => ?ended, fun hh he => ?held⟩
  case halted => rw [deferFault, if_pos hh]
  case ended =>
    rw [deferFault, if_neg (ne_true_of_eq_false hh), if_pos he, dropFault]
    obtain ⟨g, hg⟩ := pushRecord_core (s.modCore n fun c => { c with afterDrop := c.afterDrop ++ [(cop, k)] }) n k tagDeferDropped f.code pc
      (f.detail ||| 0x80000000)
    exact ⟨g, hg.trans (congrArg (Core.modThread · k.val g) (State.modCore_core_same ..))⟩
  case held =>
    rw [deferFault, if_neg (ne_true_of_eq_false hh), if_neg he, State.modCore_core_same]

theorem deferFault_mat : ((deferFault s n cop k f pc).core n).mat = (s.core n).mat := by
  obtain ⟨halted, ended, held⟩ := deferFault_core s n cop k f pc
  cases hh : (s.core n).ctl.halted with
  | true => rw [halted hh]
  | false =>
    by_cases he : hasEnded (s.thread n k.val)
    · obtain ⟨g, hg⟩ := ended hh he
      rw [hg, Core.modThread_mat]
    · rw [held hh he]

end Defer

/-- A fault of a table's op stops the table, and with it the ops that it generated later. -/
theorem stopTable_core (s : State) (n i q : Nat) : ∃ m : Matrix, (stopTable n i q s).core n = { s.core n with mat := m }
    ∧ m.active = (s.core n).mat.active ∧ m.queue = (s.core n).mat.queue ∧ ∀ x ∈ m.seqOps, x ∈ (s.core n).mat.seqOps := by
  rw [stopTable, modMat, State.modCore_core_same]
  refine ⟨_, rfl, ?_⟩
  split
  · exact ⟨rfl, rfl, fun x hx => (List.mem_filter.mp hx).1⟩
  · exact ⟨rfl, rfl, fun x hx => hx⟩

section MatDefer
variable (s : State) (n : Nat) (j : MatJob) (f : FaultInfo)

/-- A deferred fault of the matrix unit leaves what the unit has begun and what waits in its queue. -/
theorem matDefer_core : ∃ (ctl : CoreCtl) (m : Matrix) (u : State), ctl.halted = (s.core n).ctl.halted ∧ u.core n = { s.core n with ctl := ctl }
    ∧ (matDefer s n j f).core n = { (deferFault u n .mat j.thread f j.pc).core n with mat := m }
    ∧ m.active = (s.core n).mat.active ∧ m.queue = (s.core n).mat.queue ∧ ∀ x ∈ m.seqOps, x ∈ (s.core n).mat.seqOps := by
  obtain ⟨u, ctl, hu, hctl, hcore⟩ : ∃ u ctl, (if f.code = fEcc then s.coreEcc n f.detail.toNat 0 else s) = u
      ∧ ctl.halted = (s.core n).ctl.halted ∧ u.core n = { s.core n with ctl := ctl } := by
    split
    · obtain ⟨ctl, hctl, hcore⟩ := coreEcc_core s n f.detail.toNat 0
      exact ⟨_, ctl, rfl, hctl, hcore⟩
    · exact ⟨s, (s.core n).ctl, rfl, rfl, rfl⟩
  have hmat : ((deferFault u n .mat j.thread f j.pc).core n).mat = (s.core n).mat := by rw [deferFault_mat, hcore]
  unfold matDefer
  dsimp only
  rw [hu]
  split
  · obtain ⟨m, hm, ha, hq, hs⟩ := stopTable_core (deferFault u n .mat j.thread f j.pc) n j.step j.seq
    rw [hmat] at ha hq hs
    exact ⟨ctl, m, u, hctl, hcore, hm, ha, hq, hs⟩
  · exact ⟨ctl, (s.core n).mat, u, hctl, hcore, by rw [← hmat], rfl, rfl, fun x hx => hx⟩

end MatDefer

/-! ## Ops that start (R54, R169, R171) -/

theorem mem_mergeJobs {x : MatJob} {as bs : List MatJob} (h : x ∈ mergeJobs as bs) : x ∈ as ∨ x ∈ bs := by
  induction as generalizing bs with
  | nil => exact .inr h
  | cons a as ih =>
    simp only [mergeJobs, List.mem_append, List.mem_cons] at h
    obtain hpre | rfl | hrest := h
    · exact .inr (List.takeWhile_subset _ hpre)
    · exact .inl List.mem_cons_self
    · exact (ih hrest).imp (List.mem_cons_of_mem a) (List.dropWhile_subset _ ·)

/-- What waits in the unit waits in its queue or was generated by its table. -/
theorem waiting_seq_ne {m : Matrix} {q : Nat} (hq : ∀ x ∈ m.queue, x.seq ≠ q) (hs : ∀ x ∈ m.seqOps, x.seq ≠ q) :
    ∀ x ∈ m.waiting, x.seq ≠ q :=
  fun x hx => (mem_mergeJobs hx).elim (hq x) (hs x)

theorem dropJob_seq_ne (j : MatJob) (m : Matrix) :
    (∀ x ∈ (dropJob j m).queue, x.seq ≠ j.seq) ∧ ∀ x ∈ (dropJob j m).seqOps, x.seq ≠ j.seq :=
  ⟨fun _ hx => of_decide_eq_true (List.mem_filter.mp hx).2, fun _ hx => of_decide_eq_true (List.mem_filter.mp hx).2⟩

/-- The oldest waiting op, where it may start, takes its engine or meets its fault. -/
theorem startMat_oldest {s : State} {n : Nat} {e : Engine} {j : MatJob} {rest : List MatJob} (hw : (s.core n).mat.waiting = j :: rest)
    (hm : mayStart (s.core n) n [] j = true) (he : engineOf j.work = some e) :
    (startFault s n j = none → startMat n s = modMat n (fun m => { dropJob j m with active := m.active ++ [(e, j)] }) s)
    ∧ ∀ f, startFault s n j = some f → startMat n s = matDefer (modMat n (dropJob j) s) n j f := by
  have hpick : pickJob (s.core n) n [] (s.core n).mat.waiting = some j := by rw [hw, pickJob, if_pos hm]
  refine ⟨fun hf => ?_, fun f hf => ?_⟩
  · simp only [startMat, hpick, hf, he]
  · simp only [startMat, hpick, hf]

/-- An op that meets a fault when it starts is gone, and its fault is held or discarded (R54, R55, R76). -/
theorem matDefer_dropped (s : State) (n : Nat) (j : MatJob) (f : FaultInfo) :
    let c := (matDefer (modMat n (dropJob j) s) n j f).core n
    (∀ x ∈ c.mat.waiting, x.seq ≠ j.seq)
    ∧ ((s.core n).ctl.halted = false → ¬ hasEnded (s.thread n j.thread.val) →
      { cop := .mat, thread := j.thread, code := f.code, detail := f.detail ||| 0x80000000, pc := j.pc } ∈ c.deferred)
    ∧ ((s.core n).ctl.halted = false → hasEnded (s.thread n j.thread.val) → c.deferred = (s.core n).deferred ∧ c.holds .mat j.thread = true)
    ∧ ((s.core n).ctl.halted = true → c.deferred = (s.core n).deferred) := by
  obtain ⟨ctl, m, u, hctl, hu, hcore, hactive, hqueue, hseq⟩ := matDefer_core (modMat n (dropJob j) s) n j f
  have hd : (modMat n (dropJob j) s).core n = { s.core n with mat := dropJob j (s.core n).mat } := State.modCore_core_same ..
  rw [hd] at hctl hu hqueue hseq
  obtain ⟨hq, hs⟩ := dropJob_seq_ne j (s.core n).mat
  obtain ⟨halted, ended, held⟩ := deferFault_core u n .mat j.thread f j.pc
  have hh : (u.core n).ctl.halted = (s.core n).ctl.halted := by rw [hu]; exact hctl
  have ht : u.thread n j.thread.val = s.thread n j.thread.val := by rw [State.thread, hu]; rfl
  rw [hh] at halted ended held
  rw [ht] at ended held
  dsimp only
  rw [hcore]
  refine ⟨waiting_seq_ne ?_ fun x hx => hs x (hseq x hx), fun h he => ?_, fun h he => ?_, fun h => ?_⟩
  · rw [show m.queue = _ from hqueue]
    exact hq
  · rw [held h he]
    exact List.mem_append_right _ (List.mem_singleton_self _)
  · obtain ⟨g, hg⟩ := ended h he
    rw [hg, hu]
    refine ⟨rfl, Bool.or_eq_true_iff.mpr (.inr ?_)⟩
    exact List.contains_iff_mem.mpr (List.mem_append_right _ (List.mem_singleton_self _))
  · rw [halted h, hu]

/-! ## Effects at completion (R159, R162, R169) -/

section Effects
variable {α β γ : Type}

/-- A reading that no step of a fold changes is unchanged by the fold. -/
theorem foldl_reads {f : β → α → β} (g : β → γ) (hf : ∀ b a, g (f b a) = g b) (l : List α) (b : β) : g (l.foldl f b) = g b := by
  induction l generalizing b with
  | nil => rfl
  | cons a l ih => rw [List.foldl_cons, ih, hf]

theorem bitOf_setBit {w : Nat} (x : BitVec w) {i : Nat} (hi : i < w) (b : Bool) : bitOf (setBit x i b) i = b := by
  cases b <;> simp [bitOf, setBit, hi]

/-- What the unit has begun, and its queue. -/
def Matrix.under (m : Matrix) : List (Engine × MatJob) × List MatJob := (m.active, m.queue)

theorem restoreTiles_under (c : Core) (n : Nat) (cap : Cap) (off : Word) (mask : BitVec 16) :
    (restoreTiles c n cap off mask).mat.under = c.mat.under := by
  refine foldl_reads (fun c : Core => c.mat.under) (fun c' t => ?_) (List.range 16) c
  split <;> rfl

theorem accNormExec_under (m : Matrix) (a : Nat) : (accNormExec m a).under = m.under := by
  unfold accNormExec
  dsimp only
  split <;> rfl

theorem accCvtExec_under (m : Matrix) (j : MatJob) (a t rm : Nat) : (accCvtExec m j a t rm).1.under = m.under := by
  unfold accCvtExec
  dsimp only
  split <;> rfl

/-- No op's effect touches what the unit has begun and its queue. -/
theorem matEffect_under (c : Core) (n : Nat) (j : MatJob) : (matEffect c n j).1.mat.under = c.mat.under := by
  unfold matEffect
  cases j.work with
  | trestore => exact restoreTiles_under ..
  | accNorm => exact accNormExec_under ..
  | accCvt => exact accCvtExec_under ..
  | _ => rfl

end Effects

/-- The completion of the op at the head of the engines: its effect, its flags, and for an mma perhaps a fault (R169, R181). -/
theorem finishMat_head {s : State} {n : Nat} {e : Engine} {j : MatJob} {rest : List (Engine × MatJob)}
    (h : (s.core n).mat.active = (e, j) :: rest) :
    let r := (matEffect (s.core n) n j).1
    ∃ v, (v.core n).mat = { r.mat with active := rest } ∧ (v.core n).mem = r.mem
      ∧ ((∃ f, finishMat n e s = matDefer v n j f ∧ ∃ a ta tb g z rn s0, j.work = .mma a ta tb g z rn s0) ∨ finishMat n e s = v) := by
  intro r
  have hfind : (s.core n).mat.active.find? (fun a => decide (a.1 = e)) = some (e, j) := by rw [h]; exact List.find?_cons_of_pos (by simp)
  have hactive : removeFirst (fun a => decide (a.1 = e)) r.mat.active = rest := by
    have hr : r.mat.active = (s.core n).mat.active := congrArg Prod.fst (matEffect_under (s.core n) n j)
    rw [hr, h]
    exact removeFirst_head _ _ _ (by simp)
  refine ⟨(modMat n (fun m => { m with active := removeFirst (fun a => decide (a.1 = e)) m.active })
    (s.setCore n r)).modThread n j.thread.val (·.addFlags (matEffect (s.core n) n j).2.1), ?mat, ?mem, ?acts⟩
  case mat => rw [State.modThread_core_same, Core.modThread_mat, modMat, State.modCore_core_same, State.setCore_core_same, hactive]
  case mem =>
    rw [State.modThread_core_same, Core.modThread_mem, modMat, State.modCore_core_same, State.setCore_core_same]
  case acts =>
    unfold finishMat
    simp only [hfind]
    split
    next a ta tb g z rn s0 hw =>
      split
      · exact .inl ⟨_, rfl, a, ta, tb, g, z, rn, s0, hw⟩
      · exact .inr rfl
    · exact .inr rfl

theorem finishMat_free {s : State} {n : Nat} {e : Engine} (h : ∀ a ∈ (s.core n).mat.active, a.1 ≠ e) : finishMat n e s = s := by
  have hfind : (s.core n).mat.active.find? (fun a => decide (a.1 = e)) = none :=
    List.find?_eq_none.mpr fun a ha => by simpa using h a ha
  simp only [finishMat, hfind]

/-- A completion leaves the queue, and of the engines the one that it frees. -/
theorem finishMat_under {s : State} {n : Nat} {e : Engine} {j : MatJob} {rest : List (Engine × MatJob)}
    (h : (s.core n).mat.active = (e, j) :: rest) :
    ((finishMat n e s).core n).mat.active = rest ∧ ((finishMat n e s).core n).mat.queue = (s.core n).mat.queue := by
  obtain ⟨v, hmat, _, hv⟩ := finishMat_head h
  have hqueue : (matEffect (s.core n) n j).1.mat.queue = (s.core n).mat.queue := congrArg Prod.snd (matEffect_under (s.core n) n j)
  obtain ⟨f, hf, _⟩ | hv := hv
  · obtain ⟨ctl, m, u, _, _, hcore, hactive, hq, _⟩ := matDefer_core v n j f
    rw [hf, hcore]
    exact ⟨hactive.trans (by rw [hmat]), hq.trans (by rw [hmat]; exact hqueue)⟩
  · rw [hv, hmat]
    exact ⟨rfl, hqueue⟩

/-- An op other than an mma completes with its effect alone. -/
theorem finishMat_effect {s : State} {n : Nat} {e : Engine} {j : MatJob} {rest : List (Engine × MatJob)}
    (h : (s.core n).mat.active = (e, j) :: rest) (hj : ∀ a ta tb g z rn s0, j.work ≠ .mma a ta tb g z rn s0) :
    ((finishMat n e s).core n).mat = { (matEffect (s.core n) n j).1.mat with active := rest }
    ∧ ((finishMat n e s).core n).mem = (matEffect (s.core n) n j).1.mem := by
  obtain ⟨v, hmat, hmem, hv⟩ := finishMat_head h
  obtain ⟨_, _, a, ta, tb, g, z, rn, s0, hw⟩ | hv := hv
  · exact absurd hw (hj a ta tb g z rn s0)
  · rw [hv]
    exact ⟨hmat, hmem⟩

section Named
variable {c : Core} {n : Nat} {j : MatJob}

/-- TREL takes its tile out of use. -/
theorem matEffect_trel {t : TReg} (hw : j.work = .trel t) : (matEffect c n j).1.mat = c.mat.clearTile t.toNat := by
  simp only [matEffect, hw]
  rfl

/-- TCFG takes its tile out of use and gives it its configuration. -/
theorem matEffect_tcfg {t : TReg} {w : Word} (hw : j.work = .tcfg t w) :
    (matEffect c n j).1.mat = { c.mat.clearTile t.toNat with tiles := mapSet {} c.mat.tiles t.toNat (tileCfgOf w) } := by
  simp only [matEffect, hw]
  rfl

/-- TLD fills its tile with the rows that it reads. -/
theorem matEffect_tld {t : TReg} {cap : Cap} {off st : Word} (hw : j.work = .tld t cap off st false) :
    (matEffect c n j).1.mat = c.mat.setTile t.toNat
      ((matRows c.mat j.work).flatMap fun r => c.mem.readScratch (scratchOff n cap r.1) r.2) := by
  simp only [matEffect, hw]
  rfl

/-- TST writes its tile's rows. -/
theorem matEffect_tst {t : TReg} {cap : Cap} {off st : Word} (hw : j.work = .tst t cap off st) :
    (matEffect c n j).1 = c.modMem (rowsWrite n cap ((List.range (c.mat.cfg t.toNat).nrows).map fun i =>
      (off.toNat + i * st.toNat, ((c.mat.tileBytes t.toNat).drop (i * (c.mat.cfg t.toNat).rowBytes)).take (c.mat.cfg t.toNat).rowBytes))) := by
  simp only [matEffect, hw]

theorem matEffect_accCfg {a : AccNo} {w : Word} (hw : j.work = .accCfg a w) : (matEffect c n j).1.mat = accCfgExec c.mat a.toNat w := by
  simp only [matEffect, hw]
  rfl

end Named

/-- Settles O26: the oldest op takes its engine or its fault is deferred, and no effect touches the engines and the queue. -/
theorem matrixOpsStartAndComplete : Obligations.MatrixOpsStartAndComplete := by
  intro s node e j hn
  dsimp only
  refine ⟨fun rest hw hm he => ?starts, fun hfree => atCore_settle hn (finishMat_free hfree), fun rest ha => ?completes⟩
  case starts =>
    obtain ⟨go, faults⟩ := startMat_oldest hw hm he
    refine ⟨fun hf => atCore_settle hn (go hf), fun f hf => ⟨_, atCore_settle hn (faults f hf), ?_⟩⟩
    obtain ⟨hwait, held, ended, halted⟩ := matDefer_dropped s node.val j f
    rw [settle_mat, settle_deferred]
    refine ⟨hwait, held, fun h he => ?_, halted⟩
    rw [settle_holds]
    exact ended h he
  case completes =>
    obtain ⟨hactive, hqueue⟩ := finishMat_under ha
    refine ⟨_, atCore_settle hn rfl, ?_⟩
    rw [settle_mat, settle_mem]
    refine ⟨hactive, hqueue, ?_⟩
    split
    next t hw =>
      obtain ⟨hmat, _⟩ := finishMat_effect ha (by simp [hw])
      rw [hmat, matEffect_trel hw]
      exact ⟨bitOf_setBit _ t.isLt _, rfl⟩
    next t w hw =>
      obtain ⟨hmat, _⟩ := finishMat_effect ha (by simp [hw])
      rw [hmat, matEffect_tcfg hw]
      exact ⟨bitOf_setBit _ t.isLt _, mapGet_mapSet_same ..⟩
    next t cap _ _ hw =>
      obtain ⟨hmat, _⟩ := finishMat_effect ha (by simp [hw])
      rw [hmat, matEffect_tld hw]
      exact ⟨bitOf_setBit _ t.isLt _, rfl, mapGet_mapSet_same ..⟩
    next t cap off st hw =>
      obtain ⟨hmat, hmem⟩ := finishMat_effect ha (by simp [hw])
      rw [hmat, hmem, matEffect_tst hw]
      exact ⟨rfl, rfl⟩
    next a w hw =>
      obtain ⟨hmat, _⟩ := finishMat_effect ha (by simp [hw])
      rw [hmat, matEffect_accCfg hw]
      exact mapGet_mapSet_same ..
    · trivial

end Sys2Proof.Machine

/-! Scalar ops of spec/03: ALU results (O1), compares, predicates and pairs (O2). -/

namespace Sys2Proof.Machine

open Sys2Proof

/-! ## Table 3.5 and 3.6 in the words of the library -/

section Results

variable (x y : Word)

theorem and_lowBits_toNat {w : Nat} (k : Nat) (b : BitVec w) (h : k < w) : (b &&& BitVec.ofNat w (2 ^ k - 1)).toNat = b.toNat % 2 ^ k := by
  have hk : 2 ^ k < 2 ^ w := Nat.pow_lt_pow_right (by omega) h
  have h0 := Nat.two_pow_pos k
  rw [BitVec.toNat_and, BitVec.toNat_ofNat, Nat.mod_eq_of_lt (by omega), Nat.and_two_pow_sub_one_eq_mod]

theorem and31_toNat : (y &&& 31).toNat = y.toNat % 32 := and_lowBits_toNat 5 y (by omega)
theorem and63_toNat (y : DWord) : (y &&& 63).toNat = y.toNat % 64 := and_lowBits_toNat 6 y (by omega)

theorem ovf32_add : ovf32 (x.toInt + y.toInt) = x.saddOverflow y := by
  unfold ovf32 BitVec.saddOverflow
  rw [Bool.eq_iff_iff]
  simp
  omega

theorem ovf32_sub : ovf32 (x.toInt - y.toInt) = x.ssubOverflow y := by
  unfold ovf32 BitVec.ssubOverflow
  rw [Bool.eq_iff_iff]
  simp
  omega

theorem ovf32_mul : ovf32 (x.toInt * y.toInt) = x.smulOverflow y := by
  unfold ovf32 BitVec.smulOverflow
  generalize x.toInt * y.toInt = z
  rw [Bool.eq_iff_iff]
  simp
  omega

theorem toInt_le_iff : x.toInt ≤ y.toInt ↔ x.slt y = true ∨ x = y := by
  rw [BitVec.slt_iff_toInt_lt, ← BitVec.toInt_inj]
  omega

theorem aluResult_min : (aluResult .min x y).1 = if x.slt y then x else y := by
  simp only [aluResult, toInt_le_iff]
  split_ifs <;> simp_all

theorem aluResult_max : (aluResult .max x y).1 = if x.slt y then y else x := by
  simp only [aluResult, toInt_le_iff]
  split_ifs <;> simp_all

theorem toNat_le_iff : x.toNat ≤ y.toNat ↔ x < y ∨ x = y := by
  rw [BitVec.lt_def, ← BitVec.toNat_inj]
  omega

theorem aluResult_minu : (aluResult .minu x y).1 = if x < y then x else y := by
  simp only [aluResult, toNat_le_iff]
  split_ifs <;> simp_all

theorem aluResult_maxu : (aluResult .maxu x y).1 = if x < y then y else x := by
  simp only [aluResult, toNat_le_iff]
  split_ifs <;> simp_all

theorem aluResult_clz : (aluResult .clz x y).1 = if x = 0 then 32 else BitVec.ofNat 32 (31 - x.toNat.log2) := by
  have hx : x.toNat = 0 ↔ x = 0 := by simp [BitVec.toNat_eq]
  simp only [aluResult, bitLen, hx]
  split
  · rfl
  · rw [show 32 - (x.toNat.log2 + 1) = 31 - x.toNat.log2 by omega]

theorem aluResult_mulhu : (aluResult .mulhu x y).1 = ((x.zeroExtend 64 * y.zeroExtend 64) >>> 32).truncate 32 := by
  have h : x.toNat * y.toNat < 2 ^ 64 := by
    have h := Nat.mul_lt_mul'' x.isLt y.isLt
    omega
  apply BitVec.eq_of_toNat_eq
  simp only [aluResult, BitVec.toNat_ofNat, BitVec.truncate_eq_setWidth, BitVec.toNat_setWidth,
    BitVec.toNat_ushiftRight, BitVec.toNat_mul]
  rw [Nat.mod_eq_of_lt (a := x.toNat) (by omega), Nat.mod_eq_of_lt (a := y.toNat) (by omega), Nat.mod_eq_of_lt h, Nat.shiftRight_eq_div_pow]

/-- The exact product of two words, as 64 bits. -/
theorem ofInt_mul_toInt : BitVec.ofInt 64 (x.toInt * y.toInt) = x.signExtend 64 * y.signExtend 64 := BitVec.ofInt_mul ..

/-- Bits 63:32 of an exact product. -/
theorem ofInt_upper (z : Int) : BitVec.ofInt 32 (z / 4294967296) = (BitVec.ofInt 64 z >>> 32).truncate 32 := by
  apply BitVec.eq_of_toNat_eq
  simp only [BitVec.toNat_ofInt, BitVec.truncate_eq_setWidth, BitVec.toNat_setWidth, BitVec.toNat_ushiftRight, Nat.shiftRight_eq_div_pow]
  omega

theorem aluResult_mulh : (aluResult .mulh x y).1 = ((x.signExtend 64 * y.signExtend 64) >>> 32).truncate 32 := by
  rw [← ofInt_mul_toInt, ← ofInt_upper]
  rfl

theorem aluResult_div : aluResult .div x y = (if y = 0 then 0xFFFFFFFF else x.sdiv y, false, decide (y = 0)) := by
  have h : BitVec.ofInt 32 (x.toInt.tdiv y.toInt) = x.sdiv y := by
    apply BitVec.eq_of_toInt_eq
    rw [BitVec.toInt_sdiv, BitVec.toInt_ofInt]
  simp only [aluResult, h]
  split
  case isTrue hy => rw [decide_eq_true hy]
  case isFalse hy => rw [decide_eq_false hy]

theorem aluResult_divu : aluResult .divu x y = (if y = 0 then 0xFFFFFFFF else x / y, false, decide (y = 0)) := by
  have h : BitVec.ofNat 32 (x.toNat / y.toNat) = x / y := by
    apply BitVec.eq_of_toNat_eq
    rw [BitVec.toNat_udiv, BitVec.toNat_ofNat, Nat.mod_eq_of_lt (Nat.lt_of_le_of_lt (Nat.div_le_self ..) x.isLt)]
  simp only [aluResult, h]
  split
  case isTrue hy => rw [decide_eq_true hy]
  case isFalse hy => rw [decide_eq_false hy]

theorem aluResult_rem : aluResult .rem x y = (if y = 0 then x else x.srem y, false, decide (y = 0)) := by
  have h : BitVec.ofInt 32 (x.toInt.tmod y.toInt) = x.srem y := by
    rw [← BitVec.toInt_srem, BitVec.ofInt_toInt]
  simp only [aluResult, h]
  split
  case isTrue hy => rw [decide_eq_true hy]
  case isFalse hy => rw [decide_eq_false hy]

theorem aluResult_remu : aluResult .remu x y = (if y = 0 then x else x % y, false, decide (y = 0)) := by
  have h : BitVec.ofNat 32 (x.toNat % y.toNat) = x % y := by
    apply BitVec.eq_of_toNat_eq
    rw [BitVec.toNat_umod, BitVec.toNat_ofNat, Nat.mod_eq_of_lt (Nat.lt_of_le_of_lt (Nat.mod_le ..) x.isLt)]
  simp only [aluResult, h]
  split
  case isTrue hy => rw [decide_eq_true hy]
  case isFalse hy => rw [decide_eq_false hy]

theorem aluResult_popc : (aluResult .popc x y).1 = BitVec.ofNat 32 ((List.range 32).filter fun i => x.getLsbD i).length := by
  simp only [aluResult, List.countP_eq_length_filter]

end Results

/-! ## ALU ops -/

theorem opClass_alu_ne (f : AluFn) (rd ra : GReg) (b : Src2) : opClass (.alu f rd ra b) ≠ 3 := by
  simp only [opClass]
  split <;> decide

section Alu

variable {s : State} {c : OpAt} {i : Instr} {f : AluFn} {rd ra : GReg} {b : Src2} (hi : opOf i = some (c, .alu f rd ra b))

/-- What an ALU op comes to, in the thread that the command finds. -/
theorem evalOp_alu (s : State) (c : OpAt) (f : AluFn) (rd ra : GReg) (b : Src2) :
    evalOp (opCtx s c (.alu f rd ra b)) (.alu f rd ra b) =
      let t := opThread s c
      let r := aluResult f (t.getG ra) (src2 t c.ext b)
      if r.2.1 && enIovf t then .fault (laneFault fOverflow (opClass (.alu f rd ra b)) 0)
      else if r.2.2 && enIdiv t then .fault (laneFault fDivZero (opClass (.alu f rd ra b)) 0)
      else .write fun t => t.setG rd r.1 := by
  rw [← opCtx_t s c _ (opClass_alu_ne f rd ra b)]
  rfl

include hi

/-- An ALU op none of whose faults is raised and enabled writes its result. -/
theorem alu_gives {v : Word} (hv : (aluResult f ((opThread s c).getG ra) (src2 (opThread s c) c.ext b)).1 = v)
    (ho : (aluResult f ((opThread s c).getG ra) (src2 (opThread s c) c.ext b)).2.1 = false ∨ enIovf (opThread s c) = false)
    (hd : (aluResult f ((opThread s c).getG ra) (src2 (opThread s c) c.ext b)).2.2 = false ∨ enIdiv (opThread s c) = false) :
    OpGives s i (fun t => t.setG rd v) id := by
  refine opGives_of_eval hi (opClass_alu_ne f rd ra b) rfl nofun ?_
  rw [evalOp_alu]
  simp only [Bool.and_eq_false_iff.mpr ho, Bool.and_eq_false_iff.mpr hd, hv]
  rfl

/-- An ALU op that overflows where FAULT_EN.IOVF is 1 faults. -/
theorem alu_overflows (ho : (aluResult f ((opThread s c).getG ra) (src2 (opThread s c) c.ext b)).2.1 = true)
    (he : enIovf (opThread s c) = true) : OpTraps s i (laneFault fOverflow (opClass (.alu f rd ra b)) 0) := by
  refine opTraps_of_eval hi ?_
  rw [evalOp_alu]
  simp only [ho, he, Bool.and_self, if_true]

/-- An ALU op that divides by zero where FAULT_EN.IDIV is 1 faults. -/
theorem alu_dividesByZero (ho : (aluResult f ((opThread s c).getG ra) (src2 (opThread s c) c.ext b)).2.1 = false)
    (hd : (aluResult f ((opThread s c).getG ra) (src2 (opThread s c) c.ext b)).2.2 = true)
    (he : enIdiv (opThread s c) = true) : OpTraps s i (laneFault fDivZero (opClass (.alu f rd ra b)) 0) := by
  refine opTraps_of_eval hi ?_
  rw [evalOp_alu]
  simp only [ho, hd, he, Bool.and_self, Bool.false_and, if_true, Bool.false_eq_true, if_false]

end Alu

/-- Settles O1: an op's evaluation is its ALU result, whose overflow and division by zero trap where they are enabled. -/
theorem scalarOpsWriteTheirResultOrTrap : Obligations.ScalarOpsWriteTheirResultOrTrap := by
  refine ⟨fun s c rd ra b => ?results, fun s c rd ra b => ?traps⟩
  case results =>
    intro t x y gives noDiv
    have plain {f : AluFn} {i : Instr} {v : Word} (hi : opOf i = some (c, .alu f rd ra b)) (hv : (aluResult f x y).1 = v)
        (h : (aluResult f x y).2 = (false, false)) : gives i v :=
      alu_gives hi hv (.inl (congrArg Prod.fst h)) (.inl (congrArg Prod.snd h))
    have unary {f : AluFn} {i : Instr} {v : Word} (hi : opOf i = some (c, .alu f rd ra (.reg 0)))
        (hv : (aluResult f x (t.getG 0)).1 = v) (h : (aluResult f x (t.getG 0)).2 = (false, false)) : gives i v :=
      alu_gives hi hv (.inl (congrArg Prod.fst h)) (.inl (congrArg Prod.snd h))
    have quotient {f : AluFn} {i : Instr} {v : Word} (hi : opOf i = some (c, .alu f rd ra b))
        (h : aluResult f x y = (v, false, decide (y = 0))) (hd : noDiv) : gives i v := by
      refine alu_gives hi (congrArg Prod.fst h) (.inl (congrArg (·.2.1) h)) (hd.imp_left fun hy => ?_)
      exact (congrArg (·.2.2) h).trans (decide_eq_false hy)
    have overflowing {f : AluFn} {i : Instr} {v : Word} {o : Bool} (hi : opOf i = some (c, .alu f rd ra b))
        (h : aluResult f x y = (v, o, false)) (ho : o = false ∨ enIovf t = false) : gives i v :=
      alu_gives hi (congrArg Prod.fst h) (ho.imp_left fun ho => (congrArg (·.2.1) h).trans ho) (.inl (congrArg (·.2.2) h))
    have shift (g : Word → Nat → Word) : g x (y.toNat % 32) = g x (y &&& 31).toNat := by rw [and31_toNat]
    refine ⟨plain (f := .add) rfl rfl rfl, plain (f := .sub) rfl rfl rfl, plain (f := .and) rfl rfl rfl, plain (f := .or) rfl rfl rfl,
      plain (f := .xor) rfl rfl rfl, plain (f := .andn) rfl rfl rfl, plain (f := .sll) rfl (shift BitVec.shiftLeft) rfl,
      plain (f := .srl) rfl (shift BitVec.ushiftRight) rfl, plain (f := .sra) rfl (shift BitVec.sshiftRight) rfl,
      plain (f := .min) rfl (aluResult_min x y) rfl, plain (f := .max) rfl (aluResult_max x y) rfl,
       plain (f := .minu) rfl (aluResult_minu x y) rfl, plain (f := .maxu) rfl (aluResult_maxu x y) rfl,
      unary (f := .clz) rfl (aluResult_clz x _) rfl, unary (f := .popc) rfl (aluResult_popc x _) rfl, plain (f := .mul) rfl rfl rfl,
      plain (f := .mulh) rfl (aluResult_mulh x y) rfl, plain (f := .mulhu) rfl (aluResult_mulhu x y) rfl,
      fun h => ⟨quotient (f := .div) rfl (aluResult_div x y) h, quotient (f := .divu) rfl (aluResult_divu x y) h,
        quotient (f := .rem) rfl (aluResult_rem x y) h, quotient (f := .remu) rfl (aluResult_remu x y) h⟩,
      overflowing (f := .addO) rfl (by rw [← ovf32_add]; rfl), overflowing (f := .subO) rfl (by rw [← ovf32_sub]; rfl),
      overflowing (f := .mulO) rfl (by rw [← ovf32_mul]; rfl)⟩
  case traps =>
    intro t x y
    refine ⟨fun he => ⟨fun h => ?_, fun h => ?_, fun h => ?_⟩, fun he hy => ⟨?_, ?_, ?_, ?_⟩⟩
    · exact alu_overflows (f := .addO) rfl ((ovf32_add x y).trans h) he
    · exact alu_overflows (f := .subO) rfl ((ovf32_sub x y).trans h) he
    · exact alu_overflows (f := .mulO) rfl ((ovf32_mul x y).trans h) he
    all_goals
      have hz : decide (y = 0) = true := decide_eq_true hy
    · exact alu_dividesByZero (f := .div) rfl (congrArg (·.2.1) (aluResult_div x y)) ((congrArg (·.2.2) (aluResult_div x y)).trans hz) he
    · exact alu_dividesByZero (f := .divu) rfl (congrArg (·.2.1) (aluResult_divu x y)) ((congrArg (·.2.2) (aluResult_divu x y)).trans hz) he
    · exact alu_dividesByZero (f := .rem) rfl (congrArg (·.2.1) (aluResult_rem x y)) ((congrArg (·.2.2) (aluResult_rem x y)).trans hz) he
    · exact alu_dividesByZero (f := .remu) rfl (congrArg (·.2.1) (aluResult_remu x y)) ((congrArg (·.2.2) (aluResult_remu x y)).trans hz) he

/-! ## Compares, predicate ops and pair ops -/

/-- Settles O2: each op's evaluation writes one predicate or one pair, of the operands that the command finds. -/
theorem comparesAndPairOpsWriteTheirResult : Obligations.ComparesAndPairOpsWriteTheirResult := by
  refine ⟨fun s c pd pa pb ra b => ?predicates, fun s c rd ra rb b => ?pairs⟩
  case predicates =>
    intro t x y p q gives
    have compares {f : CmpFn} {i : Instr} {v : Bool} (hi : opOf i = some (c, .cmp f pd ra b)) (hv : cmpResult f x y = v) : gives i v := by
      refine opGives_of_eval hi (show 0 ≠ 3 by decide) rfl nofun ?_
      simp only [evalOp, evalCmp, opCtx_t s c (.cmp f pd ra b) (show 0 ≠ 3 by decide)]
      rw [show cmpResult f ((opThread s c).getG ra) (src2 (opThread s c) (opCtx s c (.cmp f pd ra b)).ext b) = v from hv]
      rfl
    have predicates {f : PredFn} {i : Instr} {v : Bool} (hi : opOf i = some (c, .pred f pd pa pb)) (hv : predResult f p q = v) :
        gives i v := by
      refine opGives_of_eval hi (show 0 ≠ 3 by decide) rfl nofun ?_
      simp only [evalOp, evalPred, opCtx_t s c (.pred f pd pa pb) (show 0 ≠ 3 by decide)]
      rw [show predResult f ((opThread s c).getP pa) ((opThread s c).getP pb) = v from hv]
      rfl
    refine ⟨compares (f := .eq) rfl ?_, compares (f := .ne) rfl ?_, compares (f := .lt) rfl rfl, compares (f := .ge) rfl ?_,
      compares (f := .ltu) rfl rfl, compares (f := .geu) rfl ?_, predicates (f := .pand) rfl rfl, predicates (f := .por) rfl rfl,
      predicates (f := .pxor) rfl (by simp [predResult]), predicates (f := .pandn) rfl rfl⟩
    · rw [Bool.eq_iff_iff]
      simp [cmpResult]
    · rw [Bool.eq_iff_iff]
      simp [cmpResult]
    · rw [Bool.eq_iff_iff]
      rw [cmpResult, decide_eq_true_iff, Bool.not_eq_true', ← Bool.not_eq_true, BitVec.slt_iff_toInt_lt, not_lt]
    · rw [Bool.eq_iff_iff]
      simp [cmpResult, BitVec.ult]
  case pairs =>
    intro t x y gives
    have pairs {f : PairFn} {i : Instr} {v : DWord} (hi : opOf i = some (c, .pair f rd ra b)) (hv : pairResult f x y = v) : gives i v := by
      refine opGives_of_eval hi (show 1 ≠ 3 by decide) rfl nofun ?_
      simp only [evalOp, evalPair, opCtx_t s c (.pair f rd ra b) (show 1 ≠ 3 by decide)]
      rw [show pairResult f ((opThread s c).getPair ra) (src2Pair (opThread s c) (opCtx s c (.pair f rd ra b)).ext b) = v from hv]
      rfl
    have shift (g : DWord → Nat → DWord) : g x (y.toNat % 64) = g x (y &&& 63).toNat := by rw [and63_toNat]
    refine ⟨pairs (f := .add) rfl rfl, pairs (f := .sub) rfl rfl, pairs (f := .sll) rfl (shift BitVec.shiftLeft),
      pairs (f := .srl) rfl (shift BitVec.ushiftRight), pairs (f := .sra) rfl (shift BitVec.sshiftRight),
       opGives_of_eval (o := .mulwD rd ra rb) rfl (show 1 ≠ 3 by decide) rfl nofun ?_⟩
    simp only [evalOp, evalMulw, opCtx_t s c (.mulwD rd ra rb) (show 1 ≠ 3 by decide), ofInt_mul_toInt]
    rfl

end Sys2Proof.Machine

/-! Loads of the own scratchpad (O5), branches (O9), gates and exit (O10) of spec/03. -/

namespace Sys2Proof.Machine

open Sys2Proof

/-! ## Loads (R86, R87, R106) -/

@[simp] theorem opCtx_mem (s : State) (c : OpAt) (o : Op) : (opCtx s c o).c.mem = (s.core c.node.val).mem := by
  obtain ⟨w, hw⟩ := opIssued_core s c o
  have h := congrArg Core.mem hw
  exact h

/-- A read that reaches the own scratchpad gives its bytes and tag. -/
theorem memRead_own {x : Ctx} {cap : Cap} {off size p : Nat} (reg : Nat) (vol cached : Bool) (hl : x.t.load = none)
    (hm : x.norm cap.module = 0xFFFF) (hp : ownScratch x.n (cap.addrAt off) size = some p)
    (hh : lsuHeld x false 0xFFFF (cap.addrAt off) size = false) (hs : sbOverlap x.t 0xFFFF (cap.addrAt off) size = [])
    (hu : unackedOverlap x.t 0xFFFF (cap.addrAt off) size = false) (he : poisonedAt 8 x.c.mem.poison p size = false) :
    memRead x reg cap off size vol cached = .ok (x.c.mem.readScratch p size) (mapGet false x.c.mem.tags (p / 16)) id := by
  have ha : answerFor x false 0xFFFF (cap.addrAt off) size = none := by
    unfold answerFor
    rw [hl]
  unfold memRead
  simp only [hm, ha, hh, hs, hu, hp, he, List.getLast?_nil, Bool.false_eq_true, if_false, if_true]

theorem leNat_lt (bs : List Byte) : leNat bs < 256 ^ bs.length := by
  induction bs with
  | nil => simp [leNat]
  | cons b bs ih =>
    have hb := b.isLt
    rw [leNat, List.length_cons, Nat.pow_succ]
    omega

/-- A value of n bytes needs no more than 8n bits. -/
theorem zeroExtend_ofNat_leNat {n w : Nat} (m : Map Byte) (p : Nat) (h : 8 * n ≤ w) :
    (BitVec.ofNat (8 * n) (leNat (readBytes m p n))).zeroExtend w = BitVec.ofNat w (leNat (readBytes m p n)) := by
  have hl : leNat (readBytes m p n) < 2 ^ (8 * n) := by
    have hv := leNat_lt (readBytes m p n)
    rwa [readBytes, List.length_map, List.length_range, show 256 = 2 ^ 8 from rfl, ← Nat.pow_mul] at hv
  have hw : leNat (readBytes m p n) < 2 ^ w := Nat.lt_of_lt_of_le hl (Nat.pow_le_pow_right (by omega) h)
  apply BitVec.eq_of_toNat_eq
  simp [Nat.mod_eq_of_lt hl, Nat.mod_eq_of_lt hw]

theorem opCtx_load (s : State) (c : OpAt) (f : LdFn) (rt : GReg) (cap : SReg) (o : LsOff) :
    opCtx s c (.load f rt cap o) = opCtx s c (.load .w rt cap o) :=
  opCtx_congr s c (o := .load f rt cap o) (p := .load .w rt cap o) (show 2 ≠ 3 by decide) rfl

/-- A load that reaches the own scratchpad writes its register from the bytes there. -/
theorem load_gives {s : State} {c : OpAt} {i : Instr} {f : LdFn} {rt : GReg} {cap : SReg} {o : LsOff} {p : Nat} {w : Thread → Thread}
    (hi : opOf i = some (c, .load f rt cap o))
    (hr : ReachesOwn s c (.load .w rt cap o) false cap (ldNeeds f) none (lsOffset (opCtx s c (.load .w rt cap o)).t c.ext f.size o) f.size p)
    (hw : loadWrite f rt (readBytes (s.core c.node.val).mem.scratch p f.size) (mapGet false (s.core c.node.val).mem.tags (p / 16)) = w) :
    OpGives s i w id := by
  obtain ⟨hl, hc, hm, hp, hh, hs, hu, he⟩ := hr
  refine opGives_of_eval hi (show 2 ≠ 3 by decide) rfl nofun ?_
  have hx : opCtx s c (.load f rt cap o) = _ := opCtx_load s c f rt cap o
  have hmem := opCtx_mem s c (.load .w rt cap o)
  generalize opCtx s c (.load .w rt cap o) = x at *
  subst hw
  have hext : x.ext = c.ext := by rw [← hx]; rfl
  have hread := memRead_own cap.toNat (decide (f = .vw ∨ f = .vd)) (! decide (f = .vw ∨ f = .vd) && decide (f ≠ .c)) hl hm hp hh hs hu he
  have hown : ownCause x (x.t.getS cap) (lsOffset x.t c.ext f.size o) f.size = none := if_pos ⟨hm, by rw [hp]; rfl⟩
  have hcause : (if f = .c then ownCause x (x.t.getS cap) (lsOffset x.t c.ext f.size o) 16 else none) = none := by
    split
    case isTrue hf => subst hf; exact hown
    case isFalse => rfl
  rw [hmem] at hread
  rw [hx, evalOp, evalLoad]
  simp only [hext, hcause, hc, hread]
  rfl

/-- Settles O5: each load reads the own scratchpad, and its result is the bytes there in the width of its register. -/
theorem ownScratchpadLoadsDeliver : Obligations.OwnScratchpadLoadsDeliver := by
  intro s c rt cap o p x m off reach value gives
  refine ⟨fun h => ⟨load_gives (f := .b) rfl h rfl, load_gives (f := .bu) rfl h ?bu⟩,
    fun h => ⟨load_gives (f := .h) rfl h rfl, load_gives (f := .hu) rfl h ?hu⟩, fun h => load_gives (f := .w) rfl h rfl,
    fun h => load_gives (f := .d) rfl h rfl, fun h => load_gives (f := .v) rfl h rfl, fun h => load_gives (f := .c) rfl h rfl,
    fun h => load_gives (f := .vw) rfl h rfl, fun h => load_gives (f := .vd) rfl h rfl⟩
  case bu => exact congrArg (fun v t => Thread.setG t rt v) (zeroExtend_ofNat_leNat (n := 1) m.scratch p (by decide))
  case hu => exact congrArg (fun v t => Thread.setG t rt v) (zeroExtend_ofNat_leNat (n := 2) m.scratch p (by decide))

/-! ## Branches (R88) -/

section Branches
variable {s : State} {c : OpAt} {i : Instr} {o : Op}

/-- The branch unit reads its thread as the command finds it, in a new branch epoch. -/
theorem opCtx_t_epoch (s : State) (c : OpAt) (o : Op) : ∃ e, (opCtx s c o).t = { opThread s c with epoch := e } :=
  ⟨_, opIssued_thread s c o⟩

/-- An op's writes count by what they make of a thread as issue leaves it. -/
theorem opWritten_congr {w w' : Thread → Thread} (hw : ∀ u, u.still = (opThread s c).still → w u = w' u) :
    opWritten s c o w = opWritten s c o w' := by
  refine modThread_congr (hw _ ?_)
  rw [opIssued_thread]
  rfl

/-- A branch gives what its evaluation says. -/
theorem branchGives_of_eval (hi : opOf i = some (c, o)) (hc : opClass o = 3) {w w' : Thread → Thread} {a : State → State}
    (he : evalOp (opCtx s c o) o = .done w a) (hw : ∀ u, u.still = (opThread s c).still → w u = w' u) :
    BranchGives s i (redirects o) w' a := by
  intro c' o' ho' hs
  obtain ⟨rfl, rfl⟩ : c = c' ∧ o = o' := by simpa [hi] using ho'
  rw [exec_opOf i c o hi, issueOne_branch s c o w a hs he hc, afterBranch, afterBranch, opWritten_congr hw]

theorem tgtOffset_eq (tgt : BitVec 15) : tgtOffset tgt = tgt.zeroExtend 32 * 4 := by
  unfold tgtOffset
  bv_omega

theorem targetFault_none {a : Word} (h : a < 0x20000) (h4 : a.toNat % 4 = 0) : targetFault a 3 = none := by
  have h' : a.toNat < 131072 := h
  simp [targetFault, h4, h']

theorem targetFault_bounds {a : Word} (h : 0x20000 ≤ a) : targetFault a 3 = some ⟨0x03, 0x30⟩ := by
  have h' : 131072 ≤ a.toNat := h
  simp [targetFault, h']
  decide

theorem targetFault_align {a : Word} (h : a < 0x20000) (h4 : a.toNat % 4 ≠ 0) : targetFault a 3 = some ⟨0x06, 0x30⟩ := by
  have h' : a.toNat < 131072 := h
  rw [targetFault, if_neg (by omega), if_pos h4]
  decide

end Branches

/-- Settles O9: a branch writes its link and its target; a register's target faults as targetFault says. -/
theorem branchesRedirect : Obligations.BranchesRedirect := by
  intro s c rl ra tgt t a next
  have jr : evalOp (opCtx s c (.jr ra)) (.jr ra) = match targetFault a 3 with
      | some f => .fault f
      | none => .write fun u => u.goto a := by
    obtain ⟨e, he⟩ := opCtx_t_epoch s c (.jr ra)
    simp only [evalOp, evalJr, he]
    rfl
  have jrl : evalOp (opCtx s c (.jrl rl ra)) (.jrl rl ra) = match targetFault a 3 with
      | some f => .fault f
      | none => .write fun u => (u.setG rl next).goto a := by
    obtain ⟨e, he⟩ := opCtx_t_epoch s c (.jrl rl ra)
    simp only [evalOp, evalJrl, he]
    rfl
  refine ⟨branchGives_of_eval (o := .br tgt) rfl rfl rfl fun u _ => ?_, branchGives_of_eval (o := .bl rl tgt) rfl rfl rfl fun u _ => ?_,
    fun h h4 => ⟨?_, ?_⟩, fun h => ⟨?_, ?_⟩, fun h h4 => ⟨?_, ?_⟩⟩
  · rw [tgtOffset_eq]
    rfl
  · rw [tgtOffset_eq]
    rfl
  · exact branchGives_of_eval (o := .jr ra) rfl rfl (by rw [jr, targetFault_none h h4]; rfl) fun u _ => rfl
  · exact branchGives_of_eval (o := .jrl rl ra) rfl rfl (by rw [jrl, targetFault_none h h4]; rfl) fun u _ => rfl
  · exact opTraps_of_eval (o := .jr ra) rfl (by rw [jr, targetFault_bounds h])
  · exact opTraps_of_eval (o := .jrl rl ra) rfl (by rw [jrl, targetFault_bounds h])
  · exact opTraps_of_eval (o := .jr ra) rfl (by rw [jr, targetFault_align h h4])
  · exact opTraps_of_eval (o := .jrl rl ra) rfl (by rw [jrl, targetFault_align h h4])

/-! ## Settling a core whose thread waits for nothing -/

/-- What of a thread neither a refusal nor a fault record changes. -/
def Thread.unrecorded (t : Thread) : Thread := { t with records := [], remoteErr := {} }

def Core.unrecorded (c : Core) (k : Nat) : Thread := (c.thread k).unrecorded

section Unrecorded
variable {n k : Nat} {t : Thread}

theorem Core.unrecorded_modThread {f : Thread → Thread} (hf : ∀ t, (f t).unrecorded = t.unrecorded) (c : Core) (j : Nat) :
    (c.modThread j f).unrecorded k = c.unrecorded k := by
  rw [Core.unrecorded, Core.modThread_thread]
  split
  case isTrue h => rw [hf, ← h]; rfl
  case isFalse => rfl

theorem noteRefusal_unrecorded (s : State) (j : Nat) (kind : BitVec 3) (pc : Word) :
    ((noteRefusal n j kind pc s).core n).unrecorded k = (s.core n).unrecorded k := by
  rw [noteRefusal, State.modThread_core_same, Core.unrecorded_modThread]
  exact fun _ => rfl

theorem sendSyn_unrecorded (e : SynEntry) (i : Nat) (module : BitVec 16) (region : BitVec 6) (a : Addr) (kind : BitVec 5)
    (payload : List Byte) (s : State) :
    ((sendSyn n e i module region a kind payload s).core n).unrecorded k = (s.core n).unrecorded k := by
  unfold sendSyn
  dsimp only
  split
  · rw [noteRefusal_unrecorded, State.modCore_core_same]
    rfl
  · rw [send_core, State.modCore_core_same]
    rfl
  · rfl

theorem actSyn_unrecorded (i : Nat) (e : SynEntry) (s : State) : ((actSyn n i e s).core n).unrecorded k = (s.core n).unrecorded k := by
  have own (inc : FretInc) (q : List SynEntry) :
      ((addIncOwn n inc (s.modCore n fun c => { c with syn := { c.syn with queue := q } })).core n).unrecorded k
        = (s.core n).unrecorded k := by
    rw [addIncOwn, State.modCore_core_same, State.modCore_core_same]
    rfl
  unfold actSyn
  split
  · exact own _ _
  · split
    · split
      · exact own _ _
      · exact sendSyn_unrecorded ..
    · exact sendSyn_unrecorded ..
  · exact sendSyn_unrecorded ..

theorem synPass_unrecorded (fuel i : Nat) (s : State) : ((synPass n fuel i s).core n).unrecorded k = (s.core n).unrecorded k := by
  induction fuel generalizing i s with
  | zero => rfl
  | succ fuel ih =>
    unfold synPass
    dsimp only
    split
    · rfl
    · split
      · rw [ih, actSyn_unrecorded]
      · rw [ih]

/-- A TAG finds no load and no rdb in a thread that waits for nothing. -/
theorem Thread.tagged_of_idle (hl : t.load = none) (hw : t.wait = none) (tag : BitVec 10) (kind : ReqKind) : t.tagged tag kind = t := by
  cases kind with
  | load j => show { t with load := t.load.map _ } = t; rw [hl, Option.map_none, ← hl]
  | rdb j pc => show { t with wait := t.wait.map _ } = t; rw [hw, Option.map_none, ← hw]
  | _ => rfl

theorem sendTagged_unrecorded (s : State) (hl : ((s.core n).unrecorded k).load = none) (hw : ((s.core n).unrecorded k).wait = none)
    (kind : ReqKind) (tag : BitVec 10) (p : Packet) :
    ((s.sendTagged n kind tag p).core n).unrecorded k = (s.core n).unrecorded k := by
  rw [State.sendTagged, send_core, State.modCore_core_same]
  cases kind.waiter with
  | none => rfl
  | some j =>
    show (((s.core n).modThread j.val (·.tagged tag kind)).thread k).unrecorded = _
    rw [Core.modThread_thread]
    split
    case isTrue h =>
      subst h
      rw [Thread.tagged_of_idle (t := (s.core n).thread j.val) hl hw]
      rfl
    case isFalse => rfl

theorem pumpTags_unrecorded (m : Nat) (s : State) (hl : ((s.core n).unrecorded k).load = none)
    (hw : ((s.core n).unrecorded k).wait = none) : ((pumpTags n m s).core n).unrecorded k = (s.core n).unrecorded k := by
  induction m generalizing s with
  | zero => rfl
  | succ m ih =>
    unfold pumpTags
    split
    case h_1 kind p r tag _ _ =>
      have hq : ((s.modCore n fun c => { c with tagQueue := r }).core n).unrecorded k = (s.core n).unrecorded k := by
        rw [State.modCore_core_same]
        rfl
      have hs := (sendTagged_unrecorded (s.modCore n fun c => { c with tagQueue := r }) (by rw [hq]; exact hl) (by rw [hq]; exact hw)
        kind tag p).trans hq
      rw [ih _ (by rw [hs]; exact hl) (by rw [hs]; exact hw), hs]
    case h_2 => rfl

/-- Settling changes nothing but refusals of a thread that waits for nothing. -/
theorem settle_unrecorded (s : State) (hl : ((s.core n).unrecorded k).load = none) (hw : ((s.core n).unrecorded k).wait = none) :
    ((settle n s).core n).unrecorded k = (s.core n).unrecorded k := by
  rw [settle, courseSync_core, synPump, synPass_unrecorded, pumpTags_unrecorded _ _ hl hw]

end Unrecorded

/-! ## Gates and exit (R89, R115, R116, R127) -/

section Exit
variable {n : Nat} {k : ThreadNo}

/-- What of a core and of its thread k discarding a deferred fault leaves as it is. -/
def Core.undropped (c : Core) (k : Nat) : CoreMem × List Deferred × Thread := (c.mem, c.deferred, c.unrecorded k)

theorem traceEvent_core (f : Bool) (s : State) (m : Nat) (j : ThreadNo) (a : Word) (n : Nat) : (traceEvent f m j a s).core n = s.core n := by
  unfold traceEvent
  split <;> rfl

theorem dropFault_undropped (j : ThreadNo) (d : Deferred) (s : State) :
    ((dropFault n j d s).core n).undropped k.val = (s.core n).undropped k.val := by
  rw [dropFault, pushRecord, State.modThread_core_same, traceEvent_core, State.modCore_core_same]
  refine Prod.ext rfl (Prod.ext rfl ?_)
  show Core.unrecorded (Core.modThread _ _ _) k.val = _
  rw [Core.unrecorded_modThread]
  · rfl
  · exact fun _ => rfl

/-- A thread that has exited (R89, R127). -/
def Thread.exited (t : Thread) : Thread := { t.stopIn .idle with esc := false }

/-- What exit leaves: the thread idle, with no deferred fault held against it, and the memories as they were. -/
theorem exitThread_undropped (s : State) : ((exitThread s n k).core n).undropped k.val =
    ((s.core n).mem, (s.core n).deferred.filter fun d => decide (d.thread ≠ k),
      (s.thread n k.val).exited.unrecorded) := by
  rw [exitThread, dropDeferred,
    foldState_reads (dropFault n k) (fun u => (u.core n).undropped k.val) _ _ fun d _ u => dropFault_undropped k d u,
    State.modCore_core_same, State.modThread_core_same]
  have hthread := congrArg Thread.unrecorded
    (Core.modThread_thread_same (s.core n) k.val Thread.exited)
  exact Prod.ext rfl (Prod.ext rfl hthread)

/-- A thread that has exited is idle and waits for nothing, and its registers and buffered stores are those of before. -/
theorem Thread.exited_keeps {v r t : Thread} (hv : v.unrecorded = r.exited.unrecorded) (ht : r.still = t.still) :
    v.st = .idle ∧ v.esc = false ∧ v.wait = none ∧ v.load = none ∧ v.g = t.g ∧ v.p = t.p ∧ v.s = t.s ∧ v.v = t.v ∧ v.sb = t.sb
      ∧ v.gdepth = t.gdepth ∧ v.handlers = t.handlers := by
  have fromExit {α : Type} (f : Thread → α) : f v.unrecorded = f r.exited.unrecorded := congrArg f hv
  have fromIssue {α : Type} (f : Thread → α) : f r.still = f t.still := congrArg f ht
  exact ⟨fromExit Thread.st, fromExit Thread.esc, fromExit Thread.wait, fromExit Thread.load, (fromExit Thread.g).trans (fromIssue Thread.g),
    (fromExit Thread.p).trans (fromIssue Thread.p), (fromExit Thread.s).trans (fromIssue Thread.s),
    (fromExit Thread.v).trans (fromIssue Thread.v), (fromExit Thread.sb).trans (fromIssue Thread.sb),
    (fromExit Thread.gdepth).trans (fromIssue Thread.gdepth), (fromExit Thread.handlers).trans (fromIssue Thread.handlers)⟩

end Exit

/-- A branch that is not taken meets no debug stop. -/
theorem afterBranch_untaken (s : State) (c : OpAt) (o : Op) (w : Thread → Thread) (a : State → State) : afterBranch s c o false w a =
    settle c.node.val (a (resolve c.node.val c.thread (opBundle s c o) false (popsFault (opIssued s c o) c.node.val c.thread [o])
      (opWritten s c o w))) := by
  simp only [afterBranch, Bool.false_and]
  exact congrArg (settle _) (if_neg Bool.false_ne_true)

/-- An exit that issues ends its thread, in a state that issue has left as it was, and the core settles. -/
theorem exec_exit {s : State} {c : OpAt} (h : opIssues s c .exit = true) : ∃ r : State, r.still c.node.val = s.still c.node.val
    ∧ exec (.exit c) s = .next (settle c.node.val (exitThread r c.node.val c.thread)) := by
  have he : evalOp (opCtx s c .exit) .exit = .done id fun u => exitThread u c.node.val c.thread := rfl
  have hr := resolved_still (s := s) (c := c) (w := id) (o := .exit) (fun _ => rfl) false
    (popsFault (opIssued s c .exit) c.node.val c.thread [.exit])
  refine ⟨_, hr, ?_⟩
  rw [exec_opOf _ c .exit rfl, issueOne_branch s c .exit id _ h he rfl, show redirects .exit = false from rfl, afterBranch_untaken]

/-- A gate call that passes its checks, with ESC 0 and a free frame (R115). -/
theorem evalCallg_ok {x : Ctx} {sa sb : SReg} {data s15 : Cap} {entry : Word} {off : Nat}
    (hg : gateCheck (x.t.getS sa) (x.t.getS sb) sa.toNat sb.toNat x.dom x.n = none) (he : x.t.esc = false) (hd : x.t.gdepth ≠ 16)
    (hdata : (x.t.getS sb).withOtype 0 = data) (hentry : ((x.t.getS sa).base - blockAddr x.n).truncate 32 = entry)
    (ho : frameAt x.t x.n x.k.val x.t.gdepth.toNat = off) (hs : x.t.getS 15 = s15) :
    evalCallg x sa sb = .done (fun t => { t.setS 15 data with pc := entry, gdepth := t.gdepth + 1 })
      fun s => s.modCore x.n fun c => c.modMem fun m =>
        (m.writeCap off (returnCap x.n x.link false false x.region)).writeCap (off + 16) s15 := by
  subst hdata hentry ho hs
  simp only [evalCallg, hg, he, Bool.false_eq_true, if_false, if_neg hd]
  rfl

/-- A return through a frame of a gate call, to a target that passes its checks (R116). -/
theorem evalRetg_ok {x : Ctx} {off : Nat} {m : CoreMem} {target : Word} (he : x.t.esc = false) (hd : x.t.gdepth ≠ 0)
    (ho : frameAt x.t x.n x.k.val (x.t.gdepth.toNat - 1) = off) (hm : x.c.mem = m) (hp : poisonedAt 8 m.poison off 32 = false)
    (h0 : bitOf (m.readCap off).limit 0 = false) (ht : ((m.readCap off).base - blockAddr x.n).truncate 32 = target)
    (hf : returnFault target = none) :
    evalRetg x = .write fun t => { t.setS 15 (m.readCap (off + 16)) with pc := target, gdepth := t.gdepth - 1 } := by
  have hpop : popFrame x off target none = .write fun t => { t.setS 15 (m.readCap (off + 16)) with pc := target, gdepth := t.gdepth - 1 } := by
    simp only [popFrame, hf, hm, Thread.goto, Option.getD_none, Thread.setS_th]
  rw [evalRetg, he]
  simp only [Bool.false_eq_true, if_false, if_neg hd, ho, hm, hp, h0, ht, hpop]

/-- A target below 0x2_0000 that is a multiple of 4 is one of a return. -/
theorem returnFault_none {a : Word} (h : a < 0x20000) (h4 : a.toNat % 4 = 0) : returnFault a = none := by
  have h' : a.toNat < 131072 := h
  simp [returnFault, h4, h']

/-- Settles O10: a gate call and a return write what the checks that pass leave, and exit ends its thread before the core settles. -/
theorem gatesCallAndReturnAndExitIdles : Obligations.GatesCallAndReturnAndExitIdles := by
  refine ⟨fun s c sa sb => ?gates, fun s c o ho hs => ?exits⟩
  case gates =>
    intro n t a b x frame
    have gdepth {u : Thread} (hu : u.still = t.still) : u.gdepth = t.gdepth := by
      have h := congrArg Thread.gdepth hu
      exact h
    refine ⟨fun hg he hd => ?calls, fun he hd hp => ?returns⟩
    case calls =>
      obtain ⟨e, hx⟩ := opCtx_t_epoch s c (.callg sa sb)
      have hs (r : SReg) : x.t.getS r = t.getS r := by rw [hx]; rfl
      have hok := evalCallg_ok (x := x) (sa := sa) (sb := sb) (data := b.withOtype 0) (s15 := t.getS 15)
        (entry := (a.base - blockAddr n).truncate 32) (off := frame t.gdepth.toNat) (by rw [hs, hs]; exact hg) (by rw [hx]; exact he)
        (by rw [hx]; exact hd) (by rw [hs]) (by rw [hs]; rfl) (by rw [hx]; rfl) (hs 15)
      refine branchGives_of_eval (o := .callg sa sb) rfl rfl hok fun u hu => ?_
      dsimp only
      rw [gdepth hu]
    case returns =>
      intro ret target h0 hb h4
      obtain ⟨e, hx⟩ := opCtx_t_epoch s c .retg
      have hok := evalRetg_ok (x := opCtx s c .retg) (off := frame (t.gdepth.toNat - 1)) (m := (s.core n).mem) (target := target)
        (by rw [hx]; exact he) (by rw [hx]; exact hd) (by rw [hx]; rfl) (opCtx_mem s c .retg) hp h0 rfl (returnFault_none hb h4)
      refine branchGives_of_eval (o := .retg) rfl rfl hok fun u hu => ?_
      dsimp only
      rw [gdepth hu]
  case exits =>
    obtain rfl : o = .exit := by simpa [opOf] using ho.symm
    obtain ⟨r, hstill, hexec⟩ := exec_exit hs
    refine ⟨_, hexec, ?_⟩
    have ht : (r.thread c.node.val c.thread.val).still = (opThread s c).still := by
      have h := congrArg (fun x => x.thread c.thread.val) hstill
      exact h
    have hscratch : (r.core c.node.val).mem.scratch = (s.core c.node.val).mem.scratch := by
      have h := congrArg (fun x => x.core.mem.scratch) hstill
      exact h
    have hexit := exitThread_undropped (n := c.node.val) (k := c.thread) r
    generalize exitThread r c.node.val c.thread = e at hexit
    have hmem : (e.core c.node.val).mem = (r.core c.node.val).mem := congrArg Prod.fst hexit
    have hdef : (e.core c.node.val).deferred = (r.core c.node.val).deferred.filter fun d => decide (d.thread ≠ c.thread) :=
      congrArg (·.2.1) hexit
    have hthread : (e.core c.node.val).unrecorded c.thread.val = (r.thread c.node.val c.thread.val).exited.unrecorded :=
      congrArg (·.2.2) hexit
    have hv : ((settle c.node.val e).thread c.node.val c.thread.val).unrecorded = _ :=
      (settle_unrecorded e (by rw [hthread]; rfl) (by rw [hthread]; rfl)).trans hthread
    obtain ⟨hst, hesc, hwait, hload, hg, hp, hs, hvec, hsb, hd, hh⟩ := Thread.exited_keeps hv ht
    refine ⟨hst, hesc, hwait, hload, hg, hp, hs, hvec, hsb, hd, hh, ?_, fun d hd => ?_⟩
    · rw [settle_mem, hmem, hscratch]
    · rw [settle_deferred, hdef] at hd
      simpa using (List.mem_filter.mp hd).2

end Sys2Proof.Machine

/-! The vector unit of spec/03: lane arithmetic (O11), moves and logic (O12), reductions (O13), conversion (O14). -/

namespace Sys2Proof.Machine

open Sys2Proof

/-! ## What a vector op writes -/

/-- A thread with a vector register written and flags added. -/
def Thread.vecWritten (t : Thread) (vd : VReg) (v : Vec) (fl : BitVec 5) : Thread := { t.setV vd v with fpflags := t.fpflags ||| fl }

section Vec
variable {s : State} {c : OpAt} {i : Instr} {f : VecFn} {fmt : BitVec 4} {vd va vb : VReg} {md : BitVec 3}

@[simp] theorem opCtx_vec_t : (opCtx s c (.vec f fmt vd va vb md)).t = opThread s c := opCtx_t s c _ (show 4 ≠ 3 by decide)

variable (hi : opOf i = some (c, .vec f fmt vd va vb md))
include hi

/-- A vector op whose evaluation writes lanes gives those lanes and their flags, or takes the fault of the flags. -/
theorem vecLanes_gives {w : Nat} {rs : List LaneRes}
    (he : evalVec (opCtx s c (.vec f fmt vd va vb md)) f fmt vd va vb md = vecWrite (opCtx s c (.vec f fmt vd va vb md)) w vd rs) :
    (vecFault (opThread s c) 4 (rs.map (·.2)) = none →
      OpGives s i (fun u => u.vecWritten vd (ofLanes w (rs.map (·.1))) (rs.foldl (fun a r => a ||| r.2) 0)) id)
    ∧ ∀ x, vecFault (opThread s c) 4 (rs.map (·.2)) = some x → OpTraps s i x := by
  have hx : evalOp (opCtx s c (.vec f fmt vd va vb md)) (.vec f fmt vd va vb md) = match vecFault (opThread s c) 4 (rs.map (·.2)) with
      | some x => .fault x
      | none => .write fun u => u.vecWritten vd (ofLanes w (rs.map (·.1))) (rs.foldl (fun a r => a ||| r.2) 0) := by
    rw [evalOp, he, vecWrite, opCtx_vec_t]
    rfl
  refine ⟨fun h => opGives_of_eval hi (show 4 ≠ 3 by decide) rfl nofun ?_, fun x h => opTraps_of_eval hi ?_⟩
  · rw [hx, h]
    rfl
  · rw [hx, h]

/-- A vector op whose evaluation writes a vector sets no flag. -/
theorem vecMove_gives {v : Vec}
    (he : evalVec (opCtx s c (.vec f fmt vd va vb md)) f fmt vd va vb md = .write fun u => u.setV vd v) :
    OpGives s i (fun u => u.setV vd v) id :=
  opGives_of_eval hi (show 4 ≠ 3 by decide) rfl nofun he

end Vec

/-! ## Lane arithmetic (R91) -/

section Arith
variable {fmt : BitVec 4}

/-- Lane arithmetic of integer formats wraps; the larger or smaller lane is passed. -/
theorem laneArith_int (h : isIntFmt fmt = true) :
    let w := fmtWidth fmt
    let z := sLane w
    (∀ a b d, laneArith .add fmt a b d = wrapLane w (z a + z b)) ∧ (∀ a b d, laneArith .sub fmt a b d = wrapLane w (z a - z b))
    ∧ (∀ a b d, laneArith .mul fmt a b d = wrapLane w (z a * z b)) ∧ (∀ a b d, laneArith .fma fmt a b d = wrapLane w (z a * z b + z d))
    ∧ (∀ a b d, laneArith .min fmt a b d = (if z b < z a then b else a, 0))
    ∧ ∀ a b d, laneArith .max fmt a b d = (if z a ≤ z b then b else a, 0) := by
  simp only [laneArith, h, if_true, implies_true, true_and, ← not_le, ite_not]

/-- Lane arithmetic of float formats rounds to nearest even. -/
theorem laneArith_float (h : isIntFmt fmt = false) :
    let v := valOf fmt
    (∀ a b d, laneArith .add fmt a b d = rne fmt (valAdd (v a) (v b)))
    ∧ (∀ a b d, laneArith .sub fmt a b d = rne fmt (valAdd (v a) (valNeg (v b))))
    ∧ (∀ a b d, laneArith .mul fmt a b d = rne fmt (valMul (v a) (v b)))
    ∧ (∀ a b d, laneArith .fma fmt a b d = rne fmt (valFma (v a) (v b) (v d)))
    ∧ (∀ a b d, laneArith .div fmt a b d = rne fmt (valDiv (v a) (v b)))
    ∧ (∀ a b d, laneArith .sqrt fmt a b d = rne fmt (valSqrt (v a)))
    ∧ (∀ a b d, laneArith .min fmt a b d = (minMaxF fmt true a b, 0))
    ∧ ∀ a b d, laneArith .max fmt a b d = (minMaxF fmt false a b, 0) := by
  simp only [laneArith, h, Bool.false_eq_true, if_false, implies_true, and_self]

end Arith

/-- Settles O11: each op writes the lanes of its lane function. -/
theorem vectorArithmeticIsLaneWise : Obligations.VectorArithmeticIsLaneWise := by
  intro s c fmt vd va vb t w gives int z v
  have lanewise {f : VecFn} {i : Instr} {vb' : VReg} {g lane : Nat → Nat → Nat → LaneRes} (hi : opOf i = some (c, .vec f fmt vd va vb' 0))
      (he : ∀ x : Ctx, evalVec x f fmt vd va vb' 0 = vecWrite x w vd ((List.range (512 / w)).map fun j =>
        g (laneOf w (x.t.getV va) j) (laneOf w (x.t.getV vb) j) (laneOf w (x.t.getV vd) j)))
      (hg : ∀ a b d, g a b d = lane a b d) : gives i lane := by
    obtain rfl : g = lane := funext fun a => funext fun b => funext fun d => hg a b d
    refine vecLanes_gives hi ((he _).trans ?_)
    rw [opCtx_vec_t]
  refine ⟨fun h => ?integers, fun h => ?floats⟩
  case integers =>
    obtain ⟨add, sub, mul, fma, min, max⟩ := laneArith_int h
    exact ⟨lanewise (f := .add) rfl (fun _ => rfl) add, lanewise (f := .sub) rfl (fun _ => rfl) sub,
      lanewise (f := .mul) rfl (fun _ => rfl) mul, lanewise (f := .fma) rfl (fun _ => rfl) fma,
      lanewise (f := .min) rfl (fun _ => rfl) min, lanewise (f := .max) rfl (fun _ => rfl) max⟩
  case floats =>
    obtain ⟨add, sub, mul, fma, div, sqrt, min, max⟩ := laneArith_float h
    exact ⟨lanewise (f := .add) rfl (fun _ => rfl) add, lanewise (f := .sub) rfl (fun _ => rfl) sub,
      lanewise (f := .mul) rfl (fun _ => rfl) mul, lanewise (f := .fma) rfl (fun _ => rfl) fma,
      lanewise (f := .div) (g := fun a b _ => laneArith .div fmt a b 0) rfl (fun _ => rfl) fun a b _ => div a b 0,
      lanewise (f := .sqrt) (g := fun a _ _ => laneArith .sqrt fmt a 0 0) rfl (fun _ => rfl) fun a _ _ => sqrt a 0 0,
      lanewise (f := .min) rfl (fun _ => rfl) min, lanewise (f := .max) rfl (fun _ => rfl) max⟩

/-! ## Moves, logic, shifts, compares and permutes (R91, Table 3.10) -/

/-- Lanes without flags raise no fault. -/
theorem vecFault_zero (t : Thread) (cls : Nat) {α : Type} (l : List α) : vecFault t cls (l.map fun _ => 0) = none := by
  have h : findWith (fun f : BitVec 5 => (enVdiv t && decide (f &&& flDivZero ≠ 0)) || (enVovf t && decide (f &&& flOverflow ≠ 0)))
      (l.map fun _ => 0) = none := by
    induction l with
    | nil => rfl
    | cons x l ih => simpa [findWith] using ih
  simp only [vecFault, h]

theorem foldl_flags_zero {α : Type} (l : List α) (g : α → Nat) :
    (l.map fun j => ((g j, 0) : LaneRes)).foldl (fun a r => a ||| r.2) (0 : BitVec 5) = 0 := by
  induction l with
  | nil => rfl
  | cons x l ih => simpa using ih

theorem modifyAt_const {α : Type} (x : α) (n : Nat) (l : List α) : modifyAt (fun _ => x) n l = l.set n x := by
  induction l generalizing n with
  | nil => cases n <;> rfl
  | cons y l ih => cases n with
    | zero => rfl
    | succ n => rw [modifyAt, ih, List.set_cons_succ]

/-- Settles O12: each op writes its vector, or lanes whose flags are all 0. -/
theorem vectorMovesAndLogic : Obligations.VectorMovesAndLogic := by
  intro s c fmt vd va vb md g lane t w n a b d gives each la lb
  have moves {f : VecFn} {i : Instr} {fm : BitVec 4} {vb' : VReg} {v : Vec} (hi : opOf i = some (c, .vec f fm vd va vb' 0))
      (he : evalVec (opCtx s c (.vec f fm vd va vb' 0)) f fm vd va vb' 0 = .write fun u => u.setV vd v) : gives i v := vecMove_gives hi he
  have lanewise {f : VecFn} {i : Instr} {m : BitVec 3} {h : Nat → Nat} (hi : opOf i = some (c, .vec f fmt vd va vb m))
      (he : evalVec (opCtx s c (.vec f fmt vd va vb m)) f fmt vd va vb m =
        vecWrite (opCtx s c (.vec f fmt vd va vb m)) w vd ((List.range n).map fun j => (h j, 0))) : each i h := by
    obtain ⟨hw, -⟩ := vecLanes_gives hi he
    rw [foldl_flags_zero, List.map_map, List.map_map] at hw
    exact hw (vecFault_zero ..)
  have outside {o : Op} {i : Instr} {w' : Thread → Thread} (hi : opOf i = some (c, o)) (hc : opClass o = 4) (hb : blocking o = false)
      (hf : o ≠ .ifence) (he : evalOp (opCtx s c o) o = .write w') : OpGives s i w' id := opGives_of_eval hi (by rw [hc]; decide) hb hf he
  have ht (o : Op) (hc : opClass o = 4) : (opCtx s c o).t = t := opCtx_t s c o (by rw [hc]; decide)
  refine ⟨moves (f := .and) rfl ?_, moves (f := .or) rfl ?_, moves (f := .xor) rfl ?_, moves (f := .sel) rfl ?_, moves (f := .mov) rfl ?_,
    lanewise (f := .shl) rfl ?_, lanewise (f := .shr) rfl ?_, lanewise (f := .shr) rfl ?_, lanewise (f := .cmp) rfl ?_,
    lanewise (f := .perm) rfl ?_, outside (o := .vbcast fmt g vd) rfl rfl rfl nofun ?_,
    fun hint => outside (o := .vext fmt g va lane) rfl rfl rfl nofun ?_,
    fun hflt => outside (o := .vext fmt g va lane) rfl rfl rfl nofun ?_, outside (o := .vins fmt g vd lane) rfl rfl rfl nofun ?_⟩
  case refine_11 => rw [evalOp, evalVbcast, ht _ rfl]
  case refine_12 => simp only [evalOp, evalVext, ht (.vext fmt g va lane) rfl, hint, if_true]; rfl
  case refine_13 => simp only [evalOp, evalVext, ht (.vext fmt g va lane) rfl, hflt, Bool.false_eq_true, if_false]; rfl
  case refine_14 => simp only [evalOp, evalVins, ht (.vins fmt g vd lane) rfl, modifyAt_const]; rfl
  all_goals
    simp only [evalVec, opCtx_vec_t]
    rfl

/-! ## Reductions (R93) -/

section Reductions
variable {fmt : BitVec 4}

/-- The sums of adjacent pairs (R93). -/
def adjacentSums (fmt : BitVec 4) (xs : List LaneRes) : List LaneRes := (List.range (xs.length / 2)).map fun i =>
  let a := xs.getD (2 * i) (0, 0)
  let b := xs.getD (2 * i + 1) (0, 0)
  let r := laneArith .add fmt a.1 b.1 0
  (r.1, r.2 ||| a.2 ||| b.2)

theorem adjacentSums_cons (a b : LaneRes) (xs : List LaneRes) : adjacentSums fmt (a :: b :: xs) =
    ((laneArith .add fmt a.1 b.1 0).1, (laneArith .add fmt a.1 b.1 0).2 ||| a.2 ||| b.2) :: adjacentSums fmt xs := by
  rw [adjacentSums, List.length_cons, List.length_cons, show (xs.length + 1 + 1) / 2 = xs.length / 2 + 1 by omega,
    List.range_succ_eq_map, List.map_cons, List.map_map]
  rfl

/-- A level of the model's tree adds adjacent pairs. -/
theorem treeLevel_eq (k : Nat) (xs : List LaneRes) (h : xs.length = 2 * k) : treeLevel fmt xs = adjacentSums fmt xs := by
  induction k generalizing xs with
  | zero => rw [List.eq_nil_of_length_eq_zero h]; rfl
  | succ k ih => match xs, h with
    | a :: b :: xs, h => rw [treeLevel, adjacentSums_cons, ih xs (by simp at h; omega)]

theorem adjacentSums_length (xs : List LaneRes) : (adjacentSums fmt xs).length = xs.length / 2 := by simp [adjacentSums]

/-- The model's tree folds 2 ^ k lanes in k levels. -/
theorem treeSum_eq (k n : Nat) (xs : List LaneRes) (hk : k ≤ n) (h : xs.length = 2 ^ k) :
    treeSum fmt n xs = ((adjacentSums fmt)^[k] xs).headD (0, 0) := by
  induction k generalizing n xs with
  | zero => cases n with
    | zero => rfl
    | succ n => rw [treeSum, if_pos (by omega)]; rfl
  | succ k ih => match n, hk with
    | n + 1, hk =>
      have hp := Nat.two_pow_pos k
      rw [Nat.pow_succ, Nat.mul_comm] at h
      rw [treeSum, if_neg (by omega), Function.iterate_succ_apply, treeLevel_eq (2 ^ k) xs h]
      exact ih n _ (by omega) (by rw [adjacentSums_length]; omega)

/-- The vector unit's formats have a power of two of lanes, at most 64 (R90). -/
theorem vecFmt_lanes : ∀ fmt : BitVec 4, vecFmtOk fmt = true → ∃ k ≤ 6, 512 / fmtWidth fmt = 2 ^ k := by decide

theorem fmtWidth_pos : ∀ fmt : BitVec 4, 0 < fmtWidth fmt := by decide

/-- A lane is known by its signed value. -/
theorem sLane_inj {w x y : Nat} (hw : 0 < w) (hx : x < 2 ^ w) (hy : y < 2 ^ w) (h : sLane w x = sLane w y) : x = y := by
  have hp : 2 ^ w = 2 * 2 ^ (w - 1) := by rw [← Nat.pow_succ', Nat.succ_eq_add_one, Nat.sub_add_cancel hw]
  have hi : (2 : Int) ^ w = ((2 ^ w : Nat) : Int) := by push_cast; rfl
  unfold sLane at h
  rw [hi] at h
  split_ifs at h <;> omega

theorem maxLane_cons (x y : Nat) (xs : List Nat) (h : isIntFmt fmt = true) : maxLane fmt (x :: y :: xs) =
    if sLane (fmtWidth fmt) x ≤ sLane (fmtWidth fmt) (maxLane fmt (y :: xs)) then maxLane fmt (y :: xs) else x := by
  obtain ⟨-, -, -, -, -, hmax⟩ := laneArith_int h
  rw [maxLane, hmax]
  exact nofun

/-- Of integer lanes maxLane is one, and none is larger. -/
theorem maxLane_int (h : isIntFmt fmt = true) (x : Nat) (xs : List Nat) : maxLane fmt (x :: xs) ∈ x :: xs
    ∧ ∀ l ∈ x :: xs, sLane (fmtWidth fmt) l ≤ sLane (fmtWidth fmt) (maxLane fmt (x :: xs)) := by
  induction xs generalizing x with
  | nil =>
    have hx : maxLane fmt [x] = x := by simp [maxLane, h]
    simp [hx]
  | cons y xs ih =>
    obtain ⟨hm, hle⟩ := ih y
    rw [maxLane_cons x y xs h]
    split
    case isTrue hxy => exact ⟨List.mem_cons_of_mem _ hm, List.forall_mem_cons.mpr ⟨hxy, hle⟩⟩
    case isFalse hxy =>
      exact ⟨List.mem_cons_self .., List.forall_mem_cons.mpr ⟨le_rfl, fun l hl => (hle l hl).trans (not_le.mp hxy).le⟩⟩

/-- The largest integer lane is what maxLane gives. -/
theorem maxLane_eq (h : isIntFmt fmt = true) {xs : List Nat} {m : Nat} (hb : ∀ l ∈ xs, l < 2 ^ fmtWidth fmt) (hm : m ∈ xs)
    (hle : ∀ l ∈ xs, sLane (fmtWidth fmt) l ≤ sLane (fmtWidth fmt) m) : maxLane fmt xs = m := by
  match xs with
  | x :: xs =>
    obtain ⟨hin, hge⟩ := maxLane_int h x xs
    exact sLane_inj (fmtWidth_pos fmt) (hb _ hin) (hb _ hm) (le_antisymm (hle _ hin) (hge _ hm))

theorem lanes_lt {w : Nat} {v : Vec} {l : Nat} (h : l ∈ lanes w v) : l < 2 ^ w := by
  obtain ⟨j, -, rfl⟩ := List.mem_map.mp h
  exact Nat.mod_lt _ (Nat.two_pow_pos w)

theorem ofLanes_single (w x : Nat) : ofLanes w [x] = BitVec.ofNat 512 (x % 2 ^ w) := by simp [ofLanes, packLanes]

end Reductions

/-- Settles O13: the tree's levels are the iterated pairwise sums, and the largest integer lane is the one that maxLane finds. -/
theorem vectorReductionsFold : Obligations.VectorReductionsFold := by
  intro s c fmt vd va t w pairs sum writes hfmt
  have reduces {f : VecFn} {i : Instr} {r : LaneRes} (hi : opOf i = some (c, .vec f fmt vd va 0 0))
      (he : evalVec (opCtx s c (.vec f fmt vd va 0 0)) f fmt vd va 0 0 = vecWrite (opCtx s c (.vec f fmt vd va 0 0)) w vd [r]) :
      writes i r := by
    obtain ⟨hw, ht⟩ := vecLanes_gives hi he
    refine ⟨fun hn => ?_, ht⟩
    have h := hw hn
    rw [List.map_cons, List.map_nil, ofLanes_single, List.foldl_cons, List.foldl_nil, show 0 ||| r.2 = r.2 from BitVec.zero_or] at h
    exact h
  obtain ⟨k, hk, hlanes⟩ := vecFmt_lanes fmt hfmt
  have hsum : treeSum fmt 6 ((lanes w (t.getV va)).map fun l => (l, 0)) = sum := by
    have hl : (512 / w).log2 = k := by rw [hlanes, Nat.log2_two_pow]
    rw [treeSum_eq k 6 _ hk (by rw [List.length_map, lanes, List.length_map, List.length_range, hlanes]), ← hl]
    rfl
  refine ⟨reduces (f := .redAdd) rfl ?_, fun hint m hm hle => reduces (f := .redMax) rfl ?_, fun _ => reduces (f := .redMax) rfl ?_⟩
  · simp only [evalVec, opCtx_vec_t, ← hsum]
    rfl
  · rw [← maxLane_eq hint (fun l hl => lanes_lt hl) hm hle]
    simp only [evalVec, opCtx_vec_t]
    rfl
  · simp only [evalVec, opCtx_vec_t]
    rfl

/-! ## Conversion (R92) -/

/-- Settles O14: the op converts its part, and its write counts the conversion beside the lanes and flags. -/
theorem vectorConversionWritesItsPart : Obligations.VectorConversionWritesItsPart := by
  intro s c q src vd va dst md t ws wd conv gives
  have converts {rs : List LaneRes} {v : Vec} (he : evalVcvt (opCtx s c (.vec (.cvt q) src vd va dst md)) q.toNat src vd va dst md =
      match vecFault t 4 (rs.map (·.2)) with
      | some f => .fault f
      | none => .write fun u => { (u.setV vd v).addFlags (rs.foldl (fun a r => a ||| r.2) 0) with
          vcvts := ((u.setV vd v).addFlags (rs.foldl (fun a r => a ||| r.2) 0)).vcvts + 1 }) : gives rs v := by
    intro hf
    rw [hf] at he
    exact opGives_of_eval (o := .vec (.cvt q) src vd va dst md) rfl (show 4 ≠ 3 by decide) rfl nofun he
  refine ⟨fun h => converts ?_, fun h => converts ?_⟩
  · simp only [evalVcvt, opCtx_vec_t, if_pos (show fmtWidth dst ≥ fmtWidth src from h)]
    rfl
  · simp only [evalVcvt, opCtx_vec_t, if_neg (show ¬ fmtWidth dst ≥ fmtWidth src from not_le.mpr h)]
    rfl

end Sys2Proof.Machine

/-! The blocking register read (O18), frets and timeouts (O22) of spec/03. -/

namespace Sys2Proof.Machine

open Sys2Proof

/-! ## Where a request goes, before and after issue -/

section Courses
variable (n : Nat) (k : ThreadNo) (b : Bundle) (s : State)

theorem drawUpTo_courses (m : Nat) : (s.drawUpTo m).2.courses = s.courses := by
  unfold State.drawUpTo
  split <;> rfl

theorem squash_courses (os : List Op) : (squash n os s).courses = s.courses := by
  induction os generalizing s with
  | nil => rfl
  | cons o os ih => rw [squash, ih, State.modCore_courses, drawUpTo_courses]

theorem flushYounger_courses (m br : Nat) (a : Word) : (flushYounger n k m br a s).courses = s.courses := by
  induction m generalizing br a s with
  | zero => rfl
  | succ m ih =>
    unfold flushYounger
    dsimp only
    split
    · rw [ih, squash_courses, countIssue_courses]
      rfl
    · rfl

theorem traceEvent_courses (f : Bool) (m : Nat) (a : Word) : (traceEvent f m k a s).courses = s.courses := by
  unfold traceEvent
  split <;> rfl

theorem resolve_courses (taken always : Bool) : (resolve n k b taken always s).courses = s.courses := by
  unfold resolve
  dsimp only
  split_ifs
  all_goals simp only [State.modThread_courses, State.modCore_courses, flushAfter, flushYounger_courses, traceEvent_courses]

theorem opWritten_courses (s : State) (c : OpAt) (o : Op) (w : Thread → Thread) : (opWritten s c o w).courses = s.courses := by
  rw [opWritten, State.modThread_courses, opIssued, countIssue_courses, countWaits_courses]

/-- The node that serves an address depends on the courses alone. -/
theorem serverOf_congr {s u : State} (h : u.courses = s.courses) (r : Nat) (a : Addr) : u.serverOf r a = s.serverOf r a := by
  have hc : u.course = s.course := funext fun c => congrArg (mapGet ({} : Course) · c) h
  have hr : u.regionCourses = s.regionCourses := funext fun r => by simp only [State.regionCourses, hc]
  have he : u.exposed = s.exposed := funext fun n => by simp only [State.exposed, hc]
  have h1 : u.tier1Map = s.tier1Map := funext fun r => funext fun a => by simp only [State.tier1Map, hr]
  have h2 : u.tier2Map = s.tier2Map := funext fun r => funext fun x => funext fun a => by simp only [State.tier2Map, hr]
  simp only [State.serverOf, he, h1, h2]

/-- A request goes where it would have gone before issue. -/
theorem destOf_still {s u : State} {n : Nat} (h : u.still n = s.still n) (hc : u.courses = s.courses) (m : BitVec 16) (r : BitVec 6)
    (a : Addr) : u.destOf n m r a = s.destOf n m r a := by
  have hm : u.module = s.module := congrArg Still.module h
  have hv : (u.core n).ctl.gwValid = (s.core n).ctl.gwValid := by
    have h' := congrArg (fun x => x.core.ctl.gwValid) h
    exact h'
  have hg : (u.core n).ctl.gwNode = (s.core n).ctl.gwNode := by
    have h' := congrArg (fun x => x.core.ctl.gwNode) h
    exact h'
  unfold State.destOf State.normModule
  dsimp only
  rw [hm, hv, hg, serverOf_congr hc]

end Courses

/-- As safepointGives_of_act, for work that reads the courses too. -/
theorem safepointGives_of_courses {s : State} {c : OpAt} {o : Op} {a a' : State → State} {i : Instr} (ho : opOf i = some (c, o))
    (hs : (blocking o || decide (o = .ifence)) = true) (he : evalOp (opCtx s c o) o = .done id a)
    (ha : ∀ u, u.still c.node.val = s.still c.node.val → u.courses = s.courses → a u = a' u) : SafepointGives s i id a' := by
  intro c' o' ho' hi
  obtain ⟨rfl, rfl⟩ : c = c' ∧ o = o' := by simpa [ho] using ho'
  have hr := ha _ (resolved_still (w := id) (fun _ => rfl) false false) ((resolve_courses ..).trans (opWritten_courses s c o id))
  rw [exec_opOf i c o ho, issueOne_safe s c o id a hi he hs, afterSafe, afterSafe, hr]

/-! ## RDB (R98, R273, R413) -/

/-- Two changes of a thread, of which the first leaves it out of IDLE, are one. -/
theorem Core.modThread_modThread {c : Core} {k : Nat} {f g : Thread → Thread} (h : (f (c.thread k)).st ≠ .idle) :
    (c.modThread k f).modThread k g = c.modThread k fun t => g (f t) := by
  have hne : f (c.thread k) ≠ {} := fun he => h (by rw [he])
  have ht : (c.modThread k f).thread k = f (c.thread k) := Core.modThread_thread_same ..
  rw [Core.modThread, ht, Core.setThread, Core.modThread, Core.setThread, mapSet_mapSet _ _ hne]
  rfl

/-- A thread that waits at a bundle (R271). -/
def Thread.waitingAt (t : Thread) (pc : Word) (w : Wait) : Thread := { t with st := .waiting, wait := some w, pc := pc }

/-- The lowest free TAG depends on the requests alone. -/
theorem freeTag_congr {c c' : Core} (h : c.reqs = c'.reqs) : c.freeTag = c'.freeTag := by
  simp only [Core.freeTag, h]

/-- A request leaves under the lowest free TAG (delta: the equation lemma of State.request would evaluate freeTag's 1024 numbers). -/
theorem request_tagged {s : State} {n : Nat} {kind : ReqKind} {p : Packet} {tag : BitVec 10} (h : (s.core n).freeTag = some tag) :
    s.request n kind p = s.sendTagged n kind tag p := by
  delta State.request
  rw [h]

section Request
variable {u : State} {n : Nat} {k : ThreadNo} {pc : Word} {tag : BitVec 10} {w : Wait} {gd : GReg} {m : BitVec 16} {r : BitVec 6} {a : Addr}
  (hw : w.kind = .rdb gd none m r a)
include hw

/-- A TAG is recorded in the wait of a thread's rdb. -/
theorem waitingAt_tagged (t : Thread) :
    (t.waitingAt pc w).tagged tag (.rdb k pc) = t.waitingAt pc { w with kind := .rdb gd (some tag) m r a } := by
  unfold Thread.tagged
  simp only [Thread.waitingAt, Option.map_some, hw]

/-- An rdb's wait that takes a TAG, and the request that holds it, are one change of the core. -/
theorem modThread_waitingAt_tagged : (u.modThread n k.val (·.waitingAt pc w)).modCore n (fun c =>
      { c.modThread k.val (·.tagged tag (.rdb k pc)) with reqs := c.reqs ++ [(tag, .rdb k pc)] }) =
    (u.modThread n k.val (·.waitingAt pc { w with kind := .rdb gd (some tag) m r a })).modCore n fun q =>
      { q with reqs := q.reqs ++ [(tag, .rdb k pc)] } := by
  have hst (x : Wait) : (((u.core n).modThread k.val (·.waitingAt pc x)).thread k.val).st ≠ .idle := by
    rw [Core.modThread_thread_same]
    exact nofun
  have hthread (c : Core) : (c.modThread k.val (·.waitingAt pc w)).modThread k.val (·.tagged tag (.rdb k pc)) =
      c.modThread k.val (·.waitingAt pc { w with kind := .rdb gd (some tag) m r a }) := by
    rw [Core.modThread_modThread (by exact nofun)]
    exact congrArg (c.modThread k.val) (funext fun t => waitingAt_tagged hw t)
  have hmod (x : Wait) : u.modThread n k.val (·.waitingAt pc x) = u.modCore n (Core.modThread · k.val (·.waitingAt pc x)) := rfl
  rw [hmod, hmod, modCore_modCore k.val (hst w), modCore_modCore k.val (hst _)]
  simp only [hthread]
  rfl

/-- An rdb that begins to wait sends its request under the lowest free TAG, which its wait records (R273). -/
theorem request_rdb (p : Packet) (ht : (u.core n).freeTag = some tag) :
    (u.modThread n k.val (·.waitingAt pc w)).request n (.rdb k pc) p =
      ((u.modThread n k.val (·.waitingAt pc { w with kind := .rdb gd (some tag) m r a })).modCore n fun q =>
        { q with reqs := q.reqs ++ [(tag, .rdb k pc)] }).send { p with h := { p.h with tag := tag, snode := BitVec.ofNat 10 n } } := by
  have hreqs : ((u.modThread n k.val (·.waitingAt pc w)).core n).reqs = (u.core n).reqs := by
    rw [State.modThread_core_same, Core.modThread_reqs]
  have htag : ((u.modThread n k.val (·.waitingAt pc w)).core n).freeTag = some tag := (freeTag_congr hreqs).trans ht
  rw [← modThread_waitingAt_tagged hw]
  exact request_tagged htag

end Request

/-- The wait of an rdb whose request has left under a TAG (R98, R273). -/
def rdbWait (x : Ctx) (gd : GReg) (tag : BitVec 10) (k : Cap) (off : Nat) (pd : PReg) (u : State) : Wait :=
  { kind := .rdb gd (some tag) (x.norm k.module) k.region (k.addrAt off), start := u.mc / 16
    limit := if x.ext = some 0 then none else extLimit x, pd := pd, next := (u.thread x.n x.k.val).pc }

/-- What an rdb does after release (R98, R273). -/
theorem evalRdb_act (x : Ctx) {gd : GReg} {cap : SReg} {ga : GReg} {pd : PReg} {k : Cap} {off : Nat} (hk : x.t.getS cap = k)
    (ho : (x.t.getG ga).toNat = off) (hc : checkAccess k x.dom cap.toNat x.cls [pR] none off 4 4 = none) :
    ∃ act, evalRdb x gd cap ga pd = .done id act ∧ ∀ u : State,
      (∀ r, u.destOf x.n (x.norm k.module) k.region (k.addrAt off) = .error r →
        act u = noteRefusal x.n x.k.val r x.pc (u.modThread x.n x.k.val (·.setP pd false)))
      ∧ ∀ dst, u.destOf x.n (x.norm k.module) k.region (k.addrAt off) = .ok dst →
        (bitOf (u.core x.n).ctl.dbgPend x.k.val = true → act u = parkDebug x.n x.k.val (u.modThread x.n x.k.val (·.goto x.pc)))
        ∧ ∀ tag, (u.core x.n).freeTag = some tag → bitOf (u.core x.n).ctl.dbgPend x.k.val = false → act u =
          ((u.modThread x.n x.k.val (·.waitingAt x.pc (rdbWait x gd tag k off pd u))).modCore x.n fun q =>
            { q with reqs := q.reqs ++ [(tag, .rdb x.k x.pc)] }).send
              (reqPacket x.n dst k.region (k.addrAt off) kRdb clsReq tag (if x.ext = some 0 then onceMark else [])) := by
  subst hk ho
  simp only [evalRdb, hc, extLimit_zero, decide_eq_true_eq]
  refine ⟨_, rfl, fun u => ⟨fun r hr => ?_, fun dst hd => ⟨fun hp => ?_, fun tag ht hp => ?_⟩⟩⟩
  · simp only [hr]
  · simp only [hd, hp, if_true]
  · simp only [hd, hp, Bool.false_eq_true, if_false]
    rw [beginWait, if_neg (ne_true_of_eq_false hp)]
    exact request_rdb rfl _ ht

/-- Settles O18: the op's work after release finds the courses, the pending stop and the free TAGs as issue found them. -/
theorem rdbRequestsAndWaits : Obligations.RdbRequestsAndWaits := by
  intro s c gd cap ga pd n t x k a m hc
  have hxt : x.t = t := opCtx_t s c _ (show 6 ≠ 3 by decide)
  obtain ⟨act, he, hact⟩ := evalRdb_act x (gd := gd) (pd := pd) (by rw [hxt]) (by rw [hxt]) hc
  have gives {a' : State → State} (ha : ∀ u, u.still n = s.still n → u.courses = s.courses → act u = a' u) :
      SafepointGives s (.rdb c gd cap ga pd) id a' := safepointGives_of_courses rfl rfl he ha
  refine ⟨fun r hr => gives fun u hu hcs => ?refused, fun dst hd => ⟨fun hp => gives fun u hu hcs => ?parks, fun tag ht hp => ?waits⟩⟩
  case refused => exact (hact u).1 r ((destOf_still hu hcs ..).trans hr)
  case parks =>
    obtain ⟨parks, -⟩ := (hact u).2 dst ((destOf_still hu hcs ..).trans hd)
    exact parks ((congrArg (bitOf · _) (still_dbgPend hu)).trans hp)
  case waits =>
    intro sends
    have sends_of {limit : Option Nat} {payload : List Byte} (hl : (if c.ext = some 0 then none else c.ext.map (·.toNat)) = limit)
        (hpl : (if c.ext = some 0 then onceMark else []) = payload) : sends limit payload := by
      subst hl hpl
      refine gives fun u hu hcs => ?_
      obtain ⟨-, waits⟩ := (hact u).2 dst ((destOf_still hu hcs ..).trans hd)
      have hp' : bitOf (u.core n).ctl.dbgPend c.thread.val = false := (congrArg (bitOf · _) (still_dbgPend hu)).trans hp
      have ht' : (u.core n).freeTag = some tag := by
        have h := congrArg (fun x => x.core.freeTag) hu
        exact h.trans ht
      rw [waits tag ht' hp', rdbWait, still_mc hu]
      rfl
    refine ⟨fun h0 => sends_of (if_pos h0) (if_pos h0), fun h0 => sends_of (if_neg h0) (if_neg h0)⟩

/-! ## Timeouts and frets (R98, R253, R256, R272, R300) -/

section Waits
variable {s : State} {n : Nat} {k : ThreadNo} {w : Wait} (hst : (s.thread n k.val).st = .waiting) (hw : (s.thread n k.val).wait = some w)
include hst hw

/-- WAIT_TIMEOUT ends a wait that is over, and no other (R272). -/
theorem waitTimeout_waiting {l : Nat} (hl : w.limit = some l) :
    waitTimeout n k s = if w.over s then endWait n k.val w false (cancelRdb n k w s) else s := by
  simp only [waitTimeout, hst, hw, hl]

/-- An event finds no wait that is over (R272). -/
theorem wake_over (h : w.over s = true) : wakeFret n k s = s ∧ wakeMsg n k s = s := by
  constructor
  · simp only [wakeFret, hst, hw, h, Bool.not_true, Bool.and_false, Bool.false_eq_true, if_false]
    split <;> rfl
  · simp only [wakeMsg, hst, hw, h, if_true]
    split
    · split <;> rfl
    · rfl

/-- An fwait ends with its fret at its target (R251, R252). -/
theorem wakeFret_waiting {f : BitVec 6} {g : Word} (hk : w.kind = .fret f g) (h : w.over s = false) :
    wakeFret n k s = if reached ((s.core n).fret f.toNat) g then endWait n k.val w true s else s := by
  simp only [wakeFret, hst, hw, hk, h, Bool.not_false, Bool.and_true]

end Waits

theorem cancelRdb_other {s : State} {n : Nat} {k : ThreadNo} {w : Wait} (h : ∀ gd tag m r a, w.kind ≠ .rdb gd tag m r a) :
    cancelRdb n k w s = s := by
  unfold cancelRdb
  split
  case h_1 hk => exact (h _ _ _ _ _ hk).elim
  case h_2 hk => exact (h _ _ _ _ _ hk).elim
  case h_3 => rfl

/-- The frets with an increment, if there is one (R253). -/
def addInc (m : Map Word) (i : Option FretInc) : Map Word :=
  match i with
  | some i => mapSet 0 m i.f.toNat (mapGet 0 m i.f.toNat + i.v)
  | none => m

/-- Both oldest increments are applied, and the threads that wait for a fret look again (R253). -/
theorem fretApply_eq (n : Nat) (s : State) : let y := (s.core n).syn
    fretApply n s = wakeAllFret n (s.modCore n fun c => { c with syn := { c.syn with
      frets := addInc (addInc y.frets y.incOwn.head?) y.incNet.head?, incOwn := y.incOwn.tail, incNet := y.incNet.tail } }) := by
  intro y
  simp only [fretApply, State.modCore, y]
  generalize (s.core n).syn = y
  obtain ⟨frets, own, net, queue, msgs⟩ := y
  cases own <;> cases net <;> rfl

/-- A FINC is refused by a NACK. -/
theorem refusalOf_finc {n : Nat} {p : Packet} (k : BitVec 3) (hk : p.h.kind = kFinc) : refusalOf n p k = nackOf n p k := by
  rw [refusalOf, hk]
  exact if_neg (by decide)

/-- What an increment that arrives at an exposed core meets (R204, R256, R300). -/
theorem fincArrive_head {s : State} {n : Nat} {p : Packet} {rest : List Packet} (hc : (s.node n).ctrl = p :: rest) (hk : p.h.kind = kFinc) :
    let u := s.modNode n fun x => { x with ctrl := rest }
    let refused (k : BitVec 3) : State :=
      (u.modCore n fun c => { c with ctl := { c.ctl with winRefused := c.ctl.winRefused + 1 } }).send (nackOf n p k)
    (∀ k, portRefusal s n p = some k → fincArrive n s = refused k)
    ∧ (portRefusal s n p = none → ownRegion s n p = false → fincArrive n s = refused refWindow)
    ∧ ∀ f, portRefusal s n p = none → ownRegion s n p = true → fretOf p.h.addr = some (n, f) → fincArrive n s =
      (u.modCore n fun c => { c with syn := { c.syn with incNet := c.syn.incNet ++ [{ f := BitVec.ofNat 6 f, v := wordAt p.data 0 }] } }).send
        (ackOf n p) := by
  have hhead := takeCtrl_head hc (want := fun p => decide (p.h.kind = kFinc)) (decide_eq_true hk)
  refine ⟨fun k hp => ?_, fun hp ho => ?_, fun f hp ho hf => ?_⟩
  · simp only [fincArrive, hhead, hp, refuse, refusalOf_finc _ hk]
  · simp only [fincArrive, hhead, hp, ho, Bool.not_false, if_true, refuse, refusalOf_finc _ hk]
  · simp only [fincArrive, hhead, hp, ho, hf, Bool.not_true, Bool.false_eq_true, if_false, ne_eq, not_true_eq_false]

/-- Settles O22: a wait's timeout, fret and answer are cases of whether its time is over, and an increment's refusal follows its region. -/
theorem fretsCountAndWaitsEnd : Obligations.FretsCountAndWaitsEnd := by
  intro s node k hn n t
  refine ⟨fun w l hst hw hl => ?timeout, fun w f g hst hw hk hl => ?wakes, ?applies, fun p rest hc hk hlost hexp => ?arrives⟩
  case timeout =>
    have hover : w.over s = decide (16 * (w.start + l + 1) ≤ s.mc) := by simp only [Wait.over, hl]
    refine ⟨fun h => atCore_settle hn ?_, fun h => atCore_settle hn ?_, fun h => ?_, cancelRdb_other, fun gd tag m r a dst hk hd => ?_⟩
    · rw [waitTimeout_waiting hst hw hl, hover, if_neg (by simpa using h)]
    · rw [waitTimeout_waiting hst hw hl, hover, if_pos (decide_eq_true h)]
      rfl
    · exact wake_over hst hw (hover.trans (decide_eq_true h))
    · simp only [cancelRdb, hk]
      rw [show s.destOf node.val m r a = .ok dst from hd]
  case wakes =>
    have hover : w.over s = false := by
      rw [Bool.eq_false_iff, ne_eq, Wait.over_iff]
      rintro ⟨l, hw, hle⟩
      exact absurd (hl l hw) (Nat.not_lt.mpr hle)
    have hdo := wakeFret_waiting hst hw hk hover
    exact ⟨fun h => hdo.trans (if_pos h), fun h => hdo.trans (if_neg (ne_true_of_eq_false h))⟩
  case applies => exact atCore_settle hn (fretApply_eq n s)
  case arrives =>
    intro u here
    obtain ⟨refused, foreign, admitted⟩ := fincArrive_head hc hk
    have hown : ownRegion s n p = true ↔ here := by simp [ownRegion, here, n]
    refine ⟨fun f hh hf => (atCore_next hn).trans (congrArg _ ?_), fun hh => (atCore_next hn).trans (congrArg _ ?_)⟩
    · exact admitted f (portRefusal_none hlost hexp (.inl hh.1)) (hown.mpr hh) hf
    · by_cases hv : (s.course (courseOf n)).valid = true ∨ p.h.region = 0x3F
      · rw [if_pos hv]
        exact foreign (portRefusal_none hlost hexp hv) (Bool.eq_false_iff.mpr (mt hown.mp hh))
      · rw [if_neg hv]
        exact refused refUnmapped (by simpa [portRefusal, coreRefusal, hlost, hexp] using not_or.mp hv)

end Sys2Proof.Machine

/-! The statements of spec/04: what the capability ops derive (O4). -/

namespace Sys2Proof.Machine

open Sys2Proof

/-! ## The layout of a capability (Table 4.1) -/

section Layout
variable {k : Cap} (b : Addr) (l : Word) (m : BitVec 16) (p : BitVec 12) (o : Byte) (r : BitVec 6)

/-- A bit of a capability is a bit of the field that holds it. -/
theorem mkCap_getLsbD (t : Bool) (i : Nat) : (mkCap t b l m p o r).bits.getLsbD i =
    if i < 48 then b.getLsbD i else if i < 80 then l.getLsbD (i - 48) else if i < 96 then m.getLsbD (i - 80)
      else if i < 108 then p.getLsbD (i - 96) else if i < 116 then o.getLsbD (i - 108) else r.getLsbD (i - 116) := by
  change BitVec.getLsbD (w := 6 + 6 + 8 + 12 + 16 + 32 + 48) _ _ = _
  simp only [mkCap, BitVec.getLsbD_append, Nat.sub_sub]
  grind

/-- The mask of a field of n bits from bit j on. -/
theorem fieldMask_getLsbD (n j : Nat) {i : Nat} (hi : i < 128) :
    (BitVec.ofNat 128 ((2 ^ n - 1) * 2 ^ j)).getLsbD i = decide (j ≤ i ∧ i < j + n) := by
  rw [BitVec.getLsbD_ofNat, Nat.testBit_mul_two_pow, Nat.testBit_two_pow_sub_one]
  grind

theorem Cap.getLsbD_of_resv (hv : k.resv = 0) {i : Nat} (h : 122 ≤ i) : k.bits.getLsbD i = false := by
  by_cases hi : i < 128
  · have hb := congrArg (fun y : BitVec 6 => y.getLsbD (i - 122)) hv
    simpa [Cap.resv, show i - 122 < 6 by omega, show 122 + (i - 122) = i by omega] using hb
  · exact BitVec.getLsbD_of_ge _ _ (by omega)

/-- A tagged capability is known by the bits of its fields. -/
theorem Cap.eq_mkCap_of_bits (ht : k.tag = true) (h : ∀ i < 128, k.bits.getLsbD i = (mkCap true b l m p o r).bits.getLsbD i) :
    k = mkCap true b l m p o r :=
  congr (congrArg Cap.mk (BitVec.eq_of_getLsbD_eq h)) ht

variable (ht : k.tag = true) (hv : k.resv = 0)
include ht hv

theorem Cap.withPerm_eq : k.withPerm p = mkCap true k.base k.limit k.module p k.otype k.region := by
  refine Cap.eq_mkCap_of_bits _ _ _ _ _ _ ht fun i hi => ?_
  have hr := Cap.getLsbD_of_resv hv (i := i)
  have hm := fieldMask_getLsbD 12 96 hi
  simp only [mkCap_getLsbD, Cap.withPerm, Cap.base, Cap.limit, Cap.module, Cap.otype, Cap.region, BitVec.getLsbD_or, BitVec.getLsbD_and,
    BitVec.getLsbD_not, BitVec.getLsbD_shiftLeft, BitVec.getLsbD_ushiftRight, BitVec.getLsbD_setWidth]
  grind

theorem Cap.withOtype_eq : k.withOtype o = mkCap true k.base k.limit k.module k.perm o k.region := by
  refine Cap.eq_mkCap_of_bits _ _ _ _ _ _ ht fun i hi => ?_
  have hr := Cap.getLsbD_of_resv hv (i := i)
  have hm := fieldMask_getLsbD 8 108 hi
  simp only [mkCap_getLsbD, Cap.withOtype, Cap.base, Cap.limit, Cap.module, Cap.perm, Cap.region, BitVec.getLsbD_or, BitVec.getLsbD_and,
    BitVec.getLsbD_not, BitVec.getLsbD_shiftLeft, BitVec.getLsbD_ushiftRight, BitVec.getLsbD_setWidth]
  grind

theorem Cap.withBaseLimit_eq : k.withBaseLimit b l = mkCap true b l k.module k.perm k.otype k.region := by
  refine Cap.eq_mkCap_of_bits _ _ _ _ _ _ ht fun i hi => ?_
  have hr := Cap.getLsbD_of_resv hv (i := i)
  have hm := fieldMask_getLsbD 80 0 hi
  rw [Nat.pow_zero, Nat.mul_one] at hm
  simp only [mkCap_getLsbD, Cap.withBaseLimit, Cap.module, Cap.perm, Cap.otype, Cap.region, hm, BitVec.getLsbD_or, BitVec.getLsbD_and,
    BitVec.getLsbD_not, BitVec.getLsbD_append, BitVec.getLsbD_ushiftRight, BitVec.getLsbD_setWidth]
  grind

end Layout

/-! ## Derivations whose conditions hold (R110, Table 4.4) -/

section Derivations
variable {a b : Cap} {ra rb : Nat} {x y : Word} {d : Domain}

theorem Cap.tagged_iff : a.tagged = true ↔ a.tag = true ∧ a.resv = 0 := by simp [Cap.tagged]

theorem capSub_of_open (ht : a.tag = true) (hv : a.resv = 0) (ho : a.otype = 0) (hs : a.has pSeal = false) (hu : a.has pUnseal = false)
    (hl : x.toNat + y.toNat ≤ a.limit.toNat) :
    capSub a ra x y = .ok (mkCap true (a.base + x.zeroExtend 48) y a.module a.perm 0 a.region) := by
  simp [capSub, Cap.tagged_iff.mpr ⟨ht, hv⟩, Cap.isKey, Cap.sealed_, ho, hs, hu, Nat.not_lt.mpr hl, Cap.withBaseLimit_eq _ _ ht hv]

theorem capPerm_of_open (ht : a.tag = true) (hv : a.resv = 0) (ho : a.otype = 0) :
    capPerm a ra x = .ok (mkCap true a.base a.limit a.module (a.perm &&& x.truncate 12) 0 a.region) := by
  simp [capPerm, Cap.tagged_iff.mpr ⟨ht, hv⟩, Cap.sealed_, ho, Cap.withPerm_eq _ ht hv]

theorem capBind_of_key (ht : a.tag = true) (hv : a.resv = 0) (ho : a.otype = 0) (hb : b.tagged = true) (hbo : b.otype = 0)
    (hs : b.has pSeal = true) (hr : b.foreign d = false) (hm : b.keyMask = 0) (hk : 0x10 ≤ b.keyType) :
    capBind a b ra rb d = .ok (mkCap true a.base a.limit a.module a.perm b.keyType a.region) := by
  simp [capBind, Cap.tagged_iff.mpr ⟨ht, hv⟩, hb, Cap.sealed_, ho, hbo, hs, hr, hm, show 16#8 ≤ b.keyType from hk, Cap.withOtype_eq _ ht hv]

theorem capFree_of_key (ht : a.tag = true) (hv : a.resv = 0) (ho : 0x10 ≤ a.otype) (hb : b.tagged = true) (hbo : b.otype = 0)
    (hu : b.has pUnseal = true) (hr : b.foreign d = false) (hc : b.covers a.otype = true) :
    capFree a b ra rb d = .ok (mkCap true a.base a.limit a.module a.perm 0 a.region) := by
  simp [capFree, Cap.tagged_iff.mpr ⟨ht, hv⟩, hb, Cap.isKey, Cap.sealed_, hbo, hu, hr, hc, show 16#8 ≤ a.otype from ho, Cap.withOtype_eq _ ht hv]

/-- The types agree in the bits that a mask leaves exactly when no such bit of their difference is set. -/
theorem xor_and_eq_zero_iff (u v w : Byte) : (u ^^^ v) &&& w = 0 ↔ u &&& w = v &&& w := by
  have hd : (u ^^^ v) &&& w = (u &&& w) ^^^ (v &&& w) := by
    ext i
    simp [Bool.and_xor_distrib_right]
  rw [hd]
  exact BitVec.xor_eq_zero_iff

theorem capKey_of_key (ht : a.tag = true) (hv : a.resv = 0) (ho : a.otype = 0) (hk : a.has pSeal = true ∨ a.has pUnseal = true)
    (hx : x < 0x10000) (hm : (x >>> 8).truncate 8 &&& ~~~a.keyMask = 0)
    (ht' : x.truncate 8 &&& ~~~a.keyMask = a.keyType &&& ~~~a.keyMask) :
    capKey a ra x = .ok (mkCap true (x.zeroExtend 48) a.limit a.module a.perm 0 a.region) := by
  have hkey : a.isKey = true := by simpa [Cap.isKey, Cap.sealed_, ho] using hk
  have hhigh : x >>> 16 = 0 := by bv_omega
  have hlow : x &&& 0xFFFF = x := by
    apply BitVec.eq_of_toNat_eq
    rw [BitVec.toNat_and]
    exact (Nat.and_two_pow_sub_one_eq_mod x.toNat 16).trans (Nat.mod_eq_of_lt hx)
  have htype := (xor_and_eq_zero_iff _ _ _).mpr ht'
  simp only [capKey, Cap.tagged_iff.mpr ⟨ht, hv⟩, Cap.sealed_, ho, hkey, hhigh, hm, htype, hlow, Cap.withBaseLimit_eq _ _ ht hv]
  rfl

theorem capSpecial_of_region (h : a.tag = false ∨ a.foreign d = false) : capSpecial a ra d = .ok a := by
  rcases h with h | h <;> simp [capSpecial, Cap.tagged, h]

/-- The field that cget reads. -/
theorem capField_eq (f : Nat) : capField a f = match f with
    | 0 => a.base.truncate 32
    | 1 => (a.base >>> 32).truncate 32
    | 2 => a.limit
    | 3 => a.module.zeroExtend 32
    | 4 => a.perm.zeroExtend 32
    | 5 => a.otype.zeroExtend 32
    | 6 => a.region.zeroExtend 32
    | _ => if a.tag = true ∧ a.resv = 0 then 1 else 0 := by
  have htag : BitVec.ofNat 32 (bn a.tagged) = if a.tag = true ∧ a.resv = 0 then 1 else 0 := by
    simp only [← Cap.tagged_iff]
    cases a.tagged <;> rfl
  unfold capField
  split
  all_goals simp_all
end Derivations

/-! ## Capability ops -/

section CapOps
variable {s : State} {c : OpAt} {sd : SReg} {k : Cap} {i : Instr} {o : Op}

/-- What a capability op checks regions against. -/
theorem opCtx_dom : (opCtx s c o).dom = { module := s.module, region := s.regionOf c.node.val } := rfl

theorem foreign_own {b : Cap} (h : b.region = (s.regionOf c.node.val).zeroExtend 6) : b.foreign (opCtx s c o).dom = false := by
  simp [Cap.foreign, opCtx_dom, h]

/-- An op that succeeds in deriving a capability of its operands writes it. -/
theorem opGives_of_derives {r : Thread → Except FaultInfo Cap} (ho : opOf i = some (c, o)) (hc : opClass o = 1) (hb : blocking o = false)
    (he : evalOp (opCtx s c o) o = derive_ (r (opCtx s c o).t) sd) (hr : r (opThread s c) = .ok k) :
    OpGives s i (fun u => u.setS sd k) id := by
  refine opGives_of_eval ho (by rw [hc]; decide) hb (by rintro rfl; exact absurd hc (by decide)) ?_
  rw [he, opCtx_t s c o (by rw [hc]; decide), hr]
  rfl

theorem cwsr_gives {sa : SReg} {n : GReg} (h : ((opThread s c).getS sa).tag = false ∨
    ((opThread s c).getS sa).region = (s.regionOf c.node.val).zeroExtend 6) :
    OpGives s (.cwsr c n sa)
      (fun u => if n = 0 then { u with faultGate := (opThread s c).getS sa } else { u with faultGdata := (opThread s c).getS sa }) id := by
  refine opGives_of_eval (o := .cwsr n sa) rfl (show 1 ≠ 3 by decide) rfl nofun ?_
  simp only [evalOp, evalCwsr, opCtx_t s c (.cwsr n sa) (show 1 ≠ 3 by decide), capSpecial_of_region (h.imp_right foreign_own)]
  rfl

end CapOps

/-- Settles O4: under its conditions each derivation of Table 4.4 succeeds, and what it changes are whole fields of the capability. -/
theorem capabilityOpsDerive : Obligations.CapabilityOpsDerive := by
  intro s c sd sa sb rd ga gb f t a b x y here open_ gives
  refine ⟨fun h => ⟨cwsr_gives h, cwsr_gives h⟩, ?csub, ?cperm, ?cbind, ?cfree, ?ckey, ?cmov, ?cget⟩
  case csub =>
    rintro ⟨ht, hv, ho⟩ hs hu hl
    exact opGives_of_derives (o := .csub sd sa ga gb) (r := fun u => capSub (u.getS sa) sa.toNat (u.getG ga) (u.getG gb)) rfl rfl rfl rfl
      (capSub_of_open ht hv ho hs hu hl)
  case cperm =>
    rintro ⟨ht, hv, ho⟩
    exact opGives_of_derives (o := .cperm sd sa ga) (r := fun u => capPerm (u.getS sa) sa.toNat (u.getG ga)) rfl rfl rfl rfl
      (capPerm_of_open ht hv ho)
  case cbind =>
    rintro ⟨ht, hv, ho⟩ ⟨hbt, hbv, hbo⟩ hs hr hm hk
    exact opGives_of_derives (o := .cbind sd sa sb)
      (r := fun u => capBind (u.getS sa) (u.getS sb) sa.toNat sb.toNat (opCtx s c (.cbind sd sa sb)).dom) rfl rfl rfl rfl
      (capBind_of_key ht hv ho (Cap.tagged_iff.mpr ⟨hbt, hbv⟩) hbo hs (foreign_own hr) hm hk)
  case cfree =>
    rintro ht hv ho ⟨hbt, hbv, hbo⟩ hu hr hc
    exact opGives_of_derives (o := .cfree sd sa sb)
      (r := fun u => capFree (u.getS sa) (u.getS sb) sa.toNat sb.toNat (opCtx s c (.cfree sd sa sb)).dom) rfl rfl rfl rfl
      (capFree_of_key ht hv ho (Cap.tagged_iff.mpr ⟨hbt, hbv⟩) hbo hu (foreign_own hr) (decide_eq_true hc))
  case ckey =>
    rintro ⟨ht, hv, ho⟩ hk hx hm ht'
    exact opGives_of_derives (o := .ckey sd sa ga) (r := fun u => capKey (u.getS sa) sa.toNat (u.getG ga)) rfl rfl rfl rfl
      (capKey_of_key ht hv ho hk hx hm ht')
  case cmov =>
    exact opGives_of_derives (o := .cmov sd sa) (r := fun u => .ok (u.getS sa)) rfl rfl rfl rfl rfl
  case cget =>
    intro _
    refine opGives_of_eval (o := .cget rd sa f) rfl (show 1 ≠ 3 by decide) rfl nofun ?_
    simp only [evalOp, evalCget, opCtx_t s c (.cget rd sa f) (show 1 ≠ 3 by decide), capField_eq]
    rfl

end Sys2Proof.Machine

/-! Every step keeps every byte memory canonical (O58, log 5). An invariant `State.Wf` of the whole state, kept by each function of the model:
`f_wf` says that `f` keeps it, by the branches of `f` and the lemmas of the functions that `f` calls. A function that gives no state back
(an option, a pair, an op's outcome, a command's answer) keeps it in what it gives. The invariant has two parts, the maps of units and the
byte memories, each under a condition of its own, so that the same walk over the model serves either part alone. -/

namespace Sys2Proof.Machine

open Sys2Proof

section Predicates
variable (maps mems : Prop)

/-- A map is in canonical form, where that is asked. -/
def MapWf {α : Type} [DecidableEq α] (d : α) (m : Map α) : Prop := maps → mapWf d m = true

/-- A byte memory is in canonical form (an unlisted byte reads 0), where that is asked. -/
def MemWf (m : Map Byte) : Prop := mems → Memory.wf m = true

/-- A byte memory whose unlisted bytes have values of their own is in canonical form, where that is asked. -/
def ListedWf (m : Map Byte) : Prop := mems → Memory.listedWf m = true

def CoreMem.Wf (m : CoreMem) : Prop := MemWf mems m.imem ∧ MemWf mems m.scratch
def Matrix.Wf (m : Matrix) : Prop := ∀ e ∈ m.tileData, MemWf mems e.2
def Core.Wf (c : Core) : Prop := c.mem.Wf mems ∧ c.mat.Wf mems
def MemCtl.Wf (c : MemCtl) : Prop := MemWf mems c.mem
def HostIf.Wf (h : HostIf) : Prop := MemWf mems h.hostMem ∧ MemWf mems h.storage
def Emu.Wf (e : Emu) : Prop := MemWf mems e.dbgBuf
def Pegbox.Wf (b : Pegbox) : Prop :=
  MemWf mems b.flashA ∧ MemWf mems b.flashB ∧ (∀ e ∈ b.localMem, ListedWf mems e.2) ∧ ListedWf mems b.shared

section Projections
variable {mems} {h : HostIf} {b : Pegbox}
theorem HostIf.Wf.hostMem (hw : h.Wf mems) : MemWf mems h.hostMem := hw.1
theorem HostIf.Wf.storage (hw : h.Wf mems) : MemWf mems h.storage := hw.2
theorem Pegbox.Wf.flashA (hb : b.Wf mems) : MemWf mems b.flashA := hb.1
theorem Pegbox.Wf.flashB (hb : b.Wf mems) : MemWf mems b.flashB := hb.2.1
theorem Pegbox.Wf.localMem (hb : b.Wf mems) : ∀ e ∈ b.localMem, ListedWf mems e.2 := hb.2.2.1
theorem Pegbox.Wf.shared (hb : b.Wf mems) : ListedWf mems b.shared := hb.2.2.2
end Projections

/-- The cores of a state, and its controllers: the map, and the memories of what it lists. -/
def CoresWf (m : Map Core) : Prop := MapWf maps {} m ∧ ∀ e ∈ m, e.2.Wf mems
def CtlsWf (m : Map MemCtl) : Prop := MapWf maps {} m ∧ ∀ e ∈ m, e.2.Wf mems

/-- A state's maps of units are in canonical form, where `maps` asks it, and its byte memories are, where `mems` does (log 5). -/
def State.Wf (s : State) : Prop :=
  CoresWf maps mems s.cores ∧ MapWf maps {} s.nodes ∧ CtlsWf maps mems s.ctls ∧ MapWf maps {} s.courses ∧ MapWf maps {} s.links
    ∧ MapWf maps {} s.lnodes ∧ s.host.Wf mems ∧ s.emu.Wf mems ∧ s.pb.Wf mems

/-- The state that an option holds, or that is left where something was taken, keeps the form. -/
def OptWf (o : Option State) : Prop := ∀ t, o = some t → t.Wf maps mems
def TakenWf {α : Type} (o : Option (α × State)) : Prop := ∀ a t, o = some (a, t) → t.Wf maps mems
/-- The state that a command answers keeps it. -/
def Answers (r : Host.Outcome State Fault Refusal) : Prop := ∀ t, r = .next t → t.Wf maps mems
/-- What an op does to the state as it completes, or as it is withdrawn, keeps it. -/
def OpRes.Wf (r : OpRes) : Prop :=
  match r with
  | .done _ a => ∀ s : State, s.Wf maps mems → (a s).Wf maps mems
  | .withdraw a => ∀ s : State, s.Wf maps mems → (a s).Wf maps mems
  | _ => True
def MemRes.Wf (r : MemRes) : Prop :=
  match r with
  | .ok _ _ a => ∀ s : State, s.Wf maps mems → (a s).Wf maps mems
  | .out r => r.Wf maps mems

end Predicates

variable {maps mems : Prop}

/-! ## Maps -/

theorem mem_mapDel {α : Type} {m : Map α} {i : Nat} {e : Nat × α} (h : e ∈ mapDel m i) : e ∈ m := by
  induction m with
  | nil => exact h
  | cons x m ih =>
    unfold mapDel at h
    split at h
    · exact List.mem_cons_of_mem _ (ih h)
    · rcases List.mem_cons.mp h with rfl | h
      · exact List.mem_cons_self
      · exact List.mem_cons_of_mem _ (ih h)

theorem mem_mapPut {α : Type} {m : Map α} {i : Nat} {v : α} {e : Nat × α} (h : e ∈ mapPut m i v) : e = (i, v) ∨ e ∈ m := by
  induction m with
  | nil => exact .inl (List.mem_singleton.mp h)
  | cons x m ih =>
    unfold mapPut at h
    split at h
    · exact List.mem_cons.mp h
    · split at h
      · exact (List.mem_cons.mp h).imp_right (List.mem_cons_of_mem _)
      · rcases List.mem_cons.mp h with rfl | h
        · exact .inr List.mem_cons_self
        · exact (ih h).imp_right (List.mem_cons_of_mem _)

section
variable {α : Type} [DecidableEq α] {d v : α} {m : Map α} {i : Nat} {P : α → Prop}

/-- What a map lists after a write is the value written or was listed before. -/
theorem forall_mapSet (h : ∀ e ∈ m, P e.2) (hv : P v) : ∀ e ∈ mapSet d m i v, P e.2 := by
  intro e he
  unfold mapSet at he
  split at he
  · exact h e (mem_mapDel he)
  · rcases mem_mapPut he with rfl | he
    · exact hv
    · exact h e he

theorem mapGet_of_forall {α : Type} {d : α} {m : Map α} {P : α → Prop} (h : ∀ e ∈ m, P e.2) (hd : P d) (i : Nat) : P (mapGet d m i) := by
  induction m with
  | nil => exact hd
  | cons x m ih =>
    unfold mapGet
    split
    · exact h _ List.mem_cons_self
    · exact ih fun e he => h e (List.mem_cons_of_mem _ he)

theorem mapWfFrom_filter {p : Nat × α → Bool} {lo : Nat} (h : mapWfFrom d lo m = true) : mapWfFrom d lo (m.filter p) = true := by
  induction m generalizing lo with
  | nil => rfl
  | cons e m ih =>
    obtain ⟨k, v⟩ := e
    simp only [mapWfFrom, Bool.and_eq_true, decide_eq_true_eq] at h
    obtain ⟨⟨hlo, hv⟩, hm⟩ := h
    rw [List.filter_cons]
    split
    · simp [mapWfFrom, hlo, hv, ih hm]
    · exact ih (mapWfFrom_mono d m (by omega) hm)

theorem MapWf.filter {p : Nat × α → Bool} (h : MapWf maps d m) : MapWf maps d (m.filter p) := fun hm => mapWfFrom_filter (h hm)

theorem MapWf.set (h : MapWf maps d m) : MapWf maps d (mapSet d m i v) := fun hm => mapWf_mapSet d m i v (h hm)

end

theorem MemWf.write {m : Map Byte} {off : Nat} {bs : List Byte} (h : MemWf mems m) : MemWf mems (writeBytes m off bs) :=
  fun hm => writeBytes_wf m off bs (h hm)

theorem memWf_nil : MemWf mems [] := fun _ => rfl
theorem listedWf_nil : ListedWf mems [] := fun _ => rfl

theorem mapWf_nil {α : Type} [DecidableEq α] {d : α} : MapWf maps d [] := fun _ => rfl
theorem coresWf_nil : CoresWf maps mems [] := ⟨mapWf_nil, List.forall_mem_nil _⟩
theorem ctlsWf_nil : CtlsWf maps mems [] := ⟨mapWf_nil, List.forall_mem_nil _⟩

theorem CoreMem.wf_default : CoreMem.Wf mems {} := ⟨memWf_nil, memWf_nil⟩
theorem Matrix.wf_default : Matrix.Wf mems {} := nofun
theorem Core.wf_default : Core.Wf mems {} := ⟨CoreMem.wf_default, Matrix.wf_default⟩
theorem MemCtl.wf_default : MemCtl.Wf mems {} := memWf_nil

/-! ## Parts of a state -/

section Parts
variable {s : State} (h : s.Wf maps mems)
include h

theorem State.Wf.core (n : Nat) : (s.core n).Wf mems := mapGet_of_forall h.1.2 Core.wf_default n
theorem State.Wf.ctl (i : Nat) : (s.ctl i).Wf mems := mapGet_of_forall h.2.2.1.2 MemCtl.wf_default i
theorem State.Wf.host : s.host.Wf mems := by obtain ⟨-, -, -, -, -, -, hh, -, -⟩ := h; exact hh
theorem State.Wf.emu : s.emu.Wf mems := by obtain ⟨-, -, -, -, -, -, -, he, -⟩ := h; exact he
theorem State.Wf.pb : s.pb.Wf mems := by obtain ⟨-, -, -, -, -, -, -, -, hb⟩ := h; exact hb

theorem State.setCore_wf {n : Nat} {c : Core} (hc : c.Wf mems) : (s.setCore n c).Wf maps mems :=
  ⟨⟨h.1.1.set, forall_mapSet h.1.2 hc⟩, h.2⟩
theorem State.setNode_wf {n : Nat} {x : NodeIO} : (s.setNode n x).Wf maps mems := by
  obtain ⟨h1, h2, h3⟩ := h
  exact ⟨h1, h2.set, h3⟩
theorem State.setCtl_wf {i : Nat} {x : MemCtl} (hx : x.Wf mems) : (s.setCtl i x).Wf maps mems := by
  obtain ⟨h1, h2, ⟨h3, h4⟩, h5⟩ := h
  exact ⟨h1, h2, ⟨h3.set, forall_mapSet h4 hx⟩, h5⟩
theorem State.setCourse_wf {n : Nat} {x : Course} : (s.setCourse n x).Wf maps mems := by
  obtain ⟨h1, h2, h3, h4, h5⟩ := h
  exact ⟨h1, h2, h3, h4.set, h5⟩
theorem State.setLink_wf {n : Nat} {x : Link} : (s.setLink n x).Wf maps mems := by
  obtain ⟨h1, h2, h3, h4, h5, h6⟩ := h
  exact ⟨h1, h2, h3, h4, h5.set, h6⟩
theorem State.setLnode_wf {n : Nat} {x : LNode} : (s.setLnode n x).Wf maps mems := by
  obtain ⟨h1, h2, h3, h4, h5, h6, h7⟩ := h
  exact ⟨h1, h2, h3, h4, h5, h6.set, h7⟩
theorem State.setHost_wf {x : HostIf} (hx : x.Wf mems) : State.Wf maps mems { s with host := x } := by
  obtain ⟨h1, h2, h3, h4, h5, h6, -, h8⟩ := h
  exact ⟨h1, h2, h3, h4, h5, h6, hx, h8⟩
theorem State.setEmu_wf {x : Emu} (hx : x.Wf mems) : State.Wf maps mems { s with emu := x } := by
  obtain ⟨h1, h2, h3, h4, h5, h6, h7, -, h9⟩ := h
  exact ⟨h1, h2, h3, h4, h5, h6, h7, hx, h9⟩
theorem State.setPb_wf {x : Pegbox} (hx : x.Wf mems) : State.Wf maps mems { s with pb := x } := by
  obtain ⟨h1, h2, h3, h4, h5, h6, h7, h8, -⟩ := h
  exact ⟨h1, h2, h3, h4, h5, h6, h7, h8, hx⟩

end Parts

/-! ## Branches, folds and answers -/

theorem ite_wf {c : Prop} [Decidable c] {s t : State} (hs : s.Wf maps mems) (ht : t.Wf maps mems) : (if c then s else t).Wf maps mems := by
  split <;> assumption

/-- A step that a condition leaves out. -/
theorem ite_step_wf {c : Prop} [Decidable c] {s t : State} (h : s.Wf maps mems) (ht : s.Wf maps mems → t.Wf maps mems) :
    (if c then t else s).Wf maps mems := ite_wf (ht h) h

theorem snd_wf {α : Type} {a : α} {s : State} (h : s.Wf maps mems) : (a, s).2.Wf maps mems := h

theorem snd_ite_wf {α : Type} {c : Prop} [Decidable c] {x y : α × State} (hx : x.2.Wf maps mems) (hy : y.2.Wf maps mems) :
    (if c then x else y).2.Wf maps mems := by
  split <;> assumption

theorem foldState_wf {α : Type} {f : α → State → State} {xs : List α} {s : State} (hf : ∀ x t, State.Wf maps mems t → (f x t).Wf maps mems)
    (h : s.Wf maps mems) : (foldState f xs s).Wf maps mems :=
  foldState_keeps f (State.Wf maps mems) xs s (fun x _ t => hf x t) h

theorem optWf_none : OptWf maps mems none := fun _ ht => absurd ht (by simp)
theorem optWf_some {s : State} (h : s.Wf maps mems) : OptWf maps mems (some s) := by
  rintro t ⟨⟩; exact h
theorem takenWf_none {α : Type} : TakenWf (α := α) maps mems none := fun _ _ ht => absurd ht (by simp)
theorem takenWf_some {α : Type} {a : α} {s : State} (h : s.Wf maps mems) : TakenWf maps mems (some (a, s)) := by
  rintro b t ⟨⟩; exact h

theorem optWf_getD {o : Option State} {s : State} (ho : OptWf maps mems o) (h : s.Wf maps mems) : (o.getD s).Wf maps mems := by
  cases o with
  | none => exact h
  | some t => exact ho t rfl

theorem optWf_orElse {o o' : Option State} (ho : OptWf maps mems o) (ho' : OptWf maps mems o') : OptWf maps mems (o.orElse fun _ => o') := by
  cases o with
  | none => exact ho'
  | some t => exact ho

theorem takenWf_orElse {α : Type} {o o' : Option (α × State)} (ho : TakenWf maps mems o) (ho' : TakenWf maps mems o') :
    TakenWf maps mems (o.orElse fun _ => o') := by
  cases o with
  | none => exact ho'
  | some t => exact ho

theorem optWf_map {o : Option State} {f : State → State} (ho : OptWf maps mems o) (hf : ∀ t : State, t.Wf maps mems → (f t).Wf maps mems) :
    OptWf maps mems (o.map f) := by
  cases o with
  | none => exact optWf_none
  | some t => exact optWf_some (hf t (ho t rfl))

theorem takenWf_mapOpt {α : Type} {o : Option (α × State)} {f : α × State → State} (ho : TakenWf maps mems o)
    (hf : ∀ e : α × State, e.2.Wf maps mems → (f e).Wf maps mems) : OptWf maps mems (o.map f) := by
  cases o with
  | none => exact optWf_none
  | some e => exact optWf_some (hf e (ho e.1 e.2 rfl))

theorem takenWf_map {α β : Type} {o : Option β} {f : β → α × State} (hf : ∀ b, (f b).2.Wf maps mems) : TakenWf maps mems (o.map f) := by
  cases o with
  | none => exact takenWf_none
  | some b => exact takenWf_some (hf b)

theorem Core.foldl_wf {α : Type} {f : Core → α → Core} {xs : List α} {c : Core} (hf : ∀ c, Core.Wf mems c → ∀ x, (f c x).Wf mems)
    (hc : c.Wf mems) : (xs.foldl f c).Wf mems := List.foldlRecOn xs f hc fun c hc x _ => hf c hc x

theorem CoreMem.foldl_wf {α : Type} {f : CoreMem → α → CoreMem} {xs : List α} {m : CoreMem}
    (hf : ∀ m, CoreMem.Wf mems m → ∀ x, (f m x).Wf mems) (hm : m.Wf mems) : (xs.foldl f m).Wf mems :=
  List.foldlRecOn xs f hm fun m hm x _ => hf m hm x

theorem HostIf.foldl_wf {α : Type} {f : HostIf → α → HostIf} {xs : List α} {x : HostIf}
    (hf : ∀ x, HostIf.Wf mems x → ∀ a, (f x a).Wf mems) (hx : x.Wf mems) : (xs.foldl f x).Wf mems :=
  List.foldlRecOn xs f hx fun x hx a _ => hf x hx a

theorem Matrix.foldl_wf {α : Type} {f : Matrix → α → Matrix} {xs : List α} {m : Matrix}
    (hf : ∀ m, Matrix.Wf mems m → ∀ x, (f m x).Wf mems) (hm : m.Wf mems) : (xs.foldl f m).Wf mems :=
  List.foldlRecOn xs f hm fun m hm x _ => hf m hm x

theorem answers_fault {f : Fault} : Answers maps mems (.fault f) := fun _ ht => Host.Outcome.noConfusion rfl rfl rfl (heq_of_eq ht)

section Answers
variable {n : NodeNo} {s : State} (h : s.Wf maps mems)
include h

theorem answers_next : Answers maps mems (.next s) := by
  rintro t ⟨⟩; exact h
theorem answers_atCore : Answers maps mems (atCore n s) := by
  intro t ht
  obtain ⟨-, rfl⟩ := atCore_cases ht
  exact h
theorem answers_atLink : Answers maps mems (atLink n s) := by
  unfold atLink
  split
  · exact answers_next h
  · exact answers_fault
theorem answers_atMemory : Answers maps mems (atMemory n s) := by
  unfold atMemory
  split
  · exact answers_next h
  · exact answers_fault
end Answers

/-! ## The named operations over the state -/

section
variable {s : State} {n i l k off j structure_ addr : Nat} {f : Core → Core} {c : Core} {t : Thread} {m : CoreMem} {bs : List Byte} {a : Addr}
  {w : PbWork} {act : State → State} {p : Packet} {kind : ReqKind} {tag : BitVec 10} {e : HEvent} {fault : Bool}

theorem State.modCore_wf (h : s.Wf maps mems) (hf : ∀ x0 : Core, x0.Wf mems → (f x0).Wf mems) : (s.modCore n f).Wf maps mems :=
  State.setCore_wf h (hf _ (h.core _))

theorem State.modNode_wf {f : NodeIO → NodeIO} (h : s.Wf maps mems) : (s.modNode n f).Wf maps mems := State.setNode_wf h

theorem State.modCtl_wf {f : MemCtl → MemCtl} (h : s.Wf maps mems) (hf : ∀ x0 : MemCtl, x0.Wf mems → (f x0).Wf mems) :
    (s.modCtl i f).Wf maps mems :=
  State.setCtl_wf h (hf _ (h.ctl _))

theorem State.modCourse_wf {c : Nat} {f : Course → Course} (h : s.Wf maps mems) : (s.modCourse c f).Wf maps mems := State.setCourse_wf h

theorem State.modLink_wf {f : Link → Link} (h : s.Wf maps mems) : (s.modLink l f).Wf maps mems := State.setLink_wf h

theorem Core.setThread_wf (hc : c.Wf mems) : (c.setThread k t).Wf mems := hc

theorem State.setThread_wf (h : s.Wf maps mems) : (s.setThread n k t).Wf maps mems := State.setCore_wf h (Core.setThread_wf (h.core _))

theorem State.modThread_wf {f : Thread → Thread} (h : s.Wf maps mems) : (s.modThread n k f).Wf maps mems := State.setThread_wf h

theorem State.drawUpTo_wf {m : Nat} (h : s.Wf maps mems) : (s.drawUpTo m).2.Wf maps mems := by
  fun_cases State.drawUpTo <;> exact h

theorem CoreMem.writeScratch_wf (hm : m.Wf mems) : (m.writeScratch off bs).Wf mems := ⟨hm.1, MemWf.write hm.2⟩

theorem CoreMem.writeCap_wf {c : Cap} (hm : m.Wf mems) : (m.writeCap off c).Wf mems := ⟨hm.1, hm.2.write⟩

theorem CoreMem.writeImem_wf (hm : m.Wf mems) : (m.writeImem off bs).Wf mems := ⟨MemWf.write hm.1, hm.2⟩

theorem Core.modMem_wf {f : CoreMem → CoreMem} (hc : c.Wf mems) (hf : ∀ x0 : CoreMem, x0.Wf mems → (f x0).Wf mems) : (c.modMem f).Wf mems :=
  ⟨hf _ hc.1, hc.2⟩

theorem Core.dmaImem_wf (hc : c.Wf mems) : (c.dmaImem off bs).Wf mems :=
  Core.modMem_wf (Core.foldl_wf (fun _ hc1 _ => hc1) hc) fun _ hm => CoreMem.writeImem_wf hm

theorem Core.istore_wf (hc : c.Wf mems) : (c.istore off bs).Wf mems :=
  Core.modMem_wf (Core.foldl_wf (fun _ hc1 _ => hc1) hc) fun _ hm => CoreMem.writeImem_wf hm

theorem CoreMem.updateLine_wf (hm : m.Wf mems) : (m.updateLine a bs).Wf mems := by
  fun_cases CoreMem.updateLine <;> exact hm

theorem modPwr_wf {f : Power → Power} (h : s.Wf maps mems) : (modPwr f s).Wf maps mems := h

theorem modPb_wf {f : Pegbox → Pegbox} (hf : ∀ x0 : Pegbox, x0.Wf mems → (f x0).Wf mems) (h : s.Wf maps mems) : (modPb f s).Wf maps mems :=
  State.setPb_wf h (hf _ h.pb)

theorem modEmu_wf {f : Emu → Emu} (hf : ∀ x0 : Emu, x0.Wf mems → (f x0).Wf mems) (h : s.Wf maps mems) : (modEmu f s).Wf maps mems :=
  State.setEmu_wf h (hf _ h.emu)

theorem pbDoes_wf (hf : ∀ x0 : State, x0.Wf maps mems → (act x0).Wf maps mems) (h : s.Wf maps mems) : (pbDoes n w act s).Wf maps mems := by
  fun_cases pbDoes
  · exact hf _ h
  · exact modPb_wf (fun _ hm => hm) h

theorem State.send_wf (h : s.Wf maps mems) : (s.send p).Wf maps mems := by
  fun_cases State.send <;> exact State.modNode_wf h

theorem State.sendTagged_wf (h : s.Wf maps mems) : (s.sendTagged n kind tag p).Wf maps mems :=
  State.send_wf (State.modCore_wf h (fun _ hc => (by split <;> exact hc)))

theorem State.request_wf (h : s.Wf maps mems) : (s.request n kind p).Wf maps mems := by
  unfold State.request
  split
  · exact State.sendTagged_wf h
  · exact State.modCore_wf h fun _ hc => ⟨hc.1, hc.2⟩

theorem pumpTags_wf (h : s.Wf maps mems) : (pumpTags n j s).Wf maps mems := by
  induction j generalizing s with
  | zero => exact h
  | succ j ih =>
    unfold pumpTags
    split
    · exact ih (State.sendTagged_wf (State.modCore_wf h fun _ hc => ⟨hc.1, hc.2⟩))
    · exact h

theorem State.health_wf (h : s.Wf maps mems) : (s.health e).Wf maps mems := by
  fun_cases State.health <;> exact State.setPb_wf (State.setEmu_wf h h.emu) h.pb

theorem State.coreEcc_wf (h : s.Wf maps mems) : (s.coreEcc n structure_ addr).Wf maps mems := by
  have h1 := State.modCore_wf (n := n) h fun c hc => (⟨hc.1, hc.2⟩ : Core.Wf mems
    { c with ctl := { c.ctl with eccLast := BitVec.ofNat 4 structure_, eccUncorr := satAdd c.ctl.eccUncorr 1 } })
  exact State.health_wf (State.setEmu_wf h1 h1.emu)

theorem State.coreCorr_wf (h : s.Wf maps mems) : (s.coreCorr n).Wf maps mems := by
  have h1 := State.modCore_wf (n := n) h fun c hc =>
    (⟨hc.1, hc.2⟩ : Core.Wf mems { c with ctl := { c.ctl with eccCorr := satAdd c.ctl.eccCorr 1 } })
  exact State.setEmu_wf h1 h1.emu

theorem modSec_wf {f : Security → Security} (h : s.Wf maps mems) : (modSec f s).Wf maps mems := h

theorem traceEvent_wf {k : ThreadNo} {addr : Word} (h : s.Wf maps mems) : (traceEvent fault n k addr s).Wf maps mems := by
  fun_cases traceEvent <;> exact h

end

/-! ## Scalar ops and capability ops -/

section
variable {w : Thread → Thread} {x : Ctx} {f : AluFn} {rd ra rb ga gb : GReg} {b : Src2} {pd pa pb : PReg} {n : Byte} {sd sa sb : SReg}
  {r : Except FaultInfo Cap}

theorem OpRes.write_wf : (OpRes.write w).Wf maps mems := fun _ ht => ht

theorem evalAlu_wf : (evalAlu x f rd ra b).Wf maps mems := by
  fun_cases evalAlu
  · exact trivial
  · exact trivial
  · exact OpRes.write_wf

theorem evalCmp_wf {f : CmpFn} : (evalCmp x f pd ra b).Wf maps mems := OpRes.write_wf

theorem evalPred_wf {f : PredFn} : (evalPred x f pd pa pb).Wf maps mems := OpRes.write_wf

theorem evalPair_wf {f : PairFn} : (evalPair x f rd ra b).Wf maps mems := OpRes.write_wf

theorem evalMulw_wf : (evalMulw x rd ra rb).Wf maps mems := OpRes.write_wf

theorem evalRsr_wf : (evalRsr x rd n).Wf maps mems := OpRes.write_wf

theorem evalWsr_wf : (evalWsr x n ra).Wf maps mems := OpRes.write_wf

theorem evalCrsr_wf {n : GReg} : (evalCrsr x sd n).Wf maps mems := OpRes.write_wf

theorem derive_wf : (derive_ r sd).Wf maps mems := by
  fun_cases derive_
  · exact trivial
  · exact OpRes.write_wf

theorem evalCwsr_wf {n : GReg} : (evalCwsr x n sa).Wf maps mems := by
  fun_cases evalCwsr
  · exact trivial
  · exact OpRes.write_wf

theorem evalCsub_wf : (evalCsub x sd sa ga gb).Wf maps mems := derive_wf

theorem evalCperm_wf : (evalCperm x sd sa ga).Wf maps mems := derive_wf

theorem evalCbind_wf : (evalCbind x sd sa sb).Wf maps mems := derive_wf

theorem evalCfree_wf : (evalCfree x sd sa sb).Wf maps mems := derive_wf

theorem evalCkey_wf : (evalCkey x sd sa ga).Wf maps mems := derive_wf

theorem evalCget_wf {f : Byte} : (evalCget x rd sa f).Wf maps mems := OpRes.write_wf

theorem evalCmov_wf : (evalCmov x sd sa).Wf maps mems := OpRes.write_wf

end

/-! ## The vector unit -/

section
variable {x : Ctx} {w q : Nat} {vd va vb v : VReg} {rs : List LaneRes} {src dst fmt : BitVec 4} {md : BitVec 3} {f : VecFn} {g : GReg}
  {lane : BitVec 6}

theorem vecWrite_wf : (vecWrite x w vd rs).Wf maps mems := by
  fun_cases vecWrite
  · exact trivial
  · exact OpRes.write_wf

theorem evalVcvt_wf : (evalVcvt x q src vd va dst md).Wf maps mems := by
  fun_cases evalVcvt
  · exact trivial
  · exact OpRes.write_wf
  · exact OpRes.write_wf

theorem evalVec_wf : (evalVec x f fmt vd va vb md).Wf maps mems := by
  fun_cases evalVec
  case case1 | case2 | case3 | case4 | case5 => exact OpRes.write_wf
  case case10 => exact evalVcvt_wf
  all_goals exact vecWrite_wf

theorem evalVbcast_wf : (evalVbcast x fmt g v).Wf maps mems := OpRes.write_wf

theorem evalVext_wf : (evalVext x fmt g v lane).Wf maps mems := OpRes.write_wf

theorem evalVins_wf : (evalVins x fmt g v lane).Wf maps mems := OpRes.write_wf

end

/-! ## The matrix unit: what an op does to the tiles -/

section
variable {m : Matrix} {t acc ta tb rm : Nat} {bs : List Byte} {job : MatJob} {g z : BitVec 2} {rn : Bool} {s0 : BitVec 10}

theorem Matrix.setTile_wf (hm : m.Wf mems) : (m.setTile t bs).Wf mems := forall_mapSet hm memWf_nil.write

theorem Matrix.clearTile_wf (hm : m.Wf mems) : (m.clearTile t).Wf mems := fun e he => hm e (mem_mapDel he)

theorem mmaExec_wf (hm : m.Wf mems) : (mmaExec m job acc ta tb g z rn s0).1.Wf mems := hm

theorem accNormExec_wf (hm : m.Wf mems) : (accNormExec m acc).Wf mems := by
  fun_cases accNormExec <;> exact hm

theorem accCvtExec_wf (hm : m.Wf mems) : (accCvtExec m job acc t rm).1.Wf mems := by
  have hset : ∀ {m : Matrix} {t bs}, m.Wf mems → (m.setTile t bs).Wf mems := fun hm => Matrix.setTile_wf hm
  unfold accCvtExec
  extract_lets _ c _ _ _ _ _ _ _ _ _ m1 _ _ m2
  have h1 : m1.Wf mems := hset hm
  show m2.Wf mems
  dsimp only [m2]
  split
  · exact hset h1
  · exact h1

end

/-! ## Taking a fault -/

section
variable {s : State} {n : Nat} {k : ThreadNo} {tag : BitVec 4} {code : Byte} {addr detail pc at_ : Word} {d : Deferred} {cop : Cop}
  {f entry : FaultInfo} {rec : HandlerRecord} {s15 c ret : Cap} {bs : List Byte} {deferred : Bool}

theorem pushRecord_wf (h : s.Wf maps mems) : (pushRecord s n k tag code addr detail).Wf maps mems := State.modThread_wf (traceEvent_wf h)

theorem dropFault_wf (h : s.Wf maps mems) : (dropFault n k d s).Wf maps mems := pushRecord_wf (State.modCore_wf h (fun _ hc => hc))

theorem deferFault_wf (h : s.Wf maps mems) : (deferFault s n cop k f pc).Wf maps mems := by
  fun_cases deferFault
  · exact h
  · exact dropFault_wf h
  · exact State.modCore_wf h fun _ hc => hc

theorem dropDeferred_wf (h : s.Wf maps mems) : (dropDeferred s n k).Wf maps mems :=
  foldState_wf (fun _ _ ht => dropFault_wf ht) (State.modCore_wf h (fun _ hc => hc))

theorem exitThread_wf (h : s.Wf maps mems) : (exitThread s n k).Wf maps mems := dropDeferred_wf (State.modThread_wf h)

theorem killDead_wf (h : s.Wf maps mems) : (killDead s n k code addr detail).Wf maps mems := pushRecord_wf (dropDeferred_wf (State.modThread_wf h))

theorem park_wf (h : s.Wf maps mems) : (park s n k tag code at_ addr detail).Wf maps mems := pushRecord_wf (State.modThread_wf h)

theorem escalate_wf (h : s.Wf maps mems) : (escalate s n k f entry rec s15 at_ addr).Wf maps mems := by
  fun_cases escalate
  · exact park_wf (State.modThread_wf h)
  · exact pushRecord_wf (State.modThread_wf (State.modCore_wf (State.modThread_wf h)
      (fun _ hc => Core.modMem_wf hc (fun _ hm => CoreMem.writeCap_wf (CoreMem.writeScratch_wf (CoreMem.writeScratch_wf hm))))))
  · exact killDead_wf (State.modThread_wf h)

theorem writeThrough_wf (h : s.Wf maps mems) : (writeThrough s n k c pc bs).Wf maps mems := by
  fun_cases writeThrough
  · exact State.modCore_wf h fun _ hc => Core.modMem_wf hc (fun _ hm => CoreMem.writeScratch_wf hm)
  · exact State.modThread_wf h
  · exact State.modThread_wf h

theorem pushFrame_wf (h : s.Wf maps mems) : (pushFrame s n k ret).Wf maps mems :=
  State.modThread_wf (State.modCore_wf h (fun _ hc => Core.modMem_wf hc (fun _ hm => CoreMem.writeCap_wf (CoreMem.writeCap_wf hm))))

theorem handlerEntry_wf (h : s.Wf maps mems) : (handlerEntry s n k f at_ addr deferred).Wf maps mems := by
  fun_cases handlerEntry
  · exact escalate_wf h
  · exact escalate_wf h
  · exact escalate_wf (State.modThread_wf (pushFrame_wf h))
  · exact State.modThread_wf (writeThrough_wf (State.modThread_wf (pushFrame_wf h)))

theorem takeFault_wf (h : s.Wf maps mems) : (takeFault s n k f at_ addr deferred).Wf maps mems := by
  fun_cases takeFault
  · exact killDead_wf (State.modThread_wf h)
  · exact escalate_wf (State.modThread_wf h)
  · exact park_wf (State.modThread_wf h)
  · exact handlerEntry_wf (State.modThread_wf h)

end

/-! ## The load/store unit -/

section
variable {h : Hold} {n size reg off : Nat} {k : ThreadNo} {s : State} {x : Ctx} {sb vol cached : Bool} {module : BitVec 16} {a : Addr} {w : MatWork}
  {region : BitVec 6} {kind : BitVec 5} {payload : List Byte} {cap : Cap} {f : LdFn} {rt : GReg} {capReg : SReg} {o : LsOff} {p : Addr → Bool}

theorem holdThread_wf {h : Hold} (hs : s.Wf maps mems) : (holdThread h n k s).Wf maps mems :=
  State.modCore_wf (State.modThread_wf hs) fun _ hc => ⟨hc.1, hc.2⟩

theorem heldRes_wf : (heldRes x sb module a size).Wf maps mems := fun _ ht => holdThread_wf ht

theorem requestLoad_wf {w : Withdrawn} (h : s.Wf maps mems) : (requestLoad n k w region kind payload s).Wf maps mems := by
  fun_cases requestLoad
  · exact State.modThread_wf h
  · exact State.request_wf (State.modThread_wf h)

theorem memRead_wf : (memRead x reg cap off size vol cached).Wf maps mems := by
  unfold memRead
  extract_lets a module held ov own hit fill wd
  have hheld : ∀ late, (heldRes x late module a size).Wf maps mems := fun _ => heldRes_wf
  split
  · exact fun _ ht => ht
  · dsimp only [MemRes.Wf]
    split
    · trivial
    · exact OpRes.write_wf
  · refine iteInduction (fun _ => hheld _) fun _ => ?_
    split
    · exact iteInduction (fun _ _ ht => ht) fun _ => hheld _
    · refine iteInduction (fun _ => hheld _) fun _ => ?_
      clear_value own hit
      split
      · exact iteInduction (fun _ => trivial) fun _ _ ht => ht
      · split
        · exact fun _ ht => State.modCore_wf ht fun _ hc => Core.modMem_wf hc fun _ hm => hm
        · exact fun _ ht => requestLoad_wf ht

theorem memRead_out_wf {r : OpRes} (he : memRead x reg cap off size vol cached = .out r) : r.Wf maps mems := by
  have h : (memRead x reg cap off size vol cached).Wf maps mems := memRead_wf
  rwa [he] at h

theorem memRead_ok_wf {tag : Bool} {act : State → State} {w : Thread → Thread} (he : memRead x reg cap off size vol cached = .ok bs tag act) :
    (OpRes.done w act).Wf maps mems := by
  have h : (memRead x reg cap off size vol cached).Wf maps mems := memRead_wf
  rwa [he] at h

theorem evalLoad_wf : (evalLoad x f rt capReg o).Wf maps mems := by
  unfold evalLoad
  extract_lets cap off op6 vol
  split
  · trivial
  · split
    · exact memRead_out_wf ‹_›
    · exact memRead_ok_wf ‹_›

theorem evalStore_wf {f : StFn} : (evalStore x f rt capReg o).Wf maps mems := by
  fun_cases evalStore
  · exact trivial
  · exact heldRes_wf
  · exact OpRes.write_wf

theorem acquire_wf (h : s.Wf maps mems) : (acquire p n s).Wf maps mems :=
  State.modCore_wf h fun _ hc => Core.foldl_wf (fun _ hc1 _ => hc1) (Core.modMem_wf hc (fun _ hm => hm))

theorem evalAmo_wf {f : AmoFn} : (evalAmo x f rt capReg o).Wf maps mems := by
  fun_cases evalAmo
  case case2 | case4 => exact OpRes.write_wf
  case case5 | case6 => exact heldRes_wf
  case case8 => exact fun _ ht => State.modCore_wf ht fun _ hc => Core.modMem_wf hc (fun _ hm => CoreMem.writeScratch_wf hm)
  case case9 => exact fun _ ht => requestLoad_wf (acquire_wf ht)
  all_goals exact trivial

theorem evalAcq_wf : (evalAcq x capReg).Wf maps mems := by
  fun_cases evalAcq
  · exact trivial
  · exact fun _ ht => acquire_wf ht

theorem evalAcqAll_wf : (evalAcqAll x).Wf maps mems := fun _ ht => acquire_wf ht

end

/-! ## The branch unit -/

section
variable {x : Ctx} {tgt : BitVec 15} {rl ra : GReg} {sa sb : SReg} {off : Nat} {th : Option Bool} {m : CoreMem} {addr target : Word} {taken : Bool}

theorem evalJr_wf : (evalJr x ra).Wf maps mems := by
  fun_cases evalJr
  · exact trivial
  · exact OpRes.write_wf

theorem evalJrl_wf : (evalJrl x rl ra).Wf maps mems := by
  fun_cases evalJrl
  · exact trivial
  · exact OpRes.write_wf

theorem evalCallg_wf : (evalCallg x sa sb).Wf maps mems := by
  fun_cases evalCallg
  case case4 => exact fun _ ht => State.modCore_wf ht fun _ hc => Core.modMem_wf hc (fun _ hm => CoreMem.writeCap_wf (CoreMem.writeCap_wf hm))
  all_goals exact trivial

theorem leaveEscalation_wf : (leaveEscalation x).Wf maps mems := by
  unfold leaveEscalation
  split
  · exact memRead_out_wf ‹_›
  · dsimp only
    split
    · trivial
    · split
      · exact memRead_out_wf ‹_›
      · exact OpRes.write_wf

theorem popFrame_wf {tgt : Word} : (popFrame x off tgt th).Wf maps mems := by
  fun_cases popFrame
  · exact trivial
  · exact OpRes.write_wf

theorem evalRetg_wf : (evalRetg x).Wf maps mems := by
  unfold evalRetg
  split
  · exact leaveEscalation_wf
  · split
    · trivial
    · extract_lets off ret s15
      split
      · trivial
      · split
        · split
          · trivial
          · split
            · exact memRead_out_wf ‹_›
            · exact popFrame_wf
        · generalize BitVec.truncate _ _ = tgt
          exact popFrame_wf

theorem evalExit_wf : (evalExit x).Wf maps mems := fun _ ht => exitThread_wf ht

theorem btbUpdate_wf (hm : m.Wf mems) : (btbUpdate m addr taken target).Wf mems := by
  fun_cases btbUpdate <;> exact hm

end

/-! ## The SYN unit -/

section
variable {n i k j j1 : Nat} {s : State} {kind epoch cnt : BitVec 3} {pc at_ v : Word} {own ok : Bool} {w : Wait} {e : SynEntry} {module : BitVec 16}
  {region f : BitVec 6} {a : Addr} {payload : List Byte} {pd : PReg} {m : Msg} {x : Ctx} {capReg : SReg} {ga gb gd gw : GReg} {tag : BitVec 4}

theorem addIncOwn_wf {i : FretInc} (h : s.Wf maps mems) : (addIncOwn n i s).Wf maps mems := State.modCore_wf h fun _ hc => hc

theorem noteRefusal_wf (h : s.Wf maps mems) : (noteRefusal n k kind pc s).Wf maps mems := State.modThread_wf h

theorem pushSyn_wf {k : ThreadNo} {w : SynWork} (h : s.Wf maps mems) : (pushSyn n k own epoch pc w s).Wf maps mems :=
  State.modCore_wf h fun _ hc => hc

theorem sendSyn_wf {kind : BitVec 5} (h : s.Wf maps mems) : (sendSyn n e i module region a kind payload s).Wf maps mems := by
  unfold sendSyn
  extract_lets drop
  have hdrop : ∀ s : State, s.Wf maps mems → (drop s).Wf maps mems := fun _ h => State.modCore_wf h fun _ hc => ⟨hc.1, hc.2⟩
  split
  · exact noteRefusal_wf (hdrop s h)
  · exact State.send_wf (State.modCore_wf h fun _ hc => ⟨hc.1, hc.2⟩)
  · exact h

theorem actSyn_wf (h : s.Wf maps mems) : (actSyn n i e s).Wf maps mems := by
  fun_cases actSyn
  case case1 | case2 => exact addIncOwn_wf (State.modCore_wf h (fun _ hc => hc))
  all_goals exact sendSyn_wf h

theorem synPass_wf (h : s.Wf maps mems) : (synPass n j j1 s).Wf maps mems := by
  fun_induction synPass with
  | case1 => exact h
  | case2 => exact h
  | case3 i s fuel q e he hr s1 ih => exact ih (actSyn_wf h)
  | case4 i s fuel q e he hr ih => exact ih h

theorem synPump_wf (h : s.Wf maps mems) : (synPump n s).Wf maps mems := synPass_wf h

theorem endWait_wf (h : s.Wf maps mems) : (endWait n k w ok s).Wf maps mems := State.modThread_wf h

theorem parkDebug_wf (h : s.Wf maps mems) : (parkDebug n k s).Wf maps mems := State.modCore_wf (State.modThread_wf h) fun _ hc => hc

theorem beginWait_wf (h : s.Wf maps mems) : (beginWait n k at_ w s).Wf maps mems := by
  fun_cases beginWait
  · exact parkDebug_wf (State.modThread_wf h)
  · exact State.modThread_wf h

theorem dispatchMsg_wf {k : ThreadNo} (h : s.Wf maps mems) : (dispatchMsg n k at_ pd i m s).Wf maps mems := by
  fun_cases dispatchMsg
  · exact takeFault_wf (State.modThread_wf (State.modCore_wf h (fun _ hc => hc)))
  · exact State.modThread_wf (State.modThread_wf (State.modCore_wf h (fun _ hc => hc)))

theorem wakeMsg_wf {k : ThreadNo} (h : s.Wf maps mems) : (wakeMsg n k s).Wf maps mems := by
  fun_cases wakeMsg
  case case2 => exact dispatchMsg_wf h
  all_goals exact h

theorem wakeFret_wf {k : ThreadNo} (h : s.Wf maps mems) : (wakeFret n k s).Wf maps mems := by
  fun_cases wakeFret
  case case1 => exact endWait_wf h
  all_goals exact h

theorem wakeAllMsg_wf (h : s.Wf maps mems) : (wakeAllMsg n s).Wf maps mems := foldState_wf (fun _ _ ht => wakeMsg_wf ht) h

theorem wakeAllFret_wf (h : s.Wf maps mems) : (wakeAllFret n s).Wf maps mems := foldState_wf (fun _ _ ht => wakeFret_wf ht) h

theorem evalFinc_wf : (evalFinc x f v).Wf maps mems := by
  fun_cases evalFinc
  · exact trivial
  · exact fun _ ht => pushSyn_wf ht

theorem evalFincR_wf : (evalFincR x capReg ga gb).Wf maps mems := by
  fun_cases evalFincR
  · exact trivial
  · exact fun _ ht => pushSyn_wf ht

theorem evalFwait_wf : (evalFwait x f ga pd).Wf maps mems := by
  fun_cases evalFwait
  · exact trivial
  · exact fun _ ht => ite_wf (State.modThread_wf ht) (ite_wf (State.modThread_wf ht) (beginWait_wf ht))

theorem evalFread_wf : (evalFread x f gd).Wf maps mems := by
  fun_cases evalFread
  · exact trivial
  · exact OpRes.write_wf

theorem evalSend_wf : (evalSend x capReg gw cnt tag).Wf maps mems := by
  fun_cases evalSend
  case case5 => exact fun _ ht => pushSyn_wf ht
  all_goals exact trivial

theorem evalWaitd_wf : (evalWaitd x ga pd).Wf maps mems := by
  fun_cases evalWaitd
  · exact trivial
  · exact trivial
  · exact fun _ ht => by
      dsimp only
      split
      · exact dispatchMsg_wf ht
      · split
        · exact State.modThread_wf ht
        · exact beginWait_wf ht

theorem evalRetd_wf : (evalRetd x).Wf maps mems := by
  fun_cases evalRetd
  · exact trivial
  · exact OpRes.write_wf

theorem evalRdb_wf : (evalRdb x gd capReg ga pd).Wf maps mems := by
  fun_cases evalRdb
  · exact trivial
  · exact fun _ ht => by
      dsimp only
      split
      · split
        · exact parkDebug_wf (State.modThread_wf ht)
        · exact State.request_wf (beginWait_wf ht)
      · exact noteRefusal_wf (State.modThread_wf ht)

theorem evalIstore_wf : (evalIstore x capReg ga gb).Wf maps mems := by
  fun_cases evalIstore
  · exact trivial
  · exact fun _ ht => State.modCore_wf ht fun _ hc => Core.istore_wf hc

theorem evalIfence_wf : (evalIfence x).Wf maps mems := fun _ ht => State.modThread_wf ht

end

/-! ## MAT and DMA ops at E4 and their release -/

section
variable {x : Ctx} {reg ga g : GReg} {w : MatWork} {s : State} {m : MatOp} {nt : Bool} {ch : BitVec 3} {cap : Cap} {off : Word} {capReg : SReg}

theorem releaseMat_wf {reg : SReg} (h : s.Wf maps mems) : (releaseMat x reg w s).Wf maps mems := State.modCore_wf h fun _ hc => ⟨hc.1, hc.2⟩

theorem evalMat_wf : (evalMat x m).Wf maps mems := by
  fun_cases evalMat
  · exact trivial
  · exact fun _ ht => releaseMat_wf ht

theorem releaseStart_wf (h : s.Wf maps mems) : (releaseStart x nt ch cap off s).Wf maps mems := State.modCore_wf h fun _ hc => hc

theorem releaseDma_wf {w : DmaWork} (h : s.Wf maps mems) : (releaseDma x w s).Wf maps mems := State.modCore_wf h fun _ hc => hc

theorem evalDmaStart_wf : (evalDmaStart x nt ch capReg ga).Wf maps mems := by
  fun_cases evalDmaStart
  · exact trivial
  · exact fun _ ht => releaseStart_wf ht

theorem evalDmaWr_wf : (evalDmaWr x reg g).Wf maps mems := fun _ ht => releaseDma_wf ht

theorem evalDmaRd_wf : (evalDmaRd x g reg).Wf maps mems := fun _ ht => releaseDma_wf ht

end

/-! ## Bundles -/

section
variable {cn n j j1 m : Nat} {s : State} {v ops : List Op} {k : ThreadNo} {b : Bundle} {taken always pastEnd : Bool} {rs : List (Slot × Op × OpRes)}
  {now : List Byte} {node : NodeNo} {c : OpAt} {o : Op}

theorem courseSync_wf (h : s.Wf maps mems) : (courseSync cn s).Wf maps mems := by
  fun_cases courseSync
  case case4 | case7 => exact h
  all_goals exact State.setCourse_wf h

theorem settle_wf (h : s.Wf maps mems) : (settle n s).Wf maps mems := courseSync_wf (synPump_wf (pumpTags_wf h))

theorem squash_wf (h : s.Wf maps mems) : (squash n v s).Wf maps mems := by
  fun_induction squash with
  | case1 => exact h
  | case2 s o r d ih =>
    refine ih (State.modCore_wf (State.drawUpTo_wf h) fun c hc => ⟨hc.1, ?_⟩)
    split <;> exact hc.2

theorem applyActs_wf (h : s.Wf maps mems) (hr : ∀ e ∈ rs, e.2.2.Wf maps mems) : (applyActs s rs).Wf maps mems := by
  fun_induction applyActs with
  | case1 => exact h
  | case2 s sl o w a r ih =>
    exact ih (hr (sl, o, .done w a) List.mem_cons_self s h) fun e he => hr e (List.mem_cons_of_mem _ he)
  | case3 s e r hne ih => exact ih h fun e he => hr e (List.mem_cons_of_mem _ he)

theorem countIssue_wf (h : s.Wf maps mems) : (countIssue n k b s).Wf maps mems := State.modThread_wf (State.modCore_wf h (fun _ hc => hc))

theorem flushYounger_wf {v : Word} (h : s.Wf maps mems) : (flushYounger n k j j1 v s).Wf maps mems := by
  fun_induction flushYounger with
  | case1 => exact h
  | case2 br a s m d c b hasBru hgo ih => exact ih (squash_wf (countIssue_wf h))
  | case3 => exact h

theorem flushAfter_wf (h : s.Wf maps mems) : (flushAfter n k b m s).Wf maps mems := flushYounger_wf h

theorem discard_wf (h : s.Wf maps mems) : (discard n k b m s).Wf maps mems := flushAfter_wf (squash_wf h)

theorem resolve_wf (h : s.Wf maps mems) : (resolve n k b taken always s).Wf maps mems := by
  fun_cases resolve
  · exact ite_step_wf (ite_step_wf h traceEvent_wf) fun ht => State.modCore_wf ht fun _ hc => Core.modMem_wf hc fun _ hm => btbUpdate_wf hm
  · exact State.modThread_wf (ite_step_wf (flushAfter_wf (ite_step_wf h traceEvent_wf))
      fun ht => State.modCore_wf ht fun _ hc => Core.modMem_wf hc fun _ hm => btbUpdate_wf hm)

theorem flushAtCM_wf (h : s.Wf maps mems) : (flushAtCM n k ops s).Wf maps mems := by
  fun_cases flushAtCM
  · exact foldState_wf (fun _ _ ht => ite_wf (flushYounger_wf ht) ht) h
  · exact ite_wf (flushYounger_wf h) h
  · exact h

theorem evalOp_wf : (evalOp x o).Wf maps mems := by
  cases o with
  | alu f rd ra b => exact evalAlu_wf
  | cmp f pd ra b => exact evalCmp_wf
  | pred f pd pa pb => exact evalPred_wf
  | pair f rd ra b => exact evalPair_wf
  | mulwD rd ra rb => exact evalMulw_wf
  | rsr rd n => exact evalRsr_wf
  | wsr n ra => exact evalWsr_wf
  | crsr sd n => exact evalCrsr_wf
  | cwsr n sa => exact evalCwsr_wf
  | csub sd sa ga gb => exact evalCsub_wf
  | cperm sd sa ga => exact evalCperm_wf
  | cbind sd sa sb => exact evalCbind_wf
  | cfree sd sa sb => exact evalCfree_wf
  | ckey sd sa ga => exact evalCkey_wf
  | cget rd sa f => exact evalCget_wf
  | cmov sd sa => exact evalCmov_wf
  | load f rt cap off => exact evalLoad_wf
  | store f rt cap off => exact evalStore_wf
  | acq cap => exact evalAcq_wf
  | acqAll => exact evalAcqAll_wf
  | amo f rt cap off => exact evalAmo_wf
  | br t => exact OpRes.write_wf
  | bl rl t => exact OpRes.write_wf
  | jr ra => exact evalJr_wf
  | jrl rl ra => exact evalJrl_wf
  | callg sa sb => exact evalCallg_wf
  | retg => exact evalRetg_wf
  | exit => exact evalExit_wf
  | vec f fmt vd va vb md => exact evalVec_wf
  | vbcast fmt g v => exact evalVbcast_wf
  | vext fmt g v lane => exact evalVext_wf
  | vins fmt g v lane => exact evalVins_wf
  | mat m => exact evalMat_wf
  | finc f ga => exact evalFinc_wf
  | fincI f n => exact evalFinc_wf
  | fincR cap ga gb => exact evalFincR_wf
  | fwait f ga pd => exact evalFwait_wf
  | fread f gd => exact evalFread_wf
  | send cap gw n tag => exact evalSend_wf
  | waitd ga pd => exact evalWaitd_wf
  | retd => exact evalRetd_wf
  | rdb gd cap ga pd => exact evalRdb_wf
  | istore cap ga gb => exact evalIstore_wf
  | ifence => exact evalIfence_wf
  | dmaStart nt ch cap ga => exact evalDmaStart_wf
  | dmaWr reg g => exact evalDmaWr_wf
  | dmaRd g reg => exact evalDmaRd_wf

theorem outcomes_wf : ∀ e ∈ outcomes s n k b, e.2.2.Wf maps mems := by
  intro e he
  obtain ⟨sl, -, hsl⟩ := List.mem_filterMap.mp he
  split at hsl
  · split at hsl
    · obtain rfl := Option.some.inj hsl
      exact evalOp_wf
    · cases hsl
  · cases hsl

theorem firstWithdraw_wf {act : State → State} (hr : ∀ e ∈ rs, e.2.2.Wf maps mems) (ha : firstWithdraw rs = some act) (h : s.Wf maps mems) :
    (act s).Wf maps mems := by
  fun_induction firstWithdraw with
  | case1 => cases ha
  | case2 sl o a r =>
    cases ha
    exact hr (sl, o, .withdraw act) List.mem_cons_self s h
  | case3 e r hne ih => exact ih (fun e he => hr e (List.mem_cons_of_mem _ he)) ha

theorem mem_released {e : Slot × Op × OpRes} (he : e ∈ released rs) : e ∈ rs := by
  unfold released at he
  split at he
  · exact List.mem_of_mem_filter he
  · exact he

theorem completeBundle_wf (h : s.Wf maps mems) (hr : ∀ e ∈ rs, e.2.2.Wf maps mems) : (completeBundle s n k b rs).Wf maps mems := by
  unfold completeBundle
  extract_lets ops s1 taken target s2 s3 safe
  have h2 : s2.Wf maps mems := resolve_wf (State.modThread_wf h)
  have h3 : s3.Wf maps mems := flushAtCM_wf (applyActs_wf h2 fun e he => hr e (mem_released he))
  exact ite_wf (parkDebug_wf (flushYounger_wf h3)) h3

theorem runBundle_wf (h : s.Wf maps mems) : (runBundle n k b pastEnd s).Wf maps mems := by
  unfold runBundle
  extract_lets s0 c t rs ops dead
  have h0 : s0.Wf maps mems := countIssue_wf h
  have hr : ∀ e ∈ rs, e.2.2.Wf maps mems := outcomes_wf
  clear_value s0 c t rs ops dead
  split
  · exact takeFault_wf (flushAfter_wf h0)
  · split
    · exact takeFault_wf (discard_wf (State.modCore_wf h0 fun _ hc => ⟨hc.1, hc.2⟩))
    · split
      · exact firstWithdraw_wf hr ‹_› (discard_wf (State.setThread_wf h0))
      · split
        · exact takeFault_wf (discard_wf h0)
        · exact takeFault_wf (discard_wf (State.coreEcc_wf h0))
        · exact completeBundle_wf (squash_wf h0) hr

theorem pickVersion_wf {v : List (List Byte)} (h : s.Wf maps mems) : (pickVersion now v s).2.Wf maps mems := by
  fun_induction pickVersion with
  | case1 => exact h
  | case2 => exact h
  | case3 s v r d hd ih => exact ih h

theorem fetchBlock_wf {b : Nat} (h : s.Wf maps mems) : (fetchBlock n k b s).Wf maps mems := State.modThread_wf (pickVersion_wf h)

theorem fetchAhead_wf (h : s.Wf maps mems) : (fetchAhead n j s).Wf maps mems := by
  fun_induction fetchAhead with
  | case1 => exact h
  | case2 => exact h
  | case3 s m k hk b hb ih => exact ih (fetchBlock_wf h)
  | case4 => exact h

theorem countWaits_wf (h : s.Wf maps mems) : (countWaits s n k).Wf maps mems := State.modCore_wf h fun _ hc => hc

theorem issueThread_wf (h : s.Wf maps mems) : (issueThread s n k).Wf maps mems := by
  fun_cases issueThread
  · exact takeFault_wf (State.coreEcc_wf (countIssue_wf (countWaits_wf h)))
  · exact runBundle_wf (countWaits_wf h)

theorem execBundleIssue_wf (h : s.Wf maps mems) : Answers maps mems (execBundleIssue node s) :=
  answers_atCore (by
    split
    · exact settle_wf (issueThread_wf (fetchAhead_wf h))
    · exact fetchAhead_wf h)

theorem issueOne_wf (h : s.Wf maps mems) : Answers maps mems (issueOne c o s) :=
  answers_atCore (ite_wf (settle_wf (runBundle_wf (countWaits_wf h))) h)

end

/-! ## Plectrum -/

section
variable {n i ch desc at_ j id len place w : Nat} {f : DmaChan → DmaChan} {s : State} {src dst nt : Bool} {code detail : Byte} {r : ChainRun}
  {d : Desc} {nch tag : BitVec 4} {w0 w1 rec_ x value off : Word} {bs : List Byte} {sc dc cap : Cap} {v via : DmaVia} {node : NodeNo} {b : Burst}
  {ws : List Word} {m : Msg} {caps : List Cap}

theorem modChan_wf (h : s.Wf maps mems) : (modChan n i f s).Wf maps mems := State.modCore_wf h fun _ hc => hc

theorem modRun_wf {f : ChainRun → ChainRun} (h : s.Wf maps mems) : (modRun n i f s).Wf maps mems := modChan_wf h

theorem setDma_wf {f : Plectrum → Plectrum} (h : s.Wf maps mems) : (setDma n f s).Wf maps mems := State.modCore_wf h fun _ hc => hc

theorem freeChanSegs_wf (h : s.Wf maps mems) : (freeChanSegs n ch src dst s).Wf maps mems := State.modCore_wf h fun _ hc => hc

theorem freeReadSeg_wf (h : s.Wf maps mems) : (freeReadSeg n ch s).Wf maps mems := by
  fun_cases freeReadSeg
  · exact h
  · exact h
  · exact freeChanSegs_wf h

theorem chainError_wf (h : s.Wf maps mems) : (chainError n i code detail desc at_ s).Wf maps mems := freeReadSeg_wf (modRun_wf h)

theorem sendRfret_wf (h : s.Wf maps mems) : (sendRfret n r d s).Wf maps mems := by
  fun_cases sendRfret
  · exact addIncOwn_wf h
  · exact State.request_wf h
  · exact noteRefusal_wf h

theorem pushMsg_wf (h : s.Wf maps mems) : (pushMsg n ch nch tag w0 w1 s).Wf maps mems := by
  fun_cases pushMsg
  · exact h
  · exact modRun_wf h

theorem chainOver_wf (h : s.Wf maps mems) : (chainOver n ch s).Wf maps mems := modChan_wf (freeChanSegs_wf h)

theorem completeOne_wf (h : s.Wf maps mems) : OptWf maps mems (completeOne n ch s) := by
  fun_cases completeOne
  case case4 | case7 => exact optWf_some (ite_step_wf (ite_step_wf (ite_step_wf (modRun_wf h) addIncOwn_wf) sendRfret_wf) pushMsg_wf)
  case case5 => exact optWf_some (chainOver_wf (ite_step_wf (ite_step_wf (ite_step_wf (modRun_wf h) addIncOwn_wf) sendRfret_wf) pushMsg_wf))
  case case6 => exact optWf_some (chainError_wf (ite_step_wf (ite_step_wf (ite_step_wf (modRun_wf h) addIncOwn_wf) sendRfret_wf) pushMsg_wf))
  all_goals exact optWf_none

theorem completeDescs_wf (h : s.Wf maps mems) : (completeDescs n ch j s).Wf maps mems := by
  fun_induction completeDescs with
  | case1 => exact h
  | case2 s m t ht ih => exact ih (completeOne_wf h _ ht)
  | case3 => exact h

theorem finishDescs_wf (h : s.Wf maps mems) : (finishDescs n ch s).Wf maps mems := completeDescs_wf h

theorem dmaAcked_wf (h : s.Wf maps mems) : (dmaAcked n ch id len s).Wf maps mems := finishDescs_wf (modChan_wf (modRun_wf h))

theorem burstFails_wf (h : s.Wf maps mems) : (burstFails n ch id code detail s).Wf maps mems := by
  fun_cases burstFails
  · exact h
  · exact h
  · exact finishDescs_wf (chainError_wf (modRun_wf h))

theorem dmaData_wf (h : s.Wf maps mems) : (dmaData n ch id at_ bs s).Wf maps mems := freeReadSeg_wf (ite_wf (setDma_wf (modRun_wf h)) (modRun_wf h))

theorem sendReads_wf {v : List ReadReq} (h : s.Wf maps mems) : (sendReads n ch id sc v s).Wf maps mems := by
  fun_induction sendReads with
  | case1 => exact h
  | case2 => exact burstFails_wf h
  | case3 s q qs dst hd ih => exact ih (State.request_wf h)

theorem startBurst_wf (h : s.Wf maps mems) : (startBurst n i j d at_ len s).Wf maps mems := by
  fun_cases startBurst
  · exact h
  · exact sendReads_wf (modRun_wf h)

theorem readBurst_wf (h : s.Wf maps mems) : (readBurst n s).Wf maps mems := by
  fun_cases readBurst
  · exact h
  · exact chainError_wf (setDma_wf h)
  · exact startBurst_wf (setDma_wf h)

theorem execBurstRead_wf (h : s.Wf maps mems) : Answers maps mems (execBurstRead node s) := answers_atCore (settle_wf (readBurst_wf h))

theorem fetchDesc_wf (h : s.Wf maps mems) : (fetchDesc n i s).Wf maps mems := by
  fun_cases fetchDesc
  · exact h
  · exact h
  · exact chainError_wf (modRun_wf h)
  · exact modChan_wf (modRun_wf h)
  · exact chainError_wf (State.coreEcc_wf (modRun_wf h))
  · exact modRun_wf h

theorem execDescriptorFetch_wf {ch : BitVec 3} (h : s.Wf maps mems) : Answers maps mems (execDescriptorFetch node ch s) :=
  answers_atCore (settle_wf (fetchDesc_wf h))

theorem sendWrites_wf {v : List (Nat × Nat × Nat)} (h : s.Wf maps mems) : (sendWrites n ch b dc v s).Wf maps mems := by
  fun_induction sendWrites with
  | case1 => exact h
  | case2 => exact burstFails_wf h
  | case3 s i o l ps dst hd p ih => exact ih (State.request_wf h)

theorem writeBurst_wf (h : s.Wf maps mems) : (writeBurst n s).Wf maps mems := by
  fun_cases writeBurst
  · exact h
  · exact setDma_wf h
  · exact setDma_wf h
  · exact sendWrites_wf (modRun_wf (setDma_wf h))

theorem execBurstWrite_wf (h : s.Wf maps mems) : Answers maps mems (execBurstWrite node s) := answers_atCore (settle_wf (writeBurst_wf h))

theorem writeRecord_wf (h : s.Wf maps mems) : (writeRecord n ch r rec_ ws s).Wf maps mems := by
  fun_cases writeRecord
  case case1 => exact h
  case case3 => exact State.modCore_wf h fun _ hc => Core.modMem_wf hc (fun _ hm => CoreMem.writeScratch_wf hm)
  case case5 => exact State.request_wf h
  all_goals exact modChan_wf h

theorem stopChain_wf (h : s.Wf maps mems) : (stopChain n ch r code detail place tag s).Wf maps mems := by
  unfold stopChain
  extract_lets inProg src w1 s1 s2 w0 s3
  have h1 : s1.Wf maps mems := modChan_wf h
  have h2 : s2.Wf maps mems := by
    dsimp only [s2]
    clear_value src
    split
    · exact writeRecord_wf h1
    · exact modChan_wf h1
  have h3 : s3.Wf maps mems := by
    dsimp only [s3]
    clear_value src s2
    split
    · exact pushMsg_wf h2
    · exact h2
  exact modChan_wf (chainOver_wf h3)

theorem drainEnd_wf (h : s.Wf maps mems) : (drainEnd n ch s).Wf maps mems := by
  fun_cases drainEnd
  case case3 | case4 => exact stopChain_wf h
  all_goals exact h

theorem execChannelDrainEnd_wf {ch : BitVec 3} (h : s.Wf maps mems) : Answers maps mems (execChannelDrainEnd node ch s) :=
  answers_atCore (settle_wf (drainEnd_wf h))

theorem acceptMsg_wf (h : s.Wf maps mems) : (acceptMsg n m s).Wf maps mems := wakeAllMsg_wf (State.modCore_wf h (fun _ hc => hc))

theorem acceptDmaMsg_wf (h : s.Wf maps mems) : (acceptDmaMsg n ch s).Wf maps mems := by
  fun_cases acceptDmaMsg
  case case1 | case4 => exact ite_wf (modChan_wf h) (acceptMsg_wf (modChan_wf h))
  all_goals exact h

theorem execPlectrumMsgAccept_wf {ch : BitVec 3} (h : s.Wf maps mems) : Answers maps mems (execPlectrumMsgAccept node ch s) :=
  answers_atCore (settle_wf (acceptDmaMsg_wf h))

theorem abortChan_wf (h : s.Wf maps mems) : (abortChan n ch s).Wf maps mems := by
  fun_cases abortChan
  · exact h
  · exact freeReadSeg_wf (modRun_wf h)
  · exact h

theorem setDenied_wf {b : Bool} (h : s.Wf maps mems) : (setDenied n v b s).Wf maps mems := by
  fun_cases setDenied
  · exact State.modThread_wf h
  · exact setDma_wf h

theorem setSel_wf {ch : BitVec 3} (h : s.Wf maps mems) : (setSel n v ch s).Wf maps mems := by
  fun_cases setSel
  · exact State.modThread_wf h
  · exact setDma_wf h

theorem dmaWrite_wf (h : s.Wf maps mems) : (dmaWrite n v w x s).Wf maps mems := by
  fun_cases dmaWrite
  case case1 => exact setSel_wf (ite_wf (setDenied_wf h) h)
  case case4 | case5 => exact h
  case case6 => exact setDenied_wf h
  case case7 => exact abortChan_wf h
  case case8 | case13 => exact h
  all_goals exact modChan_wf h

theorem execDmaAbort_wf (h : s.Wf maps mems) : Answers maps mems (execDmaAbort node via s) := answers_atCore (dmaWrite_wf h)

theorem execDmaCredit_wf (h : s.Wf maps mems) : Answers maps mems (execDmaCredit node via value s) := answers_atCore (dmaWrite_wf h)

theorem execDmaWstatClear_wf (h : s.Wf maps mems) : Answers maps mems (execDmaWstatClear node via s) := answers_atCore (dmaWrite_wf h)

theorem acceptStart_wf {j : DmaJob} {d : Option Resp} (h : s.Wf maps mems) : (acceptStart n j nt ch cap off caps d s).Wf maps mems := modChan_wf h

theorem departDma_wf (h : s.Wf maps mems) : (departDma n s).Wf maps mems := by
  fun_cases departDma
  · exact h
  · exact dmaWrite_wf (setDma_wf h)
  · exact State.modThread_wf (setDma_wf h)
  · exact h
  · exact State.modCore_wf h fun _ hc => hc
  · exact acceptStart_wf (setDma_wf h)

theorem execDmaQueueDepart_wf (h : s.Wf maps mems) : Answers maps mems (execDmaQueueDepart node s) := answers_atCore (settle_wf (departDma_wf h))

end

/-! ## The matrix unit's own steps -/

section
variable {n i q t : Nat} {c : Core} {v : List (Nat × List Byte)} {v1 : CoreMem} {f : FaultInfo} {s : State} {j : MatJob} {node : NodeNo}
  {d : AccDesc} {cap : Cap} {off : Word} {mask : BitVec 16} {e engine : Engine} {r : SeqRun} {st : SeqStep} {w : MatWork}

theorem rowsWrite_wf {c : Cap} (hm : v1.Wf mems) : (rowsWrite n c v v1).Wf mems := by
  fun_induction rowsWrite with
  | case1 => exact hm
  | case2 m off bs r ih => exact ih (CoreMem.writeScratch_wf hm)

theorem modMat_wf {f : Matrix → Matrix} (hf : ∀ x0 : Matrix, x0.Wf mems → (f x0).Wf mems) (h : s.Wf maps mems) : (modMat n f s).Wf maps mems :=
  State.modCore_wf h fun _ hc => ⟨hc.1, hf _ hc.2⟩

theorem stopTable_wf (h : s.Wf maps mems) : (stopTable n i q s).Wf maps mems := modMat_wf (fun _ hm => (by split <;> exact hm)) h

theorem matDefer_wf (h : s.Wf maps mems) : (matDefer s n j f).Wf maps mems := by
  fun_cases matDefer
  · exact stopTable_wf (deferFault_wf (ite_wf (State.coreEcc_wf h) h))
  · exact deferFault_wf (ite_wf (State.coreEcc_wf h) h)

theorem startMat_wf (h : s.Wf maps mems) : (startMat n s).Wf maps mems := by
  fun_cases startMat
  · exact State.modCore_wf h fun _ hc => hc
  · exact h
  · exact matDefer_wf (modMat_wf (fun _ hm => hm) h)
  · exact modMat_wf (fun _ hm => hm) h
  · exact h

theorem execMatOpStart_wf (h : s.Wf maps mems) : Answers maps mems (execMatOpStart node s) := answers_atCore (settle_wf (startMat_wf h))

theorem clearTilePoison_wf (hc : c.Wf mems) : (clearTilePoison t c).Wf mems := ⟨hc.1, hc.2⟩

theorem clearAccPoison_wf (hc : c.Wf mems) : (clearAccPoison d c).Wf mems := ⟨hc.1, hc.2⟩

theorem restoreTiles_wf (hc : c.Wf mems) : (restoreTiles c n cap off mask).Wf mems :=
  Core.foldl_wf (fun _ hc1 _ => by
    split
    · exact clearTilePoison_wf ⟨hc1.1, Matrix.setTile_wf hc1.2⟩
    · exact clearTilePoison_wf ⟨hc1.1, Matrix.clearTile_wf hc1.2⟩) hc

theorem matEffect_wf (hc : c.Wf mems) : (matEffect c n j).1.Wf mems := by
  fun_cases matEffect
  case case1 => exact ⟨(clearTilePoison_wf hc).1, Matrix.clearTile_wf (clearTilePoison_wf hc).2⟩
  case case2 => exact clearTilePoison_wf ⟨hc.1, Matrix.setTile_wf hc.2⟩
  case case4 => exact clearTilePoison_wf ⟨hc.1, Matrix.clearTile_wf hc.2⟩
  case case6 => exact restoreTiles_wf hc
  case case7 => exact clearAccPoison_wf ⟨hc.1, hc.2⟩
  case case8 => exact clearAccPoison_wf ⟨hc.1, mmaExec_wf hc.2⟩
  case case9 => exact ⟨hc.1, accNormExec_wf hc.2⟩
  case case10 => exact clearTilePoison_wf ⟨hc.1, accCvtExec_wf hc.2⟩
  case case12 => exact hc
  all_goals exact Core.modMem_wf hc fun _ hm => rowsWrite_wf hm

theorem finishMat_wf (h : s.Wf maps mems) : (finishMat n e s).Wf maps mems := by
  fun_cases finishMat
  · exact h
  · exact matDefer_wf (State.modThread_wf (modMat_wf (fun _ hm => hm) (State.setCore_wf h (matEffect_wf (h.core _)))))
  · exact State.modThread_wf (modMat_wf (fun _ hm => hm) (State.setCore_wf h (matEffect_wf (h.core _))))
  · exact State.modThread_wf (modMat_wf (fun _ hm => hm) (State.setCore_wf h (matEffect_wf (h.core _))))

theorem execMatOpComplete_wf (h : s.Wf maps mems) : Answers maps mems (execMatOpComplete node engine s) := answers_atCore (settle_wf (finishMat_wf h))

theorem startTable_wf (h : s.Wf maps mems) : (startTable n s).Wf maps mems := by
  fun_cases startTable
  case case2 => exact State.modCore_wf h fun _ hc => hc
  case case4 => exact State.modCore_wf (modMat_wf (fun _ hm => hm) (matDefer_wf (modMat_wf (fun _ hm => hm) h))) fun _ hc => hc
  case case5 => exact modMat_wf (fun _ hm => hm) (modMat_wf (fun _ hm => hm) h)
  all_goals exact h

theorem execSeqTableStart_wf (h : s.Wf maps mems) : Answers maps mems (execSeqTableStart node s) := answers_atCore (settle_wf (startTable_wf h))

theorem generate_wf (h : s.Wf maps mems) : (generate n r st w s).Wf maps mems := State.modCore_wf h fun _ hc => ⟨hc.1, hc.2⟩

theorem stepFault_wf (h : s.Wf maps mems) : (stepFault n r f s).Wf maps mems := matDefer_wf h

theorem seqStep_wf (h : s.Wf maps mems) : (seqStep n s).Wf maps mems := by
  fun_cases seqStep
  case case4 => exact modMat_wf (fun _ hm => hm) h
  case case5 => exact stepFault_wf h
  case case6 => exact modMat_wf (fun _ hm => hm) h
  case case9 => exact stepFault_wf h
  case case10 => exact generate_wf h
  all_goals exact h

theorem execSeqStep_wf (h : s.Wf maps mems) : Answers maps mems (execSeqStep node s) := answers_atCore (seqStep_wf h)

theorem seqFinc_wf (h : s.Wf maps mems) : (seqFinc n s).Wf maps mems := by
  fun_cases seqFinc
  case case3 => exact addIncOwn_wf (modMat_wf (fun _ hm => hm) h)
  all_goals exact h

theorem execSeqFinc_wf (h : s.Wf maps mems) : Answers maps mems (execSeqFinc node s) := answers_atCore (seqFinc_wf h)

theorem seqFwait_wf (h : s.Wf maps mems) : (seqFwait n s).Wf maps mems := by
  fun_cases seqFwait
  case case4 => exact modMat_wf (fun _ hm => hm) h
  all_goals exact h

theorem execSeqFwaitPass_wf (h : s.Wf maps mems) : Answers maps mems (execSeqFwaitPass node s) := answers_atCore (seqFwait_wf h)

theorem endTable_wf (h : s.Wf maps mems) : (endTable n s).Wf maps mems := by
  fun_cases endTable
  · exact h
  · exact State.modCore_wf (modMat_wf (fun _ hm => hm) h) fun _ hc => hc
  · exact h

theorem execSeqTableEnd_wf (h : s.Wf maps mems) : Answers maps mems (execSeqTableEnd node s) := answers_atCore (settle_wf (endTable_wf h))

theorem abortTable_wf (h : s.Wf maps mems) : (abortTable n s).Wf maps mems :=
  modMat_wf (fun _ hm => by
    split
    · split <;> exact hm
    · exact hm) h

theorem execMseqAbort_wf (h : s.Wf maps mems) : Answers maps mems (execMseqAbort node s) := answers_atCore (abortTable_wf h)

end

/-! ## A core's registers -/

section
variable {reg : RegAddr} {who : Accessor} {s : State} {n o off : Nat} {f : CoreCtl → CoreCtl} {k : ThreadNo} {w : Wait} {v value : Word} {c : Core}
  {viol : Bool} {node : NodeNo}

theorem logLock_wf (h : s.Wf maps mems) : (logLock reg who s).Wf maps mems := State.setPb_wf h h.pb

theorem modCtlPage_wf (h : s.Wf maps mems) : (modCtlPage n f s).Wf maps mems := State.modCore_wf h fun _ hc => hc

theorem dropUntagged_wf (h : s.Wf maps mems) : (dropUntagged n k s).Wf maps mems := State.modCore_wf h fun _ hc => hc

theorem cancelRdb_wf (h : s.Wf maps mems) : (cancelRdb n k w s).Wf maps mems := by
  fun_cases cancelRdb
  · exact State.send_wf h
  · exact h
  · exact dropUntagged_wf h
  · exact h

theorem cancelWait_wf (h : s.Wf maps mems) : (cancelWait n k s).Wf maps mems := by
  fun_cases cancelWait
  · exact cancelRdb_wf h
  · exact h

theorem haltThread_wf (h : s.Wf maps mems) : (haltThread n k s).Wf maps mems := State.modThread_wf (dropUntagged_wf (cancelWait_wf h))

theorem haltCore_wf (h : s.Wf maps mems) : (haltCore n s).Wf maps mems := by
  unfold haltCore
  extract_lets s1 s2
  have h1 : s1.Wf maps mems := foldState_wf (fun _ _ ht => haltThread_wf ht) h
  have h2 : s2.Wf maps mems := foldState_wf (fun _ _ ht => abortChan_wf ht) (abortTable_wf h1)
  clear_value s2
  exact State.modCore_wf h2 fun _ hc => ⟨hc.1, hc.2⟩

theorem stopThread_wf (h : s.Wf maps mems) : (stopThread n k s).Wf maps mems := by
  fun_cases stopThread
  · exact parkDebug_wf (cancelWait_wf h)
  · exact modCtlPage_wf h

theorem releaseThread_wf (h : s.Wf maps mems) : (releaseThread n k s).Wf maps mems := by
  fun_cases releaseThread
  · exact State.modThread_wf h
  · exact modCtlPage_wf h

theorem stepThread_wf (h : s.Wf maps mems) : (stepThread n k s).Wf maps mems := modCtlPage_wf (releaseThread_wf h)

theorem dbgCtl_wf (h : s.Wf maps mems) : (dbgCtl n v s).Wf maps mems :=
  foldState_wf (fun _ _ ht => stopThread_wf ht) (foldState_wf (fun _ _ ht => stepThread_wf ht) (foldState_wf (fun _ _ ht => releaseThread_wf ht) h))

theorem resetCore_wf (hc : c.Wf mems) : (resetCore c).Wf mems := ⟨⟨hc.1.1, hc.1.2⟩, nofun⟩

theorem clearCounters_wf (hc : c.Wf mems) : (clearCounters c).Wf mems := ⟨hc.1, hc.2⟩

theorem coreViol_wf (h : s.Wf maps mems) : (coreViol n reg who viol s).Wf maps mems := by
  fun_cases coreViol
  · exact logLock_wf (modCtlPage_wf h)
  · exact h

theorem writeCoreCtl_wf (h : s.Wf maps mems) : (writeCoreCtl n reg who v s).Wf maps mems := coreViol_wf (modCtlPage_wf h)

theorem writeOnceRegs_wf (h : s.Wf maps mems) : (writeOnceRegs n reg who o v s).Wf maps mems := by
  fun_cases writeOnceRegs <;> exact coreViol_wf (modCtlPage_wf h)

theorem writeCourseWait_wf (h : s.Wf maps mems) : (writeCourseWait n reg who v s).Wf maps mems := coreViol_wf (courseSync_wf (State.setCourse_wf h))

theorem writeWindow_wf (h : s.Wf maps mems) : (writeWindow n o v s).Wf maps mems := modCtlPage_wf h

theorem writeCounter_wf (h : s.Wf maps mems) : (writeCounter n o v s).Wf maps mems := by
  fun_cases writeCounter
  · exact modMat_wf (fun _ hm => hm) h
  · exact modMat_wf (fun _ hm => hm) h
  · exact modCtlPage_wf h

theorem writeHalt_wf (h : s.Wf maps mems) : (writeHalt n reg who v s).Wf maps mems := by
  fun_cases writeHalt
  · exact haltCore_wf h
  · exact h
  · exact coreViol_wf h

theorem corePageWrite_wf (h : s.Wf maps mems) : (corePageWrite who n off v s).Wf maps mems := by
  fun_cases corePageWrite
  case case2 => exact dmaWrite_wf h
  case case3 => exact writeCoreCtl_wf h
  case case4 => exact modCtlPage_wf h
  case case5 => exact writeHalt_wf h
  case case6 => exact writeOnceRegs_wf h
  case case7 => exact modMat_wf (fun _ hm => hm) h
  case case8 => exact abortTable_wf h
  case case10 => exact writeWindow_wf h
  case case11 => exact State.modThread_wf h
  case case13 => exact writeCourseWait_wf h
  case case14 => exact dbgCtl_wf h
  case case15 => exact coreViol_wf h
  case case16 => exact modCtlPage_wf h
  case case17 => exact writeCounter_wf h
  all_goals exact h

theorem execCoreHalt_wf (h : s.Wf maps mems) : Answers maps mems (execCoreHalt who node value s) := answers_atCore (settle_wf (corePageWrite_wf h))

end

/-! ## Events of a core -/

section
variable {n ch burst at_ len status : Nat} {p : Packet} {s : State} {tag : BitVec 10} {k thread : ThreadNo} {r : Resp} {pc w0 : Word}
  {node : NodeNo} {e : SbEntry} {ws : List Word}

theorem takeCtrl_wf {p : Packet → Bool} (h : s.Wf maps mems) : TakenWf maps mems (takeCtrl n p s) := takenWf_map fun _ => State.modNode_wf h

theorem takeRx_wf {p : Packet → Bool} (h : s.Wf maps mems) : TakenWf maps mems (takeRx n p s) := takenWf_map fun _ => State.modNode_wf h

theorem takeReq_wf (h : s.Wf maps mems) : TakenWf maps mems (takeReq n tag s) := takenWf_map fun _ => State.modCore_wf h fun _ hc => hc

theorem answerLoad_wf (h : s.Wf maps mems) : (answerLoad n k tag r s).Wf maps mems := State.modThread_wf h

theorem answerRdb_wf (h : s.Wf maps mems) : (answerRdb n k pc tag r s).Wf maps mems := by
  fun_cases answerRdb
  case case2 => exact State.modThread_wf h
  case case3 => exact endWait_wf (State.modThread_wf h)
  case case4 => exact endWait_wf (ite_wf h (noteRefusal_wf h))
  case case5 => exact endWait_wf h
  all_goals exact h

theorem answerBurst_wf (h : s.Wf maps mems) : (answerBurst n ch burst at_ len r s).Wf maps mems := by
  fun_cases answerBurst
  · exact dmaData_wf h
  · exact burstFails_wf h
  · exact burstFails_wf h

theorem rspArrive_wf (h : s.Wf maps mems) : (rspArrive n s).Wf maps mems := by
  fun_cases rspArrive
  · exact h
  · exact (takeRx_wf h _ _ ‹_›)
  · exact answerLoad_wf (takeReq_wf (takeRx_wf h _ _ ‹_›) _ _ ‹_›)
  · exact answerRdb_wf (takeReq_wf (takeRx_wf h _ _ ‹_›) _ _ ‹_›)
  · exact answerBurst_wf (takeReq_wf (takeRx_wf h _ _ ‹_›) _ _ ‹_›)
  · exact (takeReq_wf (takeRx_wf h _ _ ‹_›) _ _ ‹_›)

theorem execRspArrive_wf (h : s.Wf maps mems) : Answers maps mems (execRspArrive node s) := answers_atCore (settle_wf (rspArrive_wf h))

theorem loadReturn_wf (h : s.Wf maps mems) : (loadReturn n k s).Wf maps mems := by
  fun_cases loadReturn
  case case4 => exact State.modThread_wf h
  case case5 => exact State.modCore_wf (State.modThread_wf h) fun _ hc => Core.modMem_wf hc (fun _ hm => hm)
  case case6 => exact acquire_wf (State.modThread_wf h)
  case case7 | case8 => exact State.modThread_wf h
  all_goals exact h

theorem execLoadDataReturn_wf (h : s.Wf maps mems) : Answers maps mems (execLoadDataReturn node thread s) :=
  answers_atCore (settle_wf (loadReturn_wf h))

theorem Core.modThread_wf {c : Core} {k : Nat} {f : Thread → Thread} (hc : c.Wf mems) : (c.modThread k f).Wf mems := ⟨hc.1, hc.2⟩

theorem drainEntry_wf {k : ThreadNo} {e : SbEntry} (h : s.Wf maps mems) : (drainEntry n k e s).Wf maps mems := by
  unfold drainEntry
  extract_lets pop own
  have hpop : (pop s).Wf maps mems := State.modCore_wf (State.modThread_wf h) fun _ hc => ⟨hc.1, hc.2⟩
  clear_value pop own
  split
  · refine State.modCore_wf hpop fun _ hc => Core.modMem_wf hc fun _ hm => ?_
    split
    · exact CoreMem.writeCap_wf hm
    · exact CoreMem.writeScratch_wf hm
  · split
    · exact noteRefusal_wf hpop
    · exact h
    · refine State.send_wf (State.modThread_wf (State.modCore_wf hpop fun c hc => ?_))
      have hc1 (reqs) : Core.Wf mems { c with reqs := reqs } := ⟨hc.1, hc.2⟩
      refine iteInduction (fun _ => ?_) fun _ => hc1 _
      exact Core.foldl_wf (fun _ hc _ => Core.modThread_wf hc) (Core.modMem_wf (hc1 _) fun _ hm => CoreMem.updateLine_wf hm)

theorem storeDrain_wf (h : s.Wf maps mems) : (storeDrain n s).Wf maps mems := by
  fun_cases storeDrain
  · exact h
  · exact h
  · exact drainEntry_wf h

theorem execStoreDrain_wf (h : s.Wf maps mems) : Answers maps mems (execStoreDrain node s) := answers_atCore (settle_wf (storeDrain_wf h))

theorem storeDone_wf (h : s.Wf maps mems) : (storeDone n k tag s).Wf maps mems := State.modThread_wf h

theorem synDone_wf (h : s.Wf maps mems) : (synDone n tag s).Wf maps mems := State.modCore_wf h fun _ hc => hc

theorem synFull_wf (h : s.Wf maps mems) : (synFull n tag s).Wf maps mems := State.modCore_wf h fun _ hc => hc

theorem ackArrive_wf (h : s.Wf maps mems) : (ackArrive n s).Wf maps mems := by
  fun_cases ackArrive
  · exact h
  · exact (takeCtrl_wf h _ _ ‹_›)
  · exact storeDone_wf (takeReq_wf (takeCtrl_wf h _ _ ‹_›) _ _ ‹_›)
  · exact synDone_wf (takeReq_wf (takeCtrl_wf h _ _ ‹_›) _ _ ‹_›)
  · exact dmaAcked_wf (takeReq_wf (takeCtrl_wf h _ _ ‹_›) _ _ ‹_›)
  · exact (takeReq_wf (takeCtrl_wf h _ _ ‹_›) _ _ ‹_›)

theorem execAckArrive_wf (h : s.Wf maps mems) : Answers maps mems (execAckArrive node s) := answers_atCore (settle_wf (ackArrive_wf h))

theorem nackArrive_wf (h : s.Wf maps mems) : (nackArrive n s).Wf maps mems := by
  fun_cases nackArrive
  · exact h
  · exact (takeCtrl_wf h _ _ ‹_›)
  · exact answerLoad_wf (takeReq_wf (takeCtrl_wf h _ _ ‹_›) _ _ ‹_›)
  · exact answerRdb_wf (takeReq_wf (takeCtrl_wf h _ _ ‹_›) _ _ ‹_›)
  · exact answerBurst_wf (takeReq_wf (takeCtrl_wf h _ _ ‹_›) _ _ ‹_›)
  · exact noteRefusal_wf (storeDone_wf (takeReq_wf (takeCtrl_wf h _ _ ‹_›) _ _ ‹_›))
  · exact synFull_wf (takeReq_wf (takeCtrl_wf h _ _ ‹_›) _ _ ‹_›)
  · exact synDone_wf (takeReq_wf (takeCtrl_wf h _ _ ‹_›) _ _ ‹_›)
  · exact noteRefusal_wf (synDone_wf (takeReq_wf (takeCtrl_wf h _ _ ‹_›) _ _ ‹_›))
  · exact burstFails_wf (takeReq_wf (takeCtrl_wf h _ _ ‹_›) _ _ ‹_›)
  · exact noteRefusal_wf (takeReq_wf (takeCtrl_wf h _ _ ‹_›) _ _ ‹_›)
  · exact modChan_wf (takeReq_wf (takeCtrl_wf h _ _ ‹_›) _ _ ‹_›)

theorem execNackArrive_wf (h : s.Wf maps mems) : Answers maps mems (execNackArrive node s) := answers_atCore (settle_wf (nackArrive_wf h))

theorem waitTimeout_wf (h : s.Wf maps mems) : (waitTimeout n k s).Wf maps mems := by
  fun_cases waitTimeout
  case case1 => exact endWait_wf (cancelRdb_wf h)
  all_goals exact h

theorem execWaitTimeout_wf (h : s.Wf maps mems) : Answers maps mems (execWaitTimeout node thread s) := answers_atCore (settle_wf (waitTimeout_wf h))

theorem fretApply_wf (h : s.Wf maps mems) : (fretApply n s).Wf maps mems := wakeAllFret_wf (State.modCore_wf h (fun _ hc => hc))

theorem execFretIncrementApply_wf (h : s.Wf maps mems) : Answers maps mems (execFretIncrementApply node s) :=
  answers_atCore (settle_wf (fretApply_wf h))

theorem refuse_wf {k : BitVec 3} (h : s.Wf maps mems) : (refuse n p k s).Wf maps mems := State.send_wf (State.modCore_wf h (fun _ hc => hc))

theorem fincArrive_wf (h : s.Wf maps mems) : (fincArrive n s).Wf maps mems := by
  fun_cases fincArrive
  case case1 => exact h
  case case5 => exact State.send_wf (State.modCore_wf (takeCtrl_wf h _ _ ‹_›) (fun _ hc => hc))
  all_goals exact refuse_wf (takeCtrl_wf h _ _ ‹_›)

theorem execFincArrive_wf (h : s.Wf maps mems) : Answers maps mems (execFincArrive node s) := answers_atCore (fincArrive_wf h)

theorem queueMsg_wf (h : s.Wf maps mems) : (queueMsg n p s).Wf maps mems := by
  fun_cases queueMsg
  · exact State.send_wf h
  · exact State.send_wf (acceptMsg_wf h)
  · exact State.send_wf (modCtlPage_wf h)

theorem msgArrive_wf (h : s.Wf maps mems) : (msgArrive n s).Wf maps mems := by
  fun_cases msgArrive
  · exact h
  · exact refuse_wf (takeCtrl_wf h _ _ ‹_›)
  · exact queueMsg_wf (takeCtrl_wf h _ _ ‹_›)

theorem execMsgArrive_wf (h : s.Wf maps mems) : Answers maps mems (execMsgArrive node s) := answers_atCore (settle_wf (msgArrive_wf h))

theorem msgRetry_wf (h : s.Wf maps mems) : (msgRetry n s).Wf maps mems := State.modCore_wf h fun _ hc => (by split <;> exact hc)

theorem execMsgRetry_wf (h : s.Wf maps mems) : Answers maps mems (execMsgRetry node s) := answers_atCore (settle_wf (msgRetry_wf h))

theorem startThread_wf (h : s.Wf maps mems) : (startThread n k pc s).Wf maps mems :=
  modCtlPage_wf (State.modCore_wf (State.modThread_wf h) (fun _ hc => hc))

theorem threadOp_wf (h : s.Wf maps mems) : (threadOp n ws s).2.Wf maps mems := by
  unfold threadOp
  extract_lets w0 w1 k st
  clear_value w0 w1 k st
  refine snd_ite_wf (snd_wf h) ?_
  split
  · exact snd_ite_wf (snd_wf h) (snd_ite_wf (snd_wf h) (snd_wf (startThread_wf h)))
  · exact snd_ite_wf (snd_wf h) (snd_ite_wf (snd_wf h) (snd_wf (State.modThread_wf h)))
  · exact snd_ite_wf (snd_wf h) (snd_ite_wf (snd_wf h) (snd_wf (State.modThread_wf (exitThread_wf h))))
  · exact snd_wf h

theorem answerCtl_wf (h : s.Wf maps mems) : (answerCtl n p w0 status s).Wf maps mems := by
  fun_cases answerCtl
  · exact pushSyn_wf h
  · exact h

theorem threadCtl_wf (h : s.Wf maps mems) : (threadCtl n s).Wf maps mems := by
  fun_cases threadCtl
  · exact h
  · exact answerCtl_wf (State.send_wf (threadOp_wf (takeCtrl_wf h _ _ ‹_›)))

theorem execThreadCtl_wf (h : s.Wf maps mems) : Answers maps mems (execThreadCtl node s) := answers_atCore (settle_wf (threadCtl_wf h))

theorem recordLocal_wf {r : FaultRecord} (h : s.Wf maps mems) : (recordLocal n r s).Wf maps mems := by
  fun_cases recordLocal
  · exact h
  · exact acceptMsg_wf h

theorem sendRecord_wf {r : FaultRecord} (h : s.Wf maps mems) : OptWf maps mems (sendRecord n k r s) := by
  fun_cases sendRecord
  · exact optWf_some (recordLocal_wf h)
  · exact optWf_none
  · exact optWf_some (State.health_wf h)
  · exact optWf_some (State.health_wf h)
  · exact optWf_some (pushSyn_wf (State.health_wf h))

theorem recordSend_wf (h : s.Wf maps mems) : (recordSend n s).Wf maps mems := by
  fun_cases recordSend
  case case3 => exact State.modThread_wf (sendRecord_wf h _ ‹_›)
  all_goals exact h

theorem execFaultRecordSend_wf (h : s.Wf maps mems) : Answers maps mems (execFaultRecordSend node s) := answers_atCore (settle_wf (recordSend_wf h))

end

/-! ## The mesh -/

section
variable {n key vc port m : Nat} {f : Flit} {s : State} {p : Packet} {c : Choice} {wrr : Turn} {o : OutPort} {node : NodeNo} {out : Port}
  {err : BitVec 1037}

theorem pushIn_wf (h : s.Wf maps mems) : (pushIn n key f s).Wf maps mems := by
  fun_cases pushIn
  case case1 => exact State.modNode_wf (State.modCourse_wf (State.setPb_wf h h.pb))
  all_goals exact State.modNode_wf h

theorem injectVc_wf (h : s.Wf maps mems) : (injectVc n vc s).Wf maps mems := by
  fun_cases injectVc
  · exact h
  · exact pushIn_wf (State.modNode_wf h)
  · exact h

theorem loadVc_wf (h : s.Wf maps mems) : (loadVc n vc s).Wf maps mems := by
  fun_cases loadVc
  · exact h
  · exact State.modNode_wf h
  · exact h

theorem injectCtrl_wf (h : s.Wf maps mems) : (injectCtrl n s).Wf maps mems := by
  fun_cases injectCtrl
  · exact h
  · exact foldState_wf (fun _ _ ht => pushIn_wf ht) (State.modNode_wf h)
  · exact h

theorem pumpInject_wf (h : s.Wf maps mems) : (pumpInject n s).Wf maps mems :=
  foldState_wf (fun _ _ ht => injectVc_wf (loadVc_wf ht)) (injectCtrl_wf h)

theorem deliverFlits_wf (h : s.Wf maps mems) : (deliverFlits n p s).Wf maps mems := by
  fun_cases deliverFlits
  · exact State.modCourse_wf (State.modNode_wf h)
  · exact State.modNode_wf h
  · exact State.modNode_wf h

theorem forward_wf (h : s.Wf maps mems) : (forward n port c wrr o s).Wf maps mems := by
  fun_cases forward
  case case1 => exact h
  case case2 => exact deliverFlits_wf (State.modNode_wf (ite_wf (State.modCourse_wf h) h))
  all_goals exact State.modNode_wf (ite_wf (State.modCourse_wf h) h)

theorem flitForward_wf (h : s.Wf maps mems) : (flitForward n port s).Wf maps mems := by
  fun_cases flitForward
  · exact h
  · exact forward_wf (pumpInject_wf h)
  · exact pumpInject_wf h

theorem execFlitForward_wf (h : s.Wf maps mems) : Answers maps mems (execFlitForward node out s) := answers_next (flitForward_wf h)

theorem ctrlRelease_wf (h : s.Wf maps mems) : (ctrlRelease n s).Wf maps mems := by
  fun_cases ctrlRelease
  · exact h
  · exact State.modNode_wf h

theorem execCtrlRelease_wf (h : s.Wf maps mems) : Answers maps mems (execCtrlRelease node s) := answers_next (ctrlRelease_wf h)

theorem retry_wf (h : s.Wf maps mems) : (retry n port m s).Wf maps mems := State.modNode_wf (State.modNode_wf (State.modCourse_wf h))

theorem flitReceive_wf (h : s.Wf maps mems) : (flitReceive n port err s).Wf maps mems := by
  fun_cases flitReceive
  case case4 => exact retry_wf h
  case case5 => exact pushIn_wf (State.modNode_wf (State.modNode_wf h))
  all_goals exact h

theorem execFlitReceive_wf {port : Port} (h : s.Wf maps mems) : Answers maps mems (execFlitReceive node port err s) := answers_next (flitReceive_wf h)

end

/-! ## A core's network port -/

section
variable {bf : Bool} {m : CoreMem} {j j1 n off : Nat} {v : List Byte} {p : Packet} {s : State}

theorem reduceInto_wf (hm : m.Wf mems) : (reduceInto bf m j j1 v).Wf mems := by
  fun_induction reduceInto with
  | case1 => exact hm
  | case2 => exact hm
  | case3 m fuel off bs u hb old new ih => exact ih (CoreMem.writeScratch_wf hm)

theorem scratchAccess_wf (h : s.Wf maps mems) : (scratchAccess n p off s).Wf maps mems := by
  fun_cases scratchAccess
  · exact State.send_wf (State.coreEcc_wf h)
  · exact State.send_wf h
  · exact refuse_wf h
  · exact State.send_wf (State.coreEcc_wf h)
  · exact State.send_wf (State.modCore_wf h (fun _ hc => Core.modMem_wf hc (fun _ hm => CoreMem.writeScratch_wf hm)))
  · exact State.send_wf (State.modCore_wf (ite_wf (State.coreEcc_wf h) h) (fun _ hc => Core.modMem_wf hc (fun _ hm => reduceInto_wf hm)))
  · exact State.send_wf (State.modCore_wf h (fun _ hc => Core.modMem_wf hc (fun _ hm => CoreMem.writeScratch_wf hm)))

theorem pageAccess_wf (h : s.Wf maps mems) : (pageAccess n p off s).Wf maps mems := by
  fun_cases pageAccess
  · exact State.send_wf h
  · exact State.send_wf h
  · exact State.send_wf (foldState_wf (fun _ _ ht => corePageWrite_wf ht) h)
  · exact refuse_wf h

theorem imemAccess_wf (h : s.Wf maps mems) : (imemAccess n p off s).Wf maps mems := by
  fun_cases imemAccess
  · exact State.send_wf (State.coreEcc_wf h)
  · exact State.send_wf h
  · exact State.send_wf (State.modCore_wf h (fun _ hc => Core.dmaImem_wf hc))
  · exact refuse_wf h

theorem blockAccess_wf (h : s.Wf maps mems) : (blockAccess n p off s).Wf maps mems := by
  fun_cases blockAccess
  case case3 => exact imemAccess_wf h
  case case4 => exact pageAccess_wf h
  all_goals exact refuse_wf h

theorem corePort_wf (h : s.Wf maps mems) : (corePort n p s).Wf maps mems := by
  fun_cases corePort
  case case4 => exact scratchAccess_wf h
  case case5 => exact blockAccess_wf h
  all_goals exact refuse_wf h

theorem nextRequest_wf (h : s.Wf maps mems) : TakenWf maps mems (nextRequest n s) := by
  fun_cases nextRequest <;> exact takenWf_orElse (takeRx_wf h) (takeRx_wf h)

theorem corePortAccess_wf (h : s.Wf maps mems) : (corePortAccess n s).Wf maps mems := by
  fun_cases corePortAccess
  · exact h
  · exact settle_wf (corePort_wf (State.modCore_wf (nextRequest_wf h _ _ ‹_›) (fun _ hc => hc)))

end

/-! ## Memory controllers -/

section
variable {s t : State} {f : HostIf → HostIf} {kind index n i addr j off : Nat} {p : Packet} {r : MemReq} {younger : List MemReq} {ecc : EccOutcome}
  {bs : List Byte} {node : NodeNo} {ws : List Word} {cause : Byte}

theorem readyEvent_wf (h1 : t.Wf maps mems) : (readyEvent s t).Wf maps mems := by
  fun_cases readyEvent
  · exact h1
  · exact State.health_wf h1

theorem modHost_wf (hf : ∀ x0 : HostIf, x0.Wf mems → (f x0).Wf mems) (h : s.Wf maps mems) : (modHost f s).Wf maps mems :=
  State.setHost_wf h (hf _ h.host)

theorem modInst_wf {f : Inst → Inst} (h : s.Wf maps mems) : (modInst kind index f s).Wf maps mems := State.setEmu_wf h h.emu

theorem failCtl_wf (h : s.Wf maps mems) : (failCtl n i s).Wf maps mems := by
  unfold failCtl
  extract_lets waiting s1 s2 s3 _ _ s4
  have h3 : s3.Wf maps mems := modInst_wf (foldState_wf (fun _ _ ht => State.send_wf ht) (State.modCtl_wf h fun _ hm => hm))
  have h4 : s4.Wf maps mems := by
    refine ite_wf (modHost_wf (fun _ hm => ⟨hm.hostMem, hm.storage⟩) ?_) (modHost_wf (fun _ hm => ⟨hm.hostMem, hm.storage⟩) h3)
    exact State.setPb_wf h3 ⟨h3.pb.flashA, h3.pb.flashB, h3.pb.localMem, h3.pb.shared⟩
  exact readyEvent_wf h4

theorem ctlUncorr_wf (h : s.Wf maps mems) : (ctlUncorr n i addr s).Wf maps mems := by
  fun_cases ctlUncorr
  · exact failCtl_wf (State.modCtl_wf (State.health_wf (modInst_wf h)) (fun _ hm => hm))
  · exact State.modCtl_wf (State.health_wf (modInst_wf h)) fun _ hm => hm

theorem admitOne_wf (h : s.Wf maps mems) : (admitOne n p s).Wf maps mems := by
  fun_cases admitOne
  · exact State.send_wf h
  · exact State.send_wf h
  · exact State.send_wf (State.modCtl_wf h (fun _ hm => hm))
  · exact State.modCtl_wf h fun _ hm => hm

theorem admitAll_wf (h : s.Wf maps mems) : (admitAll n j s).Wf maps mems := by
  fun_induction admitAll with
  | case1 => exact h
  | case2 => exact h
  | case3 => exact h
  | case4 s fuel p s1 ht full hf ih => exact ih (admitOne_wf (takeRx_wf h _ _ ht))

theorem admitMem_wf (h : s.Wf maps mems) : (admitMem n s).Wf maps mems := admitAll_wf h

theorem serveRead_wf (h : s.Wf maps mems) : (serveRead n i r younger s).Wf maps mems := by
  fun_cases serveRead <;> exact State.send_wf h

theorem MemReq.apply_wf {r : MemReq} {m : Map Byte} (hm : MemWf mems m) : MemWf mems (r.apply m) := by
  unfold MemReq.apply
  refine iteInduction (fun _ => hm.write) fun _ => iteInduction (fun _ => ?_) fun _ => hm
  split
  · exact hm.write
  · exact hm

theorem serveWrite_wf (h : s.Wf maps mems) : (serveWrite i r s).Wf maps mems := State.modCtl_wf h fun _ hm => MemReq.apply_wf hm

theorem serveAtomic_wf (h : s.Wf maps mems) : (serveAtomic n i r s).Wf maps mems := by
  fun_cases serveAtomic
  · exact State.send_wf h
  · exact State.send_wf (State.modCtl_wf h fun _ hm => MemReq.apply_wf hm)

theorem serveRequest_wf (h : s.Wf maps mems) : (serveRequest n i r younger ecc s).Wf maps mems := by
  fun_cases serveRequest
  · exact serveWrite_wf h
  · exact ctlUncorr_wf (State.send_wf (ite_wf (State.modCtl_wf h (fun _ hm => hm)) h))
  · exact serveAtomic_wf (ite_wf (modInst_wf h) h)
  · exact serveRead_wf (ite_wf (modInst_wf h) h)

theorem serveFirst_wf (h : s.Wf maps mems) : (serveFirst i j s).Wf maps mems := by
  fun_induction serveFirst with
  | case1 => exact h
  | case2 => exact h
  | case3 s k r q hq ih => exact ih (serveRequest_wf (State.modCtl_wf h fun _ hm => hm))

theorem ctlWrite_wf (h : s.Wf maps mems) : (ctlWrite i off bs s).Wf maps mems := State.modCtl_wf (serveFirst_wf h) fun _ hm => MemWf.write hm

theorem memServe_wf (h : s.Wf maps mems) : (memServe n index ecc s).Wf maps mems := by
  fun_cases memServe
  case case4 => exact serveRequest_wf (State.modCtl_wf (admitMem_wf h) (fun _ hm => hm))
  all_goals exact admitMem_wf h

theorem execMemRequestServe_wf (h : s.Wf maps mems) : Answers maps mems (execMemRequestServe node index ecc s) := answers_atMemory (memServe_wf h)

theorem execRefresh_wf (h : s.Wf maps mems) : Answers maps mems (execRefresh node s) :=
  answers_atMemory (foldState_wf (fun _ _ ht => State.modCtl_wf ht (fun _ hm => hm)) h)

theorem lostRecord_wf (h : s.Wf maps mems) : (lostRecord n ws s).Wf maps mems := by
  fun_cases lostRecord
  case case4 => exact pushSyn_wf h
  all_goals exact h

theorem loseCore_wf (h : s.Wf maps mems) : (loseCore cause n s).Wf maps mems := by
  fun_cases loseCore
  · exact h
  · exact courseSync_wf (State.health_wf (lostRecord_wf (State.setCore_wf h Core.wf_default)))

theorem execCoreLost_wf {cause : BitVec 8} (h : s.Wf maps mems) : Answers maps mems (execCoreLost node cause s) := answers_atCore (loseCore_wf h)

theorem execCoprocHang_wf (h : s.Wf maps mems) : Answers maps mems (execCoprocHang node s) := answers_atCore (ite_wf (loseCore_wf h) h)

end

/-! ## Mbotor links -/

section
variable {n l : Nat} {f : LNode → LNode} {s : State} {st : LinkState} {flex : Bool} {gen : Byte} {p : Packet} {k : BitVec 3} {sm : BitVec 16}
  {q : LinkPkt} {t : Option (Packet × State)} {node : NodeNo}

theorem modLnode_wf (h : s.Wf maps mems) : (modLnode n f s).Wf maps mems := State.setLnode_wf h

theorem linkChanged_wf (h : s.Wf maps mems) : (linkChanged l s).Wf maps mems :=
  readyEvent_wf (modHost_wf (fun _ hm => hm) (State.health_wf (modLnode_wf h)))

theorem setLinkState_wf (h : s.Wf maps mems) : (setLinkState l st s).Wf maps mems := by
  fun_cases setLinkState
  · exact h
  · exact linkChanged_wf (State.modLink_wf h)

theorem flushLink_wf (h : s.Wf maps mems) : (flushLink l st s).Wf maps mems := by
  unfold flushLink
  extract_lets n lost s1 s2 _ s3
  have h2 : s2.Wf maps mems := modLnode_wf (State.modLink_wf h)
  have h3 : s3.Wf maps mems := ⟨h2.1, h2.2⟩
  exact setLinkState_wf (foldState_wf (fun _ _ ht => State.send_wf ht) h3)

theorem queueOnLink_wf (h : s.Wf maps mems) : OptWf maps mems (queueOnLink n l flex gen p s) := by
  fun_cases queueOnLink
  · exact optWf_none
  · exact optWf_some (State.modLink_wf h)
  · exact optWf_some h
  · exact optWf_none
  · exact optWf_some (State.modLink_wf h)

theorem handOff_wf (h : s.Wf maps mems) : OptWf maps mems (handOff n l flex gen p s) := by
  unfold handOff
  extract_lets hs
  split
  · exact optWf_none
  · exact optWf_some (State.send_wf (modLnode_wf h))

theorem placePacket_wf (h : s.Wf maps mems) : OptWf maps mems (placePacket n l flex gen p s) := by
  fun_cases placePacket
  · exact queueOnLink_wf h
  · exact handOff_wf h

theorem refuseLookup_wf (h : s.Wf maps mems) : (refuseLookup n p k s).Wf maps mems := by
  fun_cases refuseLookup
  · exact h
  · exact State.send_wf h

theorem steerPacket_wf (h : s.Wf maps mems) : OptWf maps mems (steerPacket n p s) := by
  fun_cases steerPacket
  · exact optWf_map (queueOnLink_wf h) fun _ ht => State.send_wf ht
  · exact optWf_some (State.send_wf (refuseLookup_wf h))
  · exact optWf_some (refuseLookup_wf h)
  · exact optWf_none
  · exact optWf_some (refuseLookup_wf h)
  · exact placePacket_wf h

theorem refuseIngress_wf (h : s.Wf maps mems) : (refuseIngress l sm q k s).Wf maps mems := by
  fun_cases refuseIngress
  · exact h
  · exact State.modLink_wf h

theorem answerDown_wf (h : s.Wf maps mems) : (answerDown n l q s).Wf maps mems := by
  fun_cases answerDown
  · exact h
  · exact State.send_wf (State.modLink_wf h)

theorem deliverIngress_wf (h : s.Wf maps mems) : OptWf maps mems (deliverIngress l sm q s) := by
  fun_cases deliverIngress
  · exact optWf_some (answerDown_wf h)
  · exact optWf_some (State.send_wf h)
  · exact optWf_some h
  · exact optWf_some (refuseIngress_wf h)
  · exact optWf_none
  · exact optWf_some (State.send_wf (modLnode_wf h))

theorem drainIngress_wf (h : s.Wf maps mems) : (drainIngress l s).Wf maps mems :=
  foldState_wf (fun _ _ ht => by
    split
    · exact State.modLink_wf (deliverIngress_wf ht _ ‹_›)
    · exact State.modLink_wf ht) (State.modLink_wf h)

theorem answerUp_wf (h : s.Wf maps mems) : OptWf maps mems (answerUp n p s) := by
  fun_cases answerUp
  · exact optWf_some (ite_wf (modLnode_wf h) (refuseLookup_wf (modLnode_wf h)))
  · exact optWf_some h
  · exact optWf_some (drainIngress_wf (modLnode_wf h))
  · exact optWf_some (drainIngress_wf (State.modLink_wf (modLnode_wf h)))
  · exact optWf_none

theorem takeThen_wf {f : Packet → State → Option State} (ht : TakenWf maps mems t)
    (hf : ∀ p (s : State), s.Wf maps mems → OptWf maps mems (f p s)) : OptWf maps mems (takeThen t f) := by
  cases t with
  | none => exact optWf_none
  | some e => exact hf e.1 e.2 (ht e.1 e.2 rfl)

theorem linkLookup_wf (h : s.Wf maps mems) : (linkLookup n s).Wf maps mems := by
  have hc (f) : TakenWf maps mems (takeCtrl n f s) := takeCtrl_wf h
  have hr (f) : TakenWf maps mems (takeRx n f s) := takeRx_wf h
  have hup {t} (ht : TakenWf maps mems t) : OptWf maps mems (takeThen t (answerUp n)) := takeThen_wf ht fun _ _ ht => answerUp_wf ht
  have hsteer {t} (ht : TakenWf maps mems t) : OptWf maps mems (takeThen t (steerPacket n)) := takeThen_wf ht fun _ _ ht => steerPacket_wf ht
  unfold linkLookup
  extract_lets answer bound a handed first
  have ha : OptWf maps mems a := optWf_orElse (hup (hc answer)) (hup (hr answer))
  have hfirst : ∀ o ∈ first, TakenWf maps mems o := by
    simp only [first, List.forall_mem_cons]
    exact ⟨hc bound, hc handed, hr bound, hr handed, List.forall_mem_nil _⟩
  have hb : OptWf maps mems (first.findSome? fun t => takeThen t (steerPacket n)) := by
    intro t ht
    obtain ⟨o, ho, hs⟩ := List.exists_of_findSome?_eq_some ht
    exact hsteer (hfirst o ho) t hs
  clear_value a first
  exact optWf_getD (optWf_orElse ha hb) h

theorem execLinkLookup_wf (h : s.Wf maps mems) : Answers maps mems (execLinkLookup node s) := answers_atLink (linkLookup_wf h)

end

/-! ## Events of a link -/

section
variable {l : Nat} {f : Frame} {s : State} {link : LinkNo} {q : LinkPkt} {cause : BitVec 3} {lane : BitVec 2} {request en : Bool}
  {pm pe : BitVec 16} {pl : BitVec 6} {last : BitVec 12} {bs bytes : List Byte} {v lo hi value : Word} {ls : List Nat}

theorem sendFrame_wf (h : s.Wf maps mems) : (sendFrame l f s).Wf maps mems := by
  unfold sendFrame
  extract_lets k c f' s1
  have h1 : s1.Wf maps mems := State.modLink_wf h
  exact ⟨h1.1, h1.2⟩

theorem frameSend_wf (h : s.Wf maps mems) : (frameSend l s).Wf maps mems := by
  fun_cases frameSend
  · exact h
  · exact sendFrame_wf (State.modLink_wf h)
  · exact h
  · exact sendFrame_wf (State.modLink_wf h)

theorem execFrameSend_wf (h : s.Wf maps mems) : Answers maps mems (execFrameSend link s) := answers_next (frameSend_wf h)

theorem ackonlySend_wf (h : s.Wf maps mems) : (ackonlySend l s).Wf maps mems := by
  fun_cases ackonlySend
  · exact sendFrame_wf (State.modLink_wf h)
  · exact h

theorem execAckonlySend_wf (h : s.Wf maps mems) : Answers maps mems (execAckonlySend link s) := answers_next (ackonlySend_wf h)

theorem execReplayRequestRepeat_wf (h : s.Wf maps mems) : Answers maps mems (execReplayRequestRepeat link s) :=
  answers_next (ite_wf (State.modLink_wf h) h)

theorem resteer_wf (h : s.Wf maps mems) : OptWf maps mems (resteer l q s) := by
  fun_cases resteer
  case case4 => exact placePacket_wf (State.modLink_wf h)
  all_goals exact optWf_none

theorem goHold_wf (h : s.Wf maps mems) : (goHold l cause s).Wf maps mems :=
  foldState_wf (fun _ _ ht => ite_wf (optWf_getD (resteer_wf ht) (State.modLink_wf ht)) (State.modLink_wf ht)) (setLinkState_wf (State.modLink_wf h))

theorem replayTimeout_wf (h : s.Wf maps mems) : (replayTimeout l s).Wf maps mems := by
  fun_cases replayTimeout
  · exact h
  · exact goHold_wf h
  · exact State.modLink_wf h

theorem execReplayTimeout_wf (h : s.Wf maps mems) : Answers maps mems (execReplayTimeout link s) := answers_next (replayTimeout_wf h)

theorem laneLoss_wf (h : s.Wf maps mems) : (laneLoss l lane s).Wf maps mems := by
  fun_cases laneLoss
  · exact h
  · exact goHold_wf (State.modLink_wf h)
  · exact State.modLink_wf h

theorem execLaneLoss_wf (h : s.Wf maps mems) : Answers maps mems (execLaneLoss link lane s) := answers_next (laneLoss_wf h)

theorem trainFrameSend_wf (h : s.Wf maps mems) : (trainFrameSend l s).Wf maps mems := by
  fun_cases trainFrameSend
  · exact sendFrame_wf h
  · exact h

theorem execTrainFrameSend_wf (h : s.Wf maps mems) : Answers maps mems (execTrainFrameSend link s) := answers_next (trainFrameSend_wf h)

theorem execLinkHoldExpire_wf (h : s.Wf maps mems) : Answers maps mems (execLinkHoldExpire link s) := answers_next (ite_wf (flushLink_wf h) h)

theorem discardFrame_wf (h : s.Wf maps mems) : (discardFrame l request s).Wf maps mems := State.modLink_wf (modInst_wf h)

theorem acceptFrame_wf (h : s.Wf maps mems) : (acceptFrame l f s).Wf maps mems := by
  fun_cases acceptFrame
  · exact State.modLink_wf (refuseIngress_wf (State.modLink_wf h))
  · exact State.modLink_wf (refuseIngress_wf (State.modLink_wf h))
  · exact drainIngress_wf (State.modLink_wf h)

theorem dataArrives_wf (h : s.Wf maps mems) : (dataArrives l f s).Wf maps mems := by
  fun_cases dataArrives
  · exact acceptFrame_wf (State.modLink_wf h)
  · exact discardFrame_wf (State.modLink_wf h)
  · exact discardFrame_wf h

theorem trainUp_wf (h : s.Wf maps mems) : (trainUp l pm pl pe s).Wf maps mems := setLinkState_wf (State.modLink_wf h)

theorem trainResume_wf (h : s.Wf maps mems) : (trainResume l pm pl pe last s).Wf maps mems := by
  fun_cases trainResume
  · exact trainUp_wf (flushLink_wf h)
  · exact flushLink_wf (State.modLink_wf h)
  · exact flushLink_wf (State.modLink_wf h)
  · exact flushLink_wf h
  · exact setLinkState_wf (State.modLink_wf h)

theorem trainArrives_wf (h : s.Wf maps mems) : (trainArrives l f s).Wf maps mems := by
  fun_cases trainArrives
  · exact trainUp_wf h
  · exact trainResume_wf h
  · exact h

theorem frameReceive_wf (h : s.Wf maps mems) : (frameReceive l bs s).Wf maps mems := by
  fun_cases frameReceive
  · exact h
  · exact discardFrame_wf (State.modLink_wf h)
  · exact discardFrame_wf (State.modLink_wf h)
  · exact trainArrives_wf (State.modLink_wf h)
  · exact dataArrives_wf (State.modLink_wf h)
  · exact State.modLink_wf h

theorem execFrameReceive_wf (h : s.Wf maps mems) : Answers maps mems (execFrameReceive link bytes s) := answers_next (frameReceive_wf h)

theorem linkEnable_wf (h : s.Wf maps mems) : (linkEnable l en s).Wf maps mems := by
  fun_cases linkEnable
  · exact h
  · exact h
  · exact setLinkState_wf (State.modLink_wf h)
  · exact flushLink_wf (State.modLink_wf h)

theorem execLinkEnWrite_wf (h : s.Wf maps mems) : Answers maps mems (execLinkEnWrite link en s) := answers_next (linkEnable_wf h)

theorem linkRetrain_wf (h : s.Wf maps mems) : (linkRetrain l s).Wf maps mems := by
  fun_cases linkRetrain
  · exact flushLink_wf (State.modLink_wf h)
  · exact h

theorem execLinkRetrain_wf (h : s.Wf maps mems) : Answers maps mems (execLinkRetrain link s) := answers_next (linkRetrain_wf h)

theorem linkCtlWrite_wf (h : s.Wf maps mems) : (linkCtlWrite l v s).Wf maps mems := by
  fun_cases linkCtlWrite
  · exact linkRetrain_wf (linkEnable_wf (ite_wf h (pbDoes_wf (fun _ ht => State.modLink_wf ht) h)))
  · exact linkEnable_wf (ite_wf h (pbDoes_wf (fun _ ht => State.modLink_wf ht) h))

theorem railAdvance_wf (h : s.Wf maps mems) : (railAdvance s).Wf maps mems := by
  fun_cases railAdvance <;> exact h

theorem railEntryWrite_wf (h : s.Wf maps mems) : (railEntryWrite lo hi s).Wf maps mems := railAdvance_wf (pbDoes_wf (fun _ ht => ht) h)

theorem railStep_wf (h : s.Wf maps mems) : (railStep value s).Wf maps mems := by
  fun_cases railStep
  · exact State.send_wf h
  · exact h

theorem execRailGenWrite_wf (h : s.Wf maps mems) : Answers maps mems (execRailGenWrite value s) :=
  answers_next (pbDoes_wf (fun _ ht => railStep_wf ht) h)

theorem freshEntries_wf (h : s.Wf maps mems) : (freshEntries ls s).Wf maps mems := h

theorem admitLinks_wf (h : s.Wf maps mems) : (admitLinks ls s).Wf maps mems := by
  fun_cases admitLinks
  · exact h
  · exact freshEntries_wf (foldState_wf (fun _ _ ht => State.modLink_wf ht) h)
  · exact State.send_wf (modPb_wf (fun _ hm => hm) (freshEntries_wf (foldState_wf (fun _ _ ht => State.modLink_wf ht) h)))

theorem admitEnds_wf (h : s.Wf maps mems) : (admitEnds s).Wf maps mems := by
  fun_cases admitEnds
  · exact modPb_wf (fun _ hm => hm) (pbDoes_wf (fun _ ht => ht) h)
  · exact h

end

/-! ## Resynchronisation and failure of a mesh link -/

section
variable {n key port c m : Nat} {f : Router → Router} {s : State} {ok : Bool} {node : NodeNo}

theorem modRouter_wf (h : s.Wf maps mems) : (modRouter n f s).Wf maps mems := State.modNode_wf h

theorem discardFront_wf (h : s.Wf maps mems) : (discardFront n key s).Wf maps mems := by
  fun_cases discardFront
  · exact State.send_wf (modRouter_wf h)
  · exact modRouter_wf h
  · exact modRouter_wf h

theorem discardWaiting_wf (h : s.Wf maps mems) : (discardWaiting n port s).Wf maps mems :=
  foldState_wf (fun _ _ ht => ite_wf (discardFront_wf ht) ht) h

theorem failService_wf (h : s.Wf maps mems) : (failService n s).Wf maps mems := by
  fun_cases failService
  · exact h
  · exact readyEvent_wf (modHost_wf (fun _ hm => hm) h)

theorem failEnd_wf (h : s.Wf maps mems) : (failEnd n s).Wf maps mems := by
  fun_cases failEnd
  · exact loseCore_wf h
  · exact failCtl_wf h
  · exact foldState_wf (fun _ _ ht => failCtl_wf ht) h
  · exact failService_wf h
  · exact foldState_wf (fun _ _ ht => ite_wf (State.modLink_wf ht) (flushLink_wf ht)) h

theorem markCourse_wf (h : s.Wf maps mems) : (markCourse c s).Wf maps mems := State.setPb_wf (State.modCourse_wf h) (State.modCourse_wf h).pb

theorem failMeshLink_wf (h : s.Wf maps mems) : (failMeshLink n port m s).Wf maps mems :=
  markCourse_wf (markCourse_wf (failEnd_wf (failEnd_wf (discardWaiting_wf (State.modCourse_wf (modRouter_wf h))))))

theorem meshResync_wf (h : s.Wf maps mems) : (meshResync n port ok s).Wf maps mems := by
  fun_cases meshResync
  · exact h
  · exact h
  · exact modRouter_wf (modRouter_wf (State.modCourse_wf h))
  · exact failMeshLink_wf (State.modCourse_wf h)

theorem execMeshLinkResync_wf {port : Port} (h : s.Wf maps mems) : Answers maps mems (execMeshLinkResync node port ok s) :=
  answers_next (meshResync_wf h)

end

/-! ## Alerts, shells, power domains and budget -/

section
variable {i k l kind index d t m c j j1 p cap n code : Nat} {s : State} {value v setpoint : BitVec 16} {f : Shell → Shell} {reg : RegAddr}
  {who : ShellUser} {shell : ShellId} {result : Byte} {link : LinkNo} {h : HostIf} {target : BitVec 3} {ls : List Nat} {domain : DomainNo}
  {course : CourseNo} {up : Bool} {sensor : SensorNo} {level : ThermLevel}

theorem setAlert_wf (h : s.Wf maps mems) : (setAlert i s).Wf maps mems := by
  fun_cases setAlert
  · exact h
  · exact modHost_wf (fun _ hm => hm) h
  · exact modHost_wf (fun _ hm => hm) h

theorem execAlertCauseClear_wf {value : Word} (h : s.Wf maps mems) : Answers maps mems (execAlertCauseClear value s) :=
  answers_next (modHost_wf (fun _ hm => hm) h)

theorem modShell_wf (h : s.Wf maps mems) : (modShell k f s).Wf maps mems := h

theorem writeSetpoint_wf {who : Accessor} (h : s.Wf maps mems) : (writeSetpoint k v reg who s).Wf maps mems := by
  fun_cases writeSetpoint
  · exact logLock_wf h
  · exact h

theorem execShellSetpointWrite_wf (h : s.Wf maps mems) : Answers maps mems (execShellSetpointWrite who setpoint s) :=
  answers_next (by
    split
    · exact writeSetpoint_wf h
    · exact h)

theorem execShellCalibrate_wf (h : s.Wf maps mems) : Answers maps mems (execShellCalibrate who s) := answers_next (by split <;> exact h)

theorem execShellCalibrationDone_wf (h : s.Wf maps mems) : Answers maps mems (execShellCalibrationDone shell result s) :=
  answers_next (by
    split
    · split <;> exact h
    · exact h)

theorem lanesAligned_wf (h : s.Wf maps mems) : (lanesAligned l s).Wf maps mems := by
  fun_cases lanesAligned
  · exact foldState_wf (fun _ _ ht => ht) (State.modLink_wf h)
  · exact h

theorem execLanesAligned_wf (h : s.Wf maps mems) : Answers maps mems (execLanesAligned link s) := answers_next (lanesAligned_wf h)

theorem shellLoss_wf (h : s.Wf maps mems) : (shellLoss kind index s).Wf maps mems := by
  fun_cases shellLoss
  · exact foldState_wf (fun _ _ ht => loseCore_wf ht) h
  · exact laneLoss_wf h
  · exact foldState_wf (fun _ _ ht => failCtl_wf ht) h
  · exact failCtl_wf h
  · exact h

theorem execShellFault_wf (h : s.Wf maps mems) : Answers maps mems (execShellFault shell s) :=
  answers_next (by
    split
    · exact shellLoss_wf h
    · exact h)

theorem readyOff_wf (hm : h.Wf mems) : (readyOff d h).Wf mems := by
  fun_cases readyOff
  case case3 => exact HostIf.foldl_wf (fun _ hm1 _ => hm1) hm
  all_goals exact hm

theorem domLoses_wf (h : s.Wf maps mems) : (domLoses d s).Wf maps mems := by
  unfold domLoses
  extract_lets s1
  have h1 : s1.Wf maps mems := by
    refine ite_wf (foldState_wf (fun _ _ ht => State.setCore_wf ht Core.wf_default) h) (ite_wf ?_ h)
    obtain ⟨hc, hn, hr⟩ := h
    exact ⟨hc, MapWf.filter hn, hr⟩
  exact foldState_wf (fun _ _ ht => State.modCtl_wf ht fun _ _ => memWf_nil) h1

theorem domainDown_wf (h : s.Wf maps mems) : (domainDown d t s).Wf maps mems := by
  fun_cases domainDown
  · exact readyEvent_wf (modHost_wf (fun _ hm => readyOff_wf hm) (domLoses_wf h))
  · exact h

theorem orderDomain_wf (h : s.Wf maps mems) : (orderDomain d t s).Wf maps mems := by
  fun_cases orderDomain
  · exact domainDown_wf h
  · exact h
  · exact h

theorem pb1Orders_wf (h : s.Wf maps mems) : (pb1Orders d t s).Wf maps mems := pbDoes_wf (fun _ ht => orderDomain_wf ht) h

theorem takeTarget_wf {t : BitVec 3} (h : s.Wf maps mems) : (takeTarget d t s).Wf maps mems := by
  fun_cases takeTarget
  · exact h
  · exact h
  · exact orderDomain_wf h

theorem writeTarget_wf {t : BitVec 3} (h : s.Wf maps mems) : (writeTarget t s).Wf maps mems := by
  fun_cases writeTarget
  · exact h
  · exact pbDoes_wf (fun _ ht => takeTarget_wf ht) h

theorem execDomTargetWrite_wf (h : s.Wf maps mems) : Answers maps mems (execDomTargetWrite target s) := answers_next (writeTarget_wf h)

theorem readyOn_wf (hm : h.Wf mems) : (readyOn d s h).Wf mems := by
  fun_cases readyOn
  case case3 => exact HostIf.foldl_wf (fun _ hm1 _ => hm1) hm
  all_goals exact hm

theorem coursesReset_wf (h : s.Wf maps mems) : (coursesReset d s).Wf maps mems := by
  fun_cases coursesReset
  · exact foldState_wf (fun _ _ ht => State.modCore_wf ht (fun _ hc => resetCore_wf hc)) h
  · exact h

theorem enableLinks_wf (h : s.Wf maps mems) : (enableLinks ls s).Wf maps mems := by
  fun_cases enableLinks
  · exact admitLinks_wf (foldState_wf (fun _ _ ht => linkEnable_wf ht) h)
  · exact h

theorem domainArrives_wf (h : s.Wf maps mems) : (domainArrives d s).Wf maps mems := by
  fun_cases domainArrives
  · exact h
  · exact enableLinks_wf (ite_step_wf (ite_step_wf (ite_step_wf h coursesReset_wf)
      fun h2 => foldState_wf (fun _ _ ht => ht) (readyEvent_wf (modHost_wf (fun _ hm => readyOn_wf hm) h2))) fun h3 => ⟨h3.1, h3.2⟩)

theorem domainReached_wf (h : s.Wf maps mems) : (domainReached d s).Wf maps mems := by
  fun_cases domainReached
  · exact pbDoes_wf (fun _ ht => domainArrives_wf ht) h
  · exact domainArrives_wf h

theorem execDomainStateReached_wf (h : s.Wf maps mems) : Answers maps mems (execDomainStateReached domain s) := answers_next (domainReached_wf h)

theorem modMaster_wf {f : EmuMaster → EmuMaster} (h : s.Wf maps mems) : (modMaster m f s).Wf maps mems := modEmu_wf (fun _ hm => hm) h

theorem syncDiv_wf (h : s.Wf maps mems) : (syncDiv c s).Wf maps mems := State.modCourse_wf h

theorem revokeBoost_wf (h : s.Wf maps mems) : (revokeBoost c s).Wf maps mems := by
  fun_cases revokeBoost
  · exact syncDiv_wf h
  · exact h

theorem revokeNewest_wf (h : s.Wf maps mems) : (revokeNewest j j1 s).2.Wf maps mems := by
  fun_induction revokeNewest with
  | case1 => exact h
  | case2 => exact h
  | case3 => exact h
  | case4 need s fuel hn c hc ih => exact ih (revokeBoost_wf h)

theorem throttle_wf (h : s.Wf maps mems) : (throttle c s).Wf maps mems := syncDiv_wf (State.modCourse_wf h)

theorem throttleDown_wf {v : List Nat} (h : s.Wf maps mems) : (throttleDown v j s).Wf maps mems := by
  fun_induction throttleDown with
  | case1 => exact h
  | case2 => exact h
  | case3 s c cs need hn x hx ih => exact ih (throttle_wf h)
  | case4 s c cs need hn x hx ih => exact ih h

theorem restoreUp_wf (h : s.Wf maps mems) : (restoreUp s).Wf maps mems :=
  foldState_wf (fun _ _ ht => ite_wf (syncDiv_wf (State.modCourse_wf ht)) ht) h

theorem grantBoosts_wf (h : s.Wf maps mems) : (grantBoosts p cap s).Wf maps mems := by
  unfold grantBoosts
  extract_lets order
  clear_value order
  refine List.foldlRecOn (motive := fun r : Nat × State => State.Wf maps mems r.2) _ _ h fun r hr c _ => ?_
  exact snd_ite_wf (snd_wf (syncDiv_wf (modPwr_wf hr))) hr

theorem coolCourses_wf (h : s.Wf maps mems) : (coolCourses s).Wf maps mems :=
  foldState_wf (fun _ _ ht => ite_wf (throttle_wf (revokeBoost_wf ht)) ht) h

theorem powerBudget_wf (h : s.Wf maps mems) : (powerBudget p s).Wf maps mems := by
  fun_cases powerBudget
  · exact throttleDown_wf (revokeNewest_wf (coolCourses_wf h))
  · exact ite_wf (restoreUp_wf (coolCourses_wf h)) (coolCourses_wf h)
  · exact grantBoosts_wf (ite_wf (restoreUp_wf (coolCourses_wf h)) (coolCourses_wf h))

theorem dwellExpire_wf (h : s.Wf maps mems) : (dwellExpire c s).Wf maps mems := by
  fun_cases dwellExpire
  · exact syncDiv_wf (modPwr_wf (State.modCourse_wf h))
  · exact h

theorem execDwellExpire_wf (h : s.Wf maps mems) : Answers maps mems (execDwellExpire course s) := answers_next (dwellExpire_wf h)

theorem takeBack_wf (h : s.Wf maps mems) : (takeBack c s).Wf maps mems := State.modCourse_wf (modPwr_wf (revokeNewest_wf h))

theorem reclaimGrant_wf (h : s.Wf maps mems) : (reclaimGrant c s).Wf maps mems := by
  fun_cases reclaimGrant
  · exact courseSync_wf (syncDiv_wf (State.modCourse_wf (takeBack_wf h)))
  · exact h

theorem execReclaimGrant_wf (h : s.Wf maps mems) : Answers maps mems (execReclaimGrant course s) := answers_next (reclaimGrant_wf h)

theorem fastcap_wf (h : s.Wf maps mems) : (fastcap s).Wf maps mems := by
  unfold fastcap
  extract_lets step
  have hstep (c) (t : State) (ht : t.Wf maps mems) : (step c t).Wf maps mems := by
    dsimp only [step]
    split
    · exact revokeBoost_wf ht
    · exact throttle_wf ht
    · exact throttle_wf ht
    · exact ht
  exact modPwr_wf (foldState_wf hstep h)

theorem execFastcap_wf (h : s.Wf maps mems) : Answers maps mems (execFastcap s) := answers_next (fastcap_wf h)

theorem sensorReads_wf (h : s.Wf maps mems) : (sensorReads n v s).Wf maps mems := by
  unfold sensorReads
  extract_lets deg s1 s2 top
  have h1 : s1.Wf maps mems := modShell_wf h
  have h2 : s2.Wf maps mems := ite_wf (modInst_wf h1) (modInst_wf h1)
  clear_value top
  exact modEmu_wf (fun _ hm => show MemWf mems _ from hm) h2

theorem thermEvent_wf (h : s.Wf maps mems) : (thermEvent n v code s).Wf maps mems := setAlert_wf (State.health_wf h)

theorem thermalCrossing_wf {l : ThermLevel} (h : s.Wf maps mems) : (thermalCrossing n l up v s).Wf maps mems := by
  fun_cases thermalCrossing
  · exact thermEvent_wf (ite_step_wf (ite_step_wf (modPwr_wf (sensorReads_wf h)) syncDiv_wf) modPwr_wf)
  · exact thermEvent_wf (ite_step_wf (modPwr_wf (sensorReads_wf h)) syncDiv_wf)
  · exact sensorReads_wf h

theorem execThermalCrossing_wf (h : s.Wf maps mems) : Answers maps mems (execThermalCrossing sensor level up value s) :=
  answers_next (thermalCrossing_wf h)

theorem loseRegions_wf (h : s.Wf maps mems) : (loseRegions s).Wf maps mems :=
  State.setPb_wf (foldState_wf (fun _ _ ht => State.modCourse_wf ht) h) (foldState_wf (fun _ _ ht => State.modCourse_wf ht) h).pb

theorem dropLink_wf (h : s.Wf maps mems) : (dropLink l s).Wf maps mems := by
  fun_cases dropLink
  · exact linkEnable_wf h
  · exact h

theorem thermalTrip_wf (h : s.Wf maps mems) : (thermalTrip n v s).Wf maps mems := by
  unfold thermalTrip
  extract_lets s1 s2 s3 s4 s5 q
  have h1 : s1.Wf maps mems := sensorReads_wf h
  have h2 : s2.Wf maps mems := foldState_wf (fun _ _ ht => dropLink_wf ht) (loseRegions_wf h1)
  have h3 : s3.Wf maps mems := foldState_wf (fun _ _ ht => domLoses_wf ⟨ht.1, ht.2⟩) h2
  have h4 : s4.Wf maps mems := modHost_wf (fun _ hm => ⟨hm.hostMem, hm.storage⟩) h3
  have h5 : s5.Wf maps mems := modPwr_wf h4
  clear_value s1 s5 q
  exact ite_wf h1 (thermEvent_wf (readyEvent_wf ⟨h5.1, h5.2⟩))

theorem execThermalTrip_wf (h : s.Wf maps mems) : Answers maps mems (execThermalTrip sensor value s) := answers_next (thermalTrip_wf h)

end

/-! ## Queue pairs and messages -/

section
variable {fn q a id status detail opcode j : Nat} {f : Qp → Qp} {s : State} {v value lost : Word} {p : JEntry → Bool} {bs payload : List Byte}
  {e : HEvent}

theorem modQp_wf (h : s.Wf maps mems) : (modQp fn q f s).Wf maps mems := modHost_wf (fun _ hm => hm) h

theorem modHostErr_wf {f : HostErr → HostErr} (h : s.Wf maps mems) : (modHostErr fn f s).Wf maps mems := modHost_wf (fun _ hm => hm) h

theorem sqDoorbell_wf (h : s.Wf maps mems) : (sqDoorbell fn q v s).Wf maps mems := by
  fun_cases sqDoorbell
  · exact h
  · exact modHostErr_wf h
  · exact modQp_wf h

theorem execSqDoorbell_wf {fn : FnNo} {q : BitVec 6} (h : s.Wf maps mems) : Answers maps mems (execSqDoorbell fn q value s) :=
  answers_next (sqDoorbell_wf h)

theorem cqDoorbell_wf (h : s.Wf maps mems) : (cqDoorbell fn q v s).Wf maps mems := by
  fun_cases cqDoorbell
  · exact h
  · exact modHostErr_wf h
  · exact modQp_wf h

theorem execCqDoorbell_wf {fn : FnNo} {q : BitVec 6} (h : s.Wf maps mems) : Answers maps mems (execCqDoorbell fn q value s) :=
  answers_next (cqDoorbell_wf h)

theorem discardMsgs_wf (h : s.Wf maps mems) : (discardMsgs p s).Wf maps mems := modPb_wf (fun _ hm => hm) h

theorem qpConfig_wf (h : s.Wf maps mems) : (qpConfig fn q v s).Wf maps mems := by
  fun_cases qpConfig
  case case1 => exact h
  case case5 => exact discardMsgs_wf (modQp_wf h)
  all_goals exact modQp_wf h

theorem execQpEnable_wf {fn : FnNo} {q : BitVec 6} (h : s.Wf maps mems) : Answers maps mems (execQpEnable fn q value s) :=
  answers_next (qpConfig_wf h)

theorem State.writeHost_wf (h : s.Wf maps mems) : (s.writeHost a bs).Wf maps mems := modHost_wf (fun _ hm => ⟨hm.hostMem.write, hm.storage⟩) h

theorem messageTake_wf (h : s.Wf maps mems) : (messageTake s).Wf maps mems := by
  fun_cases messageTake
  · exact h
  · exact h
  · exact modHost_wf (fun _ hm => hm) (modPb_wf (fun _ hm => hm) (modQp_wf h))

theorem execMessageTake_wf (h : s.Wf maps mems) : Answers maps mems (execMessageTake s) := answers_next (messageTake_wf h)

theorem completeMsg_wf (h : s.Wf maps mems) : (completeMsg id status detail payload s).Wf maps mems := modPb_wf (fun _ hm => hm) h

theorem rerunJournal_wf (h : s.Wf maps mems) : (rerunJournal s).Wf maps mems := modPb_wf (fun _ hm => hm) h

theorem ringWrite_wf (h : s.Wf maps mems) : (ringWrite fn q bs s).Wf maps mems := by
  unfold ringWrite
  extract_lets x n flagged slots at_ s1 wrap fire s2
  have h1 : s1.Wf maps mems := foldState_wf (fun _ _ ht => State.writeHost_wf ht) h
  have h2 : s2.Wf maps mems := modQp_wf h1
  exact ite_wf ⟨h2.1, h2.2⟩ h2

theorem completionWrite_wf (h : s.Wf maps mems) : (completionWrite id s).Wf maps mems := by
  fun_cases completionWrite
  case case4 => exact modPb_wf (fun _ hm => hm) h
  case case5 => exact ringWrite_wf (modQp_wf (modPb_wf (fun _ hm => hm) h))
  all_goals exact h

theorem execCompletionWrite_wf (h : s.Wf maps mems) : Answers maps mems (execCompletionWrite id s) := answers_next (completionWrite_wf h)

theorem runMsg_wf {f : JEntry → State → State} (hf : ∀ e, ∀ t : State, t.Wf maps mems → (f e t).Wf maps mems) (h : s.Wf maps mems) :
    (runMsg id opcode f s).Wf maps mems := by
  fun_cases runMsg
  case case4 => exact modPb_wf (fun _ hm => hm) h
  case case5 => exact completeMsg_wf h
  case case6 => exact hf _ _ h
  all_goals exact h

theorem execHello_wf (h : s.Wf maps mems) : Answers maps mems (execHello id s) := answers_next (runMsg_wf (fun _ _ ht => completeMsg_wf ht) h)

theorem modRing_wf {f : RingEvents → RingEvents} (h : s.Wf maps mems) : (modRing fn f s).Wf maps mems := modHost_wf (fun _ hm => hm) h

theorem keepEvent_wf (h : s.Wf maps mems) : (keepEvent fn e lost s).Wf maps mems := modRing_wf h

theorem flushRing_wf (h : s.Wf maps mems) : (flushRing fn j s).Wf maps mems := by
  fun_induction flushRing with
  | case1 => exact h
  | case2 => exact h
  | case3 s fuel x e rest he hx ih => exact ih (ringWrite_wf (modRing_wf h))
  | case4 => exact h

theorem healthEvent_wf (h : s.Wf maps mems) : (healthEvent s).Wf maps mems := by
  fun_cases healthEvent
  · exact h
  · refine foldState_wf (fun _ _ ht => flushRing_wf ht) ?_
    dsimp +zetaDelta only
    split
    · exact h
    · split
      · split
        · exact keepEvent_wf (keepEvent_wf (modPb_wf (fun _ hm => hm) h))
        · exact keepEvent_wf (modPb_wf (fun _ hm => hm) h)
      · exact keepEvent_wf (modPb_wf (fun _ hm => hm) h)

theorem execHealthEvent_wf (h : s.Wf maps mems) : Answers maps mems (execHealthEvent s) := answers_next (healthEvent_wf h)

end

/-! ## Emulated registers -/

section
variable {w : ShadowWrite} {s : State} {why len off m c kind i p watts id : Nat} {v value stands : Word} {act : State → State} {master : Master}
  {offline loses : Bool} {f : Repair → Repair} {reqs : List PowerReq} {r : PowerReq} {e : JEntry}

theorem setShadow_wf (h : s.Wf maps mems) : (setShadow w s).Wf maps mems := by
  fun_cases setShadow
  case case2 => exact modMaster_wf h
  all_goals exact modEmu_wf (fun _ hm => hm) h

theorem shadowWrite_wf (h : s.Wf maps mems) : (shadowWrite w s).Wf maps mems := modEmu_wf (fun _ hm => hm) (modMaster_wf (setShadow_wf h))

theorem refuseEmu_wf (h : s.Wf maps mems) : (refuseEmu why w s).Wf maps mems := modEmu_wf (fun _ hm => hm) (modMaster_wf h)

theorem takeDoor_wf (h : s.Wf maps mems) : (takeDoor len s).Wf maps mems := by
  fun_cases takeDoor
  · exact refuseEmu_wf h
  · exact modEmu_wf (fun _ hm => hm) h

theorem takeDbgBuf_wf (h : s.Wf maps mems) : (takeDbgBuf off v s).Wf maps mems := by
  fun_cases takeDbgBuf
  · exact refuseEmu_wf h
  · exact modEmu_wf (fun _ hm => MemWf.write hm) h

theorem bmcWrites_wf {w : PbWork} (hf : ∀ x0 : State, x0.Wf maps mems → (act x0).Wf maps mems) (h : s.Wf maps mems) :
    (bmcWrites w act s).Wf maps mems :=
  pbDoes_wf (fun _ ht => hf _ ht) (ite_wf h (modMaster_wf h))

theorem doorWrite_wf (h : s.Wf maps mems) : (doorWrite len s).Wf maps mems := bmcWrites_wf (fun _ ht => takeDoor_wf ht) h

theorem dbgBufWrite_wf (h : s.Wf maps mems) : (dbgBufWrite off v s).Wf maps mems := bmcWrites_wf (fun _ ht => takeDbgBuf_wf ht) h

theorem emuOwnWrite_wf (h : s.Wf maps mems) : (emuOwnWrite m off v s).Wf maps mems := by
  fun_cases emuOwnWrite <;> exact modMaster_wf h

theorem instWrite_wf (h : s.Wf maps mems) : (instWrite m off v s).Wf maps mems := by
  fun_cases instWrite
  · exact modMaster_wf h
  · exact shadowWrite_wf h
  · exact h

theorem vfDenied_wf (h : s.Wf maps mems) : (vfDenied m off s).Wf maps mems := modMaster_wf h

theorem emuWrite_wf (h : s.Wf maps mems) : (emuWrite m off v s).Wf maps mems := by
  fun_cases emuWrite
  case case2 => exact emuOwnWrite_wf h
  case case3 => exact vfDenied_wf h
  case case4 => exact emuOwnWrite_wf h
  case case5 => exact shadowWrite_wf h
  case case6 => exact doorWrite_wf h
  case case8 => exact dbgBufWrite_wf h
  case case10 => exact instWrite_wf h
  all_goals exact h

theorem execEmuRegisterWrite_wf {off : BitVec 12} (h : s.Wf maps mems) : Answers maps mems (execEmuRegisterWrite master off value s) :=
  answers_next (emuWrite_wf h)

theorem execPowerCapWrite_wf (h : s.Wf maps mems) : Answers maps mems (execPowerCapWrite master value s) := answers_next (emuWrite_wf h)

theorem execInstOfflineRequest_wf (h : s.Wf maps mems) : Answers maps mems (execInstOfflineRequest master offline s) := answers_next (emuWrite_wf h)

theorem execDbgDoorWrite_wf {len : BitVec 11} (h : s.Wf maps mems) : Answers maps mems (execDbgDoorWrite len s) := answers_next (doorWrite_wf h)

theorem restoreShadow_wf (h : s.Wf maps mems) : (restoreShadow w v s).Wf maps mems := by
  fun_cases restoreShadow
  · exact h
  · exact setShadow_wf h

theorem refuseShadow_wf (h : s.Wf maps mems) : (refuseShadow why w s).Wf maps mems := refuseEmu_wf (restoreShadow_wf h)

theorem loadModule_wf (h : s.Wf maps mems) : (loadModule s).Wf maps mems := enableLinks_wf h

theorem applyShadow_wf (h : s.Wf maps mems) : (applyShadow w s).Wf maps mems := by
  fun_cases applyShadow
  · exact pbDoes_wf (fun _ ht => loadModule_wf ht) (modEmu_wf (fun _ hm => hm) h)
  · exact h
  · exact modEmu_wf (fun _ hm => hm) h
  · exact modEmu_wf (fun _ hm => hm) h
  · exact h

theorem syncPending_wf (h : s.Wf maps mems) : (syncPending s).Wf maps mems := foldState_wf (fun _ _ ht => modMaster_wf ht) h

theorem takeShadow_wf (h : s.Wf maps mems) : (takeShadow w s).Wf maps mems := by
  fun_cases takeShadow
  · exact refuseShadow_wf h
  · exact applyShadow_wf (restoreShadow_wf h)

theorem takeShadows_wf {v : List ShadowWrite} (h : s.Wf maps mems) : (takeShadows v s).Wf maps mems := by
  fun_induction takeShadows with
  | case1 => exact h
  | case2 s w ws ih => exact ih (takeShadow_wf (modEmu_wf (fun _ hm => hm) h))

theorem takeVerdict_wf {v : Verdict} (h : s.Wf maps mems) : (takeVerdict v s).Wf maps mems := by
  fun_cases takeVerdict
  · exact refuseEmu_wf (restoreShadow_wf h)
  · exact restoreShadow_wf h

theorem takeVerdicts_wf (h : s.Wf maps mems) : (takeVerdicts s).Wf maps mems := by
  fun_cases takeVerdicts
  · exact foldState_wf (fun _ _ ht => takeVerdict_wf ht) (modEmu_wf (fun _ hm => hm) h)
  · exact h

theorem emuShadowApply_wf (h : s.Wf maps mems) : (emuShadowApply s).Wf maps mems := by
  fun_cases emuShadowApply
  · exact syncPending_wf (takeShadows_wf (takeVerdicts_wf h))
  · exact h

theorem execEmuShadowApply_wf (h : s.Wf maps mems) : Answers maps mems (execEmuShadowApply s) := answers_next (emuShadowApply_wf h)

theorem modRepair_wf (h : s.Wf maps mems) : (modRepair c f s).Wf maps mems := modPb_wf (fun _ hm => hm) h

theorem instOut_wf (h : s.Wf maps mems) : (instOut kind i s).Wf maps mems := by
  fun_cases instOut
  · exact pb1Orders_wf (modRepair_wf (State.modCourse_wf (modInst_wf h)))
  · exact linkEnable_wf (modInst_wf h)
  · exact pb1Orders_wf (modInst_wf h)
  · exact readyEvent_wf (modHost_wf (fun _ hm => hm) (modInst_wf h))

theorem instIn_wf (h : s.Wf maps mems) : (instIn kind i s).Wf maps mems := by
  fun_cases instIn
  · exact modInst_wf h
  · exact pb1Orders_wf (modRepair_wf (State.modCourse_wf (modInst_wf h)))
  · exact enableLinks_wf (modInst_wf h)
  · exact pb1Orders_wf (modInst_wf h)
  · exact readyEvent_wf (modHost_wf (fun _ hm => hm) (modInst_wf h))

theorem instSync_wf (h : s.Wf maps mems) : (instSync kind i s).Wf maps mems := by
  fun_cases instSync
  · exact instOut_wf h
  · exact instIn_wf h
  · exact h

theorem rule_wf {off : BitVec 12} (h : s.Wf maps mems) : (rule m off i v stands loses s).Wf maps mems := modEmu_wf (fun _ hm => hm) h

theorem resolveReq_wf (h : s.Wf maps mems) : (resolveReq reqs r s).Wf maps mems := by
  fun_cases resolveReq
  · exact rule_wf (modMaster_wf h)
  · exact completeMsg_wf h
  · exact completeMsg_wf (restoreShadow_wf (modMaster_wf h))
  · exact rule_wf (instSync_wf (modEmu_wf (fun _ hm => hm) h))
  · exact h
  · exact h

theorem resolveReqs_wf (h : s.Wf maps mems) : (resolveReqs s).Wf maps mems :=
  syncPending_wf (takeVerdicts_wf (foldState_wf (fun _ _ ht => resolveReq_wf ht) h))

theorem sampleInput_wf (h : s.Wf maps mems) : (sampleInput p s).Wf maps mems := modEmu_wf (fun _ hm => hm) h

theorem powerTick_wf (h : s.Wf maps mems) : (powerTick p s).Wf maps mems := by
  fun_cases powerTick
  · exact powerBudget_wf (resolveReqs_wf (sampleInput_wf h))
  · exact h

theorem execPowerTick_wf (h : s.Wf maps mems) : Answers maps mems (execPowerTick watts s) := answers_next (powerTick_wf h)

theorem powerCapMsg_wf (h : s.Wf maps mems) : (powerCapMsg id e s).Wf maps mems := by
  fun_cases powerCapMsg
  · exact h
  · exact completeMsg_wf h
  · exact h

theorem execPowerCapMsg_wf (h : s.Wf maps mems) : Answers maps mems (execPowerCapMsg id s) :=
  answers_next (runMsg_wf (fun _ _ ht => powerCapMsg_wf ht) h)

end

/-! ## Debug sessions -/

section
variable {s : State} {t : NodeNo × ThreadNo} {p : Session → Bool} {ns : List Nat} {x : Spot} {bs : List Byte} {r a : Nat}

theorem syncSessions_wf (h : s.Wf maps mems) : (syncSessions s).Wf maps mems := h

theorem freeThread_wf (h : s.Wf maps mems) : (freeThread t s).Wf maps mems := modCtlPage_wf (releaseThread_wf h)

theorem endSessions_wf (h : s.Wf maps mems) : (endSessions p s).Wf maps mems :=
  syncSessions_wf (modSec_wf (foldState_wf (fun _ _ ht => freeThread_wf ht) h))

theorem dropParked_wf (h : s.Wf maps mems) : (dropParked ns s).Wf maps mems := h

theorem writeSpot_wf (h : s.Wf maps mems) : (writeSpot x bs s).Wf maps mems := by
  fun_cases writeSpot
  · exact ctlWrite_wf h
  · exact State.modCore_wf h fun _ hc => Core.modMem_wf hc (fun _ hm => CoreMem.writeScratch_wf hm)

theorem regionWrite_wf (h : s.Wf maps mems) : (regionWrite r a bs s).Wf maps mems :=
  foldState_wf (fun _ _ ht => by
    split
    · exact writeSpot_wf ht
    · exact ht) h

end

/-! ## Regions and images -/

section
variable {r n cx0 cy0 cx1 cy1 c id i l handle : Nat} {s : State} {e : JEntry} {image im : Image} {d : Option CoreDecl} {pl : Placement}
  {t : ThreadDecl} {region : RegionNo}

theorem afterReset_wf (h : s.Wf maps mems) : (afterReset r n s).Wf maps mems := modCtlPage_wf h

theorem takeCourse_wf (h : s.Wf maps mems) : (takeCourse r cx0 cy0 cx1 cy1 c s).Wf maps mems :=
  syncDiv_wf (foldState_wf (fun _ _ ht => State.modCore_wf ht (fun _ hc => clearCounters_wf (resetCore_wf hc)))
    (State.modCourse_wf (takeBack_wf (foldState_wf (fun _ _ ht => ht) h))))

theorem regionCreate_wf (h : s.Wf maps mems) : (regionCreate id e s).Wf maps mems := by
  fun_cases regionCreate
  case case5 => exact h
  case case6 => exact completeMsg_wf (foldState_wf (fun _ _ ht => afterReset_wf ht) (foldState_wf (fun _ _ ht => takeCourse_wf ht) h))
  all_goals exact completeMsg_wf h

theorem execRegionCreate_wf (h : s.Wf maps mems) : Answers maps mems (execRegionCreate id s) :=
  answers_next (runMsg_wf (fun _ _ ht => regionCreate_wf ht) h)

theorem scrubCoreAll_wf (h : s.Wf maps mems) : (scrubCoreAll n s).Wf maps mems :=
  State.modCore_wf h fun _ _ => ⟨⟨memWf_nil, memWf_nil⟩, nofun⟩

theorem scrubCtlAll_wf (h : s.Wf maps mems) : (scrubCtlAll i s).Wf maps mems := State.modCtl_wf h fun _ _ => memWf_nil

theorem freeLink_wf (h : s.Wf maps mems) : (freeLink l s).Wf maps mems := State.modLink_wf (ite_wf h (flushLink_wf h))

theorem withhold_wf (h : s.Wf maps mems) : (withhold c s).Wf maps mems :=
  readyEvent_wf (modHost_wf (fun _ hm => hm) (modInst_wf (modRepair_wf (State.modCourse_wf h))))

theorem applySpare_wf (h : s.Wf maps mems) : (applySpare c s).Wf maps mems := by
  fun_cases applySpare
  · exact h
  · exact withhold_wf (modRepair_wf h)
  · exact State.modCourse_wf (modRepair_wf (modRepair_wf h))

theorem freeCourse_wf (h : s.Wf maps mems) : (freeCourse c s).Wf maps mems :=
  foldState_wf (fun _ _ ht => instSync_wf ht) (foldState_wf (fun _ _ ht => instSync_wf ht)
    (instSync_wf (instSync_wf (pb1Orders_wf (applySpare_wf (State.modCourse_wf h))))))

theorem forgetRegion_wf (h : s.Wf maps mems) : (forgetRegion r s).Wf maps mems :=
  modPb_wf (fun _ hm => hm) (modSec_wf (dropParked_wf (endSessions_wf h)))

theorem tearDown_wf (h : s.Wf maps mems) : (tearDown r s).Wf maps mems :=
  foldState_wf (fun _ _ ht => freeCourse_wf ht) (forgetRegion_wf
    (foldState_wf (fun _ _ ht => freeLink_wf ht) (foldState_wf (fun _ _ ht => scrubCtlAll_wf ht)
      (foldState_wf (fun _ _ ht => scrubCoreAll_wf ht) h))))

theorem haltRegion_wf (h : s.Wf maps mems) : (haltRegion r s).Wf maps mems := foldState_wf (fun _ _ ht => ite_wf ht (settle_wf (haltCore_wf ht))) h

theorem destroyRegion_wf (h : s.Wf maps mems) : (destroyRegion r s).2.Wf maps mems := by
  fun_cases destroyRegion
  · exact haltRegion_wf h
  · exact tearDown_wf (haltRegion_wf h)

theorem regionDestroy_wf (h : s.Wf maps mems) : (regionDestroy id e s).Wf maps mems := by
  fun_cases regionDestroy
  · exact completeMsg_wf (destroyRegion_wf h)
  · exact destroyRegion_wf h

theorem execRegionDestroy_wf (h : s.Wf maps mems) : Answers maps mems (execRegionDestroy id s) :=
  answers_next (runMsg_wf (fun _ _ ht => regionDestroy_wf ht) h)

theorem loadImage_wf (h : s.Wf maps mems) : (loadImage id e image s).Wf maps mems := by
  fun_cases loadImage
  · exact completeMsg_wf h
  · exact completeMsg_wf (modPb_wf (fun _ hm => hm) h)

theorem execLoadImage_wf (h : s.Wf maps mems) : Answers maps mems (execLoadImage id image s) :=
  answers_next (runMsg_wf (fun _ _ ht => loadImage_wf ht) h)

theorem loadCore_wf (h : s.Wf maps mems) : (loadCore r n d s).Wf maps mems := by
  unfold loadCore
  extract_lets s1 s2
  have h1 : s1.Wf maps mems := modCtlPage_wf (afterReset_wf h)
  have h2 : s2.Wf maps mems := foldState_wf (fun _ _ ht => State.modThread_wf ht) h1
  clear_value s2
  refine State.modCore_wf h2 fun _ hc => Core.modMem_wf hc fun _ hm => ?_
  exact CoreMem.foldl_wf (fun _ hm _ => CoreMem.writeScratch_wf hm) (CoreMem.foldl_wf (fun _ hm _ => CoreMem.writeImem_wf hm) hm)

theorem loadThread_wf (h : s.Wf maps mems) : (loadThread r n im pl t s).Wf maps mems := startThread_wf (State.modThread_wf h)

theorem launchBoost_wf (h : s.Wf maps mems) : (launchBoost r im s).Wf maps mems := h

theorem startProgram_wf (h : s.Wf maps mems) : (startProgram r handle im pl s).Wf maps mems :=
  foldState_wf (fun _ _ ht => settle_wf ht) (modPb_wf (fun _ hm => hm)
    (foldState_wf (fun _ _ ht => foldState_wf (fun _ _ ht1 => loadThread_wf ht1) ht)
      (foldState_wf (fun _ _ ht => regionWrite_wf ht) (foldState_wf (fun _ _ ht => loadCore_wf ht)
        (launchBoost_wf (foldState_wf (fun _ _ ht => syncDiv_wf (State.modCourse_wf (takeBack_wf ht)))
          (foldState_wf (fun _ _ ht => State.modCore_wf ht (fun _ hc => resetCore_wf hc)) (dropParked_wf (endSessions_wf h)))))))))

theorem launch_wf (h : s.Wf maps mems) : (launch id e s).Wf maps mems := by
  have hmsg {st d p} : (completeMsg id st d p s).Wf maps mems := completeMsg_wf h
  unfold launch
  extract_lets r f
  refine ite_wf hmsg ?_
  split
  · exact hmsg
  · extract_lets ck
    clear_value ck
    refine ite_wf hmsg (ite_wf hmsg ?_)
    split
    · exact hmsg
    · refine ite_wf hmsg (ite_wf (completeMsg_wf (startProgram_wf h)) ?_)
      exact foldState_wf (fun _ _ ht => foldState_wf (fun _ _ ht => abortChan_wf ht) ht) h

theorem execLaunch_wf (h : s.Wf maps mems) : Answers maps mems (execLaunch id s) := answers_next (runMsg_wf (fun _ _ ht => launch_wf ht) h)

theorem programEnd_wf (h : s.Wf maps mems) : (programEnd r s).Wf maps mems := by
  fun_cases programEnd
  · exact h
  · exact State.health_wf (modPb_wf (fun _ hm => hm) h)
  · exact h

theorem execProgramEnd_wf (h : s.Wf maps mems) : Answers maps mems (execProgramEnd region s) := answers_next (programEnd_wf h)

theorem signalFull_wf (h : s.Wf maps mems) : (signalFull id n s).Wf maps mems := modPb_wf (fun _ hm => hm) (modCtlPage_wf h)

theorem signal_wf (h : s.Wf maps mems) : (signal id e s).Wf maps mems := by
  fun_cases signal
  case case7 => exact h
  case case8 => exact signalFull_wf h
  case case9 => exact completeMsg_wf (settle_wf (acceptMsg_wf h))
  all_goals exact completeMsg_wf h

theorem execSignal_wf (h : s.Wf maps mems) : Answers maps mems (execSignal id s) := answers_next (runMsg_wf (fun _ _ ht => signal_wf ht) h)

theorem query_wf (h : s.Wf maps mems) : (query id e s).Wf maps mems := by
  fun_cases query <;> exact completeMsg_wf h

theorem execQuery_wf (h : s.Wf maps mems) : Answers maps mems (execQuery id s) := answers_next (runMsg_wf (fun _ _ ht => query_wf ht) h)

end

/-! ## The security node -/

section
variable {v : Word} {s : State} {r : TraceRec} {n : Nat} {k : ThreadNo} {written : Bool} {data : BitVec 128}

theorem writeTraceCtl_wf (h : s.Wf maps mems) : (writeTraceCtl v s).Wf maps mems := modHost_wf (fun _ hm => hm) h

theorem writeTraceBase_wf {v : DWord} (h : s.Wf maps mems) : (writeTraceBase v s).Wf maps mems := by
  fun_cases writeTraceBase <;> exact h

theorem writeTraceLen_wf (h : s.Wf maps mems) : (writeTraceLen v s).Wf maps mems := by
  fun_cases writeTraceLen <;> exact h

theorem traceWrite_wf (h : s.Wf maps mems) : (traceWrite r s).Wf maps mems := by
  fun_cases traceWrite
  · exact h
  · exact h
  · exact modSec_wf (regionWrite_wf h)

theorem traceRecord_wf (h : s.Wf maps mems) : (traceRecord n k written s).Wf maps mems := by
  fun_cases traceRecord
  case case4 => exact traceWrite_wf h
  all_goals exact h

theorem execExtest_wf (h : s.Wf maps mems) : Answers maps mems (execExtest s) := answers_next h

theorem execIdcode_wf (h : s.Wf maps mems) : Answers maps mems (execIdcode s) := answers_next ⟨h.1, h.2⟩

theorem execSamplePreload_wf (h : s.Wf maps mems) : Answers maps mems (execSamplePreload s) := answers_next h

theorem execDbgacc_wf (h : s.Wf maps mems) : Answers maps mems (execDbgacc data s) := answers_next h

theorem execBypass_wf (h : s.Wf maps mems) : Answers maps mems (execBypass s) := answers_next h

end

/-! ## Pegbox's images and restarts -/

section
variable {n : Nat} {s : State} {v value : Word} {who : Accessor}

theorem restartPb_wf (h : s.Wf maps mems) : (restartPb n s).Wf maps mems := by
  refine readyEvent_wf (modPb_wf (fun b hb => ?_) h)
  have hl : ∀ e ∈ mapSet [] b.localMem n [], ListedWf mems e.2 := forall_mapSet hb.localMem listedWf_nil
  exact ⟨hb.flashA, hb.flashB, hl, hb.shared⟩

theorem pbCtlTake_wf (h : s.Wf maps mems) : (pbCtlTake v s).Wf maps mems :=
  foldState_wf (fun _ _ ht => ite_wf (restartPb_wf ht) ht) (modPb_wf (fun _ hm => hm) h)

theorem pbCtlWrite_wf (h : s.Wf maps mems) : (pbCtlWrite who v s).Wf maps mems := by
  fun_cases pbCtlWrite
  · exact pbDoes_wf (fun _ ht => pbCtlTake_wf ht) h
  · exact h

theorem execPbReset_wf (h : s.Wf maps mems) : Answers maps mems (execPbReset who value s) := answers_next (pbCtlWrite_wf h)

theorem pbKick_wf (h : s.Wf maps mems) : (pbKick n s).Wf maps mems := by
  fun_cases pbKick
  · exact h
  · exact modPb_wf (fun _ hm => hm) h

theorem execPbKick_wf {n : PbNo} (h : s.Wf maps mems) : Answers maps mems (execPbKick n s) := answers_next (pbKick_wf h)

end

/-! ## Registers reached by offset -/

section
variable {c off n k f q : Nat} {v lo hi value : Word} {s : State} {who : Accessor} {reg a : RegAddr} {r : WideReg} {size : AccessSize}

theorem spareWrite_wf (h : s.Wf maps mems) : (spareWrite c v s).Wf maps mems := by
  fun_cases spareWrite
  · exact State.modCourse_wf h
  · exact readyEvent_wf (modHost_wf (fun _ hm => hm) (State.modCourse_wf h))

theorem meshPageWrite_wf (h : s.Wf maps mems) : (meshPageWrite c off v s).Wf maps mems := by
  fun_cases meshPageWrite
  case case1 => exact courseSync_wf (State.modCourse_wf h)
  case case2 => exact spareWrite_wf h
  case case9 => exact h
  all_goals exact State.modCourse_wf h

theorem linkPageWrite_wf (h : s.Wf maps mems) : (linkPageWrite n off v s).Wf maps mems := by
  fun_cases linkPageWrite
  case case1 => exact modLnode_wf h
  case case2 => exact linkCtlWrite_wf h
  case case6 => exact modLnode_wf h
  case case7 => exact h
  case case8 => exact pbDoes_wf (fun _ ht => ht) h
  case case9 => exact h
  all_goals exact State.modLink_wf h

theorem pbPageWrite_wf (h : s.Wf maps mems) : (pbPageWrite who off v s).Wf maps mems := by
  fun_cases pbPageWrite
  · exact pbCtlWrite_wf h
  · exact modPb_wf (fun _ hm => hm) h
  · exact modPb_wf (fun _ hm => hm) h
  · exact pbKick_wf h
  · exact h

theorem writeShellCtl_wf (h : s.Wf maps mems) : (writeShellCtl k reg who v s).Wf maps mems := modShell_wf (writeSetpoint_wf h)

theorem writeTrim_wf (h : s.Wf maps mems) : (writeTrim k reg who v s).Wf maps mems := by
  fun_cases writeTrim
  · exact logLock_wf h
  · exact h

theorem shellWrite_wf (h : s.Wf maps mems) : (shellWrite k off reg who v s).Wf maps mems := by
  fun_cases shellWrite
  case case1 => exact writeShellCtl_wf h
  case case4 => exact writeTrim_wf h
  all_goals exact h

theorem pwrPageWrite_wf (h : s.Wf maps mems) : (pwrPageWrite who off v s).Wf maps mems := by
  fun_cases pwrPageWrite
  case case2 => exact shellWrite_wf h
  case case5 => exact writeTarget_wf (ite_wf h h)
  case case6 => exact ite_wf h h
  all_goals exact h

theorem writeSecCtl_wf (h : s.Wf maps mems) : (writeSecCtl reg who v s).Wf maps mems := by
  fun_cases writeSecCtl
  · exact logLock_wf h
  · exact h

theorem secPageWrite_wf (h : s.Wf maps mems) : (secPageWrite reg who off v s).Wf maps mems := by
  fun_cases secPageWrite
  · exact writeSecCtl_wf h
  · exact writeTraceCtl_wf h
  · exact writeTraceLen_wf h
  · exact h

theorem statusWrite_wf (h : s.Wf maps mems) : (statusWrite f off v s).Wf maps mems := by
  fun_cases statusWrite
  · exact modHostErr_wf h
  · exact h
  · exact modHost_wf (fun _ hm => hm) h
  · exact modHost_wf (fun _ hm => hm) h
  · exact h

theorem qpWrite_wf {r : Nat} (h : s.Wf maps mems) : (qpWrite f q r v s).Wf maps mems := by
  fun_cases qpWrite
  · exact qpConfig_wf h
  · exact sqDoorbell_wf h
  · exact cqDoorbell_wf h
  · exact modQp_wf h
  · exact h

theorem barWrite_wf {f : FnNo} (h : s.Wf maps mems) : (barWrite f who off v s).Wf maps mems := by
  fun_cases barWrite
  · exact emuWrite_wf h
  · exact qpWrite_wf h
  · exact statusWrite_wf h

theorem writeAperture_wf {f : FnNo} {v : DWord} (h : s.Wf maps mems) : (writeAperture f v s).Wf maps mems := modHost_wf (fun _ hm => hm) h

theorem wideTake_wf (h : s.Wf maps mems) : (wideTake r lo hi s).Wf maps mems := by
  fun_cases wideTake
  · exact railEntryWrite_wf h
  · exact writeTraceBase_wf h
  · exact writeAperture_wf h
  · exact modQp_wf h
  · exact modQp_wf h

theorem wideHighWrite_wf (h : s.Wf maps mems) : (wideHighWrite who r v s).Wf maps mems := wideTake_wf h

theorem wideHighRead_wf (h : s.Wf maps mems) : (wideHighRead who r s).2.Wf maps mems := ite_wf (railAdvance_wf h) h

theorem blockWrite_wf (h : s.Wf maps mems) : (blockWrite n off who v s).Wf maps mems := by
  fun_cases blockWrite
  case case1 => exact settle_wf (corePageWrite_wf h)
  case case3 => exact meshPageWrite_wf h
  case case4 => exact linkPageWrite_wf h
  case case6 => exact pbPageWrite_wf h
  case case7 => exact pwrPageWrite_wf h
  case case8 => exact secPageWrite_wf h
  all_goals exact h

theorem regRead_wf (h : s.Wf maps mems) : (regRead who a s).2.Wf maps mems := by
  fun_cases regRead
  case case2 => exact wideHighRead_wf h
  all_goals exact h

theorem regWrite_wf (h : s.Wf maps mems) : (regWrite who a v s).Wf maps mems := by
  fun_cases regWrite
  case case2 => exact wideHighWrite_wf h
  case case3 => exact blockWrite_wf h
  case case5 => exact barWrite_wf h
  all_goals exact h

theorem registerWrite_wf (h : s.Wf maps mems) : (registerWrite who reg size v s).Wf maps mems := by
  fun_cases registerWrite
  · exact regWrite_wf h
  · exact h

theorem execRegisterWrite_wf (h : s.Wf maps mems) : Answers maps mems (execRegisterWrite who reg size value s) := answers_next (registerWrite_wf h)

theorem execWideLowWrite_wf (h : s.Wf maps mems) : Answers maps mems (execWideLowWrite who reg value s) := answers_next (by split <;> exact h)

theorem execWideHighWrite_wf (h : s.Wf maps mems) : Answers maps mems (execWideHighWrite who reg value s) :=
  answers_next (by
    split
    · exact wideHighWrite_wf h
    · exact h)

theorem returned_wf {r : Word × State} (hm : r.2.Wf maps mems) : (returned r).Wf maps mems := hm

theorem execWideLowRead_wf (h : s.Wf maps mems) : Answers maps mems (execWideLowRead who reg s) :=
  answers_next (by
    split
    · exact returned_wf h
    · exact h)

theorem execWideHighRead_wf (h : s.Wf maps mems) : Answers maps mems (execWideHighRead who reg s) :=
  answers_next (by
    split
    · exact returned_wf (wideHighRead_wf h)
    · exact h)

theorem execRailEntryWrite_wf (h : s.Wf maps mems) : Answers maps mems (execRailEntryWrite who value s) :=
  answers_next (ite_wf (wideHighWrite_wf h) h)

end

/-! ## Debug requests and lifecycle -/

section
variable {p path : DbgPath} {status n lo a off len id : Nat} {data t bs token : List Byte} {s : State} {level : BitVec 2} {r : Option Nat}
  {add plain good written : Bool} {ts : List (NodeNo × ThreadNo)} {mask : BitVec 4} {k thread : ThreadNo} {f : State → State} {sel ctl : Word}
  {c : Option PbNo} {base : DWord} {target : BitVec 3} {fn : FnNo} {code index : Byte} {nonce : BitVec 256} {node : NodeNo}

theorem respond_wf (h : s.Wf maps mems) : (respond p status data s).Wf maps mems := by
  fun_cases respond
  · exact modEmu_wf (fun _ hm => MemWf.write hm) h
  · exact h

theorem serveNonce_wf (h : s.Wf maps mems) : (serveNonce p s).Wf maps mems := respond_wf h

theorem openTenant_wf (h : s.Wf maps mems) : (openTenant p t s).Wf maps mems := by
  fun_cases openTenant <;> exact respond_wf h

theorem serveOpen_wf (h : s.Wf maps mems) : (serveOpen p level t s).Wf maps mems := by
  fun_cases serveOpen
  case case4 => exact openTenant_wf h
  all_goals exact respond_wf h

theorem serveEnd_wf (h : s.Wf maps mems) : (serveEnd p s).Wf maps mems := by
  fun_cases serveEnd
  · exact respond_wf h
  · exact respond_wf (endSessions_wf h)

theorem markDone_wf (h : s.Wf maps mems) : (markDone r s).Wf maps mems := by
  fun_cases markDone <;> exact h

theorem holdThreads_wf (h : s.Wf maps mems) : (holdThreads p r add ts s).Wf maps mems := h

theorem stopUngates_wf (h : s.Wf maps mems) : (stopUngates n s).Wf maps mems := by
  fun_cases stopUngates
  · exact State.modCourse_wf h
  · exact h

theorem serveCtl_wf {n : NodeNo} (h : s.Wf maps mems) : (serveCtl p n mask lo s).Wf maps mems := by
  fun_cases serveCtl
  case case5 => exact respond_wf (settle_wf (holdThreads_wf (markDone_wf (corePageWrite_wf (ite_wf h (stopUngates_wf h))))))
  all_goals exact respond_wf h

theorem readMemory_wf {r : Nat} (h : s.Wf maps mems) : (readMemory p r a n s).Wf maps mems := by
  fun_cases readMemory
  case case2 | case6 => exact respond_wf (markDone_wf h)
  all_goals exact respond_wf h

theorem writeMemory_wf {r : Nat} (h : s.Wf maps mems) : (writeMemory p r a bs s).Wf maps mems := by
  fun_cases writeMemory
  case case2 => exact respond_wf (markDone_wf (State.modCore_wf h (fun _ hc => Core.modMem_wf hc (fun _ hm => CoreMem.writeImem_wf hm))))
  case case6 => exact respond_wf (markDone_wf (regionWrite_wf h))
  all_goals exact respond_wf h

theorem threadTarget_wf {n : NodeNo} (hf : ∀ x0 : State, x0.Wf maps mems → (f x0).Wf maps mems) (h : s.Wf maps mems) :
    (threadTarget p n k f s).Wf maps mems := by
  fun_cases threadTarget
  case case5 => exact hf _ (markDone_wf h)
  all_goals exact respond_wf h

theorem selecting_wf {a : RegAddr} (h : s.Wf maps mems) : (selecting a sel s).Wf maps mems := by
  fun_cases selecting
  case case2 => exact modLnode_wf h
  all_goals exact h

theorem regTarget_wf {a : RegAddr} (hf : ∀ x0 : State, x0.Wf maps mems → (f x0).Wf maps mems) (h : s.Wf maps mems) :
    (regTarget p a plain f s).Wf maps mems := by
  unfold regTarget
  refine ite_wf (respond_wf h) (ite_wf (respond_wf h) ?_)
  split
  · exact ite_wf (hf _ h) (ite_wf (respond_wf h) (respond_wf h))
  · exact hf _ h

theorem pbMemory_wf (h : s.Wf maps mems) : ListedWf mems (pbMemory s c) := by
  cases c with
  | none => exact h.pb.shared
  | some n => exact mapGet_of_forall (P := ListedWf mems) h.pb.localMem listedWf_nil _

theorem writePbMem_wf (h : s.Wf maps mems) : (writePbMem c off bs s).Wf maps mems := by
  unfold writePbMem
  extract_lets m
  have hm : ListedWf mems m :=
    List.foldlRecOn (motive := ListedWf mems) _ _ (pbMemory_wf h) fun m hm i _ hmems => listedWf_mapPut m _ _ (hm hmems)
  clear_value m
  refine modPb_wf (fun b hb => ?_) h
  split
  · exact ⟨hb.flashA, hb.flashB, forall_mapSet (P := ListedWf mems) hb.localMem hm, hb.shared⟩
  · exact ⟨hb.flashA, hb.flashB, hb.localMem, hm⟩

theorem fullTarget_wf (hf : ∀ x0 : State, x0.Wf maps mems → (f x0).Wf maps mems) (h : s.Wf maps mems) : (fullTarget p good f s).Wf maps mems := by
  fun_cases fullTarget
  · exact respond_wf h
  · exact respond_wf h
  · exact hf _ h

theorem serveDbgRead_wf {t : DbgTarget} (h : s.Wf maps mems) : (serveDbgRead p t len s).Wf maps mems := by
  fun_cases serveDbgRead
  case case1 => exact regTarget_wf (fun _ ht => respond_wf (regRead_wf (selecting_wf ht))) h
  case case4 | case5 => exact fullTarget_wf (fun _ ht => respond_wf ht) h
  case case8 => exact readMemory_wf h
  case case9 => exact threadTarget_wf (fun _ ht => (by split <;> exact respond_wf ht)) h
  all_goals exact respond_wf h

theorem serveDbgWrite_wf {t : DbgTarget} (h : s.Wf maps mems) : (serveDbgWrite p t data s).Wf maps mems := by
  fun_cases serveDbgWrite
  · exact regTarget_wf (fun _ ht => respond_wf (regWrite_wf (selecting_wf ht))) h
  · exact fullTarget_wf (fun _ ht => ht) h
  · exact fullTarget_wf (fun _ ht => respond_wf (writePbMem_wf ht)) h
  · exact fullTarget_wf (fun _ ht => respond_wf (modPb_wf (fun _ hm => hm) ht)) h
  · exact respond_wf h
  · exact respond_wf h
  · exact writeMemory_wf h
  · exact threadTarget_wf (fun _ ht => by
      split
      · exact respond_wf (State.setThread_wf ht)
      · exact respond_wf ht) h

theorem serveTrace_wf {len : Word} (h : s.Wf maps mems) : (serveTrace p ctl base len s).Wf maps mems := by
  fun_cases serveTrace
  case case4 => exact respond_wf (markDone_wf (writeTraceCtl_wf (writeTraceLen_wf (writeTraceBase_wf h))))
  all_goals exact respond_wf h

theorem serveLifecycle_wf (h : s.Wf maps mems) : (serveLifecycle p target t s).Wf maps mems := by
  fun_cases serveLifecycle <;> exact respond_wf h

theorem serveSpdm_wf (h : s.Wf maps mems) : (serveSpdm fn code index nonce s).Wf maps mems := by
  fun_cases serveSpdm <;> exact h

theorem serveReq_wf {r : Pb0Req} (h : s.Wf maps mems) : (serveReq r s).Wf maps mems := by
  fun_cases serveReq
  case case1 => exact serveNonce_wf h
  case case2 => exact serveOpen_wf h
  case case3 => exact serveEnd_wf h
  case case7 => exact serveDbgRead_wf h
  case case8 => exact serveDbgWrite_wf h
  case case9 => exact serveTrace_wf h
  case case10 => exact serveLifecycle_wf h
  case case11 => exact serveSpdm_wf h
  all_goals exact serveCtl_wf h

theorem takeReq0_wf {r : Pb0Req} (h : s.Wf maps mems) : (takeReq0 r s).Wf maps mems := by
  fun_cases takeReq0
  · exact h
  · exact serveReq_wf (ite_wf h h)
  · exact modSec_wf (ite_wf h h)

theorem serveWaiting_wf (h : s.Wf maps mems) : (serveWaiting s).Wf maps mems := foldState_wf (fun _ _ ht => serveReq_wf ht) h

theorem execNonce_wf (h : s.Wf maps mems) : Answers maps mems (execNonce path s) := answers_next (takeReq0_wf h)

theorem execDbgOpen_wf (h : s.Wf maps mems) : Answers maps mems (execDbgOpen path level token s) := answers_next (takeReq0_wf h)

theorem execDbgEnd_wf (h : s.Wf maps mems) : Answers maps mems (execDbgEnd path s) := answers_next (takeReq0_wf h)

theorem execDbgStop_wf (h : s.Wf maps mems) : Answers maps mems (execDbgStop path node mask s) := answers_next (takeReq0_wf h)

theorem execDbgRelease_wf (h : s.Wf maps mems) : Answers maps mems (execDbgRelease path node mask s) := answers_next (takeReq0_wf h)

theorem execDbgStep_wf (h : s.Wf maps mems) : Answers maps mems (execDbgStep path node mask s) := answers_next (takeReq0_wf h)

theorem execDbgRead_wf {target : DbgTarget} (h : s.Wf maps mems) : Answers maps mems (execDbgRead path target len s) := answers_next (takeReq0_wf h)

theorem execDbgWrite_wf {target : DbgTarget} (h : s.Wf maps mems) : Answers maps mems (execDbgWrite path target data s) :=
  answers_next (takeReq0_wf h)

theorem execTrace_wf {base : BitVec 64} {len : Word} (h : s.Wf maps mems) : Answers maps mems (execTrace path ctl base len s) :=
  answers_next (takeReq0_wf h)

theorem execLifecycleTransition_wf (h : s.Wf maps mems) : Answers maps mems (execLifecycleTransition path target token s) :=
  answers_next (takeReq0_wf h)

theorem execTraceRecord_wf (h : s.Wf maps mems) : Answers maps mems (execTraceRecord node thread written s) := answers_atCore (traceRecord_wf h)

theorem execSessionExpire_wf (h : s.Wf maps mems) : Answers maps mems (execSessionExpire id s) := answers_next (endSessions_wf h)

theorem execNonceLapse_wf (h : s.Wf maps mems) : Answers maps mems (execNonceLapse path s) := answers_next h

theorem execGetVersion_wf (h : s.Wf maps mems) : Answers maps mems (execGetVersion fn s) := answers_next (takeReq0_wf h)

theorem execGetCapabilities_wf (h : s.Wf maps mems) : Answers maps mems (execGetCapabilities fn s) := answers_next (takeReq0_wf h)

theorem execNegotiateAlgorithms_wf (h : s.Wf maps mems) : Answers maps mems (execNegotiateAlgorithms fn s) := answers_next (takeReq0_wf h)

theorem execGetDigests_wf (h : s.Wf maps mems) : Answers maps mems (execGetDigests fn s) := answers_next (takeReq0_wf h)

theorem execGetCertificate_wf (h : s.Wf maps mems) : Answers maps mems (execGetCertificate fn s) := answers_next (takeReq0_wf h)

theorem execChallenge_wf (h : s.Wf maps mems) : Answers maps mems (execChallenge fn nonce s) := answers_next (takeReq0_wf h)

theorem execGetMeasurements_wf (h : s.Wf maps mems) : Answers maps mems (execGetMeasurements fn index s) := answers_next (takeReq0_wf h)

end

/-! ## Pegbox's cores: reset and boot -/

section
variable {s : State} {bank enLow : Bool} {n id : Nat} {a : Activation} {v : PbWork} {e : JEntry}

theorem coldState_wf (h : s.Wf maps mems) : (coldState s).Wf maps mems := by
  have hp : Pegbox.Wf mems (coldState s).pb := ⟨h.pb.flashA, h.pb.flashB, List.forall_mem_nil _, listedWf_nil⟩
  exact ⟨coresWf_nil, mapWf_nil, ctlsWf_nil, mapWf_nil, mapWf_nil, mapWf_nil, ⟨h.host.hostMem, h.host.storage⟩, memWf_nil, hp⟩

theorem bootCourses_wf (h : s.Wf maps mems) : (bootCourses s).Wf maps mems := foldState_wf (fun _ _ ht => State.modCourse_wf ht) h

theorem loadRepairs_wf (h : s.Wf maps mems) : (loadRepairs s).Wf maps mems := foldState_wf (fun _ _ ht => State.modCourse_wf ht) h

theorem bootEpochs_wf (h : s.Wf maps mems) : (bootEpochs s).Wf maps mems := foldState_wf (fun _ _ ht => State.modLink_wf ht) h

theorem pbStarts_wf (h : s.Wf maps mems) : (pbStarts bank n s).Wf maps mems := modPb_wf (fun _ hm => hm) h

theorem markBootfail_wf (h : s.Wf maps mems) : (markBootfail n s).Wf maps mems := modPb_wf (fun _ hm => hm) h

theorem bootCores_wf (h : s.Wf maps mems) : (bootCores s).Wf maps mems := foldState_wf (fun _ _ ht => ite_wf (pbStarts_wf ht) (markBootfail_wf ht)) h

theorem bootPll_wf (h : s.Wf maps mems) : (bootPll s).Wf maps mems := by
  fun_cases bootPll <;> exact h

theorem bootConfig_wf (h : s.Wf maps mems) : (bootConfig s).Wf maps mems := by
  fun_cases bootConfig
  · exact modHost_wf (fun _ hm => hm) (modSec_wf (bootPll_wf h))
  · exact bootPll_wf h

theorem raiseDomains_wf (h : s.Wf maps mems) : (raiseDomains s).Wf maps mems := foldState_wf (fun _ _ ht => ite_wf ht (orderDomain_wf ht)) h

theorem pb1Brings_wf (h : s.Wf maps mems) : (pb1Brings s).Wf maps mems := by
  fun_cases pb1Brings
  · exact loadRepairs_wf h
  · exact raiseDomains_wf (loadRepairs_wf h)

theorem meshReady_wf (h : s.Wf maps mems) : (meshReady s).Wf maps mems := by
  fun_cases meshReady
  · exact modHost_wf (fun _ hm => hm) h
  · exact h

theorem epReady_wf (h : s.Wf maps mems) : (epReady s).Wf maps mems := by
  fun_cases epReady
  · exact modHost_wf (fun _ hm => hm) h
  · exact h

theorem rpReady_wf (h : s.Wf maps mems) : (rpReady s).Wf maps mems := by
  fun_cases rpReady
  · exact modHost_wf (fun _ hm => hm) h
  · exact h

theorem moduleReset_wf (h : s.Wf maps mems) : (moduleReset s).Wf maps mems := by
  fun_cases moduleReset
  · exact h
  · exact readyEvent_wf (ite_step_wf (meshReady_wf (bootConfig_wf (bootCores_wf (bootEpochs_wf (bootCourses_wf (coldState_wf h)))))) pb1Brings_wf)

theorem execModuleReset_wf (h : s.Wf maps mems) : Answers maps mems (execModuleReset s) := answers_next (moduleReset_wf h)

theorem execPowerUp_wf (h : s.Wf maps mems) : Answers maps mems (execPowerUp s) := answers_next (ite_wf (moduleReset_wf h) h)

theorem inputDisconnect_wf (h : s.Wf maps mems) : (inputDisconnect enLow s).Wf maps mems :=
  foldState_wf (fun _ _ ht => ht) (modEmu_wf (fun _ hm => hm) (coldState_wf h))

theorem execInputDisconnect_wf (h : s.Wf maps mems) : Answers maps mems (execInputDisconnect enLow s) := answers_next (inputDisconnect_wf h)

theorem execInputReturn_wf (h : s.Wf maps mems) : Answers maps mems (execInputReturn s) := answers_next (ite_wf (moduleReset_wf h) h)

theorem execPcieLinkTrained_wf (h : s.Wf maps mems) : Answers maps mems (execPcieLinkTrained s) :=
  answers_next (ite_wf (readyEvent_wf (epReady_wf (modHost_wf (fun _ hm => hm) h))) h)

theorem setBank_wf (h : s.Wf maps mems) : (setBank n bank s).Wf maps mems := modPb_wf (fun _ hm => hm) h

theorem moveCore_wf {n : PbNo} (h : s.Wf maps mems) : (moveCore a n s).Wf maps mems := restartPb_wf (setBank_wf (modPb_wf (fun _ hm => hm) h))

theorem activationFails_wf (h : s.Wf maps mems) : (activationFails a s).Wf maps mems :=
  completeMsg_wf (modPb_wf (fun _ hm => hm) (foldState_wf (fun _ _ ht => restartPb_wf (setBank_wf ht)) h))

theorem activationEnds_wf (h : s.Wf maps mems) : (activationEnds a s).Wf maps mems :=
  completeMsg_wf (modHost_wf (fun _ hm => hm) (modSec_wf (modPb_wf (fun _ hm => hm) h)))

theorem advanceActivation_wf (h : s.Wf maps mems) : (advanceActivation s).Wf maps mems := by
  fun_cases advanceActivation
  case case4 => exact activationEnds_wf h
  case case5 => exact activationFails_wf h
  case case6 => exact moveCore_wf h
  all_goals exact h

theorem returnToService_wf (h : s.Wf maps mems) : (returnToService s).Wf maps mems := by
  unfold returnToService
  split
  · exact h
  · refine ite_wf ?_ h
    extract_lets _ s1
    have h1 : s1.Wf maps mems := raiseDomains_wf (modPwr_wf ⟨h.1, h.2⟩)
    exact ⟨h1.1, h1.2⟩

theorem PbWork.act_wf {w : PbWork} (h : s.Wf maps mems) : (w.act s).Wf maps mems := by
  cases w with
  | order d t => exact orderDomain_wf h
  | target d t => exact takeTarget_wf h
  | reached d => exact domainArrives_wf h
  | linkAdmit l on => exact State.modLink_wf h
  | railEntry e lo hi => exact ⟨h.1, h.2⟩
  | railGen v drain => cases drain with
    | true => exact railStep_wf h
    | false => exact ⟨h.1, h.2⟩
  | module => exact loadModule_wf h
  | restart v => exact pbCtlTake_wf h
  | runs n => exact h
  | door len => exact takeDoor_wf h
  | dbgBuf off v => exact takeDbgBuf_wf h

theorem takeUp_wf (h : s.Wf maps mems) : (takeUp n s).Wf maps mems := foldState_wf (fun _ _ ht => PbWork.act_wf ht) (modPb_wf (fun _ hm => hm) h)

theorem verifyAgain_wf (h : s.Wf maps mems) : (verifyAgain s).Wf maps mems := foldState_wf (fun _ _ ht => ite_wf ht (markBootfail_wf ht)) h

theorem pbBrings_wf (h : s.Wf maps mems) : (pbBrings n s).Wf maps mems := by
  fun_cases pbBrings
  · exact pb1Brings_wf (bootPll_wf h)
  · exact meshReady_wf h
  · exact h

theorem pbResumes_wf (h : s.Wf maps mems) : (pbResumes n s).Wf maps mems := by
  fun_cases pbResumes
  · exact serveWaiting_wf (verifyAgain_wf (syncPending_wf (takeUp_wf h)))
  · exact returnToService_wf (takeUp_wf h)
  · exact rpReady_wf (epReady_wf (takeVerdicts_wf (rerunJournal_wf (ite_wf (modEmu_wf (fun _ hm => hm) h) h))))
  · exact takeUp_wf h

theorem pbFails_wf (h : s.Wf maps mems) : (pbFails n s).Wf maps mems := by
  fun_cases pbFails
  · exact activationFails_wf (ite_wf (modHost_wf (fun _ hm => hm) (markBootfail_wf h)) (markBootfail_wf h))
  · exact ite_wf (modHost_wf (fun _ hm => hm) (markBootfail_wf h)) (markBootfail_wf h)
  · exact ite_wf (modHost_wf (fun _ hm => hm) (markBootfail_wf h)) (markBootfail_wf h)

theorem pbRunsAgain_wf (h : s.Wf maps mems) : (pbRunsAgain n s).Wf maps mems := by
  fun_cases pbRunsAgain
  · exact h
  · refine advanceActivation_wf (readyEvent_wf (pbResumes_wf (ite_wf ?_ (pbBrings_wf ?_)))) <;>
      exact pbStarts_wf (modPb_wf (fun _ hm => hm) h)
  · exact readyEvent_wf (pbFails_wf (modPb_wf (fun _ hm => hm) h))

theorem pbCoreRuns_wf (h : s.Wf maps mems) : (pbCoreRuns n s).Wf maps mems := by
  fun_cases pbCoreRuns
  · exact foldState_wf (fun _ _ ht => pbRunsAgain_wf ht) (modPb_wf (fun _ hm => hm) (pbRunsAgain_wf h))
  · exact pbRunsAgain_wf h
  · exact pbDoes_wf (fun _ ht => pbRunsAgain_wf ht) h

theorem execPbCoreRuns_wf {n : PbNo} (h : s.Wf maps mems) : Answers maps mems (execPbCoreRuns n s) := answers_next (pbCoreRuns_wf h)

theorem watchdogExpire_wf (h : s.Wf maps mems) : (watchdogExpire n s).Wf maps mems := by
  fun_cases watchdogExpire
  case case1 => exact activationFails_wf h
  case case3 | case5 => exact restartPb_wf (modPb_wf (fun _ hm => hm) h)
  all_goals exact h

theorem execWatchdogExpire_wf {n : PbNo} (h : s.Wf maps mems) : Answers maps mems (execWatchdogExpire n s) := answers_next (watchdogExpire_wf h)

theorem fwStage_wf (h : s.Wf maps mems) : (fwStage id e s).Wf maps mems := by
  fun_cases fwStage
  · exact completeMsg_wf h
  · exact completeMsg_wf h
  · next put =>
    have hput : ∀ m, MemWf mems m → MemWf mems (put m) := by
      intro m hm
      refine MemWf.write ?_
      split
      · exact memWf_nil
      · exact hm
    refine completeMsg_wf (modPb_wf (fun b hb => ?_) h)
    split
    · exact ⟨hput _ hb.flashA, hb.flashB, hb.localMem, hb.shared⟩
    · exact ⟨hb.flashA, hput _ hb.flashB, hb.localMem, hb.shared⟩

theorem execFwStage_wf (h : s.Wf maps mems) : Answers maps mems (execFwStage id s) := answers_next (runMsg_wf (fun _ _ ht => fwStage_wf ht) h)

theorem fwActivate_wf (h : s.Wf maps mems) : (fwActivate id s).Wf maps mems := by
  fun_cases fwActivate
  · exact completeMsg_wf h
  · exact h
  · exact moveCore_wf (modPb_wf (fun _ hm => hm) h)
  · exact completeMsg_wf (modPb_wf (fun _ hm => hm) h)

theorem execFwActivate_wf (h : s.Wf maps mems) : Answers maps mems (execFwActivate id s) :=
  answers_next (runMsg_wf (fun _ _ ht => fwActivate_wf ht) h)

end

/-! ## Checkpoints, the aperture and Function Level Reset -/

section
variable {r id len a fn off : Nat} {m bs : List Byte} {ps : List (Nat × Nat × Nat)} {s : State} {e : JEntry} {err : Option NvmeErr}
  {move : Nat → List Byte → List (Nat × Nat × Nat) → State → State} {port : BitVec 2} {addr : BitVec 64} {acc : ApAccess}

theorem saveParts_wf (h : s.Wf maps mems) : (saveParts r m ps s).Wf maps mems :=
  foldState_wf (fun _ _ ht => modHost_wf (fun _ hm => ⟨hm.hostMem, hm.storage.write⟩) ht) h

theorem loadParts_wf (h : s.Wf maps mems) : (loadParts r m ps s).Wf maps mems := foldState_wf (fun _ _ ht => regionWrite_wf ht) h

theorem transfer_wf (hf : ∀ i bs ps, ∀ t : State, t.Wf maps mems → (move i bs ps t).Wf maps mems) (h : s.Wf maps mems) :
    (transfer id e err move s).Wf maps mems := by
  fun_cases transfer
  · exact completeMsg_wf h
  · exact completeMsg_wf (hf _ _ _ _ h)
  · exact completeMsg_wf (hf _ _ _ _ h)

theorem execCheckpoint_wf (h : s.Wf maps mems) : Answers maps mems (execCheckpoint id err s) :=
  answers_next (runMsg_wf (fun _ _ ht => transfer_wf (fun _ _ _ _ ht1 => saveParts_wf ht1) ht) h)

theorem execRestore_wf (h : s.Wf maps mems) : Answers maps mems (execRestore id err s) :=
  answers_next (runMsg_wf (fun _ _ ht => transfer_wf (fun _ _ _ _ ht1 => loadParts_wf ht1) ht) h)

theorem execDownstreamRequest_wf (h : s.Wf maps mems) : Answers maps mems (execDownstreamRequest port addr len s) := answers_next (ite_wf h h)

theorem apWrite_wf (h : s.Wf maps mems) : (apWrite r a bs s).Wf maps mems := by
  fun_cases apWrite
  · exact State.modCore_wf h fun _ hc => Core.modMem_wf hc (fun _ hm => CoreMem.writeScratch_wf hm)
  · exact regionWrite_wf h

theorem apRefuse_wf (h : s.Wf maps mems) : (apRefuse fn a acc s).Wf maps mems := by
  unfold apRefuse
  extract_lets s1 s2
  have h1 : s1.Wf maps mems := modHostErr_wf h
  have h2 : s2.Wf maps mems := by
    dsimp only [s2]
    split
    · exact modCtlPage_wf h1
    · exact h1
  split <;> exact h2

theorem apertureAccess_wf (h : s.Wf maps mems) : (apertureAccess fn off acc s).Wf maps mems := by
  fun_cases apertureAccess
  · exact apRefuse_wf h
  · exact apRefuse_wf h
  · exact ⟨h.1, h.2⟩
  · exact apWrite_wf h

theorem execApertureAccess_wf {fn : FnNo} {off : BitVec 36} (h : s.Wf maps mems) : Answers maps mems (execApertureAccess fn off acc s) :=
  answers_next (apertureAccess_wf h)

theorem functionReset_wf (h : s.Wf maps mems) : (functionReset fn s).Wf maps mems :=
  modPwr_wf (modMaster_wf (foldState_wf (fun _ _ ht => restoreShadow_wf ht)
    (modEmu_wf (fun _ hm => hm) (discardMsgs_wf (foldState_wf (fun _ _ ht => modQp_wf ht) h)))))

theorem execFunctionLevelReset_wf {fn : FnNo} (h : s.Wf maps mems) : Answers maps mems (execFunctionLevelReset fn s) :=
  answers_next (functionReset_wf h)

end

/-! ## Latch, button and standby -/

section
variable {f : Phys → Phys} {s : State} {button : Bool}

theorem modPhys_wf (h : s.Wf maps mems) : (modPhys f s).Wf maps mems := h

theorem startQuiesce_wf (h : s.Wf maps mems) : (startQuiesce button s).Wf maps mems := by
  fun_cases startQuiesce <;> exact h

theorem execLatchOpen_wf (h : s.Wf maps mems) : Answers maps mems (execLatchOpen s) := answers_next (startQuiesce_wf (modPhys_wf (setAlert_wf h)))

theorem execLatchClose_wf (h : s.Wf maps mems) : Answers maps mems (execLatchClose s) := answers_next (returnToService_wf h)

theorem buttonShort_wf (h : s.Wf maps mems) : (buttonShort s).Wf maps mems := by
  fun_cases buttonShort <;> exact modEmu_wf (fun _ hm => hm) (setAlert_wf h)

theorem execButtonShortPress_wf (h : s.Wf maps mems) : Answers maps mems (execButtonShortPress s) := answers_next (buttonShort_wf h)

theorem buttonLong_wf (h : s.Wf maps mems) : (buttonLong s).Wf maps mems := by
  fun_cases buttonLong
  · exact startQuiesce_wf (setAlert_wf h)
  · exact returnToService_wf (modPhys_wf (setAlert_wf h))
  · exact setAlert_wf h

theorem execButtonLongPress_wf (h : s.Wf maps mems) : Answers maps mems (execButtonLongPress s) := answers_next (buttonLong_wf h)

theorem execStbyEnRise_wf (h : s.Wf maps mems) : Answers maps mems (execStbyEnRise s) := answers_next (startQuiesce_wf h)

theorem execStbyEnFall_wf (h : s.Wf maps mems) : Answers maps mems (execStbyEnFall s) := answers_next (returnToService_wf h)

theorem quiesceDown_wf (h : s.Wf maps mems) : (quiesceDown s).Wf maps mems :=
  foldState_wf (fun _ _ ht => orderDomain_wf ht) (foldState_wf (fun _ _ ht => linkEnable_wf ht) h)

theorem quiesceGrace_wf (h : s.Wf maps mems) : (quiesceGrace s).Wf maps mems := by
  fun_cases quiesceGrace
  · exact h
  · exact h
  · exact quiesceDown_wf (ite_wf (foldState_wf (fun _ _ ht => destroyRegion_wf ht) h) h)
  · exact ite_wf (foldState_wf (fun _ _ ht => destroyRegion_wf ht) h) h

theorem execQuiesceGraceExpire_wf (h : s.Wf maps mems) : Answers maps mems (execQuiesceGraceExpire s) := answers_next (quiesceGrace_wf h)

theorem quiesceComplete_wf (h : s.Wf maps mems) : (quiesceComplete s).Wf maps mems := by
  fun_cases quiesceComplete
  · exact h
  · exact returnToService_wf h
  · exact h

theorem execQuiesceComplete_wf (h : s.Wf maps mems) : Answers maps mems (execQuiesceComplete s) := answers_next (quiesceComplete_wf h)

end

/-! ## Packets that reach a node -/

section
variable {n off : Nat} {who : Accessor} {v : List Nat} {s : State} {data : List Byte} {p : Packet} {want : Packet → Bool} {node : NodeNo}

theorem readWords_wf (h : s.Wf maps mems) : (readWords n who v s).2.Wf maps mems := by
  fun_induction readWords with
  | case1 => exact h
  | case2 s o os r rest ih => exact ih (regRead_wf h)

theorem writeWords_wf {v : List (Nat × Nat)} (h : s.Wf maps mems) : (writeWords n who data v s).Wf maps mems := by
  fun_induction writeWords with
  | case1 => exact h
  | case2 s o i os ih => exact ih (regWrite_wf h)

theorem rdbAt_wf (h : s.Wf maps mems) : OptWf maps mems (rdbAt n off p s) := by
  fun_cases rdbAt
  · exact optWf_some (State.send_wf (readWords_wf h))
  · exact optWf_some (ite_wf (State.send_wf (readWords_wf h)) (State.send_wf h))
  · exact optWf_some (State.modNode_wf h)
  · exact optWf_none

theorem nodeAccess_wf (h : s.Wf maps mems) : OptWf maps mems (nodeAccess n p s) := by
  fun_cases nodeAccess
  case case2 => exact rdbAt_wf h
  case case3 => exact optWf_some (State.send_wf (readWords_wf h))
  case case4 => exact optWf_some (State.send_wf (writeWords_wf h))
  all_goals exact optWf_some (State.send_wf h)

theorem blockPort_wf (h : s.Wf maps mems) : (blockPort n want s).Wf maps mems :=
  optWf_getD (takeThen_wf (takeRx_wf h) (fun _ _ ht => nodeAccess_wf ht)) h

theorem strayCtrl_wf (h : s.Wf maps mems) : OptWf maps mems (strayCtrl n s) := takenWf_mapOpt (takeCtrl_wf h) fun _ ht => State.send_wf ht

theorem pegboxAnswer_wf (h : s.Wf maps mems) : OptWf maps mems (pegboxAnswer s) :=
  takenWf_mapOpt (takeRx_wf h) (fun _ ht => ite_wf (ite_wf (admitEnds_wf (modPb_wf (fun _ hm => hm) ht)) (modPb_wf (fun _ hm => hm) ht)) ht)

theorem otherPort_wf (h : s.Wf maps mems) : (otherPort n s).Wf maps mems := by
  fun_cases otherPort
  · exact (strayCtrl_wf h _ ‹_›)
  · exact blockPort_wf (admitMem_wf h)
  · exact blockPort_wf (admitMem_wf h)
  · exact optWf_getD (pegboxAnswer_wf h) (blockPort_wf h)
  · exact blockPort_wf h
  · exact blockPort_wf h

theorem networkPort_wf (h : s.Wf maps mems) : (networkPort n s).Wf maps mems := by
  fun_cases networkPort
  · exact corePortAccess_wf h
  · exact otherPort_wf h

theorem execNetworkPortAccess_wf (h : s.Wf maps mems) : Answers maps mems (execNetworkPortAccess node s) := answers_next (networkPort_wf h)

theorem rdbMet_wf (h : s.Wf maps mems) : (rdbMet n s).Wf maps mems := by
  fun_cases rdbMet
  · exact h
  · exact State.send_wf (readWords_wf (State.modNode_wf h))

theorem execRdbConditionMet_wf (h : s.Wf maps mems) : Answers maps mems (execRdbConditionMet node s) := answers_next (rdbMet_wf h)

theorem cancelArrive_wf (h : s.Wf maps mems) : (cancelArrive n s).Wf maps mems := by
  fun_cases cancelArrive
  · exact h
  · exact State.send_wf (State.modNode_wf (takeCtrl_wf h _ _ ‹_›))
  · exact State.send_wf (takeRx_wf (takeCtrl_wf h _ _ ‹_›) _ _ ‹_›)
  · exact (takeCtrl_wf h _ _ ‹_›)

theorem execCancelArrive_wf (h : s.Wf maps mems) : Answers maps mems (execCancelArrive node s) := answers_next (cancelArrive_wf h)

end

/-! ## Patrol scrub -/

section
variable {n st off i key ch id l : Nat} {ecc : EccOutcome} {bad : Bool} {mark : CoreMem → CoreMem} {s : State} {p place : ScrubPlace}

theorem scrubCore_wf (hf : ∀ x0 : CoreMem, x0.Wf mems → (mark x0).Wf mems) (h : s.Wf maps mems) :
    (scrubCore n st off ecc bad mark s).Wf maps mems := by
  fun_cases scrubCore
  · exact State.coreEcc_wf h
  · exact h
  · exact State.coreCorr_wf h
  · exact State.coreEcc_wf (State.modCore_wf h (fun _ hc => Core.modMem_wf hc (fun _ hm => hf _ hm)))

theorem scrubCtl_wf (h : s.Wf maps mems) : (scrubCtl n i off ecc s).Wf maps mems := by
  fun_cases scrubCtl
  · exact ctlUncorr_wf h
  · exact h
  · exact modInst_wf h
  · exact ctlUncorr_wf (State.modCtl_wf h (fun _ hm => hm))

theorem cacheUpset_wf (h : s.Wf maps mems) : (cacheUpset n key ecc s).Wf maps mems := by
  fun_cases cacheUpset
  · exact h
  · exact h
  · exact State.coreCorr_wf h
  · exact State.coreEcc_wf (State.modCore_wf h (fun _ hc => Core.modMem_wf hc (fun _ hm => hm)))

theorem messageUpset_wf (h : s.Wf maps mems) : (messageUpset n i ecc s).Wf maps mems := by
  fun_cases messageUpset
  · exact h
  · exact State.coreCorr_wf h
  · exact State.coreEcc_wf (State.modCore_wf h (fun _ hc => hc))
  · exact h

theorem burstUpset_wf (h : s.Wf maps mems) : (burstUpset n ch id ecc s).Wf maps mems := by
  fun_cases burstUpset
  · exact h
  · exact h
  · exact State.coreCorr_wf h
  · exact settle_wf (burstFails_wf (setDma_wf (State.coreEcc_wf h)))

theorem linkUpset_wf (h : s.Wf maps mems) : (linkUpset l ecc s).Wf maps mems := by
  fun_cases linkUpset
  · exact h
  · exact flushLink_wf (State.modLink_wf (State.health_wf h))

theorem pegboxUpset_wf (h : s.Wf maps mems) : (pegboxUpset n ecc s).Wf maps mems := by
  fun_cases pegboxUpset
  · exact h
  · exact restartPb_wf (State.health_wf h)

theorem scrub_wf (h : s.Wf maps mems) : (scrub p ecc s).Wf maps mems := by
  fun_cases scrub
  case case1 | case3 | case5 | case7 => exact scrubCore_wf (fun _ hm => hm) h
  case case9 | case11 => exact scrubCtl_wf h
  case case13 => exact cacheUpset_wf h
  case case14 => exact messageUpset_wf h
  case case15 => exact burstUpset_wf h
  case case16 => exact linkUpset_wf h
  case case17 => exact pegboxUpset_wf h
  all_goals exact h

theorem execPatrolScrub_wf (h : s.Wf maps mems) : Answers maps mems (execPatrolScrub place ecc s) := by
  fun_cases execPatrolScrub
  · exact answers_atCore (scrub_wf h)
  · exact answers_next (scrub_wf h)

end

/-! ## Every step -/

section
variable {s t : State} {i : Instr}

/-- What an event answers: each by the lemma of its meaning. -/
theorem answers_event (ho : opOf i = none) (h : s.Wf maps mems) : Answers maps mems (exec i s) := by
  cases i
  case moduleReset => exact execModuleReset_wf h
  case powerUp => exact execPowerUp_wf h
  case inputDisconnect => exact execInputDisconnect_wf h
  case stbyEnRise => exact execStbyEnRise_wf h
  case stbyEnFall => exact execStbyEnFall_wf h
  case latchOpen => exact execLatchOpen_wf h
  case latchClose => exact execLatchClose_wf h
  case buttonShortPress => exact execButtonShortPress_wf h
  case buttonLongPress => exact execButtonLongPress_wf h
  case quiesceGraceExpire => exact execQuiesceGraceExpire_wf h
  case quiesceComplete => exact execQuiesceComplete_wf h
  case powerTick => exact execPowerTick_wf h
  case fastcap => exact execFastcap_wf h
  case thermalCrossing => exact execThermalCrossing_wf h
  case thermalTrip => exact execThermalTrip_wf h
  case dwellExpire => exact execDwellExpire_wf h
  case reclaimGrant => exact execReclaimGrant_wf h
  case domTargetWrite => exact execDomTargetWrite_wf h
  case domainStateReached => exact execDomainStateReached_wf h
  case shellCalibrate => exact execShellCalibrate_wf h
  case shellCalibrationDone => exact execShellCalibrationDone_wf h
  case shellSetpointWrite => exact execShellSetpointWrite_wf h
  case registerWrite => exact execRegisterWrite_wf h
  case wideLowWrite => exact execWideLowWrite_wf h
  case wideHighWrite => exact execWideHighWrite_wf h
  case wideLowRead => exact execWideLowRead_wf h
  case wideHighRead => exact execWideHighRead_wf h
  case bundleIssue node =>
    show Answers maps mems (execBundleIssue node s)
    exact execBundleIssue_wf h
  case loadDataReturn => exact execLoadDataReturn_wf h
  case storeDrain => exact execStoreDrain_wf h
  case ackArrive => exact execAckArrive_wf h
  case nackArrive => exact execNackArrive_wf h
  case rspArrive => exact execRspArrive_wf h
  case matOpStart => exact execMatOpStart_wf h
  case matOpComplete => exact execMatOpComplete_wf h
  case seqTableStart => exact execSeqTableStart_wf h
  case seqStep => exact execSeqStep_wf h
  case seqFinc => exact execSeqFinc_wf h
  case seqFwaitPass => exact execSeqFwaitPass_wf h
  case seqTableEnd => exact execSeqTableEnd_wf h
  case mseqAbort => exact execMseqAbort_wf h
  case dmaQueueDepart => exact execDmaQueueDepart_wf h
  case waitTimeout => exact execWaitTimeout_wf h
  case fretIncrementApply => exact execFretIncrementApply_wf h
  case fincArrive => exact execFincArrive_wf h
  case msgArrive => exact execMsgArrive_wf h
  case msgRetry => exact execMsgRetry_wf h
  case threadCtl => exact execThreadCtl_wf h
  case faultRecordSend => exact execFaultRecordSend_wf h
  case coreHalt => exact execCoreHalt_wf h
  case descriptorFetch => exact execDescriptorFetch_wf h
  case burstRead => exact execBurstRead_wf h
  case burstWrite => exact execBurstWrite_wf h
  case channelDrainEnd => exact execChannelDrainEnd_wf h
  case plectrumMsgAccept => exact execPlectrumMsgAccept_wf h
  case dmaAbort => exact execDmaAbort_wf h
  case dmaCredit => exact execDmaCredit_wf h
  case dmaWstatClear => exact execDmaWstatClear_wf h
  case networkPortAccess => exact execNetworkPortAccess_wf h
  case rdbConditionMet => exact execRdbConditionMet_wf h
  case cancelArrive => exact execCancelArrive_wf h
  case flitForward => exact execFlitForward_wf h
  case ctrlRelease => exact execCtrlRelease_wf h
  case flitReceive => exact execFlitReceive_wf h
  case meshLinkResync => exact execMeshLinkResync_wf h
  case memRequestServe => exact execMemRequestServe_wf h
  case patrolScrub => exact execPatrolScrub_wf h
  case coreLost => exact execCoreLost_wf h
  case coprocHang => exact execCoprocHang_wf h
  case linkLookup => exact execLinkLookup_wf h
  case frameSend => exact execFrameSend_wf h
  case frameReceive => exact execFrameReceive_wf h
  case ackonlySend => exact execAckonlySend_wf h
  case replayRequestRepeat => exact execReplayRequestRepeat_wf h
  case replayTimeout => exact execReplayTimeout_wf h
  case laneLoss => exact execLaneLoss_wf h
  case lanesAligned => exact execLanesAligned_wf h
  case trainFrameSend => exact execTrainFrameSend_wf h
  case linkHoldExpire => exact execLinkHoldExpire_wf h
  case linkEnWrite => exact execLinkEnWrite_wf h
  case linkRetrain => exact execLinkRetrain_wf h
  case railEntryWrite => exact execRailEntryWrite_wf h
  case railGenWrite => exact execRailGenWrite_wf h
  case sqDoorbell => exact execSqDoorbell_wf h
  case cqDoorbell => exact execCqDoorbell_wf h
  case qpEnable => exact execQpEnable_wf h
  case messageTake => exact execMessageTake_wf h
  case completionWrite => exact execCompletionWrite_wf h
  case hello => exact execHello_wf h
  case regionCreate => exact execRegionCreate_wf h
  case regionDestroy => exact execRegionDestroy_wf h
  case loadImage => exact execLoadImage_wf h
  case launch => exact execLaunch_wf h
  case signal => exact execSignal_wf h
  case query => exact execQuery_wf h
  case checkpoint => exact execCheckpoint_wf h
  case restore => exact execRestore_wf h
  case powerCapMsg => exact execPowerCapMsg_wf h
  case fwStage => exact execFwStage_wf h
  case fwActivate => exact execFwActivate_wf h
  case healthEvent => exact execHealthEvent_wf h
  case programEnd => exact execProgramEnd_wf h
  case functionLevelReset => exact execFunctionLevelReset_wf h
  case apertureAccess => exact execApertureAccess_wf h
  case emuRegisterWrite => exact execEmuRegisterWrite_wf h
  case emuShadowApply => exact execEmuShadowApply_wf h
  case powerCapWrite => exact execPowerCapWrite_wf h
  case instOfflineRequest => exact execInstOfflineRequest_wf h
  case alertCauseClear => exact execAlertCauseClear_wf h
  case dbgDoorWrite => exact execDbgDoorWrite_wf h
  case pbReset => exact execPbReset_wf h
  case pbCoreRuns => exact execPbCoreRuns_wf h
  case pbKick => exact execPbKick_wf h
  case watchdogExpire => exact execWatchdogExpire_wf h
  case nonce => exact execNonce_wf h
  case dbgOpen => exact execDbgOpen_wf h
  case dbgEnd => exact execDbgEnd_wf h
  case dbgStop => exact execDbgStop_wf h
  case dbgRelease => exact execDbgRelease_wf h
  case dbgStep => exact execDbgStep_wf h
  case dbgRead => exact execDbgRead_wf h
  case dbgWrite => exact execDbgWrite_wf h
  case trace => exact execTrace_wf h
  case traceRecord => exact execTraceRecord_wf h
  case sessionExpire => exact execSessionExpire_wf h
  case nonceLapse => exact execNonceLapse_wf h
  case lifecycleTransition => exact execLifecycleTransition_wf h
  case getVersion => exact execGetVersion_wf h
  case getCapabilities => exact execGetCapabilities_wf h
  case negotiateAlgorithms => exact execNegotiateAlgorithms_wf h
  case getDigests => exact execGetDigests_wf h
  case getCertificate => exact execGetCertificate_wf h
  case challenge => exact execChallenge_wf h
  case getMeasurements => exact execGetMeasurements_wf h
  case extest => exact execExtest_wf h
  case idcode => exact execIdcode_wf h
  case samplePreload => exact execSamplePreload_wf h
  case dbgacc => exact execDbgacc_wf h
  case bypass => exact execBypass_wf h
  case shellFault => exact execShellFault_wf h
  case inputReturn => exact execInputReturn_wf h
  case downstreamRequest => exact execDownstreamRequest_wf h
  case pcieLinkTrained => exact execPcieLinkTrained_wf h
  case refresh => exact execRefresh_wf h
  all_goals cases ho

theorem answers_exec (h : s.Wf maps mems) : Answers maps mems (exec i s) := by
  cases ho : opOf i with
  | none => exact answers_event ho h
  | some co =>
    obtain ⟨c, o⟩ := co
    rw [exec_opOf i c o ho]
    exact issueOne_wf h

theorem step_keeps_wf (h : s.Wf maps mems) (hs : step s = .next t) : t.Wf maps mems := by
  unfold step at hs
  split at hs
  · obtain rfl := Host.Outcome.next.inj hs
    exact ⟨h.1, h.2⟩
  · next rest _ =>
    have hq : State.Wf maps mems { s with pending := rest } := ⟨h.1, h.2⟩
    exact answers_exec hq t hs

end

/-! ## The model's predicates -/

theorem Core.memoriesWf_iff (c : Core) : c.memoriesWf = true ↔ c.Wf True := by
  simp [Core.memoriesWf, Core.Wf, CoreMem.Wf, Matrix.Wf, MemWf]

/-- Where the maps of units are not asked about, the invariant is the model's `memoriesWf`. -/
theorem State.memoriesWf_iff (s : State) : s.memoriesWf = true ↔ s.Wf False True := by
  simp only [State.memoriesWf, Bool.and_eq_true, List.all_eq_true, Core.memoriesWf_iff, State.Wf, CoresWf, CtlsWf, MapWf, MemCtl.Wf, HostIf.Wf,
    Emu.Wf, Pegbox.Wf, MemWf, ListedWf, false_implies, true_implies, true_and]
  tauto

/-- Where the memories are not asked about, it is the model's `canonical`. -/
theorem State.canonical_iff (s : State) : s.canonical = true ↔ s.Wf True False := by
  simp only [State.canonical, Bool.and_eq_true, State.Wf, CoresWf, CtlsWf, MapWf, Core.Wf, CoreMem.Wf, Matrix.Wf, MemCtl.Wf, HostIf.Wf, Emu.Wf,
    Pegbox.Wf, MemWf, ListedWf, false_implies, true_implies, implies_true, and_true]
  tauto

/-- Settles O58: `State.Wf` says the statement of its byte memories, and each command's meaning keeps it. -/
theorem stepKeepsMemoriesCanonical : Obligations.StepKeepsMemoriesCanonical := by
  unfold Obligations.StepKeepsMemoriesCanonical
  intro s t h hs
  exact t.memoriesWf_iff.mpr (step_keeps_wf (s.memoriesWf_iff.mp h) hs)

end Sys2Proof.Machine

/-! The statement of spec/06 about the sequencer's tables that start, step, increment frets and wait (O27). -/

namespace Sys2Proof.Machine

open Sys2Proof

/-! ## Fields of a step (Tables 6.6, 6.7) -/

section Fields
variable (w : Word)

theorem fieldOf_eq_shifted {hi lo : Nat} (h : hi + 1 - lo < 32) :
    fieldOf w hi lo = ((w >>> lo) &&& BitVec.ofNat 32 (2 ^ (hi + 1 - lo) - 1)).toNat := by
  rw [and_lowBits_toNat _ _ h, BitVec.toNat_ushiftRight, Nat.shiftRight_eq_div_pow, fieldOf]

theorem fieldOf_eq_low {hi : Nat} (h : hi + 1 < 32) : fieldOf w hi 0 = (w &&& BitVec.ofNat 32 (2 ^ (hi + 1) - 1)).toNat := by
  rw [fieldOf_eq_shifted w h, BitVec.ushiftRight_zero, Nat.sub_zero]

theorem stepOp_eq (st : SeqStep) : stepOp st = (st.w0 &&& 15).toNat := fieldOf_eq_low st.w0 (hi := 3) (by decide)
theorem loopTarget_eq (st : SeqStep) : loopTarget st = (st.w1 &&& 63).toNat := fieldOf_eq_low st.w1 (hi := 5) (by decide)
theorem aregField_eq : fieldOf w 6 4 = ((w >>> 4) &&& 7).toNat := fieldOf_eq_shifted w (by decide)
theorem bregField_eq : fieldOf w 10 8 = ((w >>> 8) &&& 7).toNat := fieldOf_eq_shifted w (by decide)
theorem fretField_eq : fieldOf w 5 0 = (w &&& 63).toNat := fieldOf_eq_low w (hi := 5) (by decide)

theorem fldFret_eq : fld 6 w 5 0 = (w &&& 63).truncate 6 := by
  rw [fld, fretField_eq]
  rfl

theorem fincCount_eq : BitVec.ofNat 32 (fieldOf w 15 8) = (w >>> 8) &&& 0xFF := by
  rw [fieldOf_eq_shifted w (by decide), BitVec.ofNat_toNat, BitVec.setWidth_eq]
  rfl

theorem loopCount_eq (st : SeqStep) : loopCount st = if st.w1 >>> 8 = 0 then 2 ^ 24 else (st.w1 >>> 8).toNat := by
  have hfield : fieldOf st.w1 31 8 = (st.w1 >>> 8).toNat := by
    have hlt := st.w1.isLt
    rw [BitVec.toNat_ushiftRight, Nat.shiftRight_eq_div_pow, fieldOf]
    exact Nat.mod_eq_of_lt (by omega)
  have hzero : (st.w1 >>> 8).toNat = 0 ↔ st.w1 >>> 8 = 0 := (BitVec.toNat_eq (y := 0)).symm
  simp only [loopCount, hfield, hzero]

/-- A fret number that exists does so as the six bits of its field too. -/
theorem fldFret_lt (h : w &&& 63 < 48) : ¬ fld 6 w 5 0 ≥ 48 := by
  have hlt : (w &&& 63).toNat < 48 := BitVec.lt_def.mp h
  have hmod : ((w &&& 63).truncate 6 : BitVec 6).toNat = (w &&& 63).toNat := by
    rw [BitVec.truncate_eq_setWidth, BitVec.toNat_setWidth]
    exact Nat.mod_eq_of_lt (by omega)
  rw [fldFret_eq, ge_iff_le, BitVec.not_le, BitVec.lt_def, hmod]
  exact hlt

end Fields

/-! ## The running table -/

/-- The running table takes a new state. -/
def putRun (n : Nat) (r : SeqRun) (s : State) : State := modMat n (fun m => { m with seq := some r }) s

theorem putRun_mat (n : Nat) (r : SeqRun) (s : State) : ((putRun n r s).core n).mat = { (s.core n).mat with seq := some r } :=
  congrArg Core.mat (State.modCore_core_same ..)

theorem SeqRun.addA_a (r : SeqRun) (i : Nat) (d : Word) (j : Nat) :
    mapGet 0 (r.addA i d).a j = if j = i then mapGet 0 r.a i + d else mapGet 0 r.a j := mapGet_mapSet ..

/-! ## A table starts (R190) -/

/-- A map filled over the keys below m. -/
theorem mapGet_foldl_mapSet {α : Type} [DecidableEq α] (d : α) (f : Nat → α) (m i : Nat) :
    mapGet d ((List.range m).foldl (fun a i => mapSet d a i (f i)) []) i = if i < m then f i else d := by
  induction m with
  | zero => rfl
  | succ m ih =>
    rw [List.range_succ, List.foldl_append, List.foldl_cons, List.foldl_nil, mapGet_mapSet, ih]
    by_cases him : i = m
    · rw [if_pos him, if_pos (by omega), him]
    · rw [if_neg him]
      exact if_congr (by omega) rfl rfl

section Start
variable {s : State} {n : Nat} {j : MatJob} {rest : List MatJob} {nt : Bool} {cap : Cap} {off : Word}

/-- A table as read from its bytes: its eight address registers, and its steps behind the header of 64 bytes (Table 6.5, R190). -/
def tableOf (j : MatJob) (nt : Bool) (cap : Cap) (ns : Nat) (bs : List Byte) : SeqRun :=
  { job := j, cap := cap, nt := nt, steps := (List.range ns).map (stepAt bs)
    a := (List.range 8).foldl (fun a i => mapSet 0 a i (wordAt bs i)) ([] : Map Word), step := 0, loops := [], fincs := [], finished := false }

section Table
variable (j nt cap) (ns : Nat) (bs : List Byte)

theorem tableOf_a {i : Nat} (hi : i < 8) : mapGet 0 (tableOf j nt cap ns bs).a i = wordAt bs i :=
  (mapGet_foldl_mapSet 0 (wordAt bs) 8 i).trans (if_pos hi)

theorem tableOf_steps_length : (tableOf j nt cap ns bs).steps.length = ns := by
  rw [tableOf, List.length_map, List.length_range]

theorem stepAt_eq (i : Nat) :
    stepAt bs i = ⟨wordAt bs (16 + 4 * i), wordAt bs (17 + 4 * i), wordAt bs (18 + 4 * i), wordAt bs (19 + 4 * i)⟩ := by
  have hword (c : Nat) : 16 + 4 * i + c = 16 + c + 4 * i := Nat.add_right_comm ..
  simp only [stepAt, hword]

theorem tableOf_step {i : Nat} (hi : i < ns) : (tableOf j nt cap ns bs).steps[i]? =
    some ⟨wordAt bs (16 + 4 * i), wordAt bs (17 + 4 * i), wordAt bs (18 + 4 * i), wordAt bs (19 + 4 * i)⟩ := by
  rw [tableOf, List.getElem?_map, List.getElem?_range hi, Option.map_some, stepAt_eq]

end Table

/-- The MSEQ_RUN at the head of the queue, of a thread that no fault holds, is the next table. -/
theorem headRun_head (hq : (s.core n).mat.queue = j :: rest) (hw : j.work = .mseqRun nt cap off)
    (hh : (s.core n).holds .mat j.thread = false) : headRun (s.core n) = some j := by
  have hfind : (s.core n).mat.queue.find? (fun j => !(s.core n).holds .mat j.thread) = some j := by
    rw [hq]
    exact List.find?_cons_of_pos (by rw [hh]; rfl)
  simp only [headRun, hfind, hw]

/-- A table that may start and meets no fault leaves the queue and runs. -/
theorem startTable_runs {ns : Nat} (hh : headRun (s.core n) = some j) (hw : j.work = .mseqRun nt cap off)
    (hmay : tableMayStart (s.core n) n j nt (segOf s cap) (scratchOff n cap off.toNat) = true)
    (hok : tableFault s n j cap off.toNat = none)
    (hns : fieldOf (wordAt ((s.core n).mem.readScratch (scratchOff n cap off.toNat) 64) 8) 6 0 = ns) :
    startTable n s = putRun n (tableOf j nt cap ns ((s.core n).mem.readScratch (scratchOff n cap off.toNat) (64 + 16 * ns)))
      (modMat n (fun m => { dropJob j m with seqFaulted := false, seqAborted := false, seqThread := j.thread, seqStep := 0 }) s) := by
  simp only [startTable, hh, hw, hmay, hok, hns]
  rfl

end Start

/-! ## A table steps (R188, R189) -/

section Step
variable {s : State} {n : Nat} {r : SeqRun} {st : SeqStep} {w : MatWork}

section Running
variable (hr : (s.core n).mat.seq = some r) (hf : r.finished = false) (hst : r.steps[r.step]? = some st)
include hr hf hst

theorem seqStep_loop (h : stepOp st = 9) : seqStep n s = putRun n (loopStep r st) s := by
  simp only [seqStep, hr, hf, hst, h]
  rfl

/-- A FINC waits for the ops generated before it: those below the next release number. -/
theorem seqStep_finc (h : stepOp st = 7) (hfret : st.w1 &&& 63 < 48) : seqStep n s =
    putRun n { r with step := r.step + 1, fincs := r.fincs ++ [((s.core n).relSeq, (st.w1 &&& 63).truncate 6, (st.w1 >>> 8) &&& 0xFF)] } s := by
  have h9 : stepOp st ≠ 9 := by rw [h]; decide
  simp only [seqStep, hr, hf, hst, if_neg h9, if_pos (Or.inl h : stepOp st = 7 ∨ stepOp st = 8), if_neg (fldFret_lt st.w1 hfret), if_pos h]
  rw [← fldFret_eq, ← fincCount_eq]
  rfl

theorem seqStep_generates (h7 : stepOp st ≠ 7) (h8 : stepOp st ≠ 8) (h9 : stepOp st ≠ 9)
    (hw : stepWork r st (firstIteration r) = some w) (hg : genFault s n r.job w = none) : seqStep n s = generate n r st w s := by
  have hop : ¬ (stepOp st = 7 ∨ stepOp st = 8) := not_or.mpr ⟨h7, h8⟩
  simp only [seqStep, hr, hf, hst, if_neg h9, if_neg hop, hw, hg]
  rfl

theorem seqFwait_passes (h : stepOp st = 8) (hfret : st.w1 &&& 63 < 48)
    (hreach : reached ((s.core n).fret (st.w1 &&& 63).toNat) (mapGet 0 r.a (fieldOf st.w0 6 4)) = true) :
    seqFwait n s = putRun n { r.addA (fieldOf st.w0 6 4) st.w2 with step := r.step + 1 } s := by
  have hlt : (st.w1 &&& 63).toNat < 48 := BitVec.lt_def.mp hfret
  simp only [seqFwait, hr, hf, hst, fretField_eq, if_pos (And.intro h (And.intro hlt hreach))]
  rfl

end Running

/-- A LOOP whose count is not used up goes back to its target. -/
theorem loopStep_back {left : Nat} (hleft : (if mapGet 0 r.loops r.step = 0 then loopCount st else mapGet 0 r.loops r.step) - 1 = left)
    (h : left ≠ 0) : loopStep r st = { r with loops := mapSet 0 r.loops r.step left, step := loopTarget st } := by
  simp only [loopStep, hleft]
  exact if_pos h

/-- A LOOP whose count is used up moves its two address registers on and falls through. -/
theorem loopStep_through {left : Nat} (hleft : (if mapGet 0 r.loops r.step = 0 then loopCount st else mapGet 0 r.loops r.step) - 1 = left)
    (h : left = 0) : loopStep r st =
      { (({ r with loops := mapSet 0 r.loops r.step left } : SeqRun).addA (fieldOf st.w0 6 4) st.w2).addA (fieldOf st.w0 10 8) st.w3 with
        step := r.step + 1 } := by
  simp only [loopStep, hleft]
  exact if_neg (not_not.mpr h)

/-- The running table behind an op that it generated: TLD, TST and ACC_CVT_S move their address register on. -/
def generatedRun (r : SeqRun) (st : SeqStep) : SeqRun :=
  { (if stepOp st = 1 ∨ stepOp st = 2 ∨ stepOp st = 5 then r.addA (fieldOf st.w0 6 4) st.w2 else r) with step := r.step + 1 }

theorem generatedRun_a (i : Nat) : mapGet 0 (generatedRun r st).a i =
    if i = fieldOf st.w0 6 4 ∧ (stepOp st = 1 ∨ stepOp st = 2 ∨ stepOp st = 5) then mapGet 0 r.a i + st.w2 else mapGet 0 r.a i := by
  by_cases hop : stepOp st = 1 ∨ stepOp st = 2 ∨ stepOp st = 5
  · simp only [generatedRun, if_pos hop, SeqRun.addA_a, and_iff_left hop]
    split
    case isTrue hi => rw [hi]
    case isFalse => rfl
  · simp only [generatedRun, hop, and_false, if_false]

/-- A generated op takes the next release number and joins those generated before it. -/
theorem generate_core : (generate n r st w s).core n = { s.core n with
    relSeq := (s.core n).relSeq + 1
    mat := { (s.core n).mat with
      seqOps := (s.core n).mat.seqOps ++ [{ r.job with seq := (s.core n).relSeq, work := w, fromSeq := true, step := r.step }]
      seq := some (generatedRun r st) } } := by
  rw [generate, State.modCore_core_same]
  simp only [generatedRun, decide_eq_true_eq]

/-- The oldest FINC is applied once no op generated before it is left (R190). -/
theorem seqFinc_applies {q : Nat} {f : BitVec 6} {v : Word} {rest : List (Nat × BitVec 6 × Word)} (hr : (s.core n).mat.seq = some r)
    (hfincs : r.fincs = (q, f, v) :: rest) (hdone : ∀ x ∈ generated (s.core n).mat, q ≤ x.seq) :
    seqFinc n s = addIncOwn n { f := f, v := v } (putRun n { r with fincs := rest } s) := by
  have hall : (generated (s.core n).mat).all (fun j => decide (q ≤ j.seq)) = true :=
    List.all_eq_true.mpr fun x hx => decide_eq_true (hdone x hx)
  simp only [seqFinc, hr, hfincs, if_pos hall]
  rfl

end Step

/-- Settles O27: a table starts as its bytes say, each step is one case of its op, and an oldest FINC goes when nothing before it is left. -/
theorem sequencerTablesRun : Obligations.SequencerTablesRun := by
  intro s node hn
  refine ⟨fun j rest nt cap off hq hw hh => ?starts, fun r st hr hf hst => ?steps, fun r q f v rest hr hfincs hdone => ?finc⟩
  case starts =>
    intro lo ns bs hmay hok
    have hns : fieldOf (wordAt ((s.core node.val).mem.readScratch lo 64) 8) 6 0 = ns := by
      rw [fieldOf, Nat.pow_zero, Nat.div_one]
      rfl
    refine ⟨_, tableOf j nt cap ns bs, atCore_settle hn (startTable_runs (headRun_head hq hw hh) hw hmay hok hns), ?_⟩
    rw [settle_mat, putRun_mat, modMat, State.modCore_core_same]
    exact ⟨rfl, rfl, rfl, rfl, rfl, tableOf_steps_length .., fun i hi => tableOf_a _ _ _ _ _ hi, fun i hi => tableOf_step _ _ _ _ _ hi,
      (dropJob_seq_ne j _).1⟩
  case steps =>
    dsimp only
    simp only [← stepOp_eq, ← aregField_eq, ← bregField_eq, ← loopCount_eq]
    have loops (h : stepOp st = 9) : exec (.seqStep node) s = .next (putRun node.val (loopStep r st) s) :=
      (atCore_next hn).trans (congrArg _ (seqStep_loop hr hf hst h))
    refine ⟨fun h9 hleft => ?back, fun h9 hleft => ?through, fun h7 hfret => ?waits, fun w h7 h8 h9 hw hg => ?generates,
      fun h8 hfret hreach => ?passes⟩
    case back =>
      rw [loops h9, loopStep_back rfl hleft, loopTarget_eq]
      rfl
    case through =>
      rw [loops h9, loopStep_through rfl hleft]
      rfl
    case waits => exact (atCore_next hn).trans (congrArg _ (seqStep_finc hr hf hst h7 hfret))
    case generates =>
      refine ⟨_, generatedRun r st, (atCore_next hn).trans (congrArg _ (seqStep_generates hr hf hst h7 h8 h9 hw hg)), ?_⟩
      rw [generate_core]
      exact ⟨rfl, rfl, rfl, rfl, generatedRun_a⟩
    case passes => exact (atCore_next hn).trans (congrArg _ (seqFwait_passes hr hf hst h8 hfret (decide_eq_true hreach)))
  case finc => exact (atCore_next hn).trans (congrArg _ (seqFinc_applies hr hfincs hdone))

end Sys2Proof.Machine

/-! The statements of spec/07 about atomics of the own scratchpad (O8). -/

namespace Sys2Proof.Machine

open Sys2Proof

/-! ## Atomics (R219, R220) -/

theorem opCtx_amo (s : State) (c : OpAt) (f : AmoFn) (rt : GReg) (cap : SReg) (o : LsOff) :
    opCtx s c (.amo f rt cap o) = opCtx s c (.amo .addW rt cap o) :=
  opCtx_congr s c (o := .amo f rt cap o) (p := .amo .addW rt cap o) (show 2 ≠ 3 by decide) rfl

/-- An atomic that reaches the own scratchpad returns the bytes there and writes what its operation leaves of them. -/
theorem amo_gives {s : State} {c : OpAt} {i : Instr} {f : AmoFn} {rt : GReg} {cap : SReg} {o : LsOff} {p v : Nat} {w : Thread → Thread}
    (hi : opOf i = some (c, .amo f rt cap o))
    (hm : inImem (((opCtx s c (.amo .addW rt cap o)).t.getS cap).addrAt (lsOffset (opThread s c) c.ext f.size o)) = false)
    (hr : ReachesOwn s c (.amo .addW rt cap o) true cap [pAtomic] none (lsOffset (opThread s c) c.ext f.size o) f.size p)
    (hw : amoWrite f rt (leNat (readBytes (s.core c.node.val).mem.scratch p f.size)) = w)
    (hv : leBytes f.size (amoResult f (leNat (readBytes (s.core c.node.val).mem.scratch p f.size)) (amoOperands (opThread s c) f rt).1
      (amoOperands (opThread s c) f rt).2) = leBytes f.size v) :
    OpGives s i w fun u => u.modCore c.node.val fun k => k.modMem fun m => m.writeScratch p (leBytes f.size v) := by
  obtain ⟨hl, hc, hn, hp, hh, hs, hu, he⟩ := hr
  refine opGives_of_eval hi (show 2 ≠ 3 by decide) rfl nofun ?_
  have hx : opCtx s c (.amo f rt cap o) = _ := opCtx_amo s c f rt cap o
  have hmem := opCtx_mem s c (.amo .addW rt cap o)
  have ht : (opCtx s c (.amo .addW rt cap o)).t = opThread s c := opCtx_t s c _ (show 2 ≠ 3 by decide)
  have hnode : (opCtx s c (.amo .addW rt cap o)).n = c.node.val := rfl
  have hext : (opCtx s c (.amo .addW rt cap o)).ext = c.ext := rfl
  have hcls : (opCtx s c (.amo .addW rt cap o)).cls = 2 := rfl
  generalize opCtx s c (.amo .addW rt cap o) = x at *
  have hcause : storeCause x ((opThread s c).getS cap) (lsOffset (opThread s c) c.ext f.size o) false = none := by
    rw [ht] at hm
    simp only [storeCause, hm, Bool.false_eq_true, if_false]
  have ha (a : Addr) : answerFor x true 0xFFFF a f.size = none := by
    unfold answerFor
    rw [hl]
  rw [hmem] at he
  rw [ht] at hc hn hp hh hs hu
  rw [hnode] at hp
  subst hw
  rw [hx, evalOp, evalAmo]
  simp only [ht, hext, hcause, hc, hn, ha, hp, hh, hs, hu, hmem, he, hv, hnode, CoreMem.readScratch, List.isEmpty_nil, Bool.not_true, Bool.or_false,
    Bool.false_eq_true, if_false, if_true]

theorem leBytes_mod (n x : Nat) : leBytes n (x % 256 ^ n) = leBytes n x := by
  induction n generalizing x with
  | zero => rfl
  | succ n ih =>
    have hb : BitVec.ofNat 8 (x % 256 ^ (n + 1)) = BitVec.ofNat 8 x := by
      apply BitVec.eq_of_toNat_eq
      rw [BitVec.toNat_ofNat, BitVec.toNat_ofNat, Nat.pow_succ', show 2 ^ 8 = 256 from rfl, Nat.mod_mul_right_mod]
    rw [leBytes, leBytes, hb, Nat.pow_succ', Nat.mod_mul_right_div_self, ih]

/-- A value read from n bytes is the value of the register of 8n bits. -/
theorem toNat_ofNat_leNat {n w : Nat} (m : Map Byte) (p : Nat) (h : 8 * n = w) :
    (BitVec.ofNat w (leNat (readBytes m p n))).toNat = leNat (readBytes m p n) := by
  have hl := leNat_lt (readBytes m p n)
  rw [readBytes, List.length_map, List.length_range, show 256 = 2 ^ 8 from rfl, ← Nat.pow_mul, h] at hl
  rw [BitVec.toNat_ofNat]
  exact Nat.mod_eq_of_lt hl

section Results
variable {w : Nat} (x y : BitVec w)

/-- The signed value of a lane is that of the register that holds it. -/
theorem sLane_toNat (hw : 0 < w) : sLane w x.toNat = x.toInt := by
  have hp : 2 ^ w = 2 * 2 ^ (w - 1) := by rw [← Nat.pow_succ', Nat.succ_eq_add_one, Nat.sub_add_cancel hw]
  have hi : (2 : Int) ^ w = ((2 ^ w : Nat) : Int) := by push_cast; rfl
  unfold sLane
  rw [BitVec.toInt_eq_toNat_cond, hi]
  split_ifs <;> omega

/-- Lanes compare as the registers that hold them. -/
theorem sLane_le_iff (hw : 0 < w) : sLane w x.toNat ≤ sLane w y.toNat ↔ x.slt y = true ∨ x = y := by
  rw [sLane_toNat x hw, sLane_toNat y hw, BitVec.slt_iff_toInt_lt, ← BitVec.toInt_inj]
  omega

theorem sLane_min (hw : 0 < w) : (if sLane w x.toNat ≤ sLane w y.toNat then x.toNat else y.toNat) = (if x.slt y then x else y).toNat := by
  simp only [sLane_le_iff x y hw]
  split_ifs <;> simp_all

theorem sLane_max (hw : 0 < w) : (if sLane w x.toNat ≤ sLane w y.toNat then y.toNat else x.toNat) = (if x.slt y then y else x).toNat := by
  simp only [sLane_le_iff x y hw]
  split_ifs <;> simp_all

theorem cas_toNat (z : BitVec w) : (if x.toNat = y.toNat then z.toNat else x.toNat) = (if x = y then z else x).toNat := by
  simp only [BitVec.toNat_inj]
  split_ifs <;> rfl

end Results

/-- Settles O8: the old value is the bytes at the operand, and each operation's result is Table 3.8's in the width of the register. -/
theorem ownScratchpadAtomicsComplete : Obligations.OwnScratchpadAtomicsComplete := by
  intro s c rt cap o p n x t bytes put reach old oldD word dword a d
  have hold : leNat (readBytes bytes p 4) = old.toNat := (toNat_ofNat_leNat bytes p rfl).symm
  have holdD : leNat (readBytes bytes p 8) = oldD.toNat := (toNat_ofNat_leNat bytes p rfl).symm
  have gives {f : AmoFn} {i : Instr} {v : Nat} {w : Thread → Thread} (hi : opOf i = some (c, .amo f rt cap o))
      (hw : amoWrite f rt (leNat (readBytes bytes p f.size)) = w)
      (hv : amoResult f (leNat (readBytes bytes p f.size)) (amoOperands t f rt).1 (amoOperands t f rt).2 = v)
      (h : reach f.size) : OpGives s i w (put f.size v) := amo_gives (w := w) hi h.1 h.2 hw (congrArg _ hv)
  refine ⟨gives (f := .addW) rfl rfl ?addW, gives (f := .addD) rfl rfl ?addD, gives (f := .minW) rfl rfl ?minW,
    gives (f := .minD) rfl rfl ?minD, gives (f := .maxW) rfl rfl ?maxW, gives (f := .maxD) rfl rfl ?maxD, gives (f := .swapW) rfl rfl rfl,
    gives (f := .swapD) rfl rfl rfl, gives (f := .casW) rfl rfl ?casW, gives (f := .casD) rfl rfl ?casD, ?faddF32,
    gives (f := .faddBf16) rfl rfl rfl⟩
  case addW => rw [BitVec.toNat_add, ← hold]; rfl
  case addD => rw [BitVec.toNat_add, ← holdD]; rfl
  case minW => rw [← sLane_min old a (by decide), ← hold]; rfl
  case minD => rw [← sLane_min oldD d (by decide), ← holdD]; rfl
  case maxW => rw [← sLane_max old a (by decide), ← hold]; rfl
  case maxD => rw [← sLane_max oldD d (by decide), ← holdD]; rfl
  case casW => rw [← cas_toNat old a, ← hold]; rfl
  case casD => rw [← cas_toNat oldD d, ← holdD]; rfl
  case faddF32 =>
    have hput : put 4 (BitVec.ofNat 32 (faddBits 0 old.toNat a.toNat)).toNat = put 4 (faddBits 0 old.toNat a.toNat) :=
      congrArg (fun bs (u : State) => u.modCore n fun k => k.modMem fun m => m.writeScratch p bs) (leBytes_mod 4 _)
    show reach 4 → OpGives s _ _ (put 4 _)
    rw [hput]
    exact gives (f := .faddF32) rfl rfl (congrArg (faddBits 0 · _) hold)

end Sys2Proof.Machine

/-! The statement of spec/07 about acq and acq.all (O7), with what an issue leaves of the threads that do not issue. -/

namespace Sys2Proof.Machine

open Sys2Proof

/-! ## The threads that do not issue -/

section Others
variable (n : Nat) (k : ThreadNo) (b : Bundle) (s : State) {j : Nat} (hj : j ≠ k.val)

theorem modCore_thread {f : Core → Core} (hf : ∀ c, (f c).threads = c.threads) (m j : Nat) : (s.modCore n f).thread m j = s.thread m j := by
  simp only [State.thread, State.modCore_core]
  split
  case isTrue h => rw [Core.thread, hf, h]; rfl
  case isFalse => rfl

theorem drawUpTo_thread (m i j : Nat) : (s.drawUpTo m).2.thread i j = s.thread i j := by
  unfold State.drawUpTo
  split <;> rfl

theorem squash_thread (os : List Op) (m j : Nat) : (squash n os s).thread m j = s.thread m j := by
  induction os generalizing s with
  | nil => rfl
  | cons o os ih =>
    rw [squash, ih, modCore_thread, drawUpTo_thread]
    exact fun _ => rfl

theorem traceEvent_thread (f : Bool) (m : Nat) (a : Word) (i j : Nat) : (traceEvent f m k a s).thread i j = s.thread i j := by
  unfold traceEvent
  split <;> rfl

theorem modBtb_thread (a : Word) (taken : Bool) (t : Word) (m j : Nat) :
    (s.modCore n fun c => c.modMem fun m => btbUpdate m a taken t).thread m j = s.thread m j :=
  modCore_thread n s (f := fun c => c.modMem fun m => btbUpdate m a taken t) (fun _ => rfl) m j

include hj

theorem modThread_thread_ne (f : Thread → Thread) : (s.modThread n k.val f).thread n j = s.thread n j := by
  rw [State.modThread_thread, if_neg fun h => hj h.2]

theorem countIssue_thread_ne : (countIssue n k b s).thread n j = s.thread n j := by
  rw [countIssue_thread, if_neg fun h => hj h.2]

theorem flushYounger_thread_ne (m br : Nat) (a : Word) : (flushYounger n k m br a s).thread n j = s.thread n j := by
  induction m generalizing br a s with
  | zero => rfl
  | succ m ih =>
    unfold flushYounger
    dsimp only
    split
    · rw [ih, squash_thread, countIssue_thread_ne n k _ _ hj]
      rfl
    · rfl

theorem resolve_thread_ne (taken always : Bool) : (resolve n k b taken always s).thread n j = s.thread n j := by
  unfold resolve
  dsimp only
  split_ifs
  all_goals simp only [modThread_thread_ne n k _ hj, modBtb_thread, flushAfter, flushYounger_thread_ne n k _ hj, traceEvent_thread]

end Others

theorem opWritten_thread_ne (s : State) (c : OpAt) (o : Op) (w : Thread → Thread) {j : Nat} (hj : j ≠ c.thread.val) :
    (opWritten s c o w).thread c.node.val j = s.thread c.node.val j := by
  rw [opWritten, modThread_thread_ne _ _ _ hj, opIssued, countIssue_thread_ne _ _ _ _ hj, countWaits_thread]

/-! ## Fills in flight, and settling -/

/-- Whether the fill that a thread waits for is installed. -/
def Thread.dropsFill (t : Thread) : Option Bool := t.load.map (·.dropFill)

theorem Thread.tagged_dropsFill (t : Thread) (tag : BitVec 10) (kind : ReqKind) : (t.tagged tag kind).dropsFill = t.dropsFill := by
  cases kind with
  | load j => exact Option.map_map ..
  | _ => rfl

section Settling
variable (n k : Nat) (s : State)

theorem sendTagged_dropsFill (kind : ReqKind) (tag : BitVec 10) (p : Packet) :
    ((s.sendTagged n kind tag p).thread n k).dropsFill = (s.thread n k).dropsFill := by
  rw [State.sendTagged, send_thread, State.thread, State.modCore_core_same]
  cases kind.waiter with
  | none => rfl
  | some j =>
    show (((s.core n).modThread j.val (·.tagged tag kind)).thread k).dropsFill = _
    rw [Core.modThread_thread]
    split
    case isTrue h => rw [Thread.tagged_dropsFill, ← h]; rfl
    case isFalse => rfl

theorem pumpTags_dropsFill (m : Nat) : ((pumpTags n m s).thread n k).dropsFill = (s.thread n k).dropsFill := by
  induction m generalizing s with
  | zero => rfl
  | succ m ih =>
    unfold pumpTags
    split
    · rw [ih, sendTagged_dropsFill, modCore_thread]
      exact fun _ => rfl
    · rfl

theorem settle_dropsFill : ((settle n s).thread n k).dropsFill = (s.thread n k).dropsFill := by
  have hsyn (u : State) (fuel i : Nat) : ((synPass n fuel i u).thread n k).dropsFill = (u.thread n k).dropsFill := by
    have hload : (Core.unrecorded _ k).load = (Core.unrecorded _ k).load := congrArg Thread.load (synPass_unrecorded (n := n) fuel i u)
    exact congrArg (Option.map (·.dropFill)) hload
  rw [settle, State.thread, courseSync_core]
  exact (hsyn ..).trans (pumpTags_dropsFill ..)

end Settling

/-! ## acq (R214) -/

/-- The thread's fill in flight for a line that is dropped is not installed. -/
def Thread.markFill (p : Addr → Bool) (t : Thread) : Thread :=
  match t.load with
  | some w => if w.fill && p w.addr then { t with load := some { w with dropFill := true } } else t
  | none => t

theorem markFill_dropsFill {p : Addr → Bool} {t : Thread} {w : Withdrawn} (hl : t.load = some w) (hf : w.fill = true)
    (hp : p w.addr = true) : (t.markFill p).dropsFill = some true := by
  simp only [Thread.markFill, hl, hf, hp, Bool.and_self, if_true]
  rfl

theorem acquire_core (p : Addr → Bool) (n : Nat) (s : State) : (acquire p n s).core n =
    (List.range 4).foldl (fun c k => c.modThread k (·.markFill p)) ((s.core n).modMem (·.dropLines p)) := State.modCore_core_same ..

/-- Of a core's memories an acquire changes the cache alone. -/
theorem acquire_mem (p : Addr → Bool) (n : Nat) (s : State) : ((acquire p n s).core n).mem = (s.core n).mem.dropLines p := by
  rw [acquire_core]
  have h := congrArg Core.mem (foldl_modThread_rest (·.markFill p) ((s.core n).modMem (·.dropLines p)) 4)
  exact h

theorem acquire_thread (p : Addr → Bool) (n : Nat) (s : State) (j : ThreadNo) :
    (acquire p n s).thread n j.val = (s.thread n j.val).markFill p := by
  rw [State.thread, acquire_core, foldl_modThread_thread, if_pos j.isLt]
  rfl

/-- An op that acquires drops the lines and the fills in flight that its predicate names. -/
theorem acquire_drops {s : State} {c : OpAt} {o : Op} {i : Instr} {p : Addr → Bool} (ho : o = .acqAll ∨ ∃ cap, o = .acq cap)
    (hi : opOf i = some (c, o)) (hs : opIssues s c o = true) (he : evalOp (opCtx s c o) o = .done id (acquire p c.node.val)) :
    ∃ u, exec i s = .next u ∧ (u.core c.node.val).mem.cache = (s.core c.node.val).mem.cache.filter (fun e => ! p e.2.addr)
      ∧ (u.core c.node.val).mem.scratch = (s.core c.node.val).mem.scratch ∧ (u.core c.node.val).mem.imem = (s.core c.node.val).mem.imem
      ∧ (u.core c.node.val).mem.tags = (s.core c.node.val).mem.tags
      ∧ ∀ j : ThreadNo, ∀ w, (s.thread c.node.val j.val).load = some w → w.fill = true → p w.addr = true → j ≠ c.thread →
        (u.thread c.node.val j.val).load.map (·.dropFill) = some true := by
  have hexec : exec i s = .next (afterOp s c o id (acquire p c.node.val)) := by
    obtain rfl | ⟨cap, rfl⟩ := ho <;> exact opGives_of_eval hi (show 2 ≠ 3 by decide) rfl nofun he c _ hi hs
  have hflush (v : State) : flushAtCM c.node.val c.thread [o] v = v := by obtain rfl | ⟨cap, rfl⟩ := ho <;> rfl
  obtain ⟨v, hv⟩ : ∃ v, v = resolve c.node.val c.thread (opBundle s c o) false false (opWritten s c o id) := ⟨_, rfl⟩
  have hmem : (v.core c.node.val).mem.still = (s.core c.node.val).mem.still :=
    congrArg (·.core.mem) (hv ▸ resolved_still (w := id) (fun _ => rfl) false false)
  have hthread (j : ThreadNo) (hj : j ≠ c.thread) : v.thread c.node.val j.val = s.thread c.node.val j.val := by
    have hj' : j.val ≠ c.thread.val := fun h => hj (Fin.ext h)
    rw [hv, resolve_thread_ne _ _ _ _ hj', opWritten_thread_ne _ _ _ _ hj']
  rw [afterOp, hflush, ← hv] at hexec
  refine ⟨_, hexec, ?_⟩
  rw [settle_mem, acquire_mem]
  have hcache : (v.core c.node.val).mem.cache = (s.core c.node.val).mem.cache := (congrArg CoreMem.cache hmem :)
  have hscratch : (v.core c.node.val).mem.scratch = (s.core c.node.val).mem.scratch := (congrArg CoreMem.scratch hmem :)
  have himem : (v.core c.node.val).mem.imem = (s.core c.node.val).mem.imem := (congrArg CoreMem.imem hmem :)
  have htags : (v.core c.node.val).mem.tags = (s.core c.node.val).mem.tags := (congrArg CoreMem.tags hmem :)
  refine ⟨by rw [← hcache]; rfl, hscratch, himem, htags, fun j w hl hf hp hj => ?_⟩
  rw [← hthread j hj] at hl
  have hdrop := settle_dropsFill c.node.val j.val (acquire p c.node.val v)
  rw [acquire_thread, markFill_dropsFill hl hf hp] at hdrop
  exact hdrop

/-- Settles O7: after issue, which leaves the memories and the other threads as they are, the op acquires; settling undoes nothing of it. -/
theorem acquireDropsCachedLines : Obligations.AcquireDropsCachedLines := by
  intro s c cap n k x segment drops
  refine ⟨fun o ho hs => ?all, fun o ho hs hr => ?segment⟩
  case all =>
    obtain rfl : o = .acqAll := by simpa [opOf, eq_comm] using ho
    exact acquire_drops (.inl rfl) ho hs rfl
  case segment =>
    obtain rfl : o = .acq cap := by simpa [opOf, eq_comm] using ho
    refine acquire_drops (.inr ⟨cap, rfl⟩) ho hs ?_
    have ht : (opCtx s c (.acq cap)).t = opThread s c := opCtx_t s c _ (show 2 ≠ 3 by decide)
    simp only [evalOp, evalAcq, ht]
    rw [show checkRights ((opThread s c).getS cap) (opCtx s c (.acq cap)).dom cap.toNat (opCtx s c (.acq cap)).cls [pR] = none from hr]
    rfl

end Sys2Proof.Machine

/-! The statement of spec/07 about a core's port that serves its scratchpad (O32). -/

namespace Sys2Proof.Machine

open Sys2Proof

/-! ## Words of SRAM (R422) -/

/-- The words that bytes touch. -/
theorem mem_wordsOf {u off n w : Nat} : w ∈ wordsOf u off n ↔ 0 < n ∧ off / u ≤ w ∧ w ≤ (off + n - 1) / u := by
  unfold wordsOf
  split
  case isTrue h => simp [h]
  case isFalse h =>
    have hle : off / u ≤ (off + n - 1) / u := Nat.div_le_div_right (by omega)
    constructor
    · intro hw
      obtain ⟨i, hi, rfl⟩ := List.mem_map.mp hw
      rw [List.mem_range] at hi
      omega
    · rintro ⟨-, hlo, hhi⟩
      exact List.mem_map.mpr ⟨w - off / u, List.mem_range.mpr (by omega), by omega⟩

theorem poisonedAt_false {u : Nat} {m : Map Bool} {off n : Nat} :
    poisonedAt u m off n = false ↔ ∀ w ∈ wordsOf u off n, mapGet false m w = false := by
  simp [poisonedAt]

/-- Of bytes that meet no poisoned word none does. -/
theorem poisonedAt_byte {u : Nat} {m : Map Bool} {off n i : Nat} (h : poisonedAt u m off n = false) (hi : i < n) :
    poisonedAt u m (off + i) 1 = false := by
  rw [poisonedAt_false] at h ⊢
  intro w hw
  obtain ⟨-, hlo, hhi⟩ := mem_wordsOf.mp hw
  exact h w (mem_wordsOf.mpr ⟨by omega, (Nat.div_le_div_right (by omega)).trans hlo, hhi.trans (Nat.div_le_div_right (by omega))⟩)

/-! ## Windows (R203) -/

/-- Whom the port of a core serves bytes of its scratchpad: Pegbox, and outside the reserved area the core itself and whom a window admits. -/
def PortGrants (c : Core) (n : Nat) (p : Packet) (lo len : Nat) : Prop :=
  p.h.snode.toNat = pegboxNode ∨ (lo + len ≤ 0x1FE000 ∧ (p.h.snode.toNat = n ∨
    ∃ i < 8, winAdmits (winOf c i) (fromLink p) p.h.region = true ∧ winGrants (winOf c i) p = true ∧ winCovers (winOf c i) lo len = true))

section Port
variable {s : State} {c : Core} {n : Nat} {p : Packet} {off lo len : Nat}

theorem windowRefusal_granted (h : PortGrants c n p lo len) : windowRefusal c n p lo len = none := by
  unfold windowRefusal
  obtain hp | ⟨hlen, hn | ⟨i, hi, ha, hg, hc⟩⟩ := h
  · rw [show fromPegbox p = true from decide_eq_true hp, if_pos rfl]
  · rw [if_neg (by omega : ¬ lo + len > 0x1FE000), if_pos hn, ite_self]
  · have hany : ((List.range 8).any fun k => winAdmits (winOf c k) (fromLink p) p.h.region && winGrants (winOf c k) p
        && winCovers (winOf c k) lo len) = true := List.any_eq_true.mpr ⟨i, List.mem_range.mpr hi, by rw [ha, hg, hc]; rfl⟩
    rw [if_neg (by omega : ¬ lo + len > 0x1FE000), if_pos hany, ite_self, ite_self]

theorem windowRefusal_denied (h : ¬ PortGrants c n p lo len) : windowRefusal c n p lo len = some refWindow := by
  have hp : fromPegbox p = false := decide_eq_false fun hp => h (.inl hp)
  unfold windowRefusal
  rw [hp, if_neg Bool.false_ne_true]
  split
  case isTrue => rfl
  case isFalse hlen =>
    have hlen' : lo + len ≤ 0x1FE000 := by omega
    rw [if_neg fun hn => h (.inr ⟨hlen', .inl hn⟩), if_neg]
    intro hany
    obtain ⟨i, hi, hw⟩ := List.any_eq_true.mp hany
    simp only [Bool.and_eq_true] at hw
    exact h (.inr ⟨hlen', .inr ⟨i, List.mem_range.mp hi, hw.1.1, hw.1.2, hw.2⟩⟩)

/-! ## Requests for the scratchpad (R202, R217, R219) -/

section Placed
variable (hr : portRefusal s n p = none) (hp : placeOfAddr p.h.addr = .scratch n off) (hk : p.h.kind ≠ kRdb)
  (hl : (spanOf p off).1 + (spanOf p off).2 ≤ scratchSize)
include hr hp hk hl

theorem corePort_granted (h : PortGrants (s.core n) n p (spanOf p off).1 (spanOf p off).2) : corePort n p s = scratchAccess n p off s := by
  have hout : ¬ (n ≠ n ∨ p.h.kind = kRdb ∨ (spanOf p off).1 + (spanOf p off).2 > scratchSize) := by
    simpa [hk] using hl
  simp only [corePort, hr, hp, if_neg hout, windowRefusal_granted h]

theorem corePort_denied (h : ¬ PortGrants (s.core n) n p (spanOf p off).1 (spanOf p off).2) : corePort n p s = refuse n p refWindow s := by
  have hout : ¬ (n ≠ n ∨ p.h.kind = kRdb ∨ (spanOf p off).1 + (spanOf p off).2 > scratchSize) := by
    simpa [hk] using hl
  simp only [corePort, hr, hp, if_neg hout, windowRefusal_denied h]

end Placed

theorem portRefusal_unowned (hl : (s.core n).lost = none) (he : s.exposed n = true) (hv : (s.course (courseOf n)).valid = false)
    (hreg : p.h.region ≠ 0x3F) : portRefusal s n p = some refUnmapped := by
  have hc : coreRefusal s n = none := by simp [coreRefusal, hl, he]
  simp only [portRefusal, hc, hv, Bool.not_false, true_and, if_pos hreg]

theorem scratchAccess_write (hk : p.h.kind = kWrite) :
    scratchAccess n p off s = (s.modCore n fun c => c.modMem (·.writeScratch off p.data)).send (ackOf n p) := by
  have hread : isReadKind p = false := by rw [isReadKind, hk]; decide
  have hred : isRedKind p = false := by rw [isRedKind, hk]; decide
  have hat : p.h.kind ≠ kAtomic := by rw [hk]; decide
  simp only [scratchAccess, hread, hred, if_neg hat, Bool.false_eq_true, if_false]

/-- A read of bytes that are sound returns them in the order in which it names them. -/
theorem scratchAccess_read (hk : isReadKind p = true) (hs : ∀ o ∈ readOffsets p off, poisonedAt 8 (s.core n).mem.poison o 1 = false) :
    scratchAccess n p off s = s.send (dataOf n p ((readOffsets p off).map (mapGet 0 (s.core n).mem.scratch))) := by
  have hfind : ((readOffsets p off).find? fun o => poisonedAt 8 (s.core n).mem.poison o 1) = none :=
    List.find?_eq_none.mpr fun o ho => by rw [hs o ho]; exact Bool.false_ne_true
  simp only [scratchAccess, hk, hfind, if_true]

theorem readOffsets_plain (hk : p.h.kind = kRead) : readOffsets p off = (List.range (readCount p)).map (off + ·) := by
  rw [readOffsets, if_neg (by rw [hk]; decide)]

theorem spanOf_plain (hk : p.h.kind = kRead) : spanOf p off = (off, readCount p) := by
  rw [spanOf, if_neg (by rw [hk]; decide), if_pos hk]

theorem scratchAccess_atomic {f : AmoFn} (hk : p.h.kind = kAtomic) (hf : amoOf p = some f)
    (hs : poisonedAt 8 (s.core n).mem.poison off (spanOf p off).2 = false) :
    let old := leNat ((s.core n).mem.readScratch off f.size)
    let new := amoResult f old (leNat ((p.data.drop 1).take f.size)) (leNat ((p.data.drop 9).take f.size))
    scratchAccess n p off s = (s.modCore n fun c => c.modMem (·.writeScratch off (leBytes f.size new))).send
      (dataOf n p (padTo 16 (leBytes f.size old))) := by
  have hread : isReadKind p = false := by rw [isReadKind, hk]; decide
  simp only [scratchAccess, hread, hk, hf, hs, Bool.false_eq_true, if_false, if_true]

end Port

/-- Settles O32: the request in turn meets the port's refusals in their order, and one that none meets does what its kind says. -/
theorem portsServeTheScratchpad : Obligations.PortsServeTheScratchpad := by
  intro s node p rest off hc n c lo len own hrx hans hrdb hlost hexp turn hplace hspan u refused granted
  have hexec : exec (.networkPortAccess node) s = .next (settle n (corePort n p u)) := exec_corePort hc (nextRequest_head hrx hans turn)
  have hmem : (u.core n).mem = c.mem := by
    rw [State.modCore_core_same]
    rfl
  have hlost' : (u.core n).lost = none := by
    rw [State.modCore_core_same]
    exact hlost
  refine ⟨fun hv hreg => ?unowned, fun hv => ?owned⟩
  case unowned =>
    have hr : portRefusal u n p = some refUnmapped := portRefusal_unowned hlost' hexp hv hreg
    show exec _ s = _
    rw [hexec, corePort, hr]
    rfl
  case owned =>
    have hr : portRefusal u n p = none := portRefusal_none hlost' hexp hv
    have hwin : PortGrants (u.core n) n p lo len ↔ granted := by
      rw [State.modCore_core_same]
      exact Iff.rfl
    have admitted (h : granted) : exec (.networkPortAccess node) s = .next (settle n (scratchAccess n p off u)) := by
      rw [hexec, corePort_granted hr hplace hrdb hspan (hwin.mpr h)]
    refine ⟨fun h hk => ?write, fun h hk hs => ?read, fun h hk hs => ?gather, fun f h hk hf hs => ?atomic, fun h => ?denied⟩
    case write => rw [admitted h, scratchAccess_write hk]
    case read =>
      have hlen : len = readCount p := congrArg Prod.snd (spanOf_plain hk)
      rw [admitted h, scratchAccess_read (decide_eq_true (.inl hk)), readOffsets_plain hk, hmem, List.map_map]
      · rfl
      · rw [readOffsets_plain hk, hmem]
        rintro o ho
        obtain ⟨i, hi, rfl⟩ := List.mem_map.mp ho
        exact poisonedAt_byte hs (hlen ▸ List.mem_range.mp hi)
    case gather =>
      rw [admitted h, scratchAccess_read (decide_eq_true (.inr hk)) (by rw [hmem]; exact hs), hmem]
    case atomic =>
      rw [admitted h, scratchAccess_atomic hk hf (by rw [hmem]; exact hs), hmem]
    case denied =>
      show exec _ s = _
      rw [hexec, corePort_denied hr hplace hrdb hspan (mt hwin.mp h)]
      rfl

end Sys2Proof.Machine

/-! The statement of spec/07 about memory controllers (O36). -/

namespace Sys2Proof.Machine

open Sys2Proof

/-! ## Health events and failing controllers (R342, R425, R428) -/

section Errors
variable (s t : State) (e : HEvent) {n i w : Nat} {q : Packet}

theorem health_cases : ∃ b, s.health e = { s with emu := { s.emu with healthCnt := s.emu.healthCnt + 1 }, pb := b } := by
  unfold State.health
  dsimp only
  split <;> exact ⟨_, rfl⟩

/-- A change of READY bits raises at most one event. -/
theorem readyEvent_cases : readyEvent s t = t ∨ ∃ e, readyEvent s t = t.health e := by
  unfold readyEvent
  split
  · exact .inl rfl
  · exact .inr ⟨_, rfl⟩

theorem send_ctl (p : Packet) (m : Nat) : (s.send p).ctl m = s.ctl m := send_reads s p (·.ctl m) fun _ _ _ => rfl

theorem mem_out_send {p : Packet} {m : Nat} (h : q ∈ (s.node m).out) : q ∈ ((s.send p).node m).out := by
  have hout (f : NodeIO → NodeIO) (hf : ∀ x, x.out ⊆ (f x).out) : q ∈ ((s.modNode p.h.snode.toNat f).node m).out := by
    rw [State.modNode_node]
    split
    case isTrue hm => exact hf _ (hm ▸ h)
    case isFalse => exact h
  have hdeliver (x : NodeIO) : (x.deliver p).out = x.out := by
    unfold NodeIO.deliver
    split <;> rfl
  unfold State.send
  dsimp only
  split
  · exact hout _ fun x => by rw [hdeliver]; exact List.Subset.refl _
  · exact hout _ fun x => List.subset_append_left ..

/-- A controller's word is poisoned, and a packet is on its way out of the controller's node. -/
def ErrorAnswered (n i w : Nat) (q : Packet) (t : State) : Prop := mapGet false (t.ctl i).poison w = true ∧ q ∈ (t.node n).out

variable {s t}

theorem ErrorAnswered.congr (h : ErrorAnswered n i w q s) (hc : t.ctls = s.ctls) (hn : t.nodes = s.nodes) : ErrorAnswered n i w q t := by
  have hctl : t.ctl i = s.ctl i := congrArg (mapGet ({} : MemCtl) · i) hc
  have hnode : t.node n = s.node n := congrArg (mapGet ({} : NodeIO) · n) hn
  rwa [ErrorAnswered, hctl, hnode]

theorem ErrorAnswered.modCtl {f : MemCtl → MemCtl} (h : ErrorAnswered n i w q s) (hf : ∀ c, (f c).poison = c.poison) :
    ErrorAnswered n i w q (s.modCtl i f) := by
  rw [ErrorAnswered, State.modCtl_ctl_same, hf]
  exact h

theorem ErrorAnswered.send (p : Packet) (h : ErrorAnswered n i w q s) : ErrorAnswered n i w q (s.send p) :=
  ⟨(congrArg (fun m => mapGet false (mapGet ({} : MemCtl) m i).poison w) (send_ctls s p)).trans h.1, mem_out_send s h.2⟩

theorem ErrorAnswered.health (h : ErrorAnswered n i w q s) : ErrorAnswered n i w q (s.health e) := by
  obtain ⟨b, hb⟩ := health_cases s e
  rw [hb]
  exact h.congr rfl rfl

/-- The state in which a controller has failed and refused the requests that waited (R428). -/
def refusedAll (n i : Nat) (s : State) : State :=
  foldState (fun (r : MemReq) t => t.send (refusalOf n r.pkt refDestLost))
    ((s.ctl i).queue.filter fun r => decide (r.pkt.h.kind ≠ kWrite)) (s.modCtl i fun c => { c with failed := true, queue := [] })

theorem refusedAll_emu (n i : Nat) (s : State) : (refusedAll n i s).emu = s.emu :=
  foldState_reads _ (·.emu) _ _ fun _ _ t => send_emu t _

theorem ErrorAnswered.refusedAll (h : ErrorAnswered n i w q s) (m : Nat) : ErrorAnswered n i w q (refusedAll m i s) :=
  foldState_keeps _ _ _ _ (fun _ _ _ ht => ht.send _) (h.modCtl fun _ => rfl)

/-- What a controller that fails leaves is the READY event of a state with the same count of events. -/
theorem failCtl_cases (n i : Nat) (s : State) : ∃ u, failCtl n i s = readyEvent s u ∧ u.emu.healthCnt = s.emu.healthCnt
    ∧ ∀ m w q, ErrorAnswered m i w q s → ErrorAnswered m i w q u := by
  refine ⟨_, rfl, ?count, fun m w q h => ?answered⟩
  case count =>
    have hcount := congrArg Emu.healthCnt (refusedAll_emu n i s)
    dsimp only
    split <;> exact hcount
  case answered =>
    have hrefused := h.refusedAll n
    dsimp only
    split <;> exact hrefused.congr rfl rfl

theorem failCtl_answered (h : ErrorAnswered n i w q s) (m : Nat) : ErrorAnswered n i w q (failCtl m i s) := by
  obtain ⟨u, hu, -, hkeeps⟩ := failCtl_cases m i s
  rw [hu]
  obtain hr | ⟨e, hr⟩ := readyEvent_cases s u
  · rw [hr]
    exact hkeeps n w q h
  · rw [hr]
    exact (hkeeps n w q h).health e

theorem health_healthCnt (s : State) : (s.health e).emu.healthCnt = s.emu.healthCnt + 1 := by
  obtain ⟨b, hb⟩ := health_cases s e
  rw [hb]

theorem failCtl_healthCnt (m i : Nat) (s : State) :
    (failCtl m i s).emu.healthCnt = s.emu.healthCnt ∨ (failCtl m i s).emu.healthCnt = s.emu.healthCnt + 1 := by
  obtain ⟨u, hu, hcount, -⟩ := failCtl_cases m i s
  rw [hu, ← hcount]
  obtain hr | ⟨e, hr⟩ := readyEvent_cases s u
  · exact .inl (congrArg (·.emu.healthCnt) hr)
  · exact .inr (by rw [hr, health_healthCnt])

/-- An uncorrectable error is an event, and fails its controller or not. -/
theorem ctlUncorr_cases (n i addr : Nat) (s : State) : ∃ u, (ctlUncorr n i addr s = u ∨ ctlUncorr n i addr s = failCtl n i u)
    ∧ u.emu.healthCnt = s.emu.healthCnt + 1 ∧ ∀ m w q, ErrorAnswered m i w q s → ErrorAnswered m i w q u := by
  refine ⟨_, (ite_eq_or_eq _ _ _).symm, health_healthCnt _ _, fun m w q h => ?_⟩
  have hinst : ErrorAnswered m i w q (modInst (ctlInst i).1 (ctlInst i).2 (fun y => { y with uncorr := satAdd y.uncorr 1 }) s) :=
    h.congr rfl rfl
  exact (hinst.health _).modCtl fun _ => rfl

theorem ctlUncorr_answered (h : ErrorAnswered n i w q s) (m addr : Nat) : ErrorAnswered n i w q (ctlUncorr m i addr s) := by
  obtain ⟨u, hu, -, hkeeps⟩ := ctlUncorr_cases m i addr s
  obtain hu | hu := hu
  · exact hu ▸ hkeeps n w q h
  · exact hu ▸ failCtl_answered (hkeeps n w q h) m

theorem ctlUncorr_healthCnt (n i addr : Nat) (s : State) : (ctlUncorr n i addr s).emu.healthCnt ≠ s.emu.healthCnt := by
  obtain ⟨u, hu, hcount, -⟩ := ctlUncorr_cases n i addr s
  obtain hu | hu := hu
  · rw [hu, hcount]
    bv_omega
  · obtain hf | hf := failCtl_healthCnt n i u
    · rw [hu, hf, hcount]
      bv_omega
    · rw [hu, hf, hcount]
      bv_omega

end Errors

/-! ## Requests at a controller (R208, R298, R420, R449) -/

section Serve
variable {s : State} {n i j index : Nat} {r : MemReq} {ecc : EccOutcome}

theorem admitMem_nil (h : (s.node n).rx = []) : admitMem n s = s := by rw [admitMem, h]; rfl

theorem mayServe_iff {q : List MemReq} : mayServe s q j r = true ↔
    ∀ o ∈ q.take j, rangesMeet o.span.1 o.span.2 r.span.1 r.span.2 = false ∧ s.mc < o.arrived + 1600 := by
  simp [mayServe, MemReq.meets]

/-- The request with an index is served if it may go before the older ones of its controller. -/
theorem memServe_picked (hrx : (s.node n).rx = []) (hp : pickReq s (ctlsOf n) index = some (i, j)) (hr : (s.ctl i).queue[j]? = some r) :
    memServe n index ecc s = if mayServe s (s.ctl i).queue j r = true then
      serveRequest n i r ((s.ctl i).queue.drop (j + 1)) ecc (s.modCtl i fun c => { c with queue := (s.ctl i).queue.eraseIdx j }) else s := by
  simp only [memServe, admitMem_nil hrx, hp, hr]
  cases mayServe s (s.ctl i).queue j r <;> rfl

variable {younger : List MemReq}

theorem serveRequest_write (hk : r.pkt.h.kind = kWrite) : serveRequest n i r younger ecc s = s.modCtl i fun c =>
    { c with mem := writeBytes c.mem r.off r.pkt.data, poison := clearPoison (eccUnit i) c.poison r.off r.pkt.data.length } := by
  simp only [serveRequest, serveWrite, MemReq.apply, if_pos hk]

/-- The words of a plain read are those of its span. -/
theorem plainWords_sound (hk : r.pkt.h.kind = kRead) {m : Map Bool} {unit : Nat}
    (hs : ∀ w ∈ wordsOf unit r.span.1 r.span.2, mapGet false m w = false) :
    ((readOffsets r.pkt r.off).map (· / unit)).any (fun w => mapGet false m w) = false := by
  rw [List.any_eq_false]
  intro w hw
  rw [readOffsets_plain hk] at hw
  obtain ⟨o, ho, rfl⟩ := List.mem_map.mp hw
  obtain ⟨b, hb, rfl⟩ := List.mem_map.mp ho
  rw [List.mem_range] at hb
  have hspan : r.span = (r.off, readCount r.pkt) := spanOf_plain hk
  rw [hspan] at hs
  rw [hs _ (mem_wordsOf.mpr ⟨Nat.zero_lt_of_lt hb, Nat.div_le_div_right (Nat.le_add_right ..), Nat.div_le_div_right (by dsimp only; omega)⟩)]
  exact Bool.false_ne_true

/-- A read of a count of bytes but a line returns them. -/
theorem serveRead_plain (hk : r.pkt.h.kind = kRead) (hc : readCount r.pkt ≠ 128) :
    serveRead n i r younger s = s.send (dataOf n r.pkt (readBytes (s.ctl i).mem r.off (readCount r.pkt))) := by
  rw [serveRead, if_neg fun h => hc h.2.1, readOffsets_plain hk, List.map_map]
  rfl

theorem serveRequest_read (hk : r.pkt.h.kind = kRead) (hc : readCount r.pkt ≠ 128) (he : ecc ≠ .uncorrectable)
    (hs : ∀ w ∈ wordsOf (eccUnit i) r.span.1 r.span.2, mapGet false (s.ctl i).poison w = false) :
    serveRequest n i r younger ecc s = (if ecc = .corrected then
        modInst (ctlInst i).1 (ctlInst i).2 (fun y => { y with corr := satAdd y.corr 1 }) s else s).send
      (dataOf n r.pkt (readBytes (s.ctl i).mem r.off (readCount r.pkt))) := by
  have hw : r.pkt.h.kind ≠ kWrite := by rw [hk]; decide
  have ha : r.pkt.h.kind ≠ kAtomic := by rw [hk]; decide
  have hread : isReadKind r.pkt = true := decide_eq_true (.inl hk)
  have hbad : (decide (ecc = .uncorrectable) || ((readOffsets r.pkt r.off).map (· / eccUnit i)).any fun w => mapGet false (s.ctl i).poison w)
      = false := by rw [decide_eq_false he, plainWords_sound hk hs]; rfl
  simp only [serveRequest, if_neg hw, hread, if_true, hbad, Bool.false_eq_true, if_false, if_neg ha]
  rw [serveRead_plain hk hc]
  split <;> rfl

/-- A packet that answers another node's request leaves through its node. -/
theorem mem_out_replyTo {p : Packet} {kind : BitVec 5} {cls : BitVec 2} {data : List Byte} (hn : n < 1024) (hp : p.h.snode.toNat ≠ n) :
    replyTo n p kind cls data ∈ ((s.send (replyTo n p kind cls data)).node n).out := by
  have hsrc : (replyTo n p kind cls data).h.snode.toNat = n := by
    rw [replyTo, BitVec.toNat_ofNat]
    exact Nat.mod_eq_of_lt hn
  have hdst : (replyTo n p kind cls data).h.dnode ≠ (replyTo n p kind cls data).h.snode := fun h => hp ((congrArg BitVec.toNat h).trans hsrc)
  rw [send_out _ _ hdst, hsrc, State.modNode_node_same]
  exact List.mem_append_right _ (List.mem_singleton_self _)

/-- An error that is not corrected poisons the word, answers poisoned, and is an event. -/
theorem serveRequest_uncorrectable (hk : r.pkt.h.kind = kRead) (hn : n < 1024) (hp : r.pkt.h.snode.toNat ≠ n) :
    ErrorAnswered n i (r.off / eccUnit i) (poisonedOf n r.pkt (if i < 32 then 4 else 5)) (serveRequest n i r younger .uncorrectable s)
      ∧ (serveRequest n i r younger .uncorrectable s).emu.healthCnt ≠ s.emu.healthCnt := by
  have hw : r.pkt.h.kind ≠ kWrite := by rw [hk]; decide
  obtain ⟨v, hv⟩ : ∃ v, v = s.modCtl i fun c => { c with poison := mapSet false c.poison (r.off / eccUnit i) true } := ⟨_, rfl⟩
  have hserve : serveRequest n i r younger .uncorrectable s =
      ctlUncorr n i r.pkt.h.addr.toNat (v.send (poisonedOf n r.pkt (if i < 32 then 4 else 5))) := by
    simp only [serveRequest, if_neg hw, decide_true, Bool.true_or, if_true, hv]
  have hpoison : mapGet false (v.ctl i).poison (r.off / eccUnit i) = true := by
    rw [hv, State.modCtl_ctl_same, mapGet_mapSet_same]
  have hemu : v.emu = s.emu := by rw [hv]; rfl
  rw [hserve, ← hemu, ← send_emu v (poisonedOf n r.pkt (if i < 32 then 4 else 5))]
  refine ⟨ctlUncorr_answered ⟨?_, mem_out_replyTo hn hp⟩ n _, ctlUncorr_healthCnt _ _ _ _⟩
  rwa [send_ctl]

end Serve

theorem ctlsOf_nodup (n : Nat) : (ctlsOf n).Nodup := by
  unfold ctlsOf
  split
  · exact List.nodup_singleton _
  · split
    · simp
    · exact List.nodup_nil
  · exact List.nodup_nil

/-! ### Requests that enter (R217, R298) -/

section Enter
variable {s : State} {n i off index : Nat} {p : Packet}

/-- A request for a controller's bytes is none for the node's block. -/
theorem toBlock_of_ctlPlace {x : Nat × Nat} (h : ctlPlace s n p = some x) : toBlock p = false := by
  unfold toBlock
  split
  case h_1 m o hp =>
    simp only [ctlPlace, hp] at h
    split_ifs at h
  case h_2 => rfl

/-- Where a request goes depends on the courses alone. -/
theorem ctlPlace_congr {s u : State} (h : u.courses = s.courses) (n : Nat) (p : Packet) : ctlPlace u n p = ctlPlace s n p := by
  have hc : u.course = s.course := funext fun c => congrArg (mapGet ({} : Course) · c) h
  have hr : u.regionCourses = s.regionCourses := funext fun r => by simp only [State.regionCourses, hc]
  have h1 : u.tier1Map = s.tier1Map := funext fun r => funext fun a => by simp only [State.tier1Map, hr]
  have h2 : u.tier2Map = s.tier2Map := funext fun r => funext fun x => funext fun a => by simp only [State.tier2Map, hr]
  simp only [ctlPlace, hc, h1, h2]

/-- The state that a request leaves which enters its controller's queue. -/
def entered (n i off : Nat) (p : Packet) (s : State) : State :=
  (s.modNode n fun x => { x with rx := [] }).modCtl i fun c => { c with queue := c.queue ++ [{ pkt := p, off := off, arrived := s.mc }] }

/-- The only request that has arrived enters its controller's queue where that is empty. -/
theorem admitMem_single (hrx : (s.node n).rx = [p]) (hm : p.h.module = 0xFFFF) (ha : isAnswer p = false)
    (hp : ctlPlace s n p = some (i, off)) (hq : (s.ctl i).queue = []) (hf : (s.ctl i).failed = false) :
    admitMem n s = if p.h.kind = kWrite then (entered n i off p s).send (ackOf n p) else entered n i off p s := by
  have ht : takeRx n (fun p => decide (p.h.module = 0xFFFF) && ! isAnswer p && ! toBlock p) s = some (p, s.modNode n fun x => { x with rx := [] }) :=
    takeRx_head hrx (by simp [hm, ha, toBlock_of_ctlPlace hp])
  have hp' : ctlPlace (s.modNode n fun x => { x with rx := [] }) n p = some (i, off) := (ctlPlace_congr (State.modNode_courses ..) n p).trans hp
  have hf' : ((s.modNode n fun x => { x with rx := [] }).ctl i).failed = false := hf
  have hfull : decide ((s.ctl i).queue.length ≥ 64) = false := by simp [hq]
  rw [admitMem, hrx, List.length_singleton, admitAll]
  simp only [ht, hp, hfull, Bool.false_eq_true, if_false, admitAll, admitOne, hp', hf']
  rfl

theorem pickReq_none {l : List Nat} (h : ∀ j ∈ l, (s.ctl j).queue = []) : pickReq s l index = none := by
  induction l generalizing index with
  | nil => rfl
  | cons a l ih =>
    rw [pickReq, h a List.mem_cons_self, List.length_nil, if_neg (Nat.not_lt_zero _)]
    exact ih fun j hj => h j (List.mem_cons_of_mem _ hj)

/-- No request has an index past that of the only one that waits. -/
theorem pickReq_single {l : List Nat} (hl : l.Nodup) (h1 : (s.ctl i).queue.length = 1) (h0 : ∀ j, j ≠ i → (s.ctl j).queue = [])
    (hi : 0 < index) : pickReq s l index = none := by
  induction l with
  | nil => rfl
  | cons a l ih =>
    obtain ⟨ha, hl⟩ := List.nodup_cons.mp hl
    rw [pickReq]
    by_cases h : a = i
    · subst h
      rw [h1, if_neg (by omega)]
      exact pickReq_none fun j hj => h0 j fun hja => ha (hja ▸ hj)
    · rw [h0 a h, List.length_nil, if_neg (Nat.not_lt_zero _)]
      exact ih hl

/-- A request that enters alone is not the one with a later index. -/
theorem memServe_entered (hrx : (s.node n).rx = [p]) (hm : p.h.module = 0xFFFF) (ha : isAnswer p = false)
    (hp : ctlPlace s n p = some (i, off)) (hq : ∀ j, (s.ctl j).queue = []) (hf : (s.ctl i).failed = false) (hi : 0 < index) (ecc : EccOutcome) :
    memServe n index ecc s = if p.h.kind = kWrite then (entered n i off p s).send (ackOf n p) else entered n i off p s := by
  obtain ⟨v, hv⟩ : ∃ v, v = if p.h.kind = kWrite then (entered n i off p s).send (ackOf n p) else entered n i off p s := ⟨_, rfl⟩
  have hctl (j : Nat) : v.ctl j = (entered n i off p s).ctl j := by
    rw [hv]
    split
    · rw [send_ctl]
    · rfl
  have h1 : (v.ctl i).queue.length = 1 := by
    rw [hctl, entered, State.modCtl_ctl_same, State.modNode_ctl, hq i]
    rfl
  have h0 (j : Nat) (hj : j ≠ i) : (v.ctl j).queue = [] := by
    rw [hctl, entered, State.modCtl_ctl_ne _ _ _ _ hj, State.modNode_ctl, hq j]
  rw [memServe, admitMem_single hrx hm ha hp (hq i) hf, ← hv]
  simp only [pickReq_single (ctlsOf_nodup n) h1 h0 hi]

end Enter

/-- The controllers of a node refresh. -/
theorem refresh_ctl (l : List Nat) (s : State) (i : Nat) :
    ((foldState (fun i s => s.modCtl i fun c => { c with refreshAt := s.mc }) l s).ctl i)
      = if i ∈ l then { s.ctl i with refreshAt := s.mc } else s.ctl i := by
  induction l generalizing s with
  | nil => rfl
  | cons a l ih =>
    rw [foldState_cons, ih, State.modCtl_ctl]
    by_cases h : i = a
    · subst h; simp
    · simp [h]

/-- Settles O36: with nothing new at the input the picked request is served if it may go, and what it does is its kind's; a request alone at
the input enters its queue. -/
theorem controllersServeRequests : Obligations.ControllersServeRequests := by
  intro s node index hkind n
  have hlt : n < 1024 := by have := node.isLt; omega
  refine ⟨fun i j r hrx hp hr => ?served, fun p i off hrx hq hans hm hplace hf hi ecc => ?enters, ?refreshes⟩
  case served =>
    intro q u clear unit sound
    have hexec (ecc : EccOutcome) : exec (.memRequestServe node index ecc) s =
        .next (if mayServe s q j r = true then serveRequest n i r (q.drop (j + 1)) ecc u else s) :=
      (atMemory_next hkind).trans (congrArg _ (memServe_picked hrx hp hr))
    have hserve (h : clear) (ecc : EccOutcome) : exec (.memRequestServe node index ecc) s =
        .next (serveRequest n i r (q.drop (j + 1)) ecc u) := by rw [hexec, if_pos (mayServe_iff.mpr h)]
    have hu : u.ctl i = { s.ctl i with queue := q.eraseIdx j } := State.modCtl_ctl_same ..
    refine ⟨fun h ecc => ?_, fun h hk ecc => ?_, fun h hk hs hc => ⟨?_, ?_⟩, fun h hk hn => ?_⟩
    · rw [hexec, if_neg (mt mayServe_iff.mp h)]
    · rw [hserve h, serveRequest_write hk]
      rfl
    · rw [hserve h, serveRequest_read hk hc (by decide) (by rw [hu]; exact hs), if_neg (by decide), hu]
    · rw [hserve h, serveRequest_read hk hc (by decide) (by rw [hu]; exact hs), if_pos rfl, hu]
    · obtain ⟨⟨hpoison, hout⟩, hcount⟩ := serveRequest_uncorrectable (s := u) (i := i) (younger := q.drop (j + 1)) hk hlt hn
      exact ⟨_, hserve h _, hpoison, hout, hcount⟩
  case enters => exact (atMemory_next hkind).trans (congrArg _ (memServe_entered hrx hm hans hplace hq hf hi ecc))
  case refreshes => exact ⟨_, atMemory_next hkind, refresh_ctl _ s⟩

end Sys2Proof.Machine

/-! The statement of spec/08 about DMA bursts (O30): what Plectrum's steps leave of a chain, and what a request that has left stays. -/

namespace Sys2Proof.Machine

open Sys2Proof

/-! ## Requests that have left (R50, R273) -/

/-- A request of a core is outstanding under its TAG, and its packet, where it is for another node, waits to enter the mesh. -/
def Sent (n : Nat) (e : BitVec 10 × ReqKind) (p : Packet) (away : Prop) (s : State) : Prop :=
  e ∈ (s.core n).reqs ∧ (away → p ∈ (s.node n).out)

section Sending
variable {s t : State} {n : Nat} {e : BitVec 10 × ReqKind} {p : Packet} {away : Prop}

theorem Sent.mono (h : Sent n e p away s) (hr : (s.core n).reqs ⊆ (t.core n).reqs) (hn : t.nodes = s.nodes) : Sent n e p away t := by
  have hnode : t.node n = s.node n := congrArg (mapGet ({} : NodeIO) · n) hn
  exact ⟨hr h.1, hnode ▸ h.2⟩

theorem Sent.modCore {f : Core → Core} (h : Sent n e p away s) (hf : ∀ c, c.reqs ⊆ (f c).reqs) : Sent n e p away (s.modCore n f) :=
  h.mono (by rw [State.modCore_core_same]; exact hf _) rfl

theorem Sent.send (q : Packet) (h : Sent n e p away s) : Sent n e p away (s.send q) :=
  ⟨by rw [send_core]; exact h.1, fun ha => mem_out_send s (h.2 ha)⟩

theorem Sent.sendTagged (kind : ReqKind) (tag : BitVec 10) (q : Packet) (h : Sent n e p away s) : Sent n e p away (s.sendTagged n kind tag q) := by
  refine Sent.send _ (h.modCore fun c => ?_)
  cases kind.waiter <;> exact List.subset_append_left c.reqs _

theorem Sent.pumpTags (m : Nat) (h : Sent n e p away s) : Sent n e p away (pumpTags n m s) := by
  induction m generalizing s with
  | zero => exact h
  | succ m ih =>
    unfold Machine.pumpTags
    split
    · exact ih (Sent.sendTagged _ _ _ (Sent.modCore h fun c => List.Subset.refl c.reqs))
    · exact h

theorem Sent.noteRefusal (k : Nat) (kind : BitVec 3) (pc : Word) (h : Sent n e p away s) : Sent n e p away (noteRefusal n k kind pc s) :=
  h.mono (by rw [Machine.noteRefusal, State.modThread_core_same]; exact List.Subset.refl _) rfl

theorem Sent.sendSyn (x : SynEntry) (i : Nat) (module : BitVec 16) (region : BitVec 6) (a : Addr) (kind : BitVec 5) (payload : List Byte)
    (h : Sent n e p away s) : Sent n e p away (sendSyn n x i module region a kind payload s) := by
  unfold Machine.sendSyn
  dsimp only
  split
  · exact Sent.noteRefusal _ _ _ (Sent.modCore h fun c => List.Subset.refl c.reqs)
  · exact Sent.send _ (Sent.modCore h fun c => List.subset_append_left c.reqs _)
  · exact h

theorem Sent.actSyn (i : Nat) (x : SynEntry) (h : Sent n e p away s) : Sent n e p away (actSyn n i x s) := by
  have own (inc : FretInc) (q : List SynEntry) :
      Sent n e p away (addIncOwn n inc (s.modCore n fun c => { c with syn := { c.syn with queue := q } })) :=
    Sent.modCore (Sent.modCore h fun c => List.Subset.refl c.reqs) fun c => List.Subset.refl c.reqs
  unfold Machine.actSyn
  split
  · exact own _ _
  · split
    · split
      · exact own _ _
      · exact h.sendSyn ..
    · exact h.sendSyn ..
  · exact h.sendSyn ..

theorem Sent.synPass (fuel i : Nat) (h : Sent n e p away s) : Sent n e p away (synPass n fuel i s) := by
  induction fuel generalizing i s with
  | zero => exact h
  | succ fuel ih =>
    unfold Machine.synPass
    dsimp only
    split
    · exact h
    · split
      · exact ih _ (h.actSyn ..)
      · exact ih _ h

theorem courseSync_nodes (c : Nat) (s : State) : (courseSync c s).nodes = s.nodes := by
  unfold courseSync
  dsimp only
  split <;> split <;> rfl

/-- What has left stays outstanding while its core settles. -/
theorem Sent.settle (h : Sent n e p away s) : Sent n e p away (settle n s) := by
  have hs : Sent n e p away (synPump n (Machine.pumpTags n (s.core n).tagQueue.length s)) := (h.pumpTags _).synPass _ _
  exact hs.mono (by rw [Machine.settle, courseSync_core]; exact List.Subset.refl _) (courseSync_nodes ..)

/-- A request leaves under the lowest free TAG. -/
theorem request_sent {kind : ReqKind} {tag : BitVec 10} (hn : n < 1024) (ht : (s.core n).freeTag = some tag) :
    Sent n (tag, kind) { p with h := { p.h with tag := tag, snode := BitVec.ofNat 10 n } } (p.h.dnode.toNat ≠ n) (s.request n kind p) := by
  rw [request_tagged ht]
  refine ⟨?_, fun ha => ?_⟩
  · rw [State.sendTagged, send_core, State.modCore_core_same]
    exact List.mem_append_right _ (List.mem_singleton_self _)
  · have hsrc : (BitVec.ofNat 10 n).toNat = n := by rw [BitVec.toNat_ofNat]; exact Nat.mod_eq_of_lt hn
    have hne : p.h.dnode ≠ BitVec.ofNat 10 n := fun h => ha ((congrArg BitVec.toNat h).trans hsrc)
    rw [State.sendTagged, send_out _ _ hne]
    dsimp only
    rw [hsrc, State.modNode_node_same]
    exact List.mem_append_right _ (List.mem_singleton_self _)

end Sending

/-! ## What the engine's steps keep -/

section Kept
variable (n : Nat) (s : State)

theorem settle_dma : ((settle n s).core n).dma = (s.core n).dma := congrArg (·.1.dma) (settle_unsettled n s)

theorem request_dma (kind : ReqKind) (p : Packet) : ((s.request n kind p).core n).dma = (s.core n).dma := by
  cases h : (s.core n).freeTag with
  | some tag =>
    rw [request_tagged h]
    exact congrArg (·.1.dma) (sendTagged_unsettled n s kind tag p)
  | none =>
    delta State.request
    rw [h, State.modCore_core_same]

theorem freeReadSeg_dma (ch : Nat) : ((freeReadSeg n ch s).core n).dma = (s.core n).dma := by
  unfold freeReadSeg
  dsimp only
  split
  · rfl
  · split
    · rfl
    · rw [freeChanSegs, State.modCore_core_same]

theorem addIncOwn_dma (inc : FretInc) : ((addIncOwn n inc s).core n).dma = (s.core n).dma := by
  rw [addIncOwn, State.modCore_core_same]

theorem sendRfret_dma (r : ChainRun) (d : Desc) : ((sendRfret n r d s).core n).dma = (s.core n).dma := by
  unfold sendRfret
  dsimp only
  split
  · exact addIncOwn_dma ..
  · split
    · exact request_dma ..
    · rw [noteRefusal, State.modThread_core_same, Core.modThread_dma]

end Kept

/-- A channel follows its chain without changing it. -/
@[simp] theorem DmaChan.sync_run (c : DmaChan) : c.sync.run = c.run := by
  unfold DmaChan.sync
  split
  case h_1 => rfl
  case h_2 r hr =>
    extract_lets st c1 place
    have hrun : c1.run = c.run := rfl
    clear_value c1 place
    split
    · exact hrun
    · split
      · exact hrun
      · cases r.fetching <;> cases r.err <;> cases r.descs.getLast? <;> exact hrun

theorem modRun_run (n i : Nat) (f : ChainRun → ChainRun) (s : State) :
    (((modRun n i f s).core n).chan i).run = ((s.core n).chan i).run.map f := by
  rw [modRun, modChan, State.modCore_core_same, Core.setChan_chan_same, DmaChan.sync_run]

/-- The engine's round robin stands at a place, and the chain of a channel is as a predicate says. -/
def RunAt (n ch : Nat) (rr : BitVec 3) (I : ChainRun → Prop) (s : State) : Prop :=
  (s.core n).dma.rr = rr ∧ ∃ q, ((s.core n).chan ch).run = some q ∧ I q

section RunAt
variable {n ch : Nat} {rr : BitVec 3} {I J : ChainRun → Prop} {s t : State}

theorem RunAt.of_dma (h : RunAt n ch rr I s) (hd : (t.core n).dma = (s.core n).dma) : RunAt n ch rr I t := by
  have hchan : (t.core n).chan ch = (s.core n).chan ch := congrArg (fun d : Plectrum => mapGet ({} : DmaChan) d.chans ch) hd
  obtain ⟨hrr, q, hq, hI⟩ := h
  exact ⟨hd ▸ hrr, q, hchan ▸ hq, hI⟩

theorem RunAt.modRun {f : ChainRun → ChainRun} (h : RunAt n ch rr I s) (hf : ∀ q, I q → J (f q)) : RunAt n ch rr J (modRun n ch f s) := by
  obtain ⟨hrr, q, hq, hI⟩ := h
  refine ⟨?_, f q, by rw [modRun_run, hq]; rfl, hf q hI⟩
  rw [Machine.modRun, modChan, State.modCore_core_same]
  exact hrr

theorem RunAt.ite {p : Prop} [Decidable p] (hs : RunAt n ch rr I s) (ht : RunAt n ch rr I t) : RunAt n ch rr I (if p then s else t) := by
  split
  · exact hs
  · exact ht

theorem RunAt.imp (h : RunAt n ch rr I s) (hI : ∀ q, I q → J q) : RunAt n ch rr J s := by
  obtain ⟨hrr, q, hq, hq'⟩ := h
  exact ⟨hrr, q, hq, hI q hq'⟩

/-- The chain with an error that arises: the first stands (R243). -/
def ChainRun.withErr (r : ChainRun) (e : ChainErr) : ChainRun :=
  match r.err with
  | some f => if e.before f then { r with err := some e } else r
  | none => { r with err := some e }

theorem ChainRun.withErr_isSome (r : ChainRun) (e : ChainErr) : (r.withErr e).err.isSome = true := by
  unfold ChainRun.withErr
  split
  · split <;> simp_all
  · rfl

theorem ChainRun.withErr_cases (r : ChainRun) (e : ChainErr) : ∃ x, r.withErr e = { r with err := x } := by
  unfold ChainRun.withErr
  split
  · split
    · exact ⟨_, rfl⟩
    · exact ⟨_, rfl⟩
  · exact ⟨_, rfl⟩

theorem RunAt.chainError {code detail : Byte} {desc at_ : Nat} (h : RunAt n ch rr I s)
    (hf : ∀ q, I q → J (q.withErr { code := code, detail := detail, desc := desc, at_ := at_, mc := s.mc })) :
    RunAt n ch rr J (chainError n ch code detail desc at_ s) :=
  (h.modRun hf).of_dma (freeReadSeg_dma ..)

theorem RunAt.pushMsg (h : RunAt n ch rr I s) (hf : ∀ q m, I q → I { q with msgs := m }) (nch tag : BitVec 4) (w0 w1 : Word) :
    RunAt n ch rr I (pushMsg n ch nch tag w0 w1 s) := by
  unfold Machine.pushMsg
  split
  · exact h
  · exact h.modRun fun q hq => hf q _ hq

end RunAt

/-! ## Bursts that have started (R235 to R239) -/

theorem getElem?_modifyAt_ne {α : Type} (f : α → α) {i j : Nat} (h : i ≠ j) (l : List α) : (modifyAt f i l)[j]? = l[j]? := by
  induction l generalizing i j with
  | nil => cases i <;> rfl
  | cons x l ih =>
    cases i with
    | zero =>
      cases j with
      | zero => exact absurd rfl h
      | succ j => rfl
    | succ i =>
      cases j with
      | zero => rfl
      | succ j => exact ih fun e => h (congrArg _ e)

theorem getElem?_modifyAt_same {α : Type} (f : α → α) (i : Nat) (l : List α) : (modifyAt f i l)[i]? = l[i]?.map f := by
  induction l generalizing i with
  | nil => cases i <;> rfl
  | cons x l ih =>
    cases i with
    | zero => rfl
    | succ i => exact ih i

/-- Of a chain a burst has started and is not acknowledged, whatever has become of it since; v counts the bytes that its descriptor has
started. -/
structure BurstStarted (next v : Nat) (b : Burst) (q : ChainRun) : Prop where
  next : q.nextBurst = next
  desc : ∃ y, q.descs[b.desc]? = some y ∧ y.started = v
  burst : ∃ st, st ≠ .acked ∧ { b with stage := st } ∈ q.bursts

section Started
variable {n ch next v : Nat} {rr : BitVec 3} {b : Burst} {q : ChainRun} {s t : State}

theorem BurstStarted.withErr (h : BurstStarted next v b q) (e : ChainErr) : BurstStarted next v b (q.withErr e) := by
  obtain ⟨x, hx⟩ := q.withErr_cases e
  rw [hx]
  exact ⟨h.next, h.desc, h.burst⟩

/-- While a descriptor has a burst that is not acknowledged only earlier ones complete. -/
theorem BurstStarted.earlier (h : BurstStarted next v b q) {i : Nat} {d : DescRun} (hd : descDone q i d = true) : i < b.desc := by
  obtain ⟨st, hst, hb⟩ := h.burst
  simp only [descDone, Bool.and_eq_true, List.all_eq_true, decide_eq_true_eq] at hd
  obtain ⟨⟨-, hall⟩, -⟩ := hd
  exact (hall _ hb).resolve_right hst

/-- An earlier descriptor completes. -/
theorem BurstStarted.complete (h : BurstStarted next v b q) {i : Nat} (hi : i < b.desc) : BurstStarted next v b
    { q with descs := modifyAt (fun d => { d with completed := true }) i q.descs, bursts := q.bursts.filter fun b => decide (b.desc ≠ i) } := by
  obtain ⟨y, hy, hv⟩ := h.desc
  obtain ⟨st, hst, hb⟩ := h.burst
  exact ⟨h.next, ⟨y, by rw [getElem?_modifyAt_ne _ (by omega), hy], hv⟩,
    st, hst, List.mem_filter.mpr ⟨hb, decide_eq_true (show b.desc ≠ i by omega)⟩⟩

/-- Bursts with an identifier fail. -/
theorem BurstStarted.fail (h : BurstStarted next v b q) (id : Nat) : BurstStarted next v b
    { q with bursts := q.bursts.map fun x => if x.id = id then { x with stage := .failed } else x } := by
  obtain ⟨st, hst, hb⟩ := h.burst
  refine ⟨h.next, h.desc, if b.id = id then .failed else st, ?_, List.mem_map.mpr ⟨_, hb, ?_⟩⟩
  · split
    · exact nofun
    · exact hst
  · dsimp only
    split <;> rfl

/-- A descriptor of a chain with an error completes without ending its chain. -/
theorem completeOne_started (h : RunAt n ch rr (fun q => BurstStarted next v b q ∧ q.err.isSome = true) s) (hc : completeOne n ch s = some t) :
    RunAt n ch rr (fun q => BurstStarted next v b q ∧ q.err.isSome = true) t := by
  have hh := h
  obtain ⟨-, q, hq, hstarted, herr⟩ := hh
  unfold completeOne at hc
  simp only [hq, herr, Bool.true_or, if_true] at hc
  split at hc
  case h_1 => cases hc
  case h_2 i d hfind =>
    by_cases hdone : (! descDone q i d || q.finished) = true
    · rw [if_pos hdone] at hc
      cases hc
    · rw [if_neg hdone, Option.some.injEq] at hc
      subst hc
      have hi : i < b.desc := hstarted.earlier (by simpa using hdone : descDone q i d = true ∧ q.finished = false).1
      have h1 := h.modRun (f := fun r => { r with descs := modifyAt (fun d => { d with completed := true }) i r.descs
                                                  bursts := r.bursts.filter fun b => decide (b.desc ≠ i) })
        (J := fun q => BurstStarted next v b q ∧ q.err.isSome = true) fun q hq => ⟨hq.1.complete hi, hq.2⟩
      have h2 := RunAt.ite (p := (Desc.mk d.words).lfretEn = true)
        (h1.of_dma (addIncOwn_dma n _ { f := (Desc.mk d.words).lfret, v := 1 })) h1
      have h3 := RunAt.ite (p := (Desc.mk d.words).rfretEn = true) (h2.of_dma (sendRfret_dma n _ q ⟨d.words⟩)) h2
      exact RunAt.ite (h3.pushMsg (fun q m hq => ⟨⟨hq.1.next, hq.1.desc, hq.1.burst⟩, hq.2⟩) ..) h3

theorem completeDescs_started (fuel : Nat) (h : RunAt n ch rr (fun q => BurstStarted next v b q ∧ q.err.isSome = true) s) :
    RunAt n ch rr (fun q => BurstStarted next v b q ∧ q.err.isSome = true) (completeDescs n ch fuel s) := by
  induction fuel generalizing s with
  | zero => exact h
  | succ fuel ih =>
    unfold completeDescs
    split
    · next hc => exact ih (completeOne_started h hc)
    · exact h

theorem burstFails_started (id : Nat) (code detail : Byte) (h : RunAt n ch rr (BurstStarted next v b) s) :
    RunAt n ch rr (BurstStarted next v b) (burstFails n ch id code detail s) := by
  unfold burstFails
  split
  · exact h
  · split
    · exact h
    · have hf : RunAt n ch rr (BurstStarted next v b) _ := h.modRun fun q hq => BurstStarted.fail hq id
      exact (completeDescs_started _ (hf.chainError fun q hq => ⟨hq.withErr _, q.withErr_isSome _⟩)).imp fun q hq => hq.1

theorem sendReads_started (id : Nat) (sc : Cap) (l : List ReadReq) (h : RunAt n ch rr (BurstStarted next v b) s) :
    RunAt n ch rr (BurstStarted next v b) (sendReads n ch id sc l s) := by
  induction l generalizing s with
  | nil => exact h
  | cons x l ih =>
    unfold sendReads
    split
    · exact burstFails_started _ _ _ h
    · exact ih (h.of_dma (request_dma ..))

end Started

/-! ## What a burst meets or does (R232, R236, R242, R248) -/

section Plan
variable {s : State} {n i j : Nat} {r : ChainRun} {x : DescRun}

/-- The descriptor in progress is the first with bytes left. -/
theorem nextBurst_first {c : DmaChan} (hr : c.run = some r) (he : r.err = none) (ha : r.aborting = false) (hf : r.finished = false)
    (hm : r.msgs = []) (hx : r.descs[j]? = some x)
    (hbefore : ∀ i y, i < j → r.descs[i]? = some y → (Desc.mk y.words).total ≤ y.started ∧ (Desc.mk y.words).total ≠ 0)
    (hleft : x.started < (Desc.mk x.words).total ∨ (x.completed = false ∧ (Desc.mk x.words).total = 0)) : nextBurst c = some (j, x) := by
  obtain ⟨hj, hxj⟩ := List.getElem?_eq_some_iff.mp hx
  have hsplit : r.descs.take j ++ x :: r.descs.drop (j + 1) = r.descs := by
    rw [← hxj, List.getElem_cons_drop, List.take_append_drop]
  have hpre : ∀ y ∈ r.descs.take j, (decide (y.started < (Desc.mk y.words).total) || (! y.completed && decide ((Desc.mk y.words).total = 0)))
      = false := by
    intro y hy
    obtain ⟨i, hi, rfl⟩ := List.mem_take_iff_getElem.mp hy
    obtain ⟨hle, hne⟩ := hbefore i r.descs[i] (by omega) (List.getElem?_eq_getElem _)
    simp [hle, hne]
  have hsel : (decide (x.started < (Desc.mk x.words).total) || (! x.completed && decide ((Desc.mk x.words).total = 0))) = true := by
    simpa using hleft
  have hfind := findWith_append (f := fun d : DescRun =>
    decide (d.started < (Desc.mk d.words).total) || (! d.completed && decide ((Desc.mk d.words).total = 0))) (r.descs.drop (j + 1)) hpre hsel
  rw [hsplit, List.length_take_of_le hj.le] at hfind
  simp only [nextBurst, hr, he, ha, hf, hm, Option.isSome_none, List.isEmpty_nil, Bool.or_false, Bool.not_true, Bool.false_eq_true, if_false]
  exact hfind

theorem checksPassed (hb : x.started = 0 → descBad s r ⟨(r.descs.headD x).words⟩ ⟨x.words⟩ = none) :
    (if x.started = 0 then descBad s r ⟨(r.descs.headD x).words⟩ ⟨x.words⟩ else none) = none := by
  split
  case isTrue h => exact hb h
  case isFalse => rfl

variable (hr : ((s.core n).chan i).run = some r) (hn : nextBurst ((s.core n).chan i) = some (j, x))
include hr hn

theorem planBurst_bad {e : Nat} (h0 : x.started = 0) (hb : descBad s r ⟨(r.descs.headD x).words⟩ ⟨x.words⟩ = some e) :
    planBurst s n i = some (.fail 6 (BitVec.ofNat 8 e) j 0) := by
  simp only [planBurst, hn, hr, if_pos h0, hb]

variable (hb : x.started = 0 → descBad s r ⟨(r.descs.headD x).words⟩ ⟨x.words⟩ = none)
include hb

theorem planBurst_denied {e : Byte} (hc : burstCheck s n r ⟨x.words⟩ x.started ((Desc.mk x.words).burstLen x.started) = some e) :
    planBurst s n i = some (.fail 5 e j x.started) := by
  simp only [planBurst, hn, hr, checksPassed hb, hc]

theorem planBurst_room (hc : burstCheck s n r ⟨x.words⟩ x.started ((Desc.mk x.words).burstLen x.started) = none) :
    planBurst s n i = if burstRoom (s.core n) ((s.core n).chan i) ⟨x.words⟩ ((Desc.mk x.words).burstLen x.started) then
      some (.start j ⟨x.words⟩ x.started ((Desc.mk x.words).burstLen x.started)) else none := by
  simp only [planBurst, hn, hr, checksPassed hb, hc]

end Plan

/-- The first of the eight channels, from the round robin's place on, for which f gives something. -/
theorem findSome?_turn {α : Type} {f : Nat → Option α} {rr i : Nat} {a : α} (hrr : rr < 8) (hi : i < 8) (ha : f i = some a)
    (hbefore : ∀ k < 8, (k + 8 - rr) % 8 < (i + 8 - rr) % 8 → f k = none) :
    ((List.range 8).map fun k => (rr + k) % 8).findSome? f = some a := by
  obtain ⟨t, ht⟩ : ∃ t, t = (i + 8 - rr) % 8 := ⟨_, rfl⟩
  have hsplit : List.range 8 = List.range t ++ t :: (List.range (7 - t)).map (t + 1 + ·) := by
    have h1 : 8 = t + (1 + (7 - t)) := by omega
    conv_lhs => rw [h1, List.range_add, List.range_add]
    simp [Nat.add_assoc]
  rw [hsplit, List.map_append, List.findSome?_append, List.findSome?_eq_none_iff.mpr, Option.none_or, List.map_cons]
  · rw [List.findSome?_cons_of_isSome] <;> rw [show (rr + t) % 8 = i by omega, ha]
    rfl
  · intro y hy
    obtain ⟨k, hk, rfl⟩ := List.mem_map.mp hy
    rw [List.mem_range] at hk
    exact hbefore _ (Nat.mod_lt _ (by decide)) (by omega)

/-- What a plan does to its channel. -/
def BurstPlan.act (n i : Nat) : BurstPlan → State → State
  | .fail code detail j at_ => chainError n i code detail j at_
  | .start j d at_ len => startBurst n i j d at_ len

/-- The read engine takes the first channel in turn that has a plan, and moves its round robin past it (R237). -/
theorem readBurst_picks {s : State} {n : Nat} {ch : BitVec 3} {p : BurstPlan} (hp : planBurst s n ch.toNat = some p)
    (hbefore : ∀ i < 8, (i + 8 - (s.core n).dma.rr.toNat) % 8 < (ch.toNat + 8 - (s.core n).dma.rr.toNat) % 8 → planBurst s n i = none) :
    readBurst n s = p.act n ch.toNat (setDma n (fun q => { q with rr := ch + 1 }) s) := by
  have hpick := findSome?_turn (f := fun i => (planBurst s n i).map fun p => (i, p)) (a := (ch.toNat, p)) (s.core n).dma.rr.isLt ch.isLt
    (by rw [hp]; rfl) fun i hi ht => by rw [hbefore i hi ht]; rfl
  have hrr : BitVec.ofNat 3 (ch.toNat + 1) = ch + 1 := by bv_omega
  simp only [readBurst, hpick, hrr]
  cases p <;> rfl

theorem readBurst_none {s : State} {n : Nat} (h : ∀ i < 8, planBurst s n i = none) : readBurst n s = s := by
  have hpick : ((List.range 8).map fun k => ((s.core n).dma.rr.toNat + k) % 8).findSome? (fun i => (planBurst s n i).map fun p => (i, p)) = none := by
    refine List.findSome?_eq_none_iff.mpr fun i hi => ?_
    obtain ⟨k, -, rfl⟩ := List.mem_map.mp hi
    rw [h _ (Nat.mod_lt _ (by decide))]
    rfl
  simp only [readBurst, hpick]

/-! ## Bursts that start and bursts that leave (R218, R220, R230, R237) -/

/-- Where a core's request goes depends on the module, the courses and the core's gateway alone. -/
theorem destOf_congr {s u : State} {n : Nat} (hm : u.module = s.module) (hc : u.courses = s.courses) (hctl : (u.core n).ctl = (s.core n).ctl)
    (m : BitVec 16) (r : BitVec 6) (a : Addr) : u.destOf n m r a = s.destOf n m r a := by
  unfold State.destOf State.normModule
  dsimp only
  rw [hm, hctl, serverOf_congr hc]

section Bursts
variable {n : Nat} (s : State) (i : Nat) (f : ChainRun → ChainRun) (g : Plectrum → Plectrum) (m : BitVec 16) (r : BitVec 6) (a : Addr)

theorem modRun_destOf : (modRun n i f s).destOf n m r a = s.destOf n m r a := by
  refine destOf_congr (s := s) (u := modRun n i f s) (State.modCore_module ..) (State.modCore_courses ..) ?_ m r a
  rw [modRun, modChan, State.modCore_core_same, Core.setChan_ctl]

theorem setDma_destOf : (setDma n g s).destOf n m r a = s.destOf n m r a := by
  refine destOf_congr (s := s) (u := setDma n g s) (State.modCore_module ..) (State.modCore_courses ..) ?_ m r a
  rw [setDma, State.modCore_core_same]

theorem modRun_freeTag : ((modRun n i f s).core n).freeTag = (s.core n).freeTag := by
  refine freeTag_congr ?_
  rw [modRun, modChan, State.modCore_core_same, Core.setChan_reqs]

theorem setDma_freeTag : ((setDma n g s).core n).freeTag = (s.core n).freeTag := by
  refine freeTag_congr ?_
  rw [setDma, State.modCore_core_same]

end Bursts

/-- The burst that starts at a place of a descriptor (R235). -/
def firstBurst (r : ChainRun) (j : Nat) (d : Desc) (at_ len : Nat) : Burst :=
  { id := r.nextBurst, desc := j, at_ := at_, dcap := BitVec.ofNat 4 d.dcap, dst := d.dst at_, len := len, data := [], got := 0
    tail := d.tail && decide (at_ + len = d.total), red := BitVec.ofNat 2 d.red, stage := .reading }

section Start
variable {n i j len : Nat} {rr : BitVec 3} {r : ChainRun} {x : DescRun} {d : Desc} {s : State}

/-- A burst that starts is recorded in its chain, and then its reads leave. -/
theorem startBurst_eq (hr : ((s.core n).chan i).run = some r) (hx : r.descs[j]? = some x) : ∃ f : ChainRun → ChainRun,
    startBurst n i j d x.started len s = sendReads n i r.nextBurst (r.caps.getD d.scap {})
      (d.readReqs (r.caps.getD d.scap {}).base x.started len) (modRun n i f s)
    ∧ BurstStarted (r.nextBurst + 1) (x.started + len) (firstBurst r j d x.started len) (f r)
    ∧ firstBurst r j d x.started len ∈ (f r).bursts := by
  refine ⟨_, by unfold startBurst; simp only [hr]; rfl, ⟨rfl, ?_, .reading, nofun, ?_⟩, ?_⟩
  · exact ⟨{ x with started := x.started + len }, by dsimp only [firstBurst]; rw [getElem?_modifyAt_same, hx]; rfl, rfl⟩
  · exact List.mem_append_right _ (List.mem_singleton_self _)
  · exact List.mem_append_right _ (List.mem_singleton_self _)

theorem startBurst_started (h : RunAt n i rr (· = r) s) (hx : r.descs[j]? = some x) :
    RunAt n i rr (BurstStarted (r.nextBurst + 1) (x.started + len) (firstBurst r j d x.started len))
      (startBurst n i j d x.started len s) := by
  have hh := h
  obtain ⟨-, q, hq, rfl⟩ := hh
  obtain ⟨f, hf, hstarted, -⟩ := startBurst_eq (d := d) (len := len) hq hx
  rw [hf]
  exact sendReads_started _ _ _ (h.modRun fun q' hq' => hq' ▸ hstarted)

variable {p : ReadReq} {dst : BitVec 10 × BitVec 16} {tag : BitVec 10}

/-- A burst of one packet reads into the buffer, and its packet leaves under a free TAG. -/
theorem startBurst_single (hlt : n < 1024) (h : RunAt n i rr (· = r) s) (hx : r.descs[j]? = some x)
    (hp : d.readReqs (r.caps.getD d.scap {}).base x.started len = [p])
    (hd : s.destOf n 0xFFFF (r.caps.getD d.scap {}).region ((r.caps.getD d.scap {}).addrAt p.off) = .ok dst)
    (ht : (s.core n).freeTag = some tag) :
    RunAt n i rr (fun q => BurstStarted (r.nextBurst + 1) (x.started + len) (firstBurst r j d x.started len) q
        ∧ firstBurst r j d x.started len ∈ q.bursts) (startBurst n i j d x.started len s)
      ∧ Sent n (tag, .dmaRead (BitVec.ofNat 3 i) r.nextBurst p.at_ p.len) (reqPacket n dst (r.caps.getD d.scap {}).region
        ((r.caps.getD d.scap {}).addrAt p.off) p.kind clsReq tag p.data) (dst.1.toNat ≠ n) (startBurst n i j d x.started len s) := by
  have hh := h
  obtain ⟨-, q, hq, rfl⟩ := hh
  obtain ⟨f, hf, hstarted, hmem⟩ := startBurst_eq (d := d) (len := len) hq hx
  have hd' : (modRun n i f s).destOf n 0xFFFF (q.caps.getD d.scap {}).region ((q.caps.getD d.scap {}).addrAt p.off) = .ok dst :=
    (modRun_destOf ..).trans hd
  have ht' : ((modRun n i f s).core n).freeTag = some tag := (modRun_freeTag ..).trans ht
  rw [hf, hp, sendReads, hd']
  exact ⟨(h.modRun fun q' hq' => by rw [hq']; exact ⟨hstarted, hmem⟩).of_dma (request_dma ..), request_sent hlt ht'⟩

/-- What a burst that starts leaves of its chain, and, of one packet under a free TAG, what it leaves outstanding. -/
theorem startBurst_begins (hlt : n < 1024) (h : RunAt n i rr (· = r) s) (hx : r.descs[j]? = some x) : ∃ st,
    RunAt n i rr (fun q => q.nextBurst = r.nextBurst + 1 ∧ (∃ y, q.descs[j]? = some y ∧ y.started = x.started + len)
      ∧ { firstBurst r j d x.started len with stage := st } ∈ q.bursts) (startBurst n i j d x.started len s)
    ∧ ∀ p dst tag, d.readReqs (r.caps.getD d.scap {}).base x.started len = [p] →
      s.destOf n 0xFFFF (r.caps.getD d.scap {}).region ((r.caps.getD d.scap {}).addrAt p.off) = .ok dst → (s.core n).freeTag = some tag →
      st = .reading ∧ Sent n (tag, .dmaRead (BitVec.ofNat 3 i) r.nextBurst p.at_ p.len) (reqPacket n dst (r.caps.getD d.scap {}).region
        ((r.caps.getD d.scap {}).addrAt p.off) p.kind clsReq tag p.data) (dst.1.toNat ≠ n) (startBurst n i j d x.started len s) := by
  by_cases hsingle : ∃ p dst tag, d.readReqs (r.caps.getD d.scap {}).base x.started len = [p]
      ∧ s.destOf n 0xFFFF (r.caps.getD d.scap {}).region ((r.caps.getD d.scap {}).addrAt p.off) = .ok dst ∧ (s.core n).freeTag = some tag
  case pos =>
    obtain ⟨p, dst, tag, hp, hd, ht⟩ := hsingle
    obtain ⟨hrun, -⟩ := startBurst_single hlt h hx hp hd ht
    exact ⟨.reading, hrun.imp fun q hq => ⟨hq.1.next, hq.1.desc, hq.2⟩,
      fun p dst tag hp hd ht => ⟨rfl, (startBurst_single hlt h hx hp hd ht).2⟩⟩
  case neg =>
    obtain ⟨hrr, q, hq, hnum, hdesc, st, -, hmem⟩ := startBurst_started (d := d) (len := len) h hx
    exact ⟨st, ⟨hrr, q, hq, hnum, hdesc, hmem⟩, fun p dst tag hp hd ht => absurd ⟨p, dst, tag, hp, hd, ht⟩ hsingle⟩

end Start

section Write
variable {n : Nat} {ch : BitVec 3} {s : State}

theorem writeKind_eq (b : Burst) : writeKind b = if b.red = 1 then kRedF32 else if b.red = 2 then kRedBf16 else kWrite := by
  unfold writeKind
  generalize b.red = x
  revert x
  decide

theorem writeBurst_none (h : (s.core n).dma.ready.find? (mayWrite (s.core n)) = none) : writeBurst n s = s := by
  simp only [writeBurst, h]

variable {r : ChainRun} {b : Burst} {i o l : Nat} {dst : BitVec 10 × BitVec 16} {tag : BitVec 10}

/-- The first burst that may leave is taken out of those that wait, and then its writes leave. -/
theorem writeBurst_eq (hw : (s.core n).dma.ready.find? (mayWrite (s.core n)) = some (ch, b.id)) (hr : ((s.core n).chan ch.toNat).run = some r)
    (hb : r.bursts.find? (fun x => decide (x.id = b.id ∧ x.stage = .read)) = some b) : ∃ (f : ChainRun → ChainRun) (g : Plectrum → Plectrum),
    writeBurst n s = sendWrites n ch.toNat b (r.caps.getD b.dcap.toNat {})
      (piecesOf (r.caps.getD b.dcap.toNat {}).base ((List.range b.len).map (b.dst + ·))) (modRun n ch.toNat f (setDma n g s))
    ∧ (∀ d, (g d).chans = d.chans) ∧ (g (s.core n).dma).ready = (s.core n).dma.ready.filter (fun y => ! decide (y = (ch, b.id)))
    ∧ (f r).bursts = r.bursts.map fun y => if y.id = b.id then { y with stage := .writing } else y := by
  refine ⟨fun r => { r with bursts := r.bursts.map fun y => if y.id = b.id then { y with stage := .writing } else y },
    fun d => { d with ready := d.ready.filter fun y => decide (y ≠ (ch, b.id)) }, ?_, fun d => rfl, ?_, rfl⟩
  · simp only [writeBurst, hw, hr, hb]
  · simp only [ne_eq, decide_not]

/-- The packet of a burst's write (R218, R220). -/
def burstPacket (n : Nat) (b : Burst) (dc : Cap) (dst : BitVec 10 × BitVec 16) (tag : BitVec 10) (i o l : Nat) : Packet :=
  let p := reqPacket n dst dc.region (dc.addrAt o) (writeKind b) clsBulk tag (readBytes b.data i l)
  { p with h := { p.h with tail := b.tail, rflex := true } }

theorem sendWrites_single {c : Nat} {dc : Cap} (hd : s.destOf n (s.normModule dc.module) dc.region (dc.addrAt o) = .ok dst) :
    sendWrites n c b dc [(i, o, l)] s = s.request n (.dmaWrite (BitVec.ofNat 3 c) b.id l) (burstPacket n b dc dst 0 i o l) := by
  rw [sendWrites, hd]
  rfl

/-- A burst of one packet leaves under a free TAG. -/
theorem writeBurst_single (hlt : n < 1024) (hw : (s.core n).dma.ready.find? (mayWrite (s.core n)) = some (ch, b.id))
    (hr : ((s.core n).chan ch.toNat).run = some r) (hb : r.bursts.find? (fun x => decide (x.id = b.id ∧ x.stage = .read)) = some b)
    (hp : piecesOf (r.caps.getD b.dcap.toNat {}).base ((List.range b.len).map (b.dst + ·)) = [(i, o, l)])
    (hd : s.destOf n (s.normModule (r.caps.getD b.dcap.toNat {}).module) (r.caps.getD b.dcap.toNat {}).region
      ((r.caps.getD b.dcap.toNat {}).addrAt o) = .ok dst)
    (ht : (s.core n).freeTag = some tag) :
    ((writeBurst n s).core n).dma.ready = (s.core n).dma.ready.filter (fun y => ! decide (y = (ch, b.id)))
      ∧ (∃ q, (((writeBurst n s).core n).chan ch.toNat).run = some q
        ∧ q.bursts = r.bursts.map fun y => if y.id = b.id then { y with stage := .writing } else y)
      ∧ Sent n (tag, .dmaWrite (BitVec.ofNat 3 ch.toNat) b.id l) (burstPacket n b (r.caps.getD b.dcap.toNat {}) dst tag i o l) (dst.1.toNat ≠ n)
        (writeBurst n s) := by
  obtain ⟨f, g, hwrite, hchans, hready, hbursts⟩ := writeBurst_eq hw hr hb
  obtain ⟨u, hu⟩ : ∃ u, u = modRun n ch.toNat f (setDma n g s) := ⟨_, rfl⟩
  have hd' : u.destOf n (u.normModule (r.caps.getD b.dcap.toNat {}).module) (r.caps.getD b.dcap.toNat {}).region
      ((r.caps.getD b.dcap.toNat {}).addrAt o) = .ok dst := by
    have hnorm : u.normModule = s.normModule := by rw [hu]; rfl
    rw [hnorm, hu, modRun_destOf, setDma_destOf, hd]
  have ht' : (u.core n).freeTag = some tag := by
    rw [hu, modRun_freeTag, setDma_freeTag, ht]
  have hready' : (u.core n).dma.ready = (s.core n).dma.ready.filter (fun y => ! decide (y = (ch, b.id))) := by
    rw [← hready, hu, modRun, modChan, State.modCore_core_same, setDma, State.modCore_core_same]
    rfl
  have hrun : ((u.core n).chan ch.toNat).run = some (f r) := by
    have hchan : ((setDma n g s).core n).chan ch.toNat = (s.core n).chan ch.toNat := by
      rw [setDma, State.modCore_core_same]
      exact congrArg (mapGet ({} : DmaChan) · ch.toNat) (hchans _)
    rw [hu, modRun_run, hchan, hr]
    rfl
  rw [hp, ← hu, sendWrites_single hd'] at hwrite
  have hdma := request_dma n u (.dmaWrite (BitVec.ofNat 3 ch.toNat) b.id l) (burstPacket n b (r.caps.getD b.dcap.toNat {}) dst 0 i o l)
  rw [hwrite]
  refine ⟨by rw [hdma, hready'], ⟨f r, ?_, hbursts⟩, request_sent hlt ht'⟩
  rw [← hrun]
  exact congrArg (fun d : Plectrum => (mapGet ({} : DmaChan) d.chans ch.toNat).run) hdma

end Write

/-- Settles O30: a channel's plan is that of its first descriptor with bytes left; what the plan does to the chain stays while the started
burst meets refusals and the core settles. -/
theorem dmaBurstsReadAndWrite : Obligations.DmaBurstsReadAndWrite := by
  intro s node ch hcore n k c turn
  have hlt : n < 1024 := by have := node.isLt; omega
  have hread : exec (.burstRead node) s = .next (settle n (readBurst n s)) := atCore_next hcore
  have hwrite : exec (.burstWrite node) s = .next (settle n (writeBurst n s)) := atCore_next hcore
  refine ⟨fun hturn r j x hr he ha hf hm hx => ?reads, fun h => ?idle, fun r b i o l dst tag hw hr hb => ?writes, fun h => ?waits⟩
  case idle => rw [hread, readBurst_none h]
  case waits => rw [hwrite, writeBurst_none h]
  case writes =>
    intro dc hp hd ht out
    obtain ⟨hready, ⟨q, hq, hbursts⟩, hsent⟩ := writeBurst_single hlt hw hr hb hp hd ht
    have hdma := settle_dma n (writeBurst n s)
    obtain ⟨hreq, hout⟩ := hsent.settle
    rw [BitVec.ofNat_toNat, BitVec.setWidth_eq] at hreq
    refine ⟨_, hwrite, by rw [hdma, hready], ⟨q, ?_, hbursts⟩, hreq, fun ha => ?_⟩
    · rw [← hq]
      exact congrArg (fun d : Plectrum => (mapGet ({} : DmaChan) d.chans ch.toNat).run) hdma
    · have hmem := hout ha
      rw [burstPacket, writeKind_eq] at hmem
      exact List.append_of_mem hmem
  case reads =>
    intro d first len fails hbefore hopen
    have hstart : RunAt n ch.toNat (ch + 1) (· = r) (setDma n (fun q => { q with rr := ch + 1 }) s) := by
      refine ⟨by rw [setDma, State.modCore_core_same], r, ?_, rfl⟩
      rw [setDma, State.modCore_core_same]
      exact hr
    have hnext (hleft : x.started < d.total ∨ d.total = 0) : nextBurst c = some (j, x) :=
      nextBurst_first hr he ha hf hm hx hbefore (hleft.imp_right fun h => ⟨hopen, h⟩)
    have fails_of {code detail : Byte} {at_ : Nat} (hp : planBurst s n ch.toNat = some (.fail code detail j at_)) : fails code detail at_ := by
      have hrun : RunAt n ch.toNat (ch + 1) (· = { r with err := some { code := code, detail := detail, desc := j, at_ := at_, mc := s.mc } })
          (settle n (readBurst n s)) := by
        rw [readBurst_picks hp hturn]
        refine RunAt.of_dma (RunAt.chainError hstart fun q hq => ?_) (settle_dma ..)
        rw [hq, ChainRun.withErr, he]
        rfl
      obtain ⟨hrr, q, hq, rfl⟩ := hrun
      exact ⟨_, _, hread, hq, rfl, rfl, rfl, hrr⟩
    refine ⟨fun h0 e hbad => ?bad, fun hlt' hgood => ⟨fun e hcheck => ?denied, fun hcheck hroom => ?starts, fun hcheck hroom => ?full⟩⟩
    case bad => exact fails_of (planBurst_bad hr (hnext (by omega)) h0 hbad)
    case denied => exact fails_of (planBurst_denied hr (hnext (.inl hlt')) hgood hcheck)
    case full => rw [planBurst_room hr (hnext (.inl hlt')) hgood hcheck, if_neg (ne_true_of_eq_false hroom)]
    case starts =>
      have hplan : planBurst s n ch.toNat = some (.start j d x.started len) :=
        (planBurst_room hr (hnext (.inl hlt')) hgood hcheck).trans (if_pos hroom)
      have hexec : exec (.burstRead node) s =
          .next (settle n (startBurst n ch.toNat j d x.started len (setDma n (fun q => { q with rr := ch + 1 }) s))) := by
        rw [hread, readBurst_picks hplan hturn]
        rfl
      obtain ⟨st, hrun, hsent⟩ := startBurst_begins (d := d) (len := len) hlt hstart hx
      obtain ⟨hrr, q, hq, hnum, ⟨y, hy, hv⟩, hmem⟩ := hrun.of_dma (settle_dma ..)
      refine ⟨_, q, y, _, hexec, hrr, hq, hnum, hy, hv, hmem, rfl, rfl, rfl, rfl, BitVec.toNat_ofNat .., BitVec.toNat_ofNat .., rfl,
        fun p dst tag hp hd ht => ?_⟩
      obtain ⟨hst, hleft⟩ := hsent p dst tag hp ((setDma_destOf ..).trans hd) ((setDma_freeTag ..).trans ht)
      obtain ⟨hreq, hout⟩ := hleft.settle
      rw [BitVec.ofNat_toNat, BitVec.setWidth_eq] at hreq
      exact ⟨hst, hreq, hout⟩

end Sys2Proof.Machine

/-! The statements of spec/08 about how DMA chains begin (O29) and end (O31). -/

namespace Sys2Proof.Machine

open Sys2Proof

/-! ## A thread whose core settles -/

/-- What of a thread a register read of Plectrum writes. -/
def Thread.readOut (t : Thread) : Map Word × List GReg := (t.g, t.rdPending)

theorem Thread.tagged_readOut (t : Thread) (tag : BitVec 10) (kind : ReqKind) : (t.tagged tag kind).readOut = t.readOut := by
  cases kind <;> rfl

section Settling
variable (n k : Nat) (s : State)

theorem sendTagged_readOut (kind : ReqKind) (tag : BitVec 10) (p : Packet) :
    ((s.sendTagged n kind tag p).thread n k).readOut = (s.thread n k).readOut := by
  rw [State.sendTagged, send_thread, State.thread, State.modCore_core_same]
  cases kind.waiter with
  | none => rfl
  | some j =>
    show (((s.core n).modThread j.val (·.tagged tag kind)).thread k).readOut = _
    rw [Core.modThread_thread]
    split
    case isTrue h => rw [Thread.tagged_readOut, ← h]; rfl
    case isFalse => rfl

theorem pumpTags_readOut (m : Nat) : ((pumpTags n m s).thread n k).readOut = (s.thread n k).readOut := by
  induction m generalizing s with
  | zero => rfl
  | succ m ih =>
    unfold pumpTags
    split
    · rw [ih, sendTagged_readOut, modCore_thread]
      exact fun _ => rfl
    · rfl

theorem synPass_readOut (fuel i : Nat) : ((synPass n fuel i s).thread n k).readOut = (s.thread n k).readOut := by
  have h : (Core.unrecorded _ k).readOut = (Core.unrecorded _ k).readOut := congrArg Thread.readOut (synPass_unrecorded (n := n) fuel i s)
  exact h

/-- A core that settles neither writes a register nor ends a register read of Plectrum. -/
theorem settle_readOut : ((settle n s).thread n k).readOut = (s.thread n k).readOut := by
  rw [settle, State.thread, courseSync_core]
  exact (synPass_readOut ..).trans (pumpTags_readOut ..)

theorem settle_g : ((settle n s).thread n k).g = (s.thread n k).g := (Prod.mk.inj (settle_readOut n k s)).1
theorem settle_rdPending : ((settle n s).thread n k).rdPending = (s.thread n k).rdPending := (Prod.mk.inj (settle_readOut n k s)).2

end Settling

/-! ## A channel that follows its chain (Table 8.9) -/

/-- The STATE that a channel's chain sets. -/
def DmaChan.chainState (c : DmaChan) : BitVec 3 :=
  match c.run with
  | none => 0
  | some r =>
    if (r.err.isSome || r.aborting) && ! r.finished then 3
    else if ! r.msgs.isEmpty then 4
    else if r.more c.chainLimit then 1 else 2

/-- A channel follows its chain in STATE, OFFSET and RESIDUE alone. -/
theorem DmaChan.sync_cases (c : DmaChan) : ∃ desc residue, c.sync = { c with state := c.chainState, desc := desc, residue := residue } := by
  unfold DmaChan.sync
  split
  case h_1 hr => exact ⟨c.desc, c.residue, by rw [DmaChan.chainState, hr]⟩
  case h_2 r hr =>
    extract_lets st c1 place
    have hst : c.chainState = st := by
      rw [DmaChan.chainState, hr]
    have hc1 : c1 = { c with state := c.chainState } := by rw [hst]
    clear_value c1 st place
    subst hc1
    split
    · exact ⟨_, _, rfl⟩
    · split
      · exact ⟨_, _, rfl⟩
      · cases r.fetching <;> cases r.err <;> cases r.descs.getLast? <;> exact ⟨_, _, rfl⟩

section Sync
variable (c : DmaChan)

theorem DmaChan.sync_state : c.sync.state = c.chainState := by obtain ⟨_, _, h⟩ := c.sync_cases; rw [h]
@[simp] theorem DmaChan.sync_lastErr : c.sync.lastErr = c.lastErr := by obtain ⟨_, _, h⟩ := c.sync_cases; rw [h]
@[simp] theorem DmaChan.sync_detail : c.sync.detail = c.detail := by obtain ⟨_, _, h⟩ := c.sync_cases; rw [h]
@[simp] theorem DmaChan.sync_creditErr : c.sync.creditErr = c.creditErr := by obtain ⟨_, _, h⟩ := c.sync_cases; rw [h]
@[simp] theorem DmaChan.sync_level : c.sync.level = c.level := by obtain ⟨_, _, h⟩ := c.sync_cases; rw [h]
@[simp] theorem DmaChan.sync_wmark : c.sync.wmark = c.wmark := by obtain ⟨_, _, h⟩ := c.sync_cases; rw [h]
@[simp] theorem DmaChan.sync_wmarkIn : c.sync.wmarkIn = c.wmarkIn := by obtain ⟨_, _, h⟩ := c.sync_cases; rw [h]
@[simp] theorem DmaChan.sync_crossed : c.sync.crossed = c.crossed := by obtain ⟨_, _, h⟩ := c.sync_cases; rw [h]
@[simp] theorem DmaChan.sync_wmsg : c.sync.wmsg = c.wmsg := by obtain ⟨_, _, h⟩ := c.sync_cases; rw [h]

/-- A channel that has bursts left to start is in STATE 1. -/
theorem DmaChan.sync_state_running {r : ChainRun} (hr : c.run = some r) (hm : r.msgs = []) (hmore : r.more c.chainLimit = true) :
    c.sync.state = 1 := by
  have hlive := hmore
  simp only [ChainRun.more, Bool.and_eq_true, Bool.not_eq_true', Option.isNone_iff_eq_none] at hlive
  obtain ⟨⟨he, ha⟩, -⟩ := hlive
  rw [DmaChan.sync_state, DmaChan.chainState, hr]
  simp only [he, ha, hm, hmore, Option.isSome_none, List.isEmpty_nil, Bool.or_false, Bool.false_and, Bool.not_true, Bool.false_eq_true,
    if_false, if_true]

end Sync

section Channels
variable {n i : Nat} (f : DmaChan → DmaChan) (g : Plectrum → Plectrum) (s t : State)

@[simp] theorem modChan_chan : ((modChan n i f s).core n).chan i = (f ((s.core n).chan i)).sync := by
  rw [modChan, State.modCore_core_same, Core.setChan_chan_same]

@[simp] theorem modChan_queue : ((modChan n i f s).core n).dma.queue = (s.core n).dma.queue := by
  rw [modChan, State.modCore_core_same]
  rfl

@[simp] theorem modChan_msgs : ((modChan n i f s).core n).syn.msgs = (s.core n).syn.msgs := by
  rw [modChan, State.modCore_core_same, Core.setChan_syn]

@[simp] theorem setDma_dma : ((setDma n g s).core n).dma = g (s.core n).dma := by
  rw [setDma, State.modCore_core_same]

variable {s t}

theorem chan_of_dma (h : (t.core n).dma = (s.core n).dma) (i : Nat) : (t.core n).chan i = (s.core n).chan i :=
  congrArg (fun d : Plectrum => mapGet ({} : DmaChan) d.chans i) h

variable (s)

@[simp] theorem settle_chan : ((settle n s).core n).chan i = (s.core n).chan i := chan_of_dma (settle_dma n s) i
@[simp] theorem freeReadSeg_chan (ch : Nat) : ((freeReadSeg n ch s).core n).chan i = (s.core n).chan i :=
  chan_of_dma (freeReadSeg_dma n s ch) i
theorem freeChanSegs_dma (ch : Nat) (src dst : Bool) : ((freeChanSegs n ch src dst s).core n).dma = (s.core n).dma := by
  rw [freeChanSegs, State.modCore_core_same]
@[simp] theorem freeChanSegs_chan (ch : Nat) (src dst : Bool) : ((freeChanSegs n ch src dst s).core n).chan i = (s.core n).chan i :=
  chan_of_dma (freeChanSegs_dma ..) i

end Channels

/-! ## A chain begins (R228, R229, R230) -/

section Begin
variable {s : State} {n i : Nat} {j : DmaJob} {rest : List DmaJob}

/-- The chain of a start that is accepted (R229). -/
def acceptedRun (j : DmaJob) (nt : Bool) (cap : Cap) (off : Word) (caps : List Cap) (d : Option Resp) : ChainRun :=
  { thread := j.thread, pc := j.pc, nt := nt, s := cap, caps := caps, descs := [], fetching := some off, prefetched := d
    bursts := [], nextBurst := 0, err := none, aborting := false, msgs := [], finished := false }

theorem acceptStart_chan (nt : Bool) (cap : Cap) (off : Word) (caps : List Cap) (d : Option Resp) :
    ((acceptStart n j nt i cap off caps d s).core n).chan i =
      { (s.core n).chan i with lastErr := 0, detail := 0, level := 0, run := some (acceptedRun j nt cap off caps d) }.sync := modChan_chan ..

theorem departDma_start {nt : Bool} {ch : BitVec 3} {cap : Cap} {off : Word} {caps : List Cap} {d : Option Resp}
    (hq : (s.core n).dma.queue = j :: rest) (hw : j.work = .start nt ch cap off caps d) (hidle : ((s.core n).chan ch.toNat).state = 0)
    (hfree : nt = true ∨ startHeld s n j = false) : departDma n s =
      acceptStart n j nt ch.toNat cap off caps d (setDma n (fun p => { p with queue := rest }) s) := by
  have hheld : (! nt && startHeld s n j) = false := by
    obtain h | h := hfree <;> simp [h]
  simp only [departDma, hq, hw, hidle, hheld, ne_eq, not_true_eq_false, Bool.false_eq_true, if_false]

theorem departDma_rd {g reg : GReg} (hq : (s.core n).dma.queue = j :: rest) (hw : j.work = .rd g reg) : departDma n s =
    (setDma n (fun p => { p with queue := rest }) s).modThread n j.thread.val fun t =>
      { (t.setG g (dmaRead (s.core n) (s.thread n j.thread.val).selCh (s.thread n j.thread.val).selDenied reg.toNat)) with
        rdPending := t.rdPending.erase g } := by
  simp only [departDma, hq, hw]
  rfl

/-- The descriptor that was read at issue joins the chain. -/
theorem fetchDesc_prefetched {r : ChainRun} {off : Word} {bs : List Byte} (hr : ((s.core n).chan i).run = some r)
    (hf : r.fetching = some off) (hp : r.prefetched = some (.data bs)) (hm : s.normModule r.s.module = 0xFFFF)
    (ho : (ownScratch n (r.s.addrAt off.toNat) 64).isSome = true)
    (hc : checkAccess r.s { module := s.module, region := s.regionOf n } 0 0 [pR] none off.toNat 64 64 = none) :
    fetchDesc n i s = modChan n i (fun c => { c with wmarkIn := c.wmark, run := c.run.map fun r => { r with descs := r.descs ++
        [{ off := off, words := (List.range 16).map (wordAt bs), started := 0, completed := false }] } })
      (modRun n i (fun r => { r with fetching := none, prefetched := none }) s) := by
  simp only [fetchDesc, hr, hf, hp, hm, ho, hc, and_self, if_true, Option.getD_some]

end Begin

/-- Settles O29: the queue's head leaves, a start as its channel's new chain, a register read as a write of its thread's register; the
channel and the register stay as they are while the core settles. -/
theorem dmaChainsBegin : Obligations.DmaChainsBegin := by
  intro s node ch hcore n k
  have hdepart : exec (.dmaQueueDepart node) s = .next (settle n (departDma n s)) := atCore_next hcore
  have hfetch : exec (.descriptorFetch node ch) s = .next (settle n (fetchDesc n ch.toNat s)) := atCore_next hcore
  refine ⟨fun j rest nt cap off caps d hq hw hidle hfree => ?start, fun j rest g reg hq hw => ?rd,
    fun r off bs hr hf hp hm ho hc => ?fetch⟩
  case start =>
    refine ⟨_, acceptedRun j nt cap off caps d, hdepart, ?_⟩
    rw [departDma_start hq hw hidle hfree, settle_dma, settle_chan, acceptStart_chan]
    refine ⟨?queue, ?run, rfl, rfl, rfl, rfl, rfl, rfl, rfl, rfl, rfl, rfl, ?_, ?_, ?_, ?state⟩
    case queue => rw [acceptStart, modChan_queue, setDma_dma]
    case run => rw [DmaChan.sync_run]
    case state => exact DmaChan.sync_state_running _ rfl rfl rfl
    all_goals simp only [DmaChan.sync_lastErr, DmaChan.sync_detail, DmaChan.sync_level]
  case rd =>
    refine ⟨_, hdepart, ?_⟩
    have hsame : (setDma n (fun p => { p with queue := rest }) s).thread n j.thread.val = s.thread n j.thread.val :=
      modCore_thread n s (f := fun c => { c with dma := { c.dma with queue := rest } }) (fun _ => rfl) n j.thread.val
    rw [settle_dma, settle_g, settle_rdPending, departDma_rd hq hw, State.modThread_thread_same, State.modThread_core_same,
      Core.modThread_dma, setDma_dma, hsame]
    exact ⟨rfl, rfl, rfl⟩
  case fetch =>
    refine ⟨_, hfetch, ?_⟩
    rw [fetchDesc_prefetched hr hf hp hm ho hc, settle_chan, modChan_chan, modRun, modChan_chan]
    simp only [DmaChan.sync_wmarkIn, DmaChan.sync_wmark, DmaChan.sync_run]
    rw [hr]
    exact ⟨rfl, rfl⟩

/-! ## A chain ends (R239, R240, R243, R244) -/

section End
variable {s t : State} {n i : Nat} {code detail : Byte}

/-- LAST_ERR and DETAIL of a channel. -/
def chanErr (n i : Nat) (s : State) : Byte × Byte := (((s.core n).chan i).lastErr, ((s.core n).chan i).detail)

theorem chanErr_of_dma (h : (t.core n).dma = (s.core n).dma) : chanErr n i t = chanErr n i s := by
  rw [chanErr, chan_of_dma h, chanErr]

theorem chanErr_modChan {f : DmaChan → DmaChan} (hf : ∀ c, ((f c).lastErr, (f c).detail) = (c.lastErr, c.detail)) :
    chanErr n i (modChan n i f s) = chanErr n i s := by
  rw [chanErr, modChan_chan, DmaChan.sync_lastErr, DmaChan.sync_detail, hf, chanErr]

theorem writeRecord_chanErr (r : ChainRun) (at_ : Word) (ws : List Word) : chanErr n i (writeRecord n i r at_ ws s) = chanErr n i s := by
  have hfail : chanErr n i (modChan n i (fun c => { c with recFail := true }) s) = chanErr n i s := chanErr_modChan fun _ => rfl
  unfold writeRecord
  dsimp only
  split
  · rfl
  · split
    · exact hfail
    · split
      · split
        · exact chanErr_of_dma (by rw [State.modCore_core_same, Core.modMem_dma])
        · exact hfail
      · split
        · exact chanErr_of_dma (request_dma ..)
        · exact hfail

theorem pushMsg_chanErr (nch tag : BitVec 4) (w0 w1 : Word) : chanErr n i (pushMsg n i nch tag w0 w1 s) = chanErr n i s := by
  unfold pushMsg
  split
  · rfl
  · exact chanErr_modChan fun _ => rfl

theorem chainOver_chanErr : chanErr n i (chainOver n i s) = chanErr n i s := by
  rw [chainOver, chanErr_modChan, chanErr_of_dma (freeChanSegs_dma ..)]
  intro c
  split
  · split <;> rfl
  · rfl

/-- No chain is left of a channel but one that waits for its messages to be accepted (R240). -/
def ChainEnded (run : Option ChainRun) : Prop := run = none ∨ ∃ q, run = some q ∧ q.finished = true ∧ q.msgs ≠ []

theorem chainOver_ended : ChainEnded (((chainOver n i s).core n).chan i).run := by
  rw [chainOver, modChan_chan, DmaChan.sync_run, freeChanSegs_chan]
  split
  case h_1 r hr =>
    split
    case isTrue => exact .inl rfl
    case isFalse hm => exact .inr ⟨_, rfl, rfl, by simpa using hm⟩
  case h_2 hr => exact .inl hr

/-- A chain that stops reports its code and DETAIL, and ends. -/
theorem stopChain_ends (r : ChainRun) (place : Nat) (tag : BitVec 4) :
    chanErr n i (stopChain n i r code detail place tag s) = (code, detail)
      ∧ ChainEnded (((stopChain n i r code detail place tag s).core n).chan i).run := by
  constructor
  · have hset : chanErr n i (modChan n i (fun c => { c with lastErr := code, detail := detail }) s) = (code, detail) := by
      rw [chanErr, modChan_chan, DmaChan.sync_lastErr, DmaChan.sync_detail]
    unfold stopChain
    dsimp only
    rw [chanErr_modChan, chainOver_chanErr]
    · split
      · rw [pushMsg_chanErr, writeRecord_chanErr, hset]
      · rw [chanErr_modChan, hset]
        exact fun _ => rfl
    · exact fun _ => rfl
  · rw [stopChain, modChan_chan, DmaChan.sync_run]
    exact chainOver_ended

variable {r : ChainRun} (hb : ∀ b ∈ r.bursts, b.stage = .acked ∨ b.stage = .failed)
include hb

theorem stages_drained : r.bursts.any (fun b => decide (b.stage = .reading ∨ b.stage = .read ∨ b.stage = .writing)) = false := by
  rw [List.any_eq_false]
  intro b hmem
  obtain h | h := hb b hmem <;> simp [h]

variable (hr : ((s.core n).chan i).run = some r) (hf : r.finished = false) (hfetch : r.fetching = none) (hreqs : chanReqs (s.core n) i = false)
include hr hf hfetch hreqs

/-- A chain with nothing in flight stops with its error. -/
theorem drainEnd_error {e : ChainErr} (he : r.err = some e) : drainEnd n i s = stopChain n i r e.code e.detail e.desc 3 s := by
  simp only [drainEnd, hr, stages_drained hb, hreqs, hfetch, hf, he, Option.isSome_none, Bool.or_self, Bool.false_eq_true, if_false]

/-- A chain without an error that is aborting stops with code 9. -/
theorem drainEnd_aborting (he : r.err = none) (ha : r.aborting = true) : drainEnd n i s = stopChain n i r 9 0 r.current 2 s := by
  simp only [drainEnd, hr, stages_drained hb, hreqs, hfetch, hf, he, ha, Option.isSome_none, Bool.or_self, Bool.false_eq_true, if_false, if_true]

end End

/-! ## Messages of Plectrum (R240) -/

section Messages
variable {s : State} {n i : Nat} {m : DmaMsg}

/-- A waiting WATERMARK that finds room is taken. -/
theorem acceptDmaMsg_wmsg (hm : ((s.core n).chan i).wmsg = some m) (hroom : ((s.core n).ctl.halted || (s.core n).msgRoom m.chan.toNat) = true) :
    acceptDmaMsg n i s = if (s.core n).ctl.halted then modChan n i (fun c => { c with wmsg := none }) s
      else acceptMsg n m.toMsg (modChan n i (fun c => { c with wmsg := none }) s) := by
  simp only [acceptDmaMsg, hm, Option.filter_some, hroom, if_true]

variable {r : ChainRun} {rest : List DmaMsg}

/-- Without a WATERMARK that finds room, the chain's oldest message is taken; the last one of a chain that is over ends it. -/
theorem acceptDmaMsg_oldest (hw : ∀ w, ((s.core n).chan i).wmsg = some w → (s.core n).msgRoom w.chan.toNat = false)
    (hr : ((s.core n).chan i).run = some r) (hm : r.msgs = m :: rest) (hh : (s.core n).ctl.halted = false)
    (hroom : (s.core n).msgRoom m.chan.toNat = true) : acceptDmaMsg n i s = acceptMsg n m.toMsg
      (modChan n i (fun c => { c with run := if r.finished = true ∧ rest = [] then none else some { r with msgs := rest } }) s) := by
  have hnone : ((s.core n).chan i).wmsg.filter (fun w => (s.core n).ctl.halted || (s.core n).msgRoom w.chan.toNat) = none := by
    rw [Option.filter_eq_none_iff]
    intro w hmem
    rw [hh, hw w hmem]
    exact Bool.false_ne_true
  have hend : (r.finished && rest.isEmpty) = decide (r.finished = true ∧ rest = []) := by
    cases rest <;> simp
  simp only [acceptDmaMsg, hnone, hr, hm]
  simp only [hh, hroom, hend, Bool.or_true, if_true, Bool.false_eq_true, if_false, decide_eq_true_eq]

end Messages

/-! ## Registers that act (R244, R248, R249) -/

section Registers
variable {s : State} {n : Nat} {via : DmaVia} {ch : BitVec 3} (hsel : (viaSel (s.core n) via).1 = ch)
include hsel

theorem dmaWrite_abort {r : ChainRun} (hbar : dmaBarred (s.core n) via ch = false) (hr : ((s.core n).chan ch.toNat).run = some r)
    (hf : r.finished = false) (ha : r.aborting = false) (he : r.err = none) (hm : r.more ((s.core n).chan ch.toNat).chainLimit = true) :
    dmaWrite n via 1 1 s = freeReadSeg n ch.toNat (modRun n ch.toNat (fun r => { r with aborting := true }) s) := by
  have habort : dmaWrite n via 1 1 s = abortChan n ch.toNat s := by
    simp only [dmaWrite, hsel, hbar]
    rfl
  rw [habort, abortChan]
  simp only [hr, hf, ha, he, hm, Option.isSome_none, Bool.or_self, Bool.not_true, Bool.false_eq_true, if_false]

theorem dmaWrite_credit (v : Word) : dmaWrite n via 7 v s = modChan n ch.toNat (creditChan v) s := by
  rw [← hsel]
  rfl

theorem dmaWrite_wstatClear : dmaWrite n via 9 0x80000000 s = modChan n ch.toNat (fun d => { d with crossed := false }) s := by
  rw [← hsel]
  rfl

end Registers

theorem creditChan_le {v : Word} {c : DmaChan} (h : v ≤ c.level) : creditChan v c = setLevel c (c.level - v) := if_neg (Nat.not_lt.mpr h)
theorem creditChan_lt {v : Word} {c : DmaChan} (h : c.level < v) : creditChan v c = { setLevel c 0 with creditErr := true } := if_pos h

/-- Settles O31: a chain with nothing in flight stops, a message that finds room is taken from its channel, and a register's write acts on
the channel it selects; the channel stays as it is while the core settles. -/
theorem dmaChainsEndAndRegistersAct : Obligations.DmaChainsEndAndRegistersAct := by
  intro s node ch via v hcore n k c after
  have hdrain : exec (.channelDrainEnd node ch) s = .next (settle n (drainEnd n ch.toNat s)) := atCore_next hcore
  have haccept : exec (.plectrumMsgAccept node ch) s = .next (settle n (acceptDmaMsg n ch.toNat s)) := atCore_next hcore
  refine ⟨fun r hr hf hfetch hreqs hb => ?ends, fun m hm hh hroom => ?watermark, fun m hm hh => ?halted,
    fun r m rest hw hr hm hh hroom => ?oldest,
    fun hsel => ⟨fun r hbar hr hf ha he hm => ?abort, fun hle => ?credit, fun hlt => ?overdrawn, ?clear⟩⟩
  case ends =>
    intro ends
    have ends_of {code detail : Byte} {place : Nat} {tag : BitVec 4}
        (hstop : drainEnd n ch.toNat s = stopChain n ch.toNat r code detail place tag s) : ends code detail := by
      obtain ⟨herr, hended⟩ := stopChain_ends (s := s) (n := n) (i := ch.toNat) (code := code) (detail := detail) r place tag
      obtain ⟨hcode, hdetail⟩ := Prod.mk.inj herr
      refine ⟨_, hdrain, ?_⟩
      simp only [after, settle_chan, hstop]
      exact ⟨hcode, hdetail, hended⟩
    exact ⟨fun e he => ends_of (drainEnd_error hb hr hf hfetch hreqs he),
      fun he ha => ends_of (drainEnd_aborting hb hr hf hfetch hreqs he ha)⟩
  case watermark =>
    refine ⟨k.setChan ch.toNat { c with wmsg := none }.sync, by rw [Core.setChan_chan_same, DmaChan.sync_wmsg], ?_⟩
    rw [haccept, acceptDmaMsg_wmsg hm (by rw [hroom, Bool.or_true]), if_neg (ne_true_of_eq_false hh)]
    rfl
  case halted =>
    refine ⟨_, haccept, ?_⟩
    simp only [after, settle_chan, settle_msgs]
    rw [acceptDmaMsg_wmsg hm (by rw [hh, Bool.true_or]), if_pos hh, modChan_chan, modChan_msgs, DmaChan.sync_wmsg]
    exact ⟨rfl, rfl⟩
  case oldest =>
    refine ⟨k.setChan ch.toNat { c with run := if r.finished = true ∧ rest = [] then none else some { r with msgs := rest } }.sync,
      by rw [Core.setChan_chan_same, DmaChan.sync_run], ?_⟩
    rw [haccept, acceptDmaMsg_oldest hw hr hm hh hroom]
    rfl
  case abort =>
    refine ⟨_, atCore_next hcore, ?_⟩
    simp only [after]
    rw [dmaWrite_abort hsel hbar hr hf ha he hm, freeReadSeg_chan, modRun_run, hr]
    rfl
  case credit =>
    refine ⟨_, atCore_next hcore, ?_⟩
    simp only [after]
    rw [dmaWrite_credit hsel, modChan_chan, creditChan_le hle, DmaChan.sync_level, DmaChan.sync_creditErr]
    exact ⟨rfl, rfl⟩
  case overdrawn =>
    refine ⟨_, atCore_next hcore, ?_⟩
    simp only [after]
    rw [dmaWrite_credit hsel, modChan_chan, creditChan_lt hlt, DmaChan.sync_level, DmaChan.sync_creditErr]
    exact ⟨rfl, rfl⟩
  case clear =>
    refine ⟨_, atCore_next hcore, ?_⟩
    simp only [after]
    rw [dmaWrite_wstatClear hsel, modChan_chan, DmaChan.sync_crossed, DmaChan.sync_level]
    exact ⟨rfl, rfl⟩

end Sys2Proof.Machine

/-! The statement of spec/09 about what settling leaves as it is (O59). -/

namespace Sys2Proof.Machine

open Sys2Proof

/-! ## What settling may change (R265) -/

/-- What settling may make of a thread: TAGs reach its load and its rdb, and refusals are noted. -/
structure Thread.SettlesTo (t t' : Thread) : Prop where
  rest : { t' with remoteErr := t.remoteErr, load := t.load, wait := t.wait } = t
  load : t'.load = t.load ∨ ∃ tag i, t'.load = (t.tagged tag (.load i)).load
  wait : t'.wait = t.wait ∨ ∃ tag i pc, t'.wait = (t.tagged tag (.rdb i pc)).wait

/-- What settling may make of a core before its course follows. -/
structure Core.SettlesTo (c c' : Core) : Prop where
  thread (j : Nat) : (c.thread j).SettlesTo (c'.thread j)
  rest : { c' with threads := c.threads, reqs := c.reqs, tagQueue := c.tagQueue
                   syn := { c'.syn with queue := c.syn.queue, incOwn := c.syn.incOwn } } = c
  reqs : c.reqs <+: c'.reqs
  tagQueue : c'.tagQueue <:+ c.tagQueue
  incOwn : c.syn.incOwn <+: c'.syn.incOwn
  queue : ∀ e' ∈ c'.syn.queue, ∃ e ∈ c.syn.queue, e' = e ∨ ∃ tag, e' = { e with stage := .sent tag }

/-- What sending makes of a node. -/
structure NodeIO.GrowsTo (x x' : NodeIO) : Prop where
  rest : { x' with out := x.out, ctrl := x.ctrl, rx := x.rx } = x
  out : x.out <+: x'.out
  ctrl : x.ctrl <+: x'.ctrl
  rx : x.rx <+: x'.rx

/-- What the TAGs and the SYN unit of core n may make of the state. -/
structure State.SettlesTo (n : Nat) (s u : State) : Prop where
  core : (s.core n).SettlesTo (u.core n)
  node : (s.node n).GrowsTo (u.node n)
  others (m : Nat) (h : m ≠ n) : u.core m = s.core m ∧ u.node m = s.node m
  rest : { u with cores := s.cores, nodes := s.nodes } = s

section Threads
variable {t t' t'' : Thread}

theorem Thread.SettlesTo.refl (t : Thread) : t.SettlesTo t := ⟨rfl, .inl rfl, .inl rfl⟩

/-- Of two TAGs that a load has had, the last counts. -/
theorem Thread.tagged_load_twice {tag : BitVec 10} {i : ThreadNo} (h : t'.load = (t.tagged tag (.load i)).load) (tag' : BitVec 10) (j : ThreadNo) :
    (t'.tagged tag' (.load j)).load = (t.tagged tag' (.load j)).load := by
  simp only [Thread.tagged] at h ⊢
  rw [h, Option.map_map]
  rfl

/-- Of two TAGs that an rdb has had, the last counts. -/
theorem Thread.tagged_wait_twice {tag : BitVec 10} {i : ThreadNo} {pc : Word} (h : t'.wait = (t.tagged tag (.rdb i pc)).wait) (tag' : BitVec 10)
    (j : ThreadNo) (pc' : Word) : (t'.tagged tag' (.rdb j pc')).wait = (t.tagged tag' (.rdb j pc')).wait := by
  simp only [Thread.tagged] at h ⊢
  rw [h, Option.map_map]
  refine Option.map_congr fun w _ => ?_
  obtain ⟨kind, _, _, _, _⟩ := w
  cases kind <;> rfl

theorem Thread.SettlesTo.trans (h : t.SettlesTo t') (h' : t'.SettlesTo t'') : t.SettlesTo t'' where
  rest := (congrArg (fun u : Thread => { u with remoteErr := t.remoteErr, load := t.load, wait := t.wait }) h'.rest).trans h.rest
  load := by
    obtain hl' | ⟨tag', j, hl'⟩ := h'.load
    · rw [hl']; exact h.load
    · obtain hl | ⟨tag, i, hl⟩ := h.load
      · exact .inr ⟨tag', j, by rw [hl', Thread.tagged, Thread.tagged, hl]⟩
      · exact .inr ⟨tag', j, hl'.trans (Thread.tagged_load_twice hl tag' j)⟩
  wait := by
    obtain hw' | ⟨tag', j, pc', hw'⟩ := h'.wait
    · rw [hw']; exact h.wait
    · obtain hw | ⟨tag, i, pc, hw⟩ := h.wait
      · exact .inr ⟨tag', j, pc', by rw [hw', Thread.tagged, Thread.tagged, hw]⟩
      · exact .inr ⟨tag', j, pc', hw'.trans (Thread.tagged_wait_twice hw tag' j pc')⟩

/-- A TAG settles the thread whose load or rdb has it. -/
theorem Thread.tagged_settlesTo (t : Thread) (tag : BitVec 10) (kind : ReqKind) : t.SettlesTo (t.tagged tag kind) := by
  cases kind with
  | load i => exact ⟨rfl, .inr ⟨tag, i, rfl⟩, .inl rfl⟩
  | rdb i pc => exact ⟨rfl, .inl rfl, .inr ⟨tag, i, pc, rfl⟩⟩
  | _ => exact .refl t

end Threads

section Cores
variable {c c' c'' : Core}

theorem Core.SettlesTo.refl (c : Core) : c.SettlesTo c :=
  ⟨fun _ => .refl _, rfl, List.prefix_rfl, List.suffix_rfl, List.prefix_rfl, fun e he => ⟨e, he, .inl rfl⟩⟩

theorem Core.SettlesTo.trans (h : c.SettlesTo c') (h' : c'.SettlesTo c'') : c.SettlesTo c'' where
  thread j := (h.thread j).trans (h'.thread j)
  rest := (congrArg (fun u : Core => { u with threads := c.threads, reqs := c.reqs, tagQueue := c.tagQueue
                                              syn := { u.syn with queue := c.syn.queue, incOwn := c.syn.incOwn } }) h'.rest).trans h.rest
  reqs := h.reqs.trans h'.reqs
  tagQueue := h'.tagQueue.trans h.tagQueue
  incOwn := h.incOwn.trans h'.incOwn
  queue e'' he'' := by
    obtain ⟨e', he', hs'⟩ := h'.queue e'' he''
    obtain ⟨e, he, hs⟩ := h.queue e' he'
    refine ⟨e, he, ?_⟩
    obtain rfl | ⟨tag', rfl⟩ := hs'
    · exact hs
    · obtain rfl | ⟨tag, rfl⟩ := hs
      · exact .inr ⟨tag', rfl⟩
      · exact .inr ⟨tag', rfl⟩

/-- A core settles in what settles one of its threads. -/
theorem Core.SettlesTo.modThread {f : Thread → Thread} {k : Nat} (h : (c.thread k).SettlesTo (f (c.thread k))) : c.SettlesTo (c.modThread k f) where
  thread j := by
    rw [Core.modThread_thread]
    split
    case isTrue hj => rw [hj]; exact h
    case isFalse => exact .refl _
  rest := rfl
  reqs := List.prefix_rfl
  tagQueue := List.suffix_rfl
  incOwn := List.prefix_rfl
  queue e he := ⟨e, he, .inl rfl⟩

/-- A TAG comes into use. -/
theorem Core.SettlesTo.addReq (h : c.SettlesTo c') (r : BitVec 10 × ReqKind) : c.SettlesTo { c' with reqs := c'.reqs ++ [r] } :=
  h.trans { Core.SettlesTo.refl c' with reqs := List.prefix_append .. }

/-- The SYN queue loses entries, or one of them is sent. -/
theorem Core.SettlesTo.synQueue {q : List SynEntry} (h : ∀ e' ∈ q, ∃ e ∈ c.syn.queue, e' = e ∨ ∃ tag, e' = { e with stage := .sent tag }) :
    c.SettlesTo { c with syn := { c.syn with queue := q } } := { Core.SettlesTo.refl c with queue := h }

/-- An entry leaves the SYN queue. -/
theorem Core.SettlesTo.synErase (c : Core) (i : Nat) : c.SettlesTo { c with syn := { c.syn with queue := c.syn.queue.eraseIdx i } } :=
  .synQueue fun e he => ⟨e, List.mem_of_mem_eraseIdx he, .inl rfl⟩

end Cores

/-- Every member of a list that is changed at a place stood there before, or comes from the one at that place. -/
theorem mem_modifyAt {α : Type} {f : α → α} {y : α} : ∀ {i : Nat} {l : List α}, y ∈ modifyAt f i l → ∃ x ∈ l, y = x ∨ y = f x
  | _, [], h => by rw [modifyAt] at h; exact absurd h List.not_mem_nil
  | 0, x :: xs, h => by
    obtain rfl | h := List.mem_cons.mp h
    · exact ⟨x, List.mem_cons_self, .inr rfl⟩
    · exact ⟨y, List.mem_cons_of_mem _ h, .inl rfl⟩
  | i + 1, x :: xs, h => by
    obtain rfl | h := List.mem_cons.mp h
    · exact ⟨y, List.mem_cons_self, .inl rfl⟩
    · obtain ⟨z, hz, hy⟩ := mem_modifyAt h
      exact ⟨z, List.mem_cons_of_mem _ hz, hy⟩

section Nodes
variable {x x' x'' : NodeIO}

theorem NodeIO.GrowsTo.refl (x : NodeIO) : x.GrowsTo x := ⟨rfl, List.prefix_rfl, List.prefix_rfl, List.prefix_rfl⟩

theorem NodeIO.GrowsTo.trans (h : x.GrowsTo x') (h' : x'.GrowsTo x'') : x.GrowsTo x'' where
  rest := (congrArg (fun u : NodeIO => { u with out := x.out, ctrl := x.ctrl, rx := x.rx }) h'.rest).trans h.rest
  out := h.out.trans h'.out
  ctrl := h.ctrl.trans h'.ctrl
  rx := h.rx.trans h'.rx

theorem NodeIO.GrowsTo.deliver (x : NodeIO) (p : Packet) : x.GrowsTo (x.deliver p) := by
  unfold NodeIO.deliver
  split
  · exact { NodeIO.GrowsTo.refl x with ctrl := List.prefix_append .. }
  · exact { NodeIO.GrowsTo.refl x with rx := List.prefix_append .. }

theorem NodeIO.GrowsTo.inject (x : NodeIO) (p : Packet) : x.GrowsTo { x with out := x.out ++ [p] } :=
  { NodeIO.GrowsTo.refl x with out := List.prefix_append .. }

end Nodes

/-! ## What the TAGs and the SYN unit do (R265) -/

section States
variable {n : Nat} {s u v : State}

theorem State.SettlesTo.refl (n : Nat) (s : State) : State.SettlesTo n s s := ⟨.refl _, .refl _, fun _ _ => ⟨rfl, rfl⟩, rfl⟩

theorem State.SettlesTo.trans (h : State.SettlesTo n s u) (h' : State.SettlesTo n u v) : State.SettlesTo n s v where
  core := h.core.trans h'.core
  node := h.node.trans h'.node
  others m hm := ⟨(h'.others m hm).1.trans (h.others m hm).1, (h'.others m hm).2.trans (h.others m hm).2⟩
  rest := (congrArg (fun w : State => { w with cores := s.cores, nodes := s.nodes }) h'.rest).trans h.rest

theorem State.SettlesTo.course (h : State.SettlesTo n s u) (m : Nat) : u.course m = s.course m :=
  congrArg (mapGet ({} : Course) · m) (congrArg State.courses h.rest :)

/-- A state settles in what settles core n. -/
theorem State.SettlesTo.modCore {f : Core → Core} (h : (s.core n).SettlesTo (f (s.core n))) : State.SettlesTo n s (s.modCore n f) where
  core := by rw [State.modCore_core_same]; exact h
  node := .refl _
  others m hm := ⟨State.modCore_core_ne _ _ _ _ hm, rfl⟩
  rest := rfl

/-- A state settles in what settles a thread of core n. -/
theorem State.SettlesTo.modThread {k : Nat} {f : Thread → Thread} (h : (s.thread n k).SettlesTo (f (s.thread n k))) :
    State.SettlesTo n s (s.modThread n k f) := State.SettlesTo.modCore (f := (·.modThread k f)) (.modThread h)

/-- A packet of node n joins what the node injects or what is there for itself. -/
theorem State.SettlesTo.send (s : State) {p : Packet} (hp : p.h.snode.toNat = n) : State.SettlesTo n s (s.send p) where
  core := by rw [send_core]; exact .refl _
  node := by
    by_cases hd : p.h.dnode = p.h.snode
    · rw [send_own _ _ hd, hp, State.modNode_node_same]
      exact .deliver ..
    · rw [send_out _ _ hd, hp, State.modNode_node_same]
      exact .inject ..
  others m hm := ⟨send_core .., send_node_ne _ _ _ (hp ▸ hm)⟩
  rest := by
    obtain ⟨f, hf⟩ := send_eq s p
    rw [hf]
    rfl

end States

section Settles
variable {n : Nat} (hn : n < 1024) (s : State)
include hn

theorem toNat_ofNat_node : (BitVec.ofNat 10 n).toNat = n := by
  rw [BitVec.toNat_ofNat]
  exact Nat.mod_eq_of_lt hn

theorem sendTagged_settlesTo (kind : ReqKind) (tag : BitVec 10) (p : Packet) : State.SettlesTo n s (s.sendTagged n kind tag p) := by
  refine State.SettlesTo.trans (.modCore ?_) (.send _ (toNat_ofNat_node hn))
  cases kind.waiter with
  | none => exact (Core.SettlesTo.refl _).addReq _
  | some k => exact (Core.SettlesTo.modThread (Thread.tagged_settlesTo ..)).addReq _

theorem pumpTags_settlesTo (m : Nat) : State.SettlesTo n s (pumpTags n m s) := by
  induction m generalizing s with
  | zero => exact .refl n s
  | succ m ih =>
    unfold pumpTags
    split
    case h_1 kind p r tag hq _ =>
      have hleaves : (s.core n).SettlesTo { s.core n with tagQueue := r } :=
        { Core.SettlesTo.refl (s.core n) with tagQueue := by rw [hq]; exact List.suffix_cons .. }
      exact (State.SettlesTo.modCore hleaves).trans ((sendTagged_settlesTo hn _ kind tag p).trans (ih _))
    case h_2 => exact .refl n s

omit hn in
theorem noteRefusal_settlesTo (k : Nat) (kind : BitVec 3) (pc : Word) : State.SettlesTo n s (noteRefusal n k kind pc s) :=
  .modThread ⟨rfl, .inl rfl, .inl rfl⟩

theorem sendSyn_settlesTo (e : SynEntry) (i : Nat) (module : BitVec 16) (region : BitVec 6) (a : Addr) (kind : BitVec 5) (payload : List Byte) :
    State.SettlesTo n s (sendSyn n e i module region a kind payload s) := by
  unfold sendSyn
  dsimp only
  split
  case h_1 => exact (State.SettlesTo.modCore (.synErase ..)).trans (noteRefusal_settlesTo ..)
  case h_2 tag _ _ =>
    have hsent : (s.core n).SettlesTo
        { s.core n with syn := { (s.core n).syn with queue := modifyAt (fun e => { e with stage := .sent tag }) i (s.core n).syn.queue } } :=
      .synQueue fun e' he' => by
        obtain ⟨e, he, hs⟩ := mem_modifyAt he'
        exact ⟨e, he, hs.imp_right fun h => ⟨tag, h⟩⟩
    exact (State.SettlesTo.modCore (hsent.addReq _)).trans (.send _ (toNat_ofNat_node hn))
  case h_3 => exact .refl n s

theorem actSyn_settlesTo (i : Nat) (e : SynEntry) : State.SettlesTo n s (actSyn n i e s) := by
  have own (inc : FretInc) :
      State.SettlesTo n s (addIncOwn n inc (s.modCore n fun c => { c with syn := { c.syn with queue := c.syn.queue.eraseIdx i } })) :=
    (State.SettlesTo.modCore (.synErase ..)).trans
      (.modCore { Core.SettlesTo.refl _ with incOwn := List.prefix_append .. })
  unfold actSyn
  split
  · exact own _
  · split
    · split
      · exact own _
      · exact sendSyn_settlesTo hn ..
    · exact sendSyn_settlesTo hn ..
  · exact sendSyn_settlesTo hn ..

theorem synPass_settlesTo (fuel i : Nat) : State.SettlesTo n s (synPass n fuel i s) := by
  induction fuel generalizing i s with
  | zero => exact .refl n s
  | succ fuel ih =>
    unfold synPass
    dsimp only
    split
    · exact .refl n s
    · split
      · exact (actSyn_settlesTo hn s i _).trans (ih _ _)
      · exact ih s _

end Settles

/-! ## What the course does (R276) -/

/-- A course that follows its cores changes its state under LEND, with its time, at most. -/
theorem courseSync_eq (c : Nat) (s : State) :
    courseSync c s = s ∨ ∃ w d, courseSync c s = s.setCourse c { s.course c with wstate := w, dwellAt := d } := by
  unfold courseSync
  dsimp only
  split
  case isTrue =>
    split
    case h_4 => exact .inl rfl
    all_goals exact .inr ⟨_, _, rfl⟩
  case isFalse =>
    split
    case h_3 => exact .inl rfl
    all_goals exact .inr ⟨_, _, rfl⟩

theorem courseSync_node (c : Nat) (s : State) (m : Nat) : (courseSync c s).node m = s.node m :=
  congrArg (mapGet ({} : NodeIO) · m) (courseSync_nodes c s)

theorem courseSync_rest (c : Nat) (s : State) : { courseSync c s with courses := s.courses } = s := by
  obtain h | ⟨w, d, h⟩ := courseSync_eq c s <;> rw [h]
  rfl

theorem courseSync_course_ne {c m : Nat} (h : m ≠ c) (s : State) : (courseSync c s).course m = s.course m := by
  obtain hs | ⟨w, d, hs⟩ := courseSync_eq c s
  · rw [hs]
  · rw [hs, State.setCourse_course_ne _ _ _ _ h]

theorem courseSync_course_same (c : Nat) (s : State) :
    { (courseSync c s).course c with wstate := (s.course c).wstate, dwellAt := (s.course c).dwellAt } = s.course c := by
  obtain h | ⟨w, d, h⟩ := courseSync_eq c s <;> rw [h]
  rw [State.setCourse_course_same]

/-- Settling is what the TAGs and the SYN unit do, which the course then follows. -/
theorem settle_eq {n : Nat} (hn : n < 1024) (s : State) : ∃ v, State.SettlesTo n s v ∧ settle n s = courseSync (courseOf n) v :=
  ⟨_, (pumpTags_settlesTo hn s _).trans (synPass_settlesTo hn _ _ _), rfl⟩

/-- Settles O59: the TAGs and the SYN unit settle the core and its node, and of the rest the course alone follows. -/
theorem settlingChangesLittle : Obligations.SettlingChangesLittle := by
  unfold Obligations.SettlingChangesLittle
  intro s n
  obtain ⟨v, hv, hu⟩ := settle_eq (Nat.lt_trans n.isLt (by decide)) s
  have hsame := courseSync_course_same (courseOf n.val) v
  rw [hv.course] at hsame
  simp only [hu, courseSync_core, courseSync_node]
  refine ⟨hv.others, fun m hm => (courseSync_course_ne hm v).trans (hv.course m), fun j => ?thread, hv.core.rest, hv.core.reqs,
    hv.core.tagQueue, hv.core.incOwn, hv.core.queue, hv.node.rest, hv.node.out, hv.node.ctrl, hv.node.rx, hsame, ?rest⟩
  case thread => exact ⟨(hv.core.thread j).rest, (hv.core.thread j).load, (hv.core.thread j).wait⟩
  case rest =>
    exact (congrArg (fun w : State => { w with cores := s.cores, nodes := s.nodes, courses := s.courses })
      (courseSync_rest (courseOf n.val) v)).trans (congrArg (fun w : State => { w with courses := s.courses }) hv.rest)

end Sys2Proof.Machine

/-! What links, memory controllers, the host interface, Pegbox and lost cores keep of everything else (for O47). -/

namespace Sys2Proof.Machine

open Sys2Proof

/-! ## Folds that reach every element -/

/-- A fold in which each element comes to what it is for, and loses it to no other, leaves every element so. -/
theorem foldState_each {α : Type} {f : α → State → State} {P : α → State → Prop} (hown : ∀ x t, P x (f x t)) (hkeep : ∀ x y t, P y t → P y (f x t))
    (xs : List α) (s : State) : ∀ x ∈ xs, P x (foldState f xs s) := by
  induction xs generalizing s with
  | nil => exact fun x hx => absurd hx List.not_mem_nil
  | cons y ys ih =>
    rintro x hx
    rw [foldState_cons]
    obtain rfl | hx := List.mem_cons.mp hx
    · exact foldState_keeps f (P x) ys _ (fun z _ t => hkeep z x t) (hown x s)
    · exact ih _ x hx

/-! ## What links, controllers, the host interface and Pegbox keep -/

/-- A state that is another but for its nodes, memory controllers, links, host interface and Pegbox. -/
def State.KeepsChip (o s : State) : Prop :=
  { s with nodes := o.nodes, ctls := o.ctls, links := o.links, lnodes := o.lnodes, rail := o.rail, host := o.host, emu := o.emu, pb := o.pb } = o

section Chip
variable {o s t : State}

theorem State.KeepsChip.refl (s : State) : State.KeepsChip s s := rfl

theorem State.KeepsChip.pwr (h : o.KeepsChip s) : s.pwr = o.pwr := (congrArg State.pwr h :)
theorem State.KeepsChip.courses (h : o.KeepsChip s) : s.courses = o.courses := (congrArg State.courses h :)
theorem State.KeepsChip.dom (h : o.KeepsChip s) (d : Nat) : s.dom d = o.dom d := congrArg (fun p : Power => mapGet (domReset d) p.doms d) h.pwr
theorem State.KeepsChip.shell (h : o.KeepsChip s) (k : Nat) : s.shell k = o.shell k := congrArg (fun p : Power => mapGet (shellReset k) p.shells k) h.pwr
theorem State.KeepsChip.course (h : o.KeepsChip s) (c : Nat) : s.course c = o.course c := congrArg (mapGet ({} : Course) · c) h.courses

theorem modLink_keepsChip {f : Link → Link} (h : o.KeepsChip s) (l : Nat) : o.KeepsChip (s.modLink l f) := h
theorem modLnode_keepsChip {f : LNode → LNode} (h : o.KeepsChip s) (n : Nat) : o.KeepsChip (modLnode n f s) := h
theorem modHost_keepsChip {f : HostIf → HostIf} (h : o.KeepsChip s) : o.KeepsChip (modHost f s) := h
theorem modCtl_keepsChip {f : MemCtl → MemCtl} (h : o.KeepsChip s) (i : Nat) : o.KeepsChip (s.modCtl i f) := h
theorem modInst_keepsChip {f : Inst → Inst} (h : o.KeepsChip s) (kind i : Nat) : o.KeepsChip (modInst kind i f s) := h
theorem modPb_keepsChip {f : Pegbox → Pegbox} (h : o.KeepsChip s) : o.KeepsChip (modPb f s) := h

theorem send_keepsChip (h : o.KeepsChip s) (p : Packet) : o.KeepsChip (s.send p) := by
  obtain ⟨f, hf⟩ := send_eq s p
  rw [hf]
  exact h

theorem health_keepsChip (h : o.KeepsChip s) (e : HEvent) : o.KeepsChip (s.health e) := by
  obtain ⟨b, hb⟩ := health_cases s e
  rw [hb]
  exact h

theorem readyEvent_keepsChip (h : o.KeepsChip t) (s : State) : o.KeepsChip (readyEvent s t) := by
  obtain hr | ⟨e, hr⟩ := readyEvent_cases s t
  · rwa [hr]
  · rw [hr]
    exact health_keepsChip h e

theorem setLinkState_keepsChip (h : o.KeepsChip s) (l : Nat) (st : LinkState) : o.KeepsChip (setLinkState l st s) := by
  unfold setLinkState
  split
  · exact h
  · unfold linkChanged
    exact readyEvent_keepsChip (modHost_keepsChip (health_keepsChip (modLnode_keepsChip (modLink_keepsChip h l) _) _)) _

theorem flushLink_keepsChip (h : o.KeepsChip s) (l : Nat) (st : LinkState) : o.KeepsChip (flushLink l st s) := by
  unfold flushLink
  extract_lets n lost s1 s2 _ s3
  have h2 : o.KeepsChip s2 := modLnode_keepsChip (modLink_keepsChip h l) n
  have h3 : o.KeepsChip s3 := h2
  exact setLinkState_keepsChip (foldState_keeps _ o.KeepsChip _ _ (fun p _ _ ht => send_keepsChip ht p) h3) l st

theorem linkEnable_keepsChip (h : o.KeepsChip s) (l : Nat) (en : Bool) : o.KeepsChip (linkEnable l en s) := by
  unfold linkEnable
  dsimp only
  split
  · exact h
  · split
    · split
      · exact h
      · exact setLinkState_keepsChip (modLink_keepsChip h l) l .train
    · exact flushLink_keepsChip (modLink_keepsChip h l) l .off

theorem admitLinks_keepsChip (h : o.KeepsChip s) (ls : List Nat) : o.KeepsChip (admitLinks ls s) := by
  unfold admitLinks
  extract_lets putAdmit
  have hput {t : State} (ht : o.KeepsChip t) : o.KeepsChip (putAdmit t) := foldState_keeps _ o.KeepsChip _ _ (fun l _ _ hu => modLink_keepsChip hu l) ht
  split
  · exact h
  · split
    · exact hput h
    · exact send_keepsChip (modPb_keepsChip (hput (t := railGenWrite _ s) h)) admitRdb

theorem enableLinks_keepsChip (h : o.KeepsChip s) (ls : List Nat) : o.KeepsChip (enableLinks ls s) := by
  unfold enableLinks
  split
  · exact admitLinks_keepsChip (foldState_keeps _ o.KeepsChip _ _ (fun l _ _ ht => linkEnable_keepsChip ht l true) h) _
  · exact h

theorem queueOnLink_keepsChip {n l : Nat} {flex : Bool} {gen : Byte} {p : Packet} (h : o.KeepsChip s) (hq : queueOnLink n l flex gen p s = some t) :
    o.KeepsChip t := by
  unfold queueOnLink at hq
  dsimp only at hq
  split at hq
  · cases hq
  · split at hq <;> split at hq <;> cases hq <;> exact h

theorem handOff_keepsChip {n l : Nat} {flex : Bool} {gen : Byte} {p : Packet} (h : o.KeepsChip s) (hq : handOff n l flex gen p s = some t) :
    o.KeepsChip t := by
  unfold handOff at hq
  dsimp only at hq
  split at hq <;> cases hq
  exact send_keepsChip (modLnode_keepsChip h n) _

/-- A frame that is steered again moves between links. -/
theorem resteer_keepsChip {l : Nat} {q : LinkPkt} (h : o.KeepsChip s) (hq : resteer l q s = some t) : o.KeepsChip t := by
  unfold resteer placePacket at hq
  dsimp only at hq
  split at hq
  · cases hq
  · split at hq
    · cases hq
    · split at hq
      · cases hq
      · split at hq
        · exact queueOnLink_keepsChip (modLink_keepsChip h l) hq
        · exact handOff_keepsChip (modLink_keepsChip h l) hq

theorem goHold_keepsChip (h : o.KeepsChip s) (l : Nat) (cause : BitVec 3) : o.KeepsChip (goHold l cause s) := by
  refine foldState_keeps _ o.KeepsChip _ _ (fun q _ t ht => ?_) (setLinkState_keepsChip (modLink_keepsChip h l) l .hold)
  dsimp only
  split
  · cases hq : resteer l q t with
    | none => exact ht
    | some u => exact resteer_keepsChip ht hq
  · exact ht

theorem laneLoss_keepsChip (h : o.KeepsChip s) (l : Nat) (lane : BitVec 2) : o.KeepsChip (laneLoss l lane s) := by
  unfold laneLoss
  dsimp only
  split
  · exact h
  · split
    · exact goHold_keepsChip (modLink_keepsChip h l) l 1
    · exact h

theorem failCtl_keepsChip (h : o.KeepsChip s) (n i : Nat) : o.KeepsChip (failCtl n i s) := by
  unfold failCtl
  extract_lets waiting s1 s2 s3 _ _ s4
  have h3 : o.KeepsChip s3 := modInst_keepsChip (foldState_keeps _ o.KeepsChip _ _ (fun r _ _ ht => send_keepsChip ht _) (modCtl_keepsChip h i)) _ _
  clear_value s3
  refine readyEvent_keepsChip ?_ s
  simp only [s4]
  split <;> exact h3

end Chip

/-! ## Which links are enabled (R327) -/

section Enabled
variable (l : Nat) (s : State)

theorem health_links (e : HEvent) : (s.health e).links = s.links := by
  obtain ⟨b, hb⟩ := health_cases s e
  rw [hb]

theorem readyEvent_links (t : State) : (readyEvent s t).links = t.links := by
  obtain hr | ⟨e, hr⟩ := readyEvent_cases s t
  · rw [hr]
  · rw [hr, health_links]

/-- An update of a link that leaves EN as it is leaves every link's. -/
theorem modLink_en {f : Link → Link} (hf : ∀ k, (f k).en = k.en) (j : Nat) : ((s.modLink l f).link j).en = (s.link j).en := by
  rw [State.modLink_link]
  split
  case isTrue h => rw [hf, h]
  case isFalse => rfl

theorem setLinkState_en (st : LinkState) (j : Nat) : ((setLinkState l st s).link j).en = (s.link j).en := by
  unfold setLinkState
  split
  · rfl
  · have hlinks : (linkChanged l (s.modLink l fun k => { k with state := st })).links = (s.modLink l fun k => { k with state := st }).links :=
      (readyEvent_links ..).trans (health_links ..)
    rw [State.link, hlinks]
    exact modLink_en l s (f := fun k => { k with state := st }) (fun _ => rfl) j

theorem flushLink_en (st : LinkState) (j : Nat) : ((flushLink l st s).link j).en = (s.link j).en := by
  unfold flushLink
  extract_lets n lost s1 s2 _ s3
  rw [setLinkState_en, foldState_reads _ (fun t => (t.link j).en) _ _ fun p _ t => send_reads t p (fun t => (t.link j).en) fun _ _ _ => rfl]
  exact modLink_en l s (f := Link.flushed) (fun _ => rfl) j

theorem linkEnable_off (h : (s.link l).en = true) :
    linkEnable l false s = flushLink l .off (s.modLink l fun k => { k with en := false, cause := 5, lanes := 0 }) := by
  unfold linkEnable
  dsimp only
  rw [h, if_neg Bool.false_ne_true, if_neg Bool.false_ne_true]

/-- A link that loses its supply is disabled, and no other changes. -/
theorem dropLink_en (j : Nat) : ((dropLink l s).link j).en = ((s.link j).en && decide (j ≠ l)) := by
  unfold dropLink
  by_cases hj : j = l
  · subst hj
    split
    case isTrue h => rw [linkEnable_off j s h, flushLink_en, State.modLink_link_same]; simp
    case isFalse h => simp [h]
  · split
    case isTrue h => rw [linkEnable_off l s h, flushLink_en, State.modLink_link_ne _ _ _ _ hj]; simp [hj]
    case isFalse => simp [hj]

end Enabled

/-! ## Cores that are lost (R426) -/

/-- The position of a node that a course and a position give. -/
theorem posOf_nodeOfPos (c : Nat) {p : Nat} (hp : p < 30) : posOf (nodeOfPos c p) = p := by
  simp only [posOf, nodeOfPos, nodeAt, nodeX, nodeY, courseX, courseY]
  omega

theorem courseOf_nodeOfPos (c : Nat) {p : Nat} (hp : p < 30) : courseOf (nodeOfPos c p) = c := by
  simp only [courseOf, nodeOfPos, nodeAt, nodeX, nodeY, courseX, courseY]
  omega

/-- The cores that a course counts as its own are exposed. -/
theorem exposed_of_mem_courseCores {s : State} {c n : Nat} (h : n ∈ s.courseCores c) : s.exposed n = true := by
  obtain ⟨p, hp, rfl⟩ := List.mem_map.mp h
  obtain ⟨hcore, hspare⟩ := List.mem_filter.mp hp
  obtain ⟨hlt, hport⟩ := List.mem_filter.mp hcore
  have hp : p < 30 := List.mem_range.mp hlt
  obtain ⟨hhbm, haux⟩ := of_decide_eq_true hport
  rw [State.exposed, isCore, nodeKind, posOf_nodeOfPos c hp, courseOf_nodeOfPos c hp, if_neg hhbm, if_neg haux, hspare]
  rfl

section Lost
variable (cause : Byte) (n : Nat) (s : State)

theorem courseSync_pwr (c : Nat) : (courseSync c s).pwr = s.pwr := (congrArg State.pwr (courseSync_rest c s) :)

theorem courseSync_spare (c m : Nat) : ((courseSync c s).course m).spare = (s.course m).spare := by
  by_cases h : m = c
  · subst h
    exact (congrArg Course.spare (courseSync_course_same m s) :)
  · rw [courseSync_course_ne h]

theorem exposed_congr {s t : State} (h : ∀ c, (t.course c).spare = (s.course c).spare) (m : Nat) : t.exposed m = s.exposed m := by
  rw [State.exposed, State.exposed, h]

/-- A lost core's record changes the SYN queue of one core at most. -/
theorem lostRecord_cases (ws : List Word) :
    lostRecord n ws s = s ∨ ∃ m f, lostRecord n ws s = s.modCore m f ∧ ∀ c, (f c).lost = c.lost := by
  unfold lostRecord
  split
  · exact .inl rfl
  · split
    · exact .inl rfl
    · split
      · exact .inl rfl
      · exact .inr ⟨_, _, rfl, fun _ => rfl⟩

/-- What losing a core that holds the region's exposed place does, before its course follows. -/
theorem loseCore_cases : (loseCore cause n s = s ∧ ((s.core n).lost ≠ none ∨ s.exposed n = false))
    ∨ ∃ t, loseCore cause n s = courseSync (courseOf n) t ∧ t.pwr = s.pwr ∧ t.courses = s.courses
      ∧ ∀ m, (t.core m).lost = if m = n then some cause else (s.core m).lost := by
  unfold loseCore
  extract_lets c ws s1 s2
  split
  case isTrue h => exact .inl ⟨rfl, by simpa [Option.isSome_iff_ne_none] using h⟩
  case isFalse =>
    have h1 (m : Nat) : (s1.core m).lost = if m = n then some cause else (s.core m).lost := by
      rw [State.setCore_core]
      split <;> rfl
    refine .inr ⟨_, rfl, ?_⟩
    generalize HEvent.mk _ _ _ = e
    obtain ⟨b, hb⟩ := health_cases s2 e
    rw [hb]
    obtain h2 | ⟨m, f, h2, hf⟩ := lostRecord_cases n s1 ws
    · simp only [s2, h2]
      exact ⟨rfl, rfl, h1⟩
    · simp only [s2, h2]
      refine ⟨rfl, rfl, fun j => ?_⟩
      show ((s1.modCore m f).core j).lost = _
      rw [State.modCore_core]
      split
      case isTrue hj => rw [hf, ← hj, h1]
      case isFalse => exact h1 j

theorem loseCore_pwr : (loseCore cause n s).pwr = s.pwr := by
  obtain ⟨h, -⟩ | ⟨t, h, hpwr, -⟩ := loseCore_cases cause n s
  · rw [h]
  · rw [h, courseSync_pwr, hpwr]

theorem loseCore_exposed (m : Nat) : (loseCore cause n s).exposed m = s.exposed m := by
  obtain ⟨h, -⟩ | ⟨t, h, -, hcourses, -⟩ := loseCore_cases cause n s
  · rw [h]
  · rw [h]
    refine exposed_congr (fun c => (courseSync_spare t _ c).trans ?_) m
    rw [State.course, hcourses]
    rfl

/-- An exposed core that is lost is lost from then on. -/
theorem loseCore_lost (h : s.exposed n = true) : ((loseCore cause n s).core n).lost ≠ none := by
  obtain ⟨hs, hl | he⟩ | ⟨t, hs, -, -, hlost⟩ := loseCore_cases cause n s
  · rwa [hs]
  · rw [h] at he
    cases he
  · rw [hs, courseSync_core, hlost, if_pos rfl]
    exact Option.some_ne_none _

/-- The loss of a core returns none that is lost. -/
theorem loseCore_keepsLost {m : Nat} (h : (s.core m).lost ≠ none) : ((loseCore cause n s).core m).lost ≠ none := by
  obtain ⟨hs, -⟩ | ⟨t, hs, -, -, hlost⟩ := loseCore_cases cause n s
  · rwa [hs]
  · rw [hs, courseSync_core, hlost]
    split
    · exact Option.some_ne_none _
    · exact h

end Lost

end Sys2Proof.Machine

/-! Shells, power domains, dividers and lending of spec/09 (for O47). -/

namespace Sys2Proof.Machine

open Sys2Proof

/-! ## Shells (R381, R382) -/

section Shells
variable (k : Nat) (s : State)

/-- A fault of a shell leaves the power manager as it is, whatever it takes with it. -/
theorem shellLoss_pwr (kind index : Nat) : (shellLoss kind index s).pwr = s.pwr := by
  unfold shellLoss
  split
  · exact foldState_reads _ State.pwr _ _ fun n _ t => loseCore_pwr 4 n t
  · exact (laneLoss_keepsChip (.refl s) _ _).pwr
  · exact (foldState_keeps _ s.KeepsChip _ _ (fun c _ _ ht => failCtl_keepsChip ht _ c) (.refl s)).pwr
  · exact (failCtl_keepsChip (.refl s) _ _).pwr
  · rfl

/-- A regulator's fault loses every core of its course. -/
theorem shellLoss_regulator (index : Nat) : ∀ n ∈ s.courseCores index, ((shellLoss 0 index s).core n).lost ≠ none := by
  intro n hn
  have h := foldState_each (f := fun n s => loseCore 4 n s) (P := fun n t => t.exposed n = true → (t.core n).lost ≠ none)
    (fun n t he => loseCore_lost 4 n t (by rwa [loseCore_exposed] at he))
    (fun x m t ht he => loseCore_keepsLost 4 x t (ht (by rwa [loseCore_exposed] at he))) (s.courseCores index) s n hn
  refine h ?_
  rw [foldState_reads (fun n s => loseCore 4 n s) (·.exposed n) _ _ fun m _ t => loseCore_exposed 4 m t n]
  exact exposed_of_mem_courseCores hn

/-- A shell that a fault or a failed calibration has unsettled is not READY. -/
theorem Shell.ready_of_lost {x : Shell} (h : x.lost = true) (kind mc : Nat) : x.ready kind mc = false := by
  simp [Shell.ready, h]

/-- What is written now is in force from the next control step. -/
theorem Shell.setTo_inForce (x : Shell) (kind mc : Nat) (v : BitVec 16) :
    (x.setTo kind mc v).inForce mc = x.inForce mc ∧ (x.setTo kind mc v).inForce ((mc / 64 + 1) * 64) = v := by
  have h : ¬(mc / 64 + 1) * 64 ≤ mc := by omega
  exact ⟨if_neg h, if_pos (Nat.le_refl _)⟩

theorem logLock_shell (reg : RegAddr) (who : Accessor) : (logLock reg who s).shell k = s.shell k := rfl

/-- A SETPOINT that its lock does not hold takes a new value. -/
theorem writeSetpoint_shell (v : BitVec 16) (reg : RegAddr) (who : Accessor) (h : k / 256 ≠ 1 ∨ (s.shell k).lock = false) :
    (writeSetpoint k v reg who s).shell k =
      if clampSet (k / 256) v = (s.shell k).setpoint then s.shell k else (s.shell k).setTo (k / 256) s.mc (clampSet (k / 256) v) := by
  have hlock : ((s.shell k).lock && decide (k / 256 = 1)) = false := by
    obtain h | h := h <;> simp [h]
  unfold writeSetpoint
  dsimp only
  rw [hlock]
  by_cases hv : clampSet (k / 256) v = (s.shell k).setpoint
  · rw [if_pos hv, fieldWrite, if_pos hv]
    simp only [Bool.false_eq_true, if_false]
    rw [modShell_same, if_pos rfl, Bool.or_false]
  · rw [if_neg hv, fieldWrite, if_neg hv]
    simp only [Bool.false_eq_true, if_false]
    rw [modShell_same, if_neg hv]

/-- A SETPOINT that LOCK holds refuses a new value. -/
theorem writeSetpoint_locked (v : BitVec 16) (reg : RegAddr) (who : Accessor) (hk : k / 256 = 1) (hl : (s.shell k).lock = true)
    (hv : clampSet 1 v ≠ (s.shell k).setpoint) : (writeSetpoint k v reg who s).shell k = { s.shell k with lockViol := true } := by
  have hlock : ((s.shell k).lock && decide (k / 256 = 1)) = true := by simp [hl, hk]
  unfold writeSetpoint
  dsimp only
  rw [hlock, hk, fieldWrite, if_neg hv, if_pos rfl]
  simp only [if_true]
  rw [logLock_shell, modShell_same, if_pos rfl, Bool.or_true]

end Shells

/-! ## Power domains (R383, R384) -/

section Domains
variable (d : Nat) (s : State)

/-- What a domain loses at OFF is held by cores, nodes and controllers. -/
theorem domLoses_reads {β : Type} (g : State → β)
    (hg : ∀ (t : State) cores nodes ctls, g { t with cores := cores, nodes := nodes, ctls := ctls } = g t) : g (domLoses d s) = g s := by
  unfold domLoses
  extract_lets s1
  have h1 : g s1 = g s := by
    simp only [s1]
    split
    · exact foldState_reads _ g _ _ fun p _ t => hg t _ _ _
    · split
      · exact hg s _ _ _
      · rfl
  exact (foldState_reads _ g _ _ fun i _ t => hg t _ _ _).trans h1

/-- A domain that goes down is at its target at once. -/
theorem domainDown_dom (t : BitVec 3) : (domainDown d t.toNat s).dom d = { s.dom d with target := t, state := t } := by
  have h1 : (modDom d (fun x => { x with target := BitVec.ofNat 3 t.toNat, state := BitVec.ofNat 3 t.toNat }) s).dom d
      = { s.dom d with target := t, state := t } := by
    rw [modDom_same, BitVec.ofNat_toNat, BitVec.setWidth_eq]
  unfold domainDown
  extract_lets s1
  split
  · rw [(readyEvent_keepsChip (modHost_keepsChip (.refl (domLoses d s1))) s1).dom d, domLoses_reads d s1 (·.dom d) fun _ _ _ _ => rfl]
    exact h1
  · exact h1

/-- PB1 refuses every order after a thermal trip. -/
theorem thermtrip_of_admitted {t : Nat} (h : targetRefused s d t = false) : s.phys.thermtrip = false := by
  rw [targetRefused, Bool.or_eq_false_iff, Bool.or_eq_false_iff] at h
  obtain ⟨⟨-, h⟩, -⟩ := h
  exact h

/-- A domain that is ordered to a state that PB1 admits: down at once, up in time. -/
theorem orderDomain_dom {t : BitVec 3} (h : targetRefused s d t.toNat = false) :
    ((orderDomain d t.toNat s).dom d).target = t
    ∧ ((orderDomain d t.toNat s).dom d).state = if (s.dom d).state.toNat ≤ t.toNat then t else (s.dom d).state := by
  unfold orderDomain
  split
  · rw [domainDown_dom]
    exact ⟨rfl, rfl⟩
  · rw [thermtrip_of_admitted d s h, if_neg Bool.false_ne_true, modDom_same, BitVec.ofNat_toNat, BitVec.setWidth_eq]
    exact ⟨rfl, rfl⟩

theorem takeTarget_idle {t : BitVec 3} (h : t = (s.dom d).target ∨ (s.dom d).state ≠ (s.dom d).target) : takeTarget d t s = s := if_pos h

theorem takeTarget_acts {t : BitVec 3} (ht : t ≠ (s.dom d).target) (hs : (s.dom d).state = (s.dom d).target) : takeTarget d t s =
    if targetRefused s d t.toNat then modDom d (fun x => { x with refused := true }) s else orderDomain d t.toNat s :=
  if_neg (not_or.mpr ⟨ht, not_not.mpr hs⟩)

theorem pbDoes_runs {n : Nat} (h : s.pbRuns n = true) (w : PbWork) (act : State → State) : pbDoes n w act s = act s := if_pos h

theorem pbDoes_waits {n : Nat} (h : s.pbRuns n = false) (w : PbWork) (act : State → State) :
    pbDoes n w act s = modPb (fun b => { b with waiting := b.waiting ++ [w] }) s := if_neg (by rw [h]; exact Bool.false_ne_true)

theorem trained_dom (k : Nat) : (trained k s).dom d = s.dom d := rfl

theorem coursesReset_dom (j : Nat) : (coursesReset j s).dom d = s.dom d := by
  unfold coursesReset
  split
  · exact foldState_reads _ (·.dom d) _ _ fun _ _ _ => rfl
  · rfl

/-- A domain that may arrive is in its ordered state. -/
theorem domainArrives_dom (ht : (s.dom d).state ≠ (s.dom d).target) (hb : 32 ≤ d ∨ (s.dom d).state ≠ 4 ∨ bitOf s.host.readyHbm (stackOf d) = true) :
    (domainArrives d s).dom d = { s.dom d with state := (s.dom d).target } := by
  have hgo : ¬((s.dom d).state = (s.dom d).target ∨ d < 32 ∧ (s.dom d).state = 4 ∧ (! bitOf s.host.readyHbm (stackOf d)) = true) := by
    rintro (h | ⟨hd, h4, hr⟩)
    · exact ht h
    · obtain hb | hb | hb := hb
      · omega
      · exact hb h4
      · rw [hb] at hr
        cases hr
  unfold domainArrives
  extract_lets x s1 s2 s3 _ s4
  rw [if_neg hgo]
  have h1 : s1.dom d = { s.dom d with state := (s.dom d).target } := modDom_same ..
  have h2 : s2.dom d = s1.dom d := by
    simp only [s2]
    split
    · exact coursesReset_dom d s1 d
    · rfl
  have h3 : s3.dom d = s2.dom d := by
    simp only [s3]
    split
    · exact (foldState_reads _ (·.dom d) _ _ fun k _ t => trained_dom d t k).trans
        ((readyEvent_keepsChip (modHost_keepsChip (.refl s2)) s2).dom d)
    · rfl
  have h4 : s4.dom d = s3.dom d := by
    simp only [s4]
    split <;> rfl
  exact ((enableLinks_keepsChip (.refl s4) _).dom d).trans (h4.trans (h3.trans (h2.trans h1)))

theorem domainArrives_idle (h : (s.dom d).state = (s.dom d).target) : domainArrives d s = s := if_pos (.inl h)

theorem domainReached_idle (h : (s.dom d).state = (s.dom d).target) : domainReached d s = s := by
  unfold domainReached
  rw [if_neg, domainArrives_idle d s h]
  rintro ⟨h4, -, ht⟩
  exact ht (h ▸ h4)

/-- A return from OFF that PB1 trains or tests takes place once PB1 runs, every other at once. -/
theorem domainReached_arrives (h : 46 ≤ d ∨ (s.dom d).state ≠ 4 ∨ s.pbRuns 1 = true) : domainReached d s = domainArrives d s := by
  unfold domainReached
  split
  case isTrue hw =>
    obtain ⟨h4, hd, -⟩ := hw
    obtain h | h | h := h
    · omega
    · exact absurd h4 h
    · exact pbDoes_runs s h _ _
  case isFalse => rfl

theorem domainReached_waits (hd : d < 46) (h4 : (s.dom d).state = 4) (ht : (s.dom d).target ≠ 4) (h : s.pbRuns 1 = false) :
    domainReached d s = modPb (fun b => { b with waiting := b.waiting ++ [.reached d] }) s :=
  (if_pos ⟨h4, hd, ht⟩).trans (pbDoes_waits s h _ _)

end Domains

/-! ## Dividers and boosts (R378, R387, R388) -/

section Dividers
variable (c : Nat) (s : State)

theorem syncDiv_pwr : (syncDiv c s).pwr = s.pwr := rfl

/-- The divider of a course is what it follows now. -/
theorem syncDiv_course_same : (syncDiv c s).course c = { s.course c with div := s.divOf c } := State.modCourse_course_same ..

theorem syncDiv_course_ne {m : Nat} (h : m ≠ c) : (syncDiv c s).course m = s.course m := State.modCourse_course_ne _ _ _ _ h

/-- What a course's divider follows. -/
theorem divOf_congr {s t : State} (hcourse : t.course c = s.course c) (hhot : t.pwr.hot = s.pwr.hot)
    (hboost : (∃ b ∈ t.pwr.boosted, b.val = c) ↔ ∃ b ∈ s.pwr.boosted, b.val = c) : t.divOf c = s.divOf c := by
  have hany : (t.pwr.boosted.any fun b => decide (b.val = c)) = s.pwr.boosted.any fun b => decide (b.val = c) := by
    rw [Bool.eq_iff_iff]
    simpa using hboost
  unfold State.divOf State.hardHot
  rw [hcourse, hhot, hany]

theorem divOf_lent (h : (s.course c).wstate = .lent) : s.divOf c = 8 := if_pos (.inr (.inl h))

theorem divOf_hardHot (h : s.hardHot c = true) : s.divOf c = 8 := if_pos (.inl h)

/-- Dividers 3 to 7 are those of courses that are neither lent nor hot: /3 while boosted, else /4 and the steps throttled by. -/
theorem divOf_of_ne (h : s.divOf c ≠ 8) :
    ¬(s.hardHot c = true ∨ (s.course c).wstate = .lent ∨ (s.course c).wstate = .reclaim)
    ∧ s.divOf c = if s.pwr.boosted.any fun b => decide (b.val = c) then 3 else 4 + min (s.course c).throttled 2 := by
  have hn : ¬(s.hardHot c = true ∨ (s.course c).wstate = .lent ∨ (s.course c).wstate = .reclaim) := fun hh => h (if_pos hh)
  exact ⟨hn, if_neg hn⟩

/-- The state without the boost of a course. -/
def unboosted (c : Nat) (s : State) : State :=
  modPwr (fun p => { p with boosted := p.boosted.filter (fun b => decide (b.val ≠ c)), pool := p.pool + 23 }) s

theorem revokeBoost_cases : revokeBoost c s = s ∨ revokeBoost c s = syncDiv c (unboosted c s) := (ite_eq_or_eq _ _ _).symm

theorem revokeBoost_boosted (h : (s.pwr.boosted.any fun b => decide (b.val = c)) = true) : revokeBoost c s = syncDiv c (unboosted c s) := if_pos h

/-- A course that loses its boost goes back to /4 and the steps that it is throttled by. -/
theorem revokeBoost_div (h : s.divOf c = 3) : ((revokeBoost c s).course c).div = 4 + min (s.course c).throttled 2 := by
  obtain ⟨hn, hdiv⟩ := divOf_of_ne c s (by omega)
  have hb : (s.pwr.boosted.any fun b => decide (b.val = c)) = true := by
    by_contra hb
    rw [if_neg hb] at hdiv
    omega
  have hnone : ((unboosted c s).pwr.boosted.any fun b => decide (b.val = c)) = false := by
    simp [unboosted]
  rw [revokeBoost_boosted c s hb, syncDiv_course_same]
  unfold State.divOf
  rw [hnone]
  exact if_neg hn

/-- A course that is throttled no more than once and not boosted goes down by one divider. -/
theorem throttle_div (h : s.divOf c = 4 ∨ s.divOf c = 5) : ((throttle c s).course c).div = s.divOf c + 1 := by
  obtain ⟨hn, hdiv⟩ := divOf_of_ne c s (by omega)
  have hb : ¬(s.pwr.boosted.any fun b => decide (b.val = c)) = true := by
    intro hb
    rw [if_pos hb] at hdiv
    omega
  rw [if_neg hb] at hdiv
  unfold throttle
  rw [syncDiv_course_same]
  unfold State.divOf
  rw [State.modCourse_course_same]
  refine (if_neg hn).trans ((if_neg hb).trans ?_)
  show 4 + min (min 2 ((s.course c).throttled + 1)) 2 = s.divOf c + 1
  omega

theorem revokeBoost_course_ne {m : Nat} (h : m ≠ c) : (revokeBoost c s).course m = s.course m := by
  obtain hr | hr := revokeBoost_cases c s
  · rw [hr]
  · rw [hr, syncDiv_course_ne c _ h]
    rfl

theorem revokeBoost_divOf_ne {m : Nat} (h : m ≠ c) : (revokeBoost c s).divOf m = s.divOf m := by
  refine divOf_congr m (revokeBoost_course_ne c s h) ?_ ?_
  · obtain hr | hr := revokeBoost_cases c s <;> rw [hr]
    rfl
  · obtain hr | hr := revokeBoost_cases c s
    · rw [hr]
    · rw [hr]
      simp only [syncDiv_pwr, unboosted, modPwr_pwr, List.mem_filter, decide_eq_true_eq]
      exact ⟨fun ⟨b, ⟨hb, _⟩, hm⟩ => ⟨b, hb, hm⟩, fun ⟨b, hb, hm⟩ => ⟨b, ⟨hb, hm ▸ h⟩, hm⟩⟩

theorem throttle_course_ne {m : Nat} (h : m ≠ c) : (throttle c s).course m = s.course m := by
  rw [throttle, syncDiv_course_ne c _ h, State.modCourse_course_ne _ _ _ _ h]

theorem throttle_divOf_ne {m : Nat} (h : m ≠ c) : (throttle c s).divOf m = s.divOf m :=
  divOf_congr m (throttle_course_ne c s h) rfl Iff.rfl

/-! ### FASTCAP (R390) -/

/-- What FASTCAP does to a course. -/
def fastcapCourse (c : Nat) (s : State) : State :=
  match s.divOf c with
  | 3 => revokeBoost c s
  | 4 => throttle c s
  | 5 => throttle c s
  | _ => s

theorem fastcap_eq : fastcap s = modPwr (fun p => { p with fastcap := true }) (foldState fastcapCourse (List.range 32) s) := rfl

/-- What FASTCAP does to one course leaves the others and their dividers. -/
theorem fastcapCourse_ne {m : Nat} (h : m ≠ c) : ((fastcapCourse c s).course m, (fastcapCourse c s).divOf m) = (s.course m, s.divOf m) := by
  unfold fastcapCourse
  split
  · rw [revokeBoost_course_ne c s h, revokeBoost_divOf_ne c s h]
  · rw [throttle_course_ne c s h, throttle_divOf_ne c s h]
  · rw [throttle_course_ne c s h, throttle_divOf_ne c s h]
  · rfl

/-- FASTCAP leaves each course as its own turn, in the state that FASTCAP found, leaves it. -/
theorem fastcap_course (hc : c < 32) : ∃ t, t.course c = s.course c ∧ t.divOf c = s.divOf c ∧ (fastcap s).course c = (fastcapCourse c t).course c := by
  obtain ⟨pre, post, hsplit⟩ := List.append_of_mem (List.mem_range.mpr hc)
  have hnodup : (pre ++ c :: post).Nodup := hsplit ▸ List.nodup_range
  obtain ⟨hpre, hpost⟩ : c ∉ pre ∧ c ∉ post := by
    rw [List.nodup_append] at hnodup
    exact ⟨fun h => hnodup.2.2 c h c List.mem_cons_self rfl, (List.nodup_cons.mp hnodup.2.1).1⟩
  have hkeeps (xs : List Nat) (hx : c ∉ xs) (t : State) : ((foldState fastcapCourse xs t).course c, (foldState fastcapCourse xs t).divOf c)
      = (t.course c, t.divOf c) :=
    foldState_reads _ (fun t => (t.course c, t.divOf c)) _ _ fun j hj t => fastcapCourse_ne j t fun h => hx (h ▸ hj)
  obtain ⟨hcourse, hdiv⟩ := Prod.mk.inj (hkeeps pre hpre s)
  refine ⟨_, hcourse, hdiv, ?_⟩
  rw [fastcap_eq, hsplit, foldState_append, foldState_cons]
  exact (Prod.mk.inj (hkeeps post hpost _)).1

theorem fastcap_div (hc : c < 32) : (s.divOf c = 3 → ((fastcap s).course c).div = 4 + min (s.course c).throttled 2)
    ∧ (s.divOf c = 4 → ((fastcap s).course c).div = 5) ∧ (s.divOf c = 5 → ((fastcap s).course c).div = 6) := by
  obtain ⟨t, hcourse, hdiv, hf⟩ := fastcap_course c s hc
  rw [hf, ← hcourse, ← hdiv]
  refine ⟨fun h => ?three, fun h => ?four, fun h => ?five⟩
  case three =>
    rw [fastcapCourse, h]
    exact revokeBoost_div c t h
  case four =>
    rw [fastcapCourse, h]
    exact (throttle_div c t (.inl h)).trans (by rw [h])
  case five =>
    rw [fastcapCourse, h]
    exact (throttle_div c t (.inr h)).trans (by rw [h])

end Dividers

/-! ## Lending (R276, R277, R388, R389) -/

section Lending
variable (c : Nat) (s : State)

/-- A state in which cores are as they were and courses too, but for their dividers. -/
def DivsOnly (s t : State) : Prop := t.cores = s.cores ∧ ∀ m, ∃ d, t.course m = { s.course m with div := d }

theorem revokeBoost_divsOnly {s t : State} (h : DivsOnly s t) : DivsOnly s (revokeBoost c t) := by
  obtain hr | hr := revokeBoost_cases c t
  · rwa [hr]
  · rw [hr]
    refine ⟨h.1, fun m => ?_⟩
    obtain ⟨d, hd⟩ := h.2 m
    by_cases hm : m = c
    · subst hm
      rw [syncDiv_course_same]
      exact ⟨_, congrArg (fun x : Course => { x with div := (unboosted m t).divOf m }) hd⟩
    · rw [syncDiv_course_ne c _ hm]
      exact ⟨d, hd⟩

theorem revokeNewest_divsOnly {s t : State} (fuel need : Nat) (h : DivsOnly s t) : DivsOnly s (revokeNewest fuel need t).2 := by
  induction fuel generalizing need t with
  | zero => exact h
  | succ fuel ih =>
    unfold revokeNewest
    split
    · exact h
    · split
      · exact h
      · exact ih _ (revokeBoost_divsOnly _ h)

/-- What a course takes back leaves it with no credit, and the rest but dividers as it was. -/
theorem takeBack_course : (takeBack c s).cores = s.cores ∧ ∃ d, (takeBack c s).course c = { s.course c with credited := 0, div := d } := by
  unfold takeBack
  extract_lets need s1
  have h1 : DivsOnly s s1 := revokeNewest_divsOnly 32 _ ⟨rfl, fun m => ⟨_, rfl⟩⟩
  clear_value s1
  obtain ⟨d, hd⟩ := h1.2 c
  refine ⟨h1.1, d, ?_⟩
  rw [State.modCourse_course_same]
  exact congrArg (fun x : Course => { x with credited := 0 }) hd

/-- A course under LEND that is awake goes on to DWELL if its cores have all gated. -/
theorem courseSync_awake (h : (s.course c).wstate = .awake) : ((courseSync c s).course c).credited = (s.course c).credited
    ∧ ((courseSync c s).course c).wstate
      = if (s.course c).lend = true ∧ ∀ n ∈ s.courseCores c, (s.core n).gated = true then .dwell else .awake := by
  have hcredit : ((courseSync c s).course c).credited = (s.course c).credited := (congrArg Course.credited (courseSync_course_same c s) :)
  refine ⟨hcredit, ?_⟩
  have hall : ((s.courseCores c).all fun n => (s.core n).gated) = true ↔ ∀ n ∈ s.courseCores c, (s.core n).gated = true := List.all_eq_true
  unfold courseSync
  dsimp only
  rw [h]
  by_cases hl : (s.course c).lend = true
  · rw [if_pos hl]
    by_cases hg : ∀ n ∈ s.courseCores c, (s.core n).gated = true
    · rw [if_pos ⟨hl, hg⟩, hall.mpr hg, State.setCourse_course_same]
    · rw [if_neg fun hh => hg hh.2, Bool.eq_false_iff.mpr fun hh => hg (hall.mp hh)]
      exact h
  · rw [if_neg hl, if_neg fun hh => hl hh.1]
    exact h

theorem courseCores_congr {s t : State} (h : (t.course c).spare = (s.course c).spare) : t.courseCores c = s.courseCores c := by
  rw [State.courseCores, State.courseCores, h]

theorem reclaimGrant_idle (h : (s.course c).wstate ≠ .reclaim ∨ s.pbRuns 1 = false) : reclaimGrant c s = s :=
  if_neg fun ⟨hw, hp⟩ => h.elim (· hw) fun hf => Bool.false_ne_true (hf.symm.trans hp)

/-- A course that reclaims has no credit afterwards, and is awake or goes on to DWELL. -/
theorem reclaimGrant_course (hw : (s.course c).wstate = .reclaim) (hp : s.pbRuns 1 = true) : ((reclaimGrant c s).course c).credited = 0
    ∧ ((reclaimGrant c s).course c).wstate
      = if (s.course c).lend = true ∧ ∀ n ∈ s.courseCores c, (s.core n).gated = true then .dwell else .awake := by
  obtain ⟨hcores, d, hd⟩ := takeBack_course c s
  unfold reclaimGrant
  rw [if_pos ⟨hw, hp⟩]
  generalize takeBack c s = b at hcores hd ⊢
  generalize ht : syncDiv c (b.modCourse c fun x => { x with wstate := .awake }) = t
  have hcourse : t.course c = { s.course c with credited := 0, wstate := .awake, div := (t.course c).div } := by
    rw [← ht, syncDiv_course_same, State.modCourse_course_same, hd]
  have hcore (n : Nat) : t.core n = s.core n := by
    rw [← ht]
    exact congrArg (mapGet ({} : Core) · n) hcores
  obtain ⟨hcredit, hstate⟩ := courseSync_awake c t (by rw [hcourse])
  rw [hcredit, hstate, courseCores_congr c (s := s) (by rw [hcourse]), hcourse]
  simp only [hcore]
  exact ⟨trivial, trivial⟩

/-- A course whose DWELL has run out. -/
def dwellEnds (c : Nat) (s : State) : Prop :=
  (s.course c).lend = true ∧ (s.course c).wstate = .dwell ∧ (s.course c).dwellAt + max 1 (s.course c).dwell.toNat * 1600 ≤ s.mc

theorem dwellExpire_idle (h : ¬dwellEnds c s) : dwellExpire c s = s := if_neg h

/-- A course that lends credits its budget above that of /8 to the pool, and loses its boost. -/
theorem dwellExpire_lends (h : dwellEnds c s) : ((dwellExpire c s).course c).wstate = .lent ∧ ((dwellExpire c s).course c).lends = (s.course c).lends + 1
    ∧ ((dwellExpire c s).course c).div = 8 ∧ (dwellExpire c s).pwr.pool = s.pwr.pool + (divBudget (s.divOf c) - 5)
    ∧ ∀ b ∈ (dwellExpire c s).pwr.boosted, b.val ≠ c := by
  unfold dwellExpire
  extract_lets x credit s1
  rw [if_pos (show x.lend = true ∧ x.wstate = .dwell ∧ s.mc ≥ x.dwellAt + max 1 x.dwell.toNat * usMc from h), syncDiv_course_same]
  have hcourse (f : Power → Power) :
      (modPwr f s1).course c = { s.course c with wstate := .lent, lends := (s.course c).lends + 1, credited := credit } :=
    State.modCourse_course_same s c fun x => { x with wstate := .lent, lends := x.lends + 1, credited := credit }
  rw [divOf_lent c _ (by rw [hcourse]), hcourse]
  exact ⟨rfl, rfl, rfl, rfl, fun b hb => of_decide_eq_true (List.mem_filter.mp hb).2⟩

end Lending

end Sys2Proof.Machine

/-! The statement of spec/09 about power and heat (O47), with the thermal limits. -/

namespace Sys2Proof.Machine

open Sys2Proof

/-! ## Thermal limits (R343, R391) -/

section Thermal
variable (n : Nat) (v : BitVec 16) (s : State)

/-- A cause that sets changes ALERT_CAUSE, and what the module sends at most. -/
theorem setAlert_eq {i : Nat} (hi : i < 4) : ∃ a o, setAlert i s = { s with host := { s.host with alertCause := a }, outbox := o } ∧ a.getLsbD i = true := by
  unfold setAlert
  split
  case isTrue h => exact ⟨_, _, rfl, h⟩
  case isFalse =>
    have hset : (setBit s.host.alertCause i true).getLsbD i = true := by
      simp [setBit, hi]
    dsimp only
    split
    · exact ⟨_, _, rfl, hset⟩
    · exact ⟨_, _, rfl, hset⟩

/-- A thermal event is counted and sets its alert; of the rest it changes what PB2 is to report and what the module sends. -/
theorem thermEvent_eq (code : Nat) : ∃ a o b, a.getLsbD 0 = true ∧ thermEvent n v code s =
    { s with host := { s.host with alertCause := a }, outbox := o, emu := { s.emu with healthCnt := s.emu.healthCnt + 1 }, pb := b } := by
  unfold thermEvent
  generalize HEvent.mk _ _ _ = e
  obtain ⟨b, hb⟩ := health_cases s e
  obtain ⟨a, o, ha, h0⟩ := setAlert_eq (s.health e) (i := 0) (by decide)
  exact ⟨a, o, b, h0, by rw [ha, hb]⟩

/-- A change of READY bits changes what PB2 is to report at most. -/
theorem readyEvent_eq (t : State) : ∃ e b, readyEvent s t = { t with emu := e, pb := b } := by
  obtain hr | ⟨e, hr⟩ := readyEvent_cases s t
  · exact ⟨_, _, hr⟩
  · obtain ⟨b, hb⟩ := health_cases t e
    exact ⟨_, b, hr.trans hb⟩

/-- A sensor's reading changes VALUE of its shell, and what shows it. -/
theorem sensorReads_eq : ∃ insts top, sensorReads n v s =
    { modShell (shellKey 5 n) (fun x => { x with value := v.toNat }) s with emu := { s.emu with insts := insts, tempMax := top } } := by
  unfold sensorReads
  dsimp only
  split <;> exact ⟨_, _, rfl⟩

theorem thermLimit_sensorReads (l : ThermLevel) : thermLimit (sensorReads n v s) n l = thermLimit s n l := by
  obtain ⟨insts, top, h⟩ := sensorReads_eq n v s
  rw [h]
  cases l with
  | setpoint =>
    have hshell := modShell_same s (shellKey 5 n) fun x => { x with value := v.toNat }
    exact (congrArg (fun x : Shell => (x.inForce s.mc).toNat) hshell :)
  | hard => rfl

/-- Where `hot` and `hotAt` hold a limit of a sensor. -/
def hotKey (n : Nat) (l : ThermLevel) : Nat := if l = .hard then 64 + n else n

/-- The state with a sensor's mark set or released. -/
def markHot (n : Nat) (l : ThermLevel) (b : Bool) (s : State) : State :=
  let u := modPwr (fun p => { p with hot := mapSet false p.hot (hotKey n l) b
                                     hotAt := mapSet 0 p.hotAt (hotKey n l) (if b then thermLimit s n l else 0) }) s
  if n < 32 then syncDiv n u else u

theorem markHot_hot (l : ThermLevel) (b : Bool) : mapGet false (markHot n l b s).pwr.hot (hotKey n l) = b := by
  unfold markHot
  dsimp only
  split <;> exact mapGet_mapSet_same false s.pwr.hot (hotKey n l) b

theorem markHot_hotAt (l : ThermLevel) (b : Bool) :
    mapGet 0 (markHot n l b s).pwr.hotAt (hotKey n l) = if b then thermLimit s n l else 0 := by
  unfold markHot
  dsimp only
  split <;> exact mapGet_mapSet_same 0 s.pwr.hotAt (hotKey n l) _

theorem markHot_emu (l : ThermLevel) (b : Bool) : (markHot n l b s).emu = s.emu := by
  unfold markHot
  dsimp only
  split <;> rfl

/-- A course over its hardware limit is at /8. -/
theorem markHot_hard_div (hn : n < 32) : ((markHot n .hard true s).course n).div = 8 := by
  unfold markHot
  dsimp only
  rw [if_pos hn, syncDiv_course_same]
  exact divOf_hardHot n _ (mapGet_mapSet_same false s.pwr.hot (64 + n) true)

/-- A threshold that is reached marks its sensor, with the event and, over a hardware limit, HWTHERM. -/
theorem thermalCrossing_reached {l : ThermLevel} (hot : mapGet false s.pwr.hot (hotKey n l) = false) (hv : (thermLimit s n l : Int) * 4 ≤ v.toInt) :
    thermalCrossing n l true v s = thermEvent n v (if n < 32 ∧ l = .setpoint then 0 else 1)
      (if l = .hard then modPwr (fun p => { p with hwtherm := true }) (markHot n l true (sensorReads n v s)) else markHot n l true (sensorReads n v s)) :=
  if_pos ⟨rfl, congrArg Bool.not hot, hv⟩

/-- A mark is released 5 °C below what set it. -/
theorem thermalCrossing_released {l : ThermLevel} (hot : mapGet false s.pwr.hot (hotKey n l) = true)
    (hv : v.toInt ≤ ((mapGet 0 s.pwr.hotAt (hotKey n l) : Nat) : Int) * 4 - 20) :
    thermalCrossing n l false v s = thermEvent n v 3 (markHot n l false (sensorReads n v s)) := by
  unfold thermalCrossing
  dsimp only
  rw [if_neg fun h => Bool.false_ne_true h.1]
  exact if_pos ⟨rfl, hot, hv⟩

/-- What crosses no threshold, or one that is marked, is a reading. -/
theorem thermalCrossing_reads {l : ThermLevel} (h : mapGet false s.pwr.hot (hotKey n l) = true ∨ v.toInt < (thermLimit s n l : Int) * 4) :
    thermalCrossing n l true v s = sensorReads n v s := by
  refine (if_neg ?_).trans (if_neg fun h => Bool.false_ne_true h.1)
  rintro ⟨-, hot, hv⟩
  obtain h | h := h
  · exact Bool.false_ne_true ((congrArg Bool.not h).symm.trans hot)
  · exact absurd hv (not_le.mpr h)

/-- What a threshold that is reached leaves. -/
theorem thermalCrossing_sets {l : ThermLevel} (hot : mapGet false s.pwr.hot (hotKey n l) = false) (hv : (thermLimit s n l : Int) * 4 ≤ v.toInt) :
    ∃ u, thermalCrossing n l true v s = u ∧ mapGet false u.pwr.hot (hotKey n l) = true ∧ mapGet 0 u.pwr.hotAt (hotKey n l) = thermLimit s n l
      ∧ u.emu.healthCnt = s.emu.healthCnt + 1 ∧ u.host.alertCause.getLsbD 0 = true ∧ (l = .hard → u.pwr.hwtherm = true)
      ∧ (l = .hard → n < 32 → (u.course n).div = 8) := by
  rw [thermalCrossing_reached n v s hot hv]
  generalize hw : (if l = .hard then modPwr (fun p => { p with hwtherm := true }) (markHot n l true (sensorReads n v s))
    else markHot n l true (sensorReads n v s)) = w
  have hmark : w.pwr.hot = (markHot n l true (sensorReads n v s)).pwr.hot ∧ w.pwr.hotAt = (markHot n l true (sensorReads n v s)).pwr.hotAt
      ∧ w.emu = (markHot n l true (sensorReads n v s)).emu ∧ w.courses = (markHot n l true (sensorReads n v s)).courses
      ∧ (l = .hard → w.pwr.hwtherm = true) := by
    rw [← hw]
    split
    case isTrue => exact ⟨rfl, rfl, rfl, rfl, fun _ => rfl⟩
    case isFalse h => exact ⟨rfl, rfl, rfl, rfl, fun hl => absurd hl h⟩
  obtain ⟨hhot, hat, hemu, hcourses, hhard⟩ := hmark
  obtain ⟨a, o, b, ha, hevent⟩ := thermEvent_eq n v w (if n < 32 ∧ l = .setpoint then 0 else 1)
  obtain ⟨insts, top, hread⟩ := sensorReads_eq n v s
  refine ⟨_, hevent, ?hot, ?at_, ?count, ha, hhard, fun hl hn => ?div⟩
  case hot =>
    show mapGet false w.pwr.hot _ = true
    rw [hhot, markHot_hot]
  case at_ =>
    show mapGet 0 w.pwr.hotAt _ = _
    rw [hat, markHot_hotAt, if_pos rfl, thermLimit_sensorReads]
  case count =>
    show w.emu.healthCnt + 1 = _
    rw [hemu, markHot_emu, hread]
  case div =>
    subst hl
    show (mapGet ({} : Course) w.courses n).div = 8
    rw [hcourses]
    exact markHot_hard_div n _ hn

/-- A released mark is gone. -/
theorem thermalCrossing_clears {l : ThermLevel} (hot : mapGet false s.pwr.hot (hotKey n l) = true)
    (hv : v.toInt ≤ ((mapGet 0 s.pwr.hotAt (hotKey n l) : Nat) : Int) * 4 - 20) : mapGet false (thermalCrossing n l false v s).pwr.hot (hotKey n l) = false := by
  rw [thermalCrossing_released n v s hot hv]
  obtain ⟨a, o, b, -, hevent⟩ := thermEvent_eq n v (markHot n l false (sensorReads n v s)) 3
  rw [hevent, markHot_hot]

/-! ### THERMAL_TRIP -/

theorem thermalTrip_reads (h : v.toInt < 460) : thermalTrip n v s = sensorReads n v s := if_pos h

/-- A course without an owner. -/
def courseUnowned (c : Nat) (s : State) : State := s.modCourse c fun x => { resetCourse x with valid := false }

/-- A module without programs. -/
def withoutPrograms (s : State) : State := { s with pb := { s.pb with programs := [] } }

theorem withoutPrograms_course (c : Nat) : (withoutPrograms s).course c = s.course c := rfl

theorem loseRegions_eq : loseRegions s = withoutPrograms (foldState courseUnowned (List.range 32) s) := rfl

/-- A trip takes every course from its owner. -/
theorem loseRegions_valid : ∀ c ∈ List.range 32, ((loseRegions s).course c).valid = false := by
  intro k hk
  rw [loseRegions_eq, withoutPrograms_course]
  refine foldState_each (P := fun c t => (t.course c).valid = false) (fun c t => ?_) (fun c m t ht => ?_) _ s k hk
  · rw [courseUnowned, State.modCourse_course_same]
  · rw [courseUnowned, State.modCourse_course]
    split
    · rfl
    · exact ht

theorem dropLink_keepsChip {o t : State} (h : o.KeepsChip t) (l : Nat) : o.KeepsChip (dropLink l t) := by
  unfold dropLink
  split
  · exact linkEnable_keepsChip h l false
  · exact h

theorem dropLinks_en (ls : List Nat) : ∀ l ∈ ls, ((foldState dropLink ls s).link l).en = false :=
  foldState_each (P := fun l t => (t.link l).en = false) (fun l t => by rw [dropLink_en]; simp)
    (fun l m t ht => by rw [dropLink_en, ht, Bool.false_and]) ls s

/-- A domain goes OFF without its order. -/
def domainOff (d : Nat) (s : State) : State := domLoses d (modDom d (fun x => { x with target := 4, state := 4 }) s)

theorem domainOff_same (d : Nat) : ((domainOff d s).dom d).state = 4 := by
  rw [domainOff, domLoses_reads d _ (·.dom d) fun _ _ _ _ => rfl, modDom_same]

theorem domainOff_ne {d e : Nat} (h : e ≠ d) : (domainOff d s).dom e = s.dom e := by
  rw [domainOff, domLoses_reads d _ (·.dom e) fun _ _ _ _ => rfl, modDom_ne _ _ h]

theorem domainsOff_state (ds : List Nat) : ∀ d ∈ ds, ((foldState domainOff ds s).dom d).state = 4 :=
  foldState_each (P := fun d t => (t.dom d).state = 4) (fun d t => domainOff_same t d)
    (fun d e t ht => by
      by_cases h : e = d
      · rw [h]
        exact domainOff_same t d
      · rw [domainOff_ne t h]
        exact ht) ds s

/-- The domains that go off take neither courses nor links with them. -/
theorem domainsOff_keeps (ds : List Nat) : (foldState domainOff ds s).courses = s.courses ∧ (foldState domainOff ds s).links = s.links :=
  Prod.mk.inj (foldState_reads domainOff (fun t => (t.courses, t.links)) ds s fun d _ t =>
    domLoses_reads d (modDom d (fun x => { x with target := 4, state := 4 }) t) (fun t => (t.courses, t.links)) fun _ _ _ _ => rfl)

/-- What a state is once a trip has taken its supply. -/
structure Tripped (u : State) : Prop where
  trip : u.pwr.trip = true
  thermtrip : u.phys.thermtrip = true
  courses : ∀ c < 32, (u.course c).valid = false
  doms : ∀ d < 58, (u.dom d).state = 4
  links : ∀ l < 40, (u.link l).en = false
  ready : u.host.readyCourse = 0 ∧ u.host.readyLink = 0 ∧ u.host.readyEp = false
  boosted : u.pwr.boosted = []

/-- What a trip switches off: regions, links and domains. -/
def tripSupply (s : State) : State := foldState domainOff (List.range 58) (foldState dropLink (List.range 40) (loseRegions s))

/-- The state that a trip of s shows once it has switched off. -/
def tripMarks (s t : State) : State :=
  let t1 := modPwr (fun p => { p with trip := true, boosted := [], pool := 0 })
    (modHost (fun h => { h with readyCourse := 0, readyLink := 0, readyFar := 0, readyHbm := 0, readyBridge := false, readyMesh := 0
                                readyRp := false, readyEp := false }) t)
  { t1 with phys := { t1.phys with thermtrip := true, quiesce := s.phys.quiesce.map fun q => { q with graceOver := true, safe := true }
                                   returning := false } }

theorem thermalTrip_eq (h : ¬v.toInt < 460) :
    thermalTrip n v s = thermEvent n v 2 (readyEvent s (tripMarks s (tripSupply (sensorReads n v s)))) := by
  unfold thermalTrip
  exact if_neg h

theorem course_congr {s t : State} (h : t.courses = s.courses) (c : Nat) : t.course c = s.course c := congrArg (mapGet ({} : Course) · c) h
theorem dom_congr {s t : State} (h : t.pwr.doms = s.pwr.doms) (d : Nat) : t.dom d = s.dom d := congrArg (mapGet (domReset d) · d) h
theorem link_congr {s t : State} (h : t.links = s.links) (l : Nat) : t.link l = s.link l := congrArg (mapGet ({} : Link) · l) h

theorem tripSupply_valid : ∀ c ∈ List.range 32, ((tripSupply s).course c).valid = false := by
  intro c hc
  have hkeeps : (loseRegions s).KeepsChip (foldState dropLink (List.range 40) (loseRegions s)) :=
    foldState_keeps _ (loseRegions s).KeepsChip _ _ (fun l _ _ ht => dropLink_keepsChip ht l) (.refl _)
  rw [tripSupply, course_congr (domainsOff_keeps _ _).1, hkeeps.course]
  exact loseRegions_valid s c hc

theorem tripSupply_en : ∀ l ∈ List.range 40, ((tripSupply s).link l).en = false := by
  intro l hl
  rw [tripSupply, link_congr (domainsOff_keeps _ _).2]
  exact dropLinks_en (loseRegions s) _ l hl

theorem tripSupply_state : ∀ d ∈ List.range 58, ((tripSupply s).dom d).state = 4 := by
  rw [tripSupply]
  exact domainsOff_state _ (List.range 58)

/-- A state that a trip has switched off and marked stays so over the events that tell of it. -/
theorem tripMarks_tripped (t : State) (hcourses : ∀ c ∈ List.range 32, (t.course c).valid = false) (hdoms : ∀ d ∈ List.range 58, (t.dom d).state = 4)
    (hlinks : ∀ l ∈ List.range 40, (t.link l).en = false) : Tripped (thermEvent n v 2 (readyEvent s (tripMarks s t))) := by
  obtain ⟨e, b, hready⟩ := readyEvent_eq s (tripMarks s t)
  obtain ⟨a, o, b', -, hevent⟩ := thermEvent_eq n v { tripMarks s t with emu := e, pb := b } 2
  rw [hready, hevent]
  generalize hu : State.mk .. = u
  obtain ⟨hc, hd, hl, htrip, hphys, hready, hboost⟩ : u.courses = t.courses ∧ u.pwr.doms = t.pwr.doms ∧ u.links = t.links ∧ u.pwr.trip = true
      ∧ u.phys.thermtrip = true ∧ (u.host.readyCourse = 0 ∧ u.host.readyLink = 0 ∧ u.host.readyEp = false) ∧ u.pwr.boosted = [] := by
    rw [← hu]
    exact ⟨rfl, rfl, rfl, rfl, rfl, ⟨rfl, rfl, rfl⟩, rfl⟩
  refine ⟨htrip, hphys, fun c h => ?courses, fun d h => ?doms, fun l h => ?links, hready, hboost⟩
  case courses => rw [course_congr hc, hcourses c (List.mem_range.mpr h)]
  case doms => rw [dom_congr hd, hdoms d (List.mem_range.mpr h)]
  case links => rw [link_congr hl, hlinks l (List.mem_range.mpr h)]

theorem thermalTrip_tripped (h : ¬v.toInt < 460) : Tripped (thermalTrip n v s) := by
  rw [thermalTrip_eq n v s h]
  exact tripMarks_tripped n v s _ (tripSupply_valid _) (tripSupply_state _) (tripSupply_en _)

end Thermal

/-! ## The statement of O47 -/

section Commands
variable (s : State)

theorem exec_setpointWrite {who : ShellUser} {k : Nat} (h : s.selected who = some k) (sp : BitVec 16) :
    exec (.shellSetpointWrite who sp) s = .next (writeSetpoint k sp (pwrReg 4) (userAccessor who) s) := by
  show execShellSetpointWrite who sp s = _
  rw [execShellSetpointWrite, h]

theorem exec_shellCalibrate {who : ShellUser} {k : Nat} (h : s.selected who = some k) :
    exec (.shellCalibrate who) s = .next (modShell k (fun x => { x with busy := true }) s) := by
  show execShellCalibrate who s = _
  rw [execShellCalibrate, h]

theorem exec_calibrationDone {i : ShellId} {k : Nat} (h : shellOf i = some k) (res : Byte) : exec (.shellCalibrationDone i res) s =
    .next (if (s.shell k).busy then modShell k (fun x => { x with busy := false, result := res, lost := decide (res ≠ 0) }) s else s) := by
  show execShellCalibrationDone i res s = _
  rw [execShellCalibrationDone, h]

theorem exec_shellFault {i : ShellId} {k : Nat} (h : shellOf i = some k) : exec (.shellFault i) s =
    .next (shellLoss i.kind.toNat i.index.toNat (modShell k (fun x => { x with fault := true, lost := true }) s)) := by
  show execShellFault i s = _
  rw [execShellFault, h]

theorem shell_congr {s t : State} (h : t.pwr = s.pwr) (k : Nat) : t.shell k = s.shell k := congrArg (fun p : Power => mapGet (shellReset k) p.shells k) h

/-- A shell's fault shows in its STAT, and takes the cores of a regulator's course with it. -/
theorem shellFault_shows {i : ShellId} {k : Nat} (h : shellOf i = some k) : ∃ u, exec (.shellFault i) s = .next u ∧ (u.shell k).fault = true
    ∧ (∀ t, (u.shell k).ready i.kind.toNat t = false) ∧ (i.kind = 0 → ∀ n ∈ s.courseCores i.index.toNat, (u.core n).lost ≠ none) := by
  refine ⟨_, exec_shellFault s h, ?_, fun t => ?_, fun h0 => ?_⟩
  · rw [shell_congr (shellLoss_pwr ..), modShell_same]
  · rw [shell_congr (shellLoss_pwr ..), modShell_same]
    exact Shell.ready_of_lost rfl _ t
  · rw [h0]
    exact shellLoss_regulator (modShell k (fun x => { x with fault := true, lost := true }) s) i.index.toNat

theorem exec_domTargetWrite (t : BitVec 3) (d : Nat) (hd : s.pwr.domSel.toNat = d) : exec (.domTargetWrite t) s =
    .next (if 58 ≤ d then s else pbDoes 1 (.target d t) (takeTarget d t) s) := by
  subst hd
  rfl

theorem exec_domTargetWrite_runs {d : Nat} (t : BitVec 3) (hd : s.pwr.domSel.toNat = d) (hlt : d < 58) (hp : s.pbRuns 1 = true) :
    exec (.domTargetWrite t) s = .next (takeTarget d t s) := by
  rw [exec_domTargetWrite s t d hd, if_neg (by omega), pbDoes_runs s hp]

theorem exec_domTargetWrite_idle {d : Nat} (t : BitVec 3) (hd : s.pwr.domSel.toNat = d) (hp : s.pbRuns 1 = true)
    (h : t = (s.dom d).target ∨ (s.dom d).state ≠ (s.dom d).target) : exec (.domTargetWrite t) s = .next s := by
  rw [exec_domTargetWrite s t d hd, pbDoes_runs s hp, takeTarget_idle d s h, ite_self]

end Commands

/-- Settles O47: each command is the operation on the power manager that its clause speaks of. -/
theorem powerAndHeatAreManaged : Obligations.PowerAndHeatAreManaged := by
  unfold Obligations.PowerAndHeatAreManaged
  intro s c x
  refine ⟨?setpoints, ?calibration, ?targets, ?arrivals, ?lending, fun hw hp => ?reclaims, fun h => ?reclaimWaits, ?fastcap, ?heat, fun v => rfl⟩
  case setpoints =>
    refine fun who sp => ⟨fun hnone => ?unselected, fun k hk => ⟨fun h => ?sets, fun h1 hl hv => ?locked, exec_shellCalibrate s hk⟩⟩
    case unselected =>
      constructor
      · show execShellSetpointWrite who sp s = _
        rw [execShellSetpointWrite, hnone]
      · show execShellCalibrate who s = _
        rw [execShellCalibrate, hnone]
    case sets =>
      refine ⟨_, exec_setpointWrite s hk sp, ?_⟩
      rw [writeSetpoint_shell k s sp _ _ h]
      by_cases hv : clampSet (k / 256) sp = (s.shell k).setpoint
      · rw [if_pos hv]
        exact ⟨hv.symm, fun hne => absurd hv.symm hne⟩
      · rw [if_neg hv]
        exact ⟨rfl, fun _ => Shell.setTo_inForce _ _ _ _⟩
    case locked =>
      refine ⟨_, exec_setpointWrite s hk sp, ?_⟩
      rw [writeSetpoint_locked k s sp _ _ h1 hl hv]
      exact ⟨rfl, rfl⟩
  case calibration =>
    refine fun i k res hi => ⟨fun hb => ?calibrated, fun hb => ?uncalibrated, shellFault_shows s hi⟩
    case calibrated =>
      refine ⟨_, exec_calibrationDone s hi res, ?_⟩
      rw [if_pos hb, modShell_same]
      exact ⟨rfl, rfl, rfl, fun hr t => Shell.ready_of_lost (decide_eq_true hr) _ t⟩
    case uncalibrated => rw [exec_calibrationDone s hi, hb, if_neg Bool.false_ne_true]
  case targets =>
    intro t d y
    refine ⟨fun hd => ?none_, fun hd hp => ?waits, fun hp h => exec_domTargetWrite_idle s t rfl hp h, fun hd hp ht hs => ?takes⟩
    case none_ => rw [exec_domTargetWrite s t d rfl, if_pos hd]
    case waits => rw [exec_domTargetWrite s t d rfl, if_neg (Nat.not_le.mpr hd), pbDoes_waits s hp]
    case takes =>
      rw [exec_domTargetWrite_runs s t rfl hd hp, takeTarget_acts d s ht hs]
      refine ⟨fun hr => by rw [if_pos hr], fun hr => ⟨_, rfl, ?_⟩⟩
      rw [hr, if_neg Bool.false_ne_true]
      exact orderDomain_dom d s hr
  case arrivals =>
    intro d y
    refine ⟨fun h => ?idle, fun ht hb hp => ?arrives, fun hd h4 ht hp => ?waits⟩
    case idle => exact congrArg Host.Outcome.next (domainReached_idle d.val s h)
    case arrives =>
      refine ⟨_, rfl, ?_⟩
      rw [domainReached_arrives d.val s hp, domainArrives_dom d.val s ht hb]
      exact ⟨rfl, rfl⟩
    case waits => exact congrArg Host.Outcome.next (domainReached_waits d.val s hd h4 ht hp)
  case lending =>
    intro ends
    refine ⟨fun h => ?lends, fun h => congrArg Host.Outcome.next (dwellExpire_idle c.val s h)⟩
    obtain ⟨hstate, hlends, hdiv, hpool, hboost⟩ := dwellExpire_lends c.val s h
    exact ⟨_, rfl, hstate, hlends, hdiv, hpool, fun hc => hboost c hc rfl⟩
  case reclaims => exact ⟨_, rfl, reclaimGrant_course c.val s hw hp⟩
  case reclaimWaits => exact congrArg Host.Outcome.next (reclaimGrant_idle c.val s h)
  case fastcap => exact ⟨_, rfl, rfl, fastcap_div c.val s c.isLt⟩
  case heat =>
    intro n l v key lim hot
    obtain ⟨insts, top, hread⟩ := sensorReads_eq n.val v s
    refine ⟨fun h hv => ?sets, fun h hv => ⟨_, rfl, thermalCrossing_clears n.val v s h hv⟩, fun h => ?reads, fun h => ?trips, fun h => ?noTrip⟩
    case sets =>
      obtain ⟨u, hu, hsets⟩ := thermalCrossing_sets n.val v s h hv
      exact ⟨u, congrArg Host.Outcome.next hu, hsets⟩
    case reads =>
      refine ⟨_, congrArg Host.Outcome.next ((thermalCrossing_reads n.val v s h).trans hread), rfl, rfl, rfl⟩
    case trips =>
      obtain ⟨htrip, hphys, hcourses, hdoms, hlinks, ⟨hrc, hrl, hre⟩, hboost⟩ := thermalTrip_tripped n.val v s (not_lt.mpr h)
      exact ⟨_, rfl, htrip, hphys, hcourses, hdoms, hlinks, hrc, hrl, hre, hboost⟩
    case noTrip => exact ⟨_, congrArg Host.Outcome.next ((thermalTrip_reads n.val v s h).trans hread), rfl, rfl, rfl⟩

end Sys2Proof.Machine
